-- ==== Sys2Proof/Word.lean ====
section
/-! DEFINITION. The word types of the machine: bytes, halves, words and doublewords as the manual
counts them (00_scope R4), and the numbering of places on the carrier (01_module R14-R18). -/

namespace Sys2Proof

/-- 8 bits (R4). -/
abbrev Byte := BitVec 8

/-- 32 bits, "a word" of the manual (R4). -/
abbrev W32 := BitVec 32

/-- 64 bits, "a doubleword": general registers, addresses and system registers. -/
abbrev Word := BitVec 64

/-- A core's place in the pod: tid[24:3], that is module, stack, die and core (R18). -/
abbrev Loc := Nat

/-- A die's place in the pod: module, stack and die. -/
abbrev DieId := Nat

namespace Loc

/-- The core index on its die (R17, R18). -/
def core (l : Loc) : Nat := l % 256
/-- The die of a core, with its stack and module. -/
def dieId (l : Loc) : DieId := l / 256
/-- The die within its stack, 0-3. -/
def die (l : Loc) : Nat := l / 256 % 4
/-- The stack of a core, with its module. -/
def stackId (l : Loc) : Nat := l / 1024
/-- The stack within its module, 0-15. -/
def stack (l : Loc) : Nat := l / 1024 % 16
/-- The module position in the pod, 0-255. -/
def module (l : Loc) : Nat := l / 16384
/-- x grows eastward (R17). -/
def x (l : Loc) : Nat := l % 16
/-- y grows northward (R17). -/
def y (l : Loc) : Nat := l % 256 / 16
/-- The quad index 0-63 (R17). -/
def quad (l : Loc) : Nat := 8 * (y l / 2) + x l / 2
/-- The position within the quad, 0-3 (R17). -/
def pos (l : Loc) : Nat := 2 * (y l % 2) + x l % 2
/-- The quad with its die: the Barrow and the Trellis that serve the core (R17). -/
def quadId (l : Loc) : Nat := dieId l * 64 + quad l
/-- The Pavilion whose control core this is, with its stack (R17). -/
def pav (l : Loc) : Nat := stackId l * 64 + quad l
/-- The control-core index within the column (R79). -/
def ctrl (l : Loc) : Nat := 4 * die l + pos l

end Loc

/-- The core at position p of quad q (R17 read backwards). -/
def coreOf (q p : Nat) : Nat := (2 * (q / 8) + p / 2) * 16 + 2 * (q % 8) + p % 2

end Sys2Proof
end

