-- ==== Sys2Proof/Syntax.lean ====
section
/-! DEFINITION. The instructions and steps of the part: one constructor of Instr for each row of
spec/opcode_table.json. The first 227 are words of the instruction set (11_encoding R174-R200); the rest
are the engine commands and the events of 95_what_each_step_holds.md, which have no word and which
State.turns names. An event's operands say which packet, thread, unit or outside input it concerns. -/

namespace Sys2Proof

/-- The ports of the register name field, codes 16-21 (R177). -/
inductive Port where
  | qpav | qcpy | qgln | qtrl | qmsg | qevt
  deriving DecidableEq, Repr

/-- What a 5-bit register name field can name (R177): g0-g15, a port, or `z`. -/
inductive Reg where
  | g (n : Fin 16)
  | port (p : Port)
  | z
  deriving DecidableEq, Repr

/-- A source of the V format (R180): a vector register, or a general register broadcast to every lane. -/
inductive VSrc where
  | v (n : Fin 16)
  | g (n : Fin 16)
  deriving DecidableEq, Repr

/-- FN[10:9] of FP and FMA (R187). -/
inductive FFmt where
  | f64 | f32 | f16 | bf16
  deriving DecidableEq, Repr

/-- The rounding code of FN[8:6] (R187): dynamic, or a static mode. -/
inductive Rnd where
  | dyn | rne | rtz | rup | rdn
  deriving DecidableEq, Repr

/-- The types of FCVT (R188). -/
inductive CvtTy where
  | f64 | f32 | f16 | bf16 | f8a | f8b | l6 | i32 | i64 | u32 | u64
  deriving DecidableEq, Repr

/-- VT, the vector element types (R199, R285). -/
inductive VTy where
  | i32 | f32 | f16 | bf16 | i16 | i8
  deriving DecidableEq, Repr

/-- SZ of VMEM modes 0-5: 8-, 16- and 32-bit elements (R200). -/
inductive VSize where
  | b | h | w
  deriving DecidableEq, Repr

/-- The scopes of R154, in widening order. -/
inductive Scope where
  | core | quad | die | stack | mod | pod | sys
  deriving DecidableEq, Repr

/-- The conditions of the cmp and cmpi forms (R185, R186). -/
inductive CmpCond where
  | eq | ne | lt | ge | ltu | geu
  deriving DecidableEq, Repr

/-- The conditions of BC (R196). -/
inductive BrCond where
  | eqz | nez | ltz | gez | gtz | lez | odd | even
  deriving DecidableEq, Repr

/-- The system registers 0-11 (R195). -/
inductive SReg where
  | tstat | tid | kid | clock | units | trapcause | trapva | trappc | ctxbase | evtmask | shadesel | ptroot
  deriving DecidableEq, Repr

/-- The units that perform accesses (R115, R124): an L2 slice of a die, a core's memory pipe, or the
CXL port of a module. -/
inductive Home where
  | slice (die q : Nat)
  | core (loc : Nat)
  | cxl (m : Nat)
  deriving DecidableEq, Repr

/-- A Pavilion's row: which Pavilion takes a command, and after how many k-chunks its product stops for a while; none is
never (R367). -/
structure PavRun where
  pav : Nat
  left : Option Nat := none
  deriving DecidableEq, Repr

/-- A command that goes on, with `left` as in PavRun. -/
structure CmdRun where
  id : Nat
  left : Option Nat := none
  deriving DecidableEq, Repr

/-- What tries again where a fault queue was full (R127): a packet in flight, or a thread in its frame. -/
inductive Retrier where
  | packet (k : Nat)
  | thread (loc f : Nat)
  deriving DecidableEq, Repr

/-- What bring-up finds and what fusing removed on one module (R19, R20, R32): cores and a router that fail
self-test, another bring-up step that fails, with the stack and die, the units that are absent, the image in the
slot, and whether the host requests IDE (R372). Numbers are places in the pod as Loc, the Pavilion number and the
quad number count them. -/
structure Part where
  failedCores : List Loc := []
  failedRouter : Option DieId := none
  absentLayers : List (Nat × Nat) := []
  absentSheaf : List Nat := []
  absentTrellis : List Nat := []
  absentChain : List Loc := []
  imagePlace : Nat := 0
  failedStep : Option (Nat × Nat × Nat) := none
  ideWanted : Bool := false
  deriving DecidableEq, Repr

/-- What the I3C and management ports can read (R383). -/
inductive Reading where
  | status
  | units
  | temp (die q : Nat)
  deriving DecidableEq, Repr

/-- One constructor per row of spec/opcode_table.json, in the table's order. Each constructor's comment
names the row and its rule. -/
inductive Instr where
  /-- ADD (R217). -/
  | add (d a b : Reg) (ta tb : Bool)
  /-- SUB (R217). -/
  | sub (d a b : Reg) (ta tb : Bool)
  /-- AND (R217). -/
  | and (d a b : Reg) (ta tb : Bool)
  /-- OR (R217). -/
  | or (d a b : Reg) (ta tb : Bool)
  /-- XOR (R217). -/
  | xor (d a b : Reg) (ta tb : Bool)
  /-- ANDN (R217). -/
  | andn (d a b : Reg) (ta tb : Bool)
  /-- SLL (R217). -/
  | sll (d a b : Reg) (ta tb : Bool)
  /-- SRL (R217). -/
  | srl (d a b : Reg) (ta tb : Bool)
  /-- SRA (R217). -/
  | sra (d a b : Reg) (ta tb : Bool)
  /-- ROR (R217). -/
  | ror (d a b : Reg) (ta tb : Bool)
  /-- MUL (R217). -/
  | mul (d a b : Reg) (ta tb : Bool)
  /-- MULH (R217). -/
  | mulh (d a b : Reg) (ta tb : Bool)
  /-- MULHU (R217). -/
  | mulhu (d a b : Reg) (ta tb : Bool)
  /-- DIV (R217). -/
  | div (d a b : Reg) (ta tb : Bool)
  /-- DIVU (R217). -/
  | divu (d a b : Reg) (ta tb : Bool)
  /-- REM (R217). -/
  | rem (d a b : Reg) (ta tb : Bool)
  /-- REMU (R217). -/
  | remu (d a b : Reg) (ta tb : Bool)
  /-- MIN (R217). -/
  | min (d a b : Reg) (ta tb : Bool)
  /-- MAX (R217). -/
  | max (d a b : Reg) (ta tb : Bool)
  /-- MINU (R217). -/
  | minu (d a b : Reg) (ta tb : Bool)
  /-- MAXU (R217). -/
  | maxu (d a b : Reg) (ta tb : Bool)
  /-- CLZ (R217). -/
  | clz (d a : Reg) (ta : Bool)
  /-- CTZ (R217). -/
  | ctz (d a : Reg) (ta : Bool)
  /-- POPC (R217). -/
  | popc (d a : Reg) (ta : Bool)
  /-- BREV (R217). -/
  | brev (d a : Reg) (ta : Bool)
  /-- BSWAP (R217). -/
  | bswap (d a : Reg) (ta : Bool)
  /-- SEXT_B (R217). -/
  | sextB (d a : Reg) (ta : Bool)
  /-- SEXT_H (R217). -/
  | sextH (d a : Reg) (ta : Bool)
  /-- SEXT_W (R217). -/
  | sextW (d a : Reg) (ta : Bool)
  /-- ZEXT_B (R217). -/
  | zextB (d a : Reg) (ta : Bool)
  /-- ZEXT_H (R217). -/
  | zextH (d a : Reg) (ta : Bool)
  /-- ZEXT_W (R217). -/
  | zextW (d a : Reg) (ta : Bool)
  /-- CMP_EQ (R217). -/
  | cmpEq (d a b : Reg) (ta tb : Bool)
  /-- CMP_NE (R217). -/
  | cmpNe (d a b : Reg) (ta tb : Bool)
  /-- CMP_LT (R217). -/
  | cmpLt (d a b : Reg) (ta tb : Bool)
  /-- CMP_GE (R217). -/
  | cmpGe (d a b : Reg) (ta tb : Bool)
  /-- CMP_LTU (R217). -/
  | cmpLtu (d a b : Reg) (ta tb : Bool)
  /-- CMP_GEU (R217). -/
  | cmpGeu (d a b : Reg) (ta tb : Bool)
  /-- SELZ (R217). -/
  | selz (d a b : Reg) (ta tb : Bool)
  /-- LEA (R218). -/
  | lea (d a b : Reg) (ta tb : Bool)
  /-- ADDI (R219). -/
  | addi (d a : Reg) (ta : Bool) (imm : BitVec 15)
  /-- ANDI (R219). -/
  | andi (d a : Reg) (ta : Bool) (imm : BitVec 15)
  /-- ORI (R219). -/
  | ori (d a : Reg) (ta : Bool) (imm : BitVec 15)
  /-- XORI (R219). -/
  | xori (d a : Reg) (ta : Bool) (imm : BitVec 15)
  /-- MULI (R219). -/
  | muli (d a : Reg) (ta : Bool) (imm : BitVec 15)
  /-- SLLI (R219). -/
  | slli (d a : Reg) (ta : Bool) (n : BitVec 6)
  /-- SRLI (R219). -/
  | srli (d a : Reg) (ta : Bool) (n : BitVec 6)
  /-- SRAI (R219). -/
  | srai (d a : Reg) (ta : Bool) (n : BitVec 6)
  /-- RORI (R219). -/
  | rori (d a : Reg) (ta : Bool) (n : BitVec 6)
  /-- CMPI (R219). -/
  | cmpi (c : CmpCond) (d a : Reg) (ta : Bool) (imm : BitVec 12)
  /-- MOVI (R219). -/
  | movi (d : Reg) (imm : BitVec 21)
  /-- MOVK (R220). -/
  | movk (d : Reg) (hw : BitVec 2) (imm : BitVec 16)
  /-- FADD (R222). -/
  | fadd (f : FFmt) (r : Rnd) (d a b : Reg) (ta tb : Bool)
  /-- FSUB (R222). -/
  | fsub (f : FFmt) (r : Rnd) (d a b : Reg) (ta tb : Bool)
  /-- FMUL (R222). -/
  | fmul (f : FFmt) (r : Rnd) (d a b : Reg) (ta tb : Bool)
  /-- FDIV (R222). -/
  | fdiv (f : FFmt) (r : Rnd) (d a b : Reg) (ta tb : Bool)
  /-- FSQRT (R222). -/
  | fsqrt (f : FFmt) (r : Rnd) (d a : Reg) (ta : Bool)
  /-- FCMP_EQ (R223). -/
  | fcmpEq (f : FFmt) (d a b : Reg) (ta tb : Bool)
  /-- FCMP_LT (R223). -/
  | fcmpLt (f : FFmt) (d a b : Reg) (ta tb : Bool)
  /-- FCMP_LE (R223). -/
  | fcmpLe (f : FFmt) (d a b : Reg) (ta tb : Bool)
  /-- FCMP_UN (R223). -/
  | fcmpUn (f : FFmt) (d a b : Reg) (ta tb : Bool)
  /-- FMIN (R224). -/
  | fmin (f : FFmt) (d a b : Reg) (ta tb : Bool)
  /-- FMAX (R224). -/
  | fmax (f : FFmt) (d a b : Reg) (ta tb : Bool)
  /-- FABS (R224). -/
  | fabs (f : FFmt) (d a : Reg) (ta : Bool)
  /-- FNEG (R224). -/
  | fneg (f : FFmt) (d a : Reg) (ta : Bool)
  /-- FSGNJ (R224). -/
  | fsgnj (f : FFmt) (d a b : Reg) (ta tb : Bool)
  /-- FCLASS (R225). -/
  | fclass (f : FFmt) (d a : Reg) (ta : Bool)
  /-- FMA (R226). -/
  | fma (f : FFmt) (r : Rnd) (d a b : Reg) (ta tb : Bool)
  /-- FMS (R226). -/
  | fms (f : FFmt) (r : Rnd) (d a b : Reg) (ta tb : Bool)
  /-- FNMA (R226). -/
  | fnma (f : FFmt) (r : Rnd) (d a b : Reg) (ta tb : Bool)
  /-- FNMS (R226). -/
  | fnms (f : FFmt) (r : Rnd) (d a b : Reg) (ta tb : Bool)
  /-- FCVT (R227). -/
  | fcvt (tt st : CvtTy) (r : Rnd) (d a : Reg) (ta : Bool)
  /-- LD_B (R256). -/
  | ldB (d a : Reg) (ta : Bool) (disp : BitVec 12)
  /-- LD_BZ (R256). -/
  | ldBz (d a : Reg) (ta : Bool) (disp : BitVec 12)
  /-- LD_H (R256). -/
  | ldH (d a : Reg) (ta : Bool) (disp : BitVec 12)
  /-- LD_HZ (R256). -/
  | ldHz (d a : Reg) (ta : Bool) (disp : BitVec 12)
  /-- LD_W (R256). -/
  | ldW (d a : Reg) (ta : Bool) (disp : BitVec 12)
  /-- LD_WZ (R256). -/
  | ldWz (d a : Reg) (ta : Bool) (disp : BitVec 12)
  /-- LD_D (R256). -/
  | ldD (d a : Reg) (ta : Bool) (disp : BitVec 12)
  /-- ST_B (R256). -/
  | stB (d a : Reg) (ta : Bool) (disp : BitVec 12)
  /-- ST_H (R256). -/
  | stH (d a : Reg) (ta : Bool) (disp : BitVec 12)
  /-- ST_W (R256). -/
  | stW (d a : Reg) (ta : Bool) (disp : BitVec 12)
  /-- ST_D (R256). -/
  | stD (d a : Reg) (ta : Bool) (disp : BitVec 12)
  /-- LDF_F32 (R257). -/
  | ldfF32 (d a : Reg) (ta : Bool) (disp : BitVec 12)
  /-- LDF_BF16 (R257). -/
  | ldfBf16 (d a : Reg) (ta : Bool) (disp : BitVec 12)
  /-- LDF_F64 (R257). -/
  | ldfF64 (d a : Reg) (ta : Bool) (disp : BitVec 12)
  /-- LDF_I32 (R257). -/
  | ldfI32 (d a : Reg) (ta : Bool) (disp : BitVec 12)
  /-- STF_F32 (R257). -/
  | stfF32 (d a : Reg) (ta : Bool) (disp : BitVec 12)
  /-- STF_BF16 (R257). -/
  | stfBf16 (d a : Reg) (ta : Bool) (disp : BitVec 12)
  /-- STF_F64 (R257). -/
  | stfF64 (d a : Reg) (ta : Bool) (disp : BitVec 12)
  /-- STF_I32 (R257). -/
  | stfI32 (d a : Reg) (ta : Bool) (disp : BitVec 12)
  /-- LDQ_W (R259). -/
  | ldqW (sc : Scope) (d a : Reg) (ta : Bool) (disp : BitVec 9)
  /-- LDQ_D (R259). -/
  | ldqD (sc : Scope) (d a : Reg) (ta : Bool) (disp : BitVec 9)
  /-- STL_W (R259). -/
  | stlW (sc : Scope) (d a : Reg) (ta : Bool) (disp : BitVec 9)
  /-- STL_D (R259). -/
  | stlD (sc : Scope) (d a : Reg) (ta : Bool) (disp : BitVec 9)
  /-- AMO_ADD (R261). -/
  | amoAdd (dbl : Bool) (d a b : Reg)
  /-- AMO_AND (R261). -/
  | amoAnd (dbl : Bool) (d a b : Reg)
  /-- AMO_OR (R261). -/
  | amoOr (dbl : Bool) (d a b : Reg)
  /-- AMO_XOR (R261). -/
  | amoXor (dbl : Bool) (d a b : Reg)
  /-- AMO_MIN (R261). -/
  | amoMin (dbl : Bool) (d a b : Reg)
  /-- AMO_MAX (R261). -/
  | amoMax (dbl : Bool) (d a b : Reg)
  /-- AMO_MINU (R261). -/
  | amoMinu (dbl : Bool) (d a b : Reg)
  /-- AMO_MAXU (R261). -/
  | amoMaxu (dbl : Bool) (d a b : Reg)
  /-- AMO_SWAP (R261). -/
  | amoSwap (dbl : Bool) (d a b : Reg)
  /-- AMO_CAS (R261). -/
  | amoCas (dbl : Bool) (d a b : Reg)
  /-- AMO_FADD (R261). -/
  | amoFadd (dbl : Bool) (d a b : Reg)
  /-- AMO_FMAXA (R261). -/
  | amoFmaxa (dbl : Bool) (d a b : Reg)
  /-- AMOP_ADD (R261). -/
  | amopAdd (dbl : Bool) (a b : Reg)
  /-- AMOP_AND (R261). -/
  | amopAnd (dbl : Bool) (a b : Reg)
  /-- AMOP_OR (R261). -/
  | amopOr (dbl : Bool) (a b : Reg)
  /-- AMOP_XOR (R261). -/
  | amopXor (dbl : Bool) (a b : Reg)
  /-- AMOP_MIN (R261). -/
  | amopMin (dbl : Bool) (a b : Reg)
  /-- AMOP_MAX (R261). -/
  | amopMax (dbl : Bool) (a b : Reg)
  /-- AMOP_MINU (R261). -/
  | amopMinu (dbl : Bool) (a b : Reg)
  /-- AMOP_MAXU (R261). -/
  | amopMaxu (dbl : Bool) (a b : Reg)
  /-- AMOP_FADD (R261). -/
  | amopFadd (dbl : Bool) (a b : Reg)
  /-- AMOP_FMAXA (R261). -/
  | amopFmaxa (dbl : Bool) (a b : Reg)
  /-- GO (R263). -/
  | go (a : Reg)
  /-- PIN (R263). -/
  | pin
  /-- UNPIN (R263). -/
  | unpin
  /-- WHERE (R263). -/
  | whereI (d : Reg)
  /-- HOPS (R263). -/
  | hops (d : Reg)
  /-- SPAWN (R265). -/
  | spawn (d a b : Reg)
  /-- SPAWNA (R265). -/
  | spawna (d a b : Reg)
  /-- EXIT (R267). -/
  | exit
  /-- JOIN (R268). -/
  | join (a : Reg)
  /-- YIELD (R269). -/
  | yield
  /-- NEXT (R270). -/
  | next (d : Reg)
  /-- LAUNCH (R271). -/
  | launch (d a : Reg)
  /-- TASK_DEC (R272). -/
  | taskDec (d a : Reg)
  /-- TASK_DECP (R272). -/
  | taskDecp (a : Reg)
  /-- SLEEP (R269). -/
  | sleep (a : Reg)
  /-- BAR_ARV (R274). -/
  | barArv (sc : Scope) (id : BitVec 3)
  /-- BAR_WAIT (R274). -/
  | barWait (sc : Scope) (id : BitVec 3)
  /-- BAR_ARD (R274). -/
  | barArd (sc : Scope) (id : BitVec 3)
  /-- BAR_SYNC (R274). -/
  | barSync (sc : Scope) (id : BitVec 3)
  /-- BAR_PHASE (R274). -/
  | barPhase (sc : Scope) (d : Reg) (id : BitVec 3)
  /-- FENCE (R157). -/
  | fence (sc : Scope)
  /-- FLK_JOIN (R144). -/
  | flkJoin (grp : BitVec 4) (a b : Reg)
  /-- FLK_LD (R145). -/
  | flkLd (grp : BitVec 4) (a b : Reg)
  /-- FLK_LEAVE (R144). -/
  | flkLeave (grp : BitVec 4)
  /-- FLK_TIMER (R144). -/
  | flkTimer (grp : BitVec 4) (a : Reg)
  /-- LEASE_ACQ (R279). -/
  | leaseAcq
  /-- LEASE_TRY (R279). -/
  | leaseTry (d : Reg)
  /-- LEASE_REL (R279). -/
  | leaseRel
  /-- TILE_ALLOC (R282). -/
  | tileAlloc (d a b : Reg)
  /-- TILE_FREE (R140). -/
  | tileFree (a : Reg)
  /-- TILE_FREEF (R140). -/
  | tileFreef (a : Reg)
  /-- TILE_STATE (R281). -/
  | tileState (d a : Reg)
  /-- TILE_MARK (R140). -/
  | tileMark (a : Reg) (st : BitVec 3)
  /-- GANG_FORM (R284). -/
  | gangForm (n : BitVec 3)
  /-- SPLIT (R72). -/
  | split
  /-- MOVS (R236). -/
  | movs (n : SReg) (a : Reg)
  /-- MOVFS (R236). -/
  | movfs (d : Reg) (n : SReg)
  /-- TRAP (R245). -/
  | trap (n : BitVec 3)
  /-- RFE (R246). -/
  | rfe
  /-- BRK (R245). -/
  | brk
  /-- WAITEV (R247). -/
  | waitev (d : Reg)
  /-- CTX_SW (R248). -/
  | ctxSw (a : Reg)
  /-- TLB_INV (R249). -/
  | tlbInv (a : Reg)
  /-- SEC_FLUSH (R250). -/
  | secFlush
  /-- PREEMPT (R251). -/
  | preempt (a : Reg)
  /-- RESUME (R252). -/
  | resume (a : Reg)
  /-- JL (R228). -/
  | jl (d : Reg) (disp : BitVec 21)
  /-- BC (R229). -/
  | bc (c : BrCond) (a : Reg) (ta : Bool) (disp : BitVec 16)
  /-- JR (R230). -/
  | jr (d a : Reg) (ta : Bool) (imm : BitVec 15)
  /-- REPF (R232). -/
  | repf (count : BitVec 5) (len : BitVec 4) (sd sa sb : BitVec 2)
  /-- SOLO (R198). -/
  | solo
  /-- VADD (R289). -/
  | vadd (t : VTy) (d : Fin 16) (a b : VSrc) (k : Fin 8)
  /-- VSUB (R289). -/
  | vsub (t : VTy) (d : Fin 16) (a b : VSrc) (k : Fin 8)
  /-- VMUL (R289). -/
  | vmul (t : VTy) (d : Fin 16) (a b : VSrc) (k : Fin 8)
  /-- VMULH (R289). -/
  | vmulh (t : VTy) (d : Fin 16) (a b : VSrc) (k : Fin 8)
  /-- VAND (R289). -/
  | vand (t : VTy) (d : Fin 16) (a b : VSrc) (k : Fin 8)
  /-- VOR (R289). -/
  | vor (t : VTy) (d : Fin 16) (a b : VSrc) (k : Fin 8)
  /-- VXOR (R289). -/
  | vxor (t : VTy) (d : Fin 16) (a b : VSrc) (k : Fin 8)
  /-- VANDN (R289). -/
  | vandn (t : VTy) (d : Fin 16) (a b : VSrc) (k : Fin 8)
  /-- VSLL (R289). -/
  | vsll (t : VTy) (d : Fin 16) (a b : VSrc) (k : Fin 8)
  /-- VSRL (R289). -/
  | vsrl (t : VTy) (d : Fin 16) (a b : VSrc) (k : Fin 8)
  /-- VSRA (R289). -/
  | vsra (t : VTy) (d : Fin 16) (a b : VSrc) (k : Fin 8)
  /-- VMIN (R289). -/
  | vmin (t : VTy) (d : Fin 16) (a b : VSrc) (k : Fin 8)
  /-- VMAX (R289). -/
  | vmax (t : VTy) (d : Fin 16) (a b : VSrc) (k : Fin 8)
  /-- VMINU (R289). -/
  | vminu (t : VTy) (d : Fin 16) (a b : VSrc) (k : Fin 8)
  /-- VMAXU (R289). -/
  | vmaxu (t : VTy) (d : Fin 16) (a b : VSrc) (k : Fin 8)
  /-- VABS (R289). -/
  | vabs (t : VTy) (d : Fin 16) (a : VSrc) (k : Fin 8)
  /-- VFADD (R290). -/
  | vfadd (t : VTy) (d : Fin 16) (a b : VSrc) (k : Fin 8)
  /-- VFSUB (R290). -/
  | vfsub (t : VTy) (d : Fin 16) (a b : VSrc) (k : Fin 8)
  /-- VFMUL (R290). -/
  | vfmul (t : VTy) (d : Fin 16) (a b : VSrc) (k : Fin 8)
  /-- VFDIV (R290). -/
  | vfdiv (t : VTy) (d : Fin 16) (a b : VSrc) (k : Fin 8)
  /-- VFMIN (R290). -/
  | vfmin (t : VTy) (d : Fin 16) (a b : VSrc) (k : Fin 8)
  /-- VFMAX (R290). -/
  | vfmax (t : VTy) (d : Fin 16) (a b : VSrc) (k : Fin 8)
  /-- VFABS (R290). -/
  | vfabs (t : VTy) (d : Fin 16) (a : VSrc) (k : Fin 8)
  /-- VFNEG (R290). -/
  | vfneg (t : VTy) (d : Fin 16) (a : VSrc) (k : Fin 8)
  /-- VCVT (R291). -/
  | vcvt (tt st : VTy) (d : Fin 16) (a : VSrc) (k : Fin 8)
  /-- VFMA (R290). -/
  | vfma (t : VTy) (d : Fin 16) (a b : VSrc) (k : Fin 8)
  /-- VFMS (R290). -/
  | vfms (t : VTy) (d : Fin 16) (a b : VSrc) (k : Fin 8)
  /-- VFNMA (R290). -/
  | vfnma (t : VTy) (d : Fin 16) (a b : VSrc) (k : Fin 8)
  /-- VSHUF (R295). -/
  | vshuf (t : VTy) (d : Fin 16) (a b : VSrc) (k : Fin 8)
  /-- VBCAST (R295). -/
  | vbcast (t : VTy) (d : Fin 16) (a : VSrc) (k : Fin 8)
  /-- VEXT (R296). -/
  | vext (t : VTy) (d : Fin 16) (a : Fin 16) (b : Fin 16)
  /-- VINS (R296). -/
  | vins (t : VTy) (d : Fin 16) (a b : Fin 16)
  /-- VNZS (R299). -/
  | vnzs (d : Fin 16) (a : Fin 16) (b : Fin 16) (k : Fin 8)
  /-- VPFX (R298). -/
  | vpfx (t : VTy) (d : Fin 16) (a b : VSrc) (k : Fin 8)
  /-- VRED_ADD (R297). -/
  | vredAdd (t : VTy) (d : Fin 16) (a : Fin 16) (k : Fin 8)
  /-- VRED_MIN (R297). -/
  | vredMin (t : VTy) (d : Fin 16) (a : Fin 16) (k : Fin 8)
  /-- VRED_MAX (R297). -/
  | vredMax (t : VTy) (d : Fin 16) (a : Fin 16) (k : Fin 8)
  /-- VCMP_EQ (R292). -/
  | vcmpEq (t : VTy) (d : Fin 8) (a b : VSrc) (k : Fin 8)
  /-- VCMP_NE (R292). -/
  | vcmpNe (t : VTy) (d : Fin 8) (a b : VSrc) (k : Fin 8)
  /-- VCMP_LT (R292). -/
  | vcmpLt (t : VTy) (d : Fin 8) (a b : VSrc) (k : Fin 8)
  /-- VCMP_GE (R292). -/
  | vcmpGe (t : VTy) (d : Fin 8) (a b : VSrc) (k : Fin 8)
  /-- VCMP_LTU (R292). -/
  | vcmpLtu (t : VTy) (d : Fin 8) (a b : VSrc) (k : Fin 8)
  /-- VCMP_GEU (R292). -/
  | vcmpGeu (t : VTy) (d : Fin 8) (a b : VSrc) (k : Fin 8)
  /-- VSEL (R293). -/
  | vsel (t : VTy) (d : Fin 16) (a b : VSrc) (k : Fin 8)
  /-- MAND (R294). -/
  | mand (d a b : Fin 8)
  /-- MOR (R294). -/
  | mor (d a b : Fin 8)
  /-- MNOT (R294). -/
  | mnot (d a : Fin 8)
  /-- MPOPC (R294). -/
  | mpopc (d : Fin 16) (a : Fin 8)
  /-- VLD (R301). -/
  | vld (sz : VSize) (d : Fin 16) (a : Fin 16) (b : Reg) (k : Fin 8)
  /-- VST (R301). -/
  | vst (sz : VSize) (d : Fin 16) (a : Fin 16) (b : Reg) (k : Fin 8)
  /-- VLDS (R301). -/
  | vlds (sz : VSize) (d : Fin 16) (a : Fin 16) (b : Reg) (k : Fin 8)
  /-- VSTS (R301). -/
  | vsts (sz : VSize) (d : Fin 16) (a : Fin 16) (b : Reg) (k : Fin 8)
  /-- VGATH (R301). -/
  | vgath (sz : VSize) (d : Fin 16) (a : Fin 16) (b : Fin 16) (k : Fin 8)
  /-- VSCAT (R301). -/
  | vscat (sz : VSize) (d : Fin 16) (a : Fin 16) (b : Fin 16) (k : Fin 8)
  /-- VLDT (R304). -/
  | vldt (d : Fin 16) (a : Fin 16) (b : Reg) (k : Fin 8)
  /-- VSTT (R304). -/
  | vstt (d : Fin 16) (a : Fin 16) (b : Reg) (k : Fin 8)
  /-- VLDF_F32 (R305). -/
  | vldfF32 (d : Fin 16) (a : Fin 16) (b : Reg) (k : Fin 8)
  /-- VLDF_BF16 (R305). -/
  | vldfBf16 (d : Fin 16) (a : Fin 16) (b : Reg) (k : Fin 8)
  /-- VLDF_I32 (R305). -/
  | vldfI32 (d : Fin 16) (a : Fin 16) (b : Reg) (k : Fin 8)
  /-- INSTRUCTION_FETCH (R174). -/
  | instructionFetch (loc slot : Nat)
  /-- LONG_LATENCY_RESULT (R216). -/
  | longLatencyResult (k : Nat)
  /-- LOAD_REPLY (R256). -/
  | loadReply (k : Nat)
  /-- DATA_RETURN_REQUEST (R254). -/
  | dataReturnRequest (k : Nat)
  /-- STORE_PERFORM (R254). -/
  | storePerform (loc k : Nat)
  /-- ATOMIC_PERFORM (R261). -/
  | atomicPerform (k : Nat)
  /-- POSTED_OPERATION (R261). -/
  | postedOperation (k : Nat)
  /-- PAGE_WALK (R122). -/
  | pageWalk (h : Home) (va : Word)
  /-- FAULT_QUEUE_RETRY (R127). -/
  | faultQueueRetry (r : Retrier)
  /-- RETRY (R128). -/
  | retry (h : Home) (q : Nat)
  /-- DENY (R128). -/
  | deny (h : Home) (q : Nat)
  /-- TLB_INVALIDATE_REQUEST (R148). -/
  | tlbInvalidateRequest (k : Nat)
  /-- SPREAD_ENTRY_FETCH (R118). -/
  | spreadEntryFetch (k : Nat)
  /-- UNDELIVERED_RETURN (R115). -/
  | undeliveredReturn (k : Nat)
  /-- FENCE_MARKER (R157). -/
  | fenceMarker (k : Nat)
  /-- DEPARTURE (R47). -/
  | departure (loc f : Nat)
  /-- MIGRATION_ARRIVAL (R48). -/
  | migrationArrival (k : Nat)
  /-- MIGRATION_RETRY (R49). -/
  | migrationRetry (k : Nat)
  /-- SPILL_RING_TAKE_FRAME (R48). -/
  | spillRingTakeFrame (loc : Nat)
  /-- PIN_EXPIRY (R50). -/
  | pinExpiry (loc f : Nat)
  /-- LONG_WAIT_UNBIND (R44). -/
  | longWaitUnbind (loc slot : Nat)
  /-- FRAME_READY_BIND (R44). -/
  | frameReadyBind (loc : Nat)
  /-- REPEAT_FRAME_END (R234). -/
  | repeatFrameEnd (loc f : Nat)
  /-- LAUNCH_ACCEPT (R54). -/
  | launchAccept (k : Nat)
  /-- LAUNCH_START (R56). -/
  | launchStart (m : Nat) (id : W32)
  /-- LAUNCH_COMPLETION (R58). -/
  | launchCompletion (m : Nat) (id : W32)
  /-- JOIN_CELL_INCREMENT (R265). -/
  | joinCellIncrement (k : Nat)
  /-- JOIN_CELL_DECREMENT (R267). -/
  | joinCellDecrement (k : Nat)
  /-- JOIN_COMPLETE (R268). -/
  | joinComplete (loc f : Nat)
  /-- DEPENDENT_TASK_DECREMENT (R386). -/
  | dependentTaskDecrement (k : Nat)
  /-- NEXT_RESCAN (R63). -/
  | nextRescan (loc f : Nat)
  /-- GANG_FORMATION (R70). -/
  | gangFormation (n : Nat)
  /-- BARRIER_PHASE_COMPLETE (R274). -/
  | barrierPhaseComplete (n : Nat)
  /-- SLEEP_EXPIRY (R269). -/
  | sleepExpiry (loc f : Nat)
  /-- SHADE_TABLE_REFRESH (R75). -/
  | shadeTableRefresh (die : Nat) (samples : List (BitVec 12)) (power : Nat)
  /-- THERMAL_STEP (R83). -/
  | thermalStep (die : Nat)
  /-- SENSOR_FAILURE (R369). -/
  | sensorFailure (die q : Nat)
  /-- LEASE_REARBITRATION (R80). -/
  | leaseRearbitration (pav : Nat)
  /-- MMA (R324). -/
  | mma (r : PavRun)
  /-- SHEAF_FWD (R329). -/
  | sheafFwd (r : PavRun)
  /-- SHEAF_BWD (R331). -/
  | sheafBwd (pav : Nat)
  /-- COPY2D (R333). -/
  | copy2d (quad : Nat)
  /-- COPY_IDX (R334). -/
  | copyIdx (quad : Nat)
  /-- EXPAND24 (R335). -/
  | expand24 (quad : Nat)
  /-- COMPACT24 (R335). -/
  | compact24 (quad : Nat)
  /-- CONVERT (R336). -/
  | convert (quad : Nat)
  /-- FILL (R337). -/
  | fill (quad : Nat)
  /-- GATHER (R343). -/
  | gather (loc : Nat)
  /-- GATHER_POOL (R344). -/
  | gatherPool (loc : Nat)
  /-- SCATTER_ADD (R345). -/
  | scatterAdd (loc : Nat)
  /-- CHAIN (R346). -/
  | chain (loc : Nat)
  /-- ROUTE (R348). -/
  | route (loc : Nat)
  /-- WALK (R351). -/
  | walk (quad : Nat)
  /-- WALKER_STEP_LIMIT (R352). -/
  | walkerStepLimit (quad : Nat)
  /-- ENGINE_COMMAND_START (R141). -/
  | engineCommandStart (r : CmdRun)
  /-- ENGINE_COMMAND_COMPLETE (R314). -/
  | engineCommandComplete (id : Nat)
  /-- MESSAGE_DELIVERY (R309). -/
  | messageDelivery (k : Nat)
  /-- MESSAGE_RETRY (R309). -/
  | messageRetry (k : Nat)
  /-- EVENT_RETRY (R360). -/
  | eventRetry (k : Nat)
  /-- FLOCK_REQUEST (R146). -/
  | flockRequest (k : Nat)
  /-- FLOCK_TIMER_EXPIRY (R146). -/
  | flockTimerExpiry (h : Home) (n : Nat)
  /-- FLOCK_LATE_WINDOW_END (R146). -/
  | flockLateWindowEnd (h : Home) (n : Nat)
  /-- REHOME_GRANULE (R132). -/
  | rehomeGranule (h : Home) (granule : Nat)
  /-- EPOCH_BOUNDARY (R133). -/
  | epochBoundary (m : Nat)
  /-- REDUCTION_STEP_MERGE (R167). -/
  | reductionStepMerge (m w : Nat)
  /-- REDUCTION_STEP_TIMEOUT (R167). -/
  | reductionStepTimeout (m w part : Nat)
  /-- TRAP_QUEUE_ENTRY (R356). -/
  | trapQueueEntry (loc slot : Nat)
  /-- PATROL_SCRUB (R362). -/
  | patrolScrub (dword : Nat)
  /-- MODULE_LOST (R377). -/
  | moduleLost (m : Nat)
  /-- HEDGEROW_PORT_FAILURE (R377). -/
  | hedgerowPortFailure (m p : Nat)
  /-- CXL_MEM_WRITE (R168). -/
  | cxlMemWrite (m : Nat) (off : Word) (size : Nat) (v : Word)
  /-- CXL_MEM_READ (R372). -/
  | cxlMemRead (m : Nat) (off : Word) (size : Nat)
  /-- BOOT (R381). -/
  | boot (m : Nat) (v : Word)
  /-- FWLOAD (R380). -/
  | fwload (m : Nat) (v : Word)
  /-- FALLOW_SET (R129). -/
  | fallowSet (m : Nat) (v : Word)
  /-- FALLOW_CLEAR (R129). -/
  | fallowClear (m : Nat) (v : Word)
  /-- BARADD (R374). -/
  | baradd (m : Nat) (v : Word)
  /-- PTROOT_WRITE (R374). -/
  | ptrootWrite (m : Nat) (n : Nat) (v : Word)
  /-- REDUCTION_WINDOW_WRITE (R374). -/
  | reductionWindowWrite (m w off : Nat) (v : Word)
  /-- REGISTER_WINDOW_WRITE (R374). -/
  | registerWindowWrite (m off : Nat) (v : Word)
  /-- ROCE_SEND (R378). -/
  | roceSend (m qp : Nat) (data : List Byte)
  /-- ROCE_RDMA_WRITE (R378). -/
  | roceRdmaWrite (m qp : Nat) (region : Nat) (off : Nat) (data : List Byte)
  /-- ROCE_RDMA_READ (R378). -/
  | roceRdmaRead (m qp : Nat) (region : Nat) (off len : Nat)
  /-- ROCE_ATOMIC_NAK (R378). -/
  | roceAtomicNak (m qp : Nat)
  /-- POWER_GOOD (R380). -/
  | powerGood (m : Nat) (part : Part)
  /-- I3C_ENTDAA (R383). -/
  | i3cEntdaa (m : Nat) (addr : BitVec 7)
  /-- I3C_READ (R383). -/
  | i3cRead (m : Nat) (what : Reading)
  /-- MGMT_FIRMWARE_LOAD (R383). -/
  | mgmtFirmwareLoad (m : Nat) (image : Nat) (len : Nat)
  /-- MGMT_READ (R383). -/
  | mgmtRead (m : Nat) (what : Reading)
  /-- POWER_LOSS (R380). -/
  | powerLoss (m : Nat)
  /-- IDE_KEY_PROGRAMMING (R372). -/
  | ideKeyProgramming (m : Nat)
  /-- HEDGEROW_LINK_TRAINING (R18). -/
  | hedgerowLinkTraining (m number : Nat)
  /-- LINK_LEVEL_RETRY (R377). -/
  | linkLevelRetry (m p : Nat)
  /-- SOLO_RESULT_ARRIVAL (R73). -/
  | soloResultArrival (k : Nat)
  deriving DecidableEq, Repr

end Sys2Proof
end

