-- ==== Sys2Proof/WellFormed.lean ====
section
/-! DEFINITION. Which terms of Instr are words the manual assigns (R177-R182, R185-R200, R288, R300):
what the types of the operands do not already rule out. For an event it says that its numbers name places
the part has. -/

namespace Sys2Proof

/-- The field names no port (R178). -/
def Reg.np : Reg → Bool
  | .port _ => false
  | _ => true

/-- The field names g0-g15. -/
def Reg.isG : Reg → Bool
  | .g _ => true
  | _ => false

/-- VT 0, 4 or 5 (R199). -/
def vtInt : VTy → Bool
  | .i32 => true | .i16 => true | .i8 => true | _ => false

/-- VT 1, 2 or 3 (R199). -/
def vtFloat (t : VTy) : Bool := !vtInt t

/-- The integer types of FCVT (R188). -/
def CvtTy.isInt : CvtTy → Bool
  | .i32 => true | .i64 => true | .u32 => true | .u64 => true | _ => false

/-- R188: a pair whose types are equal, or both integers, is unassigned. -/
def cvtPair (a b : CvtTy) : Bool := a != b && !(a.isInt && b.isInt)

/-- A barrier's scope is 1-5 (R192). -/
def barScope : Scope → Bool
  | .core => false | .sys => false | _ => true

/-- A mask operand is m1-m7 (R180). -/
def maskOk (k : Fin 8) : Bool := k.val != 0

/-- A core of the pod (R18). -/
def locOk (l : Nat) : Bool := decide (l < 2 ^ 22)
/-- A frame of a core; 32 is the handler frame (R355). -/
def frameOk (f : Nat) : Bool := decide (f < 33)
/-- A module position (R18). -/
def moduleOk (m : Nat) : Bool := decide (m < 256)
/-- A die of the pod. -/
def dieOk (d : Nat) : Bool := decide (d < 2 ^ 14)
/-- A quad of the pod. -/
def quadOk (q : Nat) : Bool := decide (q < 2 ^ 20)
/-- A Pavilion of the pod (R27). -/
def pavOk (p : Nat) : Bool := decide (p < 2 ^ 18)
/-- A home of the pod (R115). -/
def Home.ok : Home → Bool
  | .slice d q => dieOk d && decide (q < 64)
  | .core l => locOk l
  | .cxl m => moduleOk m

/-- The term is an assigned word, or an event about places the part has. -/
def Instr.wf : Instr → Bool
  | .add _ _ _ _ _ => true
  | .sub _ _ _ _ _ => true
  | .and _ _ _ _ _ => true
  | .or _ _ _ _ _ => true
  | .xor _ _ _ _ _ => true
  | .andn _ _ _ _ _ => true
  | .sll _ _ _ _ _ => true
  | .srl _ _ _ _ _ => true
  | .sra _ _ _ _ _ => true
  | .ror _ _ _ _ _ => true
  | .mul _ _ _ _ _ => true
  | .mulh _ _ _ _ _ => true
  | .mulhu _ _ _ _ _ => true
  | .div _ _ _ _ _ => true
  | .divu _ _ _ _ _ => true
  | .rem _ _ _ _ _ => true
  | .remu _ _ _ _ _ => true
  | .min _ _ _ _ _ => true
  | .max _ _ _ _ _ => true
  | .minu _ _ _ _ _ => true
  | .maxu _ _ _ _ _ => true
  | .clz _ _ _ => true
  | .ctz _ _ _ => true
  | .popc _ _ _ => true
  | .brev _ _ _ => true
  | .bswap _ _ _ => true
  | .sextB _ _ _ => true
  | .sextH _ _ _ => true
  | .sextW _ _ _ => true
  | .zextB _ _ _ => true
  | .zextH _ _ _ => true
  | .zextW _ _ _ => true
  | .cmpEq _ _ _ _ _ => true
  | .cmpNe _ _ _ _ _ => true
  | .cmpLt _ _ _ _ _ => true
  | .cmpGe _ _ _ _ _ => true
  | .cmpLtu _ _ _ _ _ => true
  | .cmpGeu _ _ _ _ _ => true
  | .selz _ _ _ _ _ => true
  | .lea _ _ _ _ _ => true
  | .addi _ _ _ _ => true
  | .andi _ _ _ _ => true
  | .ori _ _ _ _ => true
  | .xori _ _ _ _ => true
  | .muli _ _ _ _ => true
  | .slli _ _ _ _ => true
  | .srli _ _ _ _ => true
  | .srai _ _ _ _ => true
  | .rori _ _ _ _ => true
  | .cmpi _ _ _ _ _ => true
  | .movi _ _ => true
  | .movk d _ _ => d.np
  | .fadd _ _ d a b _ _ => d.np && a.np && b.np
  | .fsub _ _ d a b _ _ => d.np && a.np && b.np
  | .fmul _ _ d a b _ _ => d.np && a.np && b.np
  | .fdiv _ _ d a b _ _ => d.np && a.np && b.np
  | .fsqrt _ _ d a _ => d.np && a.np
  | .fcmpEq _ d a b _ _ => d.np && a.np && b.np
  | .fcmpLt _ d a b _ _ => d.np && a.np && b.np
  | .fcmpLe _ d a b _ _ => d.np && a.np && b.np
  | .fcmpUn _ d a b _ _ => d.np && a.np && b.np
  | .fmin _ d a b _ _ => d.np && a.np && b.np
  | .fmax _ d a b _ _ => d.np && a.np && b.np
  | .fabs _ d a _ => d.np && a.np
  | .fneg _ d a _ => d.np && a.np
  | .fsgnj _ d a b _ _ => d.np && a.np && b.np
  | .fclass _ d a _ => d.np && a.np
  | .fma _ _ d a b _ _ => d.np && a.np && b.np
  | .fms _ _ d a b _ _ => d.np && a.np && b.np
  | .fnma _ _ d a b _ _ => d.np && a.np && b.np
  | .fnms _ _ d a b _ _ => d.np && a.np && b.np
  | .fcvt tt st _ d a _ => d.np && a.np && cvtPair tt st
  | .ldB d a _ _ => d.np && a.np
  | .ldBz d a _ _ => d.np && a.np
  | .ldH d a _ _ => d.np && a.np
  | .ldHz d a _ _ => d.np && a.np
  | .ldW d a _ _ => d.np && a.np
  | .ldWz d a _ _ => d.np && a.np
  | .ldD d a _ _ => d.np && a.np
  | .stB d a _ _ => d.np && a.np
  | .stH d a _ _ => d.np && a.np
  | .stW d a _ _ => d.np && a.np
  | .stD d a _ _ => d.np && a.np
  | .ldfF32 d a _ _ => d.np && a.np
  | .ldfBf16 d a _ _ => d.np && a.np
  | .ldfF64 d a _ _ => d.np && a.np
  | .ldfI32 d a _ _ => d.np && a.np
  | .stfF32 d a _ _ => d.np && a.np
  | .stfBf16 d a _ _ => d.np && a.np
  | .stfF64 d a _ _ => d.np && a.np
  | .stfI32 d a _ _ => d.np && a.np
  | .ldqW _ d a _ _ => d.np && a.np
  | .ldqD _ d a _ _ => d.np && a.np
  | .stlW _ d a _ _ => d.np && a.np
  | .stlD _ d a _ _ => d.np && a.np
  | .amoAdd _ d a b => d.np && a.np && b.np
  | .amoAnd _ d a b => d.np && a.np && b.np
  | .amoOr _ d a b => d.np && a.np && b.np
  | .amoXor _ d a b => d.np && a.np && b.np
  | .amoMin _ d a b => d.np && a.np && b.np
  | .amoMax _ d a b => d.np && a.np && b.np
  | .amoMinu _ d a b => d.np && a.np && b.np
  | .amoMaxu _ d a b => d.np && a.np && b.np
  | .amoSwap _ d a b => d.np && a.np && b.np
  | .amoCas _ d a b => d.np && a.np && b.np
  | .amoFadd _ d a b => d.np && a.np && b.np
  | .amoFmaxa _ d a b => d.np && a.np && b.np
  | .amopAdd _ a b => a.np && b.np
  | .amopAnd _ a b => a.np && b.np
  | .amopOr _ a b => a.np && b.np
  | .amopXor _ a b => a.np && b.np
  | .amopMin _ a b => a.np && b.np
  | .amopMax _ a b => a.np && b.np
  | .amopMinu _ a b => a.np && b.np
  | .amopMaxu _ a b => a.np && b.np
  | .amopFadd _ a b => a.np && b.np
  | .amopFmaxa _ a b => a.np && b.np
  | .go a => a.np
  | .pin => true
  | .unpin => true
  | .whereI d => d.np
  | .hops d => d.np
  | .spawn d a b => d.np && a.np && b.isG
  | .spawna d a b => d.np && a.np && b.isG
  | .exit => true
  | .join a => a.np
  | .yield => true
  | .next d => d.np
  | .launch d a => d.np && a.np
  | .taskDec d a => d.np && a.np
  | .taskDecp a => a.np
  | .sleep a => a.np
  | .barArv sc _ => barScope sc
  | .barWait sc _ => barScope sc
  | .barArd sc _ => barScope sc
  | .barSync sc _ => barScope sc
  | .barPhase sc d _ => d.np && barScope sc
  | .fence _ => true
  | .flkJoin _ a b => a.np && b.np
  | .flkLd _ a b => a.np && b.isG
  | .flkLeave _ => true
  | .flkTimer _ a => a.np
  | .leaseAcq => true
  | .leaseTry d => d.np
  | .leaseRel => true
  | .tileAlloc d a b => d.np && a.np && b.np
  | .tileFree a => a.np
  | .tileFreef a => a.np
  | .tileState d a => d.np && a.np
  | .tileMark a st => a.np && (st == 1 || st == 2)
  | .gangForm n => decide (n.toNat < 4)
  | .split => true
  | .movs _ a => a.np
  | .movfs d _ => d.np
  | .trap _ => true
  | .rfe => true
  | .brk => true
  | .waitev d => d.np
  | .ctxSw a => a.np
  | .tlbInv a => a.np
  | .secFlush => true
  | .preempt a => a.np
  | .resume a => a.np
  | .jl d _ => d.np
  | .bc _ a _ _ => a.np
  | .jr d a _ _ => d.np && a.np
  | .repf _ _ _ _ _ => true
  | .solo => true
  | .vadd t _ _ _ _ => vtInt t
  | .vsub t _ _ _ _ => vtInt t
  | .vmul t _ _ _ _ => vtInt t
  | .vmulh t _ _ _ _ => vtInt t
  | .vand t _ _ _ _ => vtInt t
  | .vor t _ _ _ _ => vtInt t
  | .vxor t _ _ _ _ => vtInt t
  | .vandn t _ _ _ _ => vtInt t
  | .vsll t _ _ _ _ => vtInt t
  | .vsrl t _ _ _ _ => vtInt t
  | .vsra t _ _ _ _ => vtInt t
  | .vmin t _ _ _ _ => vtInt t
  | .vmax t _ _ _ _ => vtInt t
  | .vminu t _ _ _ _ => vtInt t
  | .vmaxu t _ _ _ _ => vtInt t
  | .vabs t _ _ _ => vtInt t
  | .vfadd t _ _ _ _ => vtFloat t
  | .vfsub t _ _ _ _ => vtFloat t
  | .vfmul t _ _ _ _ => vtFloat t
  | .vfdiv t _ _ _ _ => vtFloat t
  | .vfmin t _ _ _ _ => vtFloat t
  | .vfmax t _ _ _ _ => vtFloat t
  | .vfabs t _ _ _ => vtFloat t
  | .vfneg t _ _ _ => vtFloat t
  | .vcvt _ _ _ _ _ => true
  | .vfma t _ _ _ _ => vtFloat t
  | .vfms t _ _ _ _ => vtFloat t
  | .vfnma t _ _ _ _ => vtFloat t
  | .vshuf _ _ _ _ _ => true
  | .vbcast _ _ _ _ => true
  | .vext _ _ _ _ => true
  | .vins _ _ _ _ => true
  | .vnzs _ _ _ _ => true
  | .vpfx _ _ _ _ _ => true
  | .vredAdd _ _ _ _ => true
  | .vredMin _ _ _ _ => true
  | .vredMax _ _ _ _ => true
  | .vcmpEq _ d _ _ _ => maskOk d
  | .vcmpNe _ d _ _ _ => maskOk d
  | .vcmpLt _ d _ _ _ => maskOk d
  | .vcmpGe _ d _ _ _ => maskOk d
  | .vcmpLtu t d _ _ _ => maskOk d && vtInt t
  | .vcmpGeu t d _ _ _ => maskOk d && vtInt t
  | .vsel _ _ _ _ k => maskOk k
  | .mand d a b => maskOk d && maskOk a && maskOk b
  | .mor d a b => maskOk d && maskOk a && maskOk b
  | .mnot d a => maskOk d && maskOk a
  | .mpopc _ a => maskOk a
  | .vld _ _ _ b _ => b.np
  | .vst _ _ _ b _ => b.np
  | .vlds _ _ _ b _ => b.np
  | .vsts _ _ _ b _ => b.np
  | .vgath _ _ _ _ _ => true
  | .vscat _ _ _ _ _ => true
  | .vldt _ _ b _ => b.np
  | .vstt _ _ b _ => b.np
  | .vldfF32 _ _ b _ => b.np
  | .vldfBf16 _ _ b _ => b.np
  | .vldfI32 _ _ b _ => b.np
  | .instructionFetch loc slot => locOk loc && decide (slot < 8)
  | .longLatencyResult _ => true
  | .loadReply _ => true
  | .dataReturnRequest _ => true
  | .storePerform loc _ => locOk loc
  | .atomicPerform _ => true
  | .postedOperation _ => true
  | .pageWalk h _ => h.ok
  | .faultQueueRetry _ => true
  | .retry h q => h.ok && decide (q < 256)
  | .deny h q => h.ok && decide (q < 256)
  | .tlbInvalidateRequest _ => true
  | .spreadEntryFetch _ => true
  | .undeliveredReturn _ => true
  | .fenceMarker _ => true
  | .departure loc f => locOk loc && frameOk f
  | .migrationArrival _ => true
  | .migrationRetry _ => true
  | .spillRingTakeFrame loc => locOk loc
  | .pinExpiry loc f => locOk loc && frameOk f
  | .longWaitUnbind loc slot => locOk loc && decide (slot < 8)
  | .frameReadyBind loc => locOk loc
  | .repeatFrameEnd loc f => locOk loc && frameOk f
  | .launchAccept _ => true
  | .launchStart m _ => moduleOk m
  | .launchCompletion m _ => moduleOk m
  | .joinCellIncrement _ => true
  | .joinCellDecrement _ => true
  | .joinComplete loc f => locOk loc && frameOk f
  | .dependentTaskDecrement _ => true
  | .nextRescan loc f => locOk loc && frameOk f
  | .gangFormation _ => true
  | .barrierPhaseComplete _ => true
  | .sleepExpiry loc f => locOk loc && frameOk f
  | .shadeTableRefresh die _ _ => dieOk die
  | .thermalStep die => dieOk die
  | .sensorFailure die q => dieOk die && decide (q < 64)
  | .leaseRearbitration pav => pavOk pav
  | .mma r => pavOk r.pav
  | .sheafFwd r => pavOk r.pav
  | .sheafBwd pav => pavOk pav
  | .copy2d quad => quadOk quad
  | .copyIdx quad => quadOk quad
  | .expand24 quad => quadOk quad
  | .compact24 quad => quadOk quad
  | .convert quad => quadOk quad
  | .fill quad => quadOk quad
  | .gather loc => locOk loc
  | .gatherPool loc => locOk loc
  | .scatterAdd loc => locOk loc
  | .chain loc => locOk loc
  | .route loc => locOk loc
  | .walk quad => quadOk quad
  | .walkerStepLimit quad => quadOk quad
  | .engineCommandStart _ => true
  | .engineCommandComplete _ => true
  | .messageDelivery _ => true
  | .messageRetry _ => true
  | .eventRetry _ => true
  | .flockRequest _ => true
  | .flockTimerExpiry h _ => h.ok
  | .flockLateWindowEnd h _ => h.ok
  | .rehomeGranule h _ => h.ok
  | .epochBoundary m => moduleOk m
  | .reductionStepMerge m w => moduleOk m && decide (w < 16)
  | .reductionStepTimeout m w part => moduleOk m && decide (w < 16) && moduleOk part
  | .trapQueueEntry loc slot => locOk loc && decide (slot < 8)
  | .patrolScrub _ => true
  | .moduleLost m => moduleOk m
  | .hedgerowPortFailure m p => moduleOk m && decide (p < 32)
  | .cxlMemWrite m _ size _ => moduleOk m && (size == 1 || size == 2 || size == 4 || size == 8)
  | .cxlMemRead m _ size => moduleOk m && (size == 1 || size == 2 || size == 4 || size == 8)
  | .boot m _ => moduleOk m
  | .fwload m _ => moduleOk m
  | .fallowSet m _ => moduleOk m
  | .fallowClear m _ => moduleOk m
  | .baradd m _ => moduleOk m
  | .ptrootWrite m n _ => moduleOk m && decide (n < 64)
  | .reductionWindowWrite m w _ _ => moduleOk m && decide (w < 16)
  | .registerWindowWrite m _ _ => moduleOk m
  | .roceSend m qp _ => moduleOk m && decide (qp < 4096)
  | .roceRdmaWrite m qp _ _ _ => moduleOk m && decide (qp < 4096)
  | .roceRdmaRead m qp _ _ _ => moduleOk m && decide (qp < 4096)
  | .roceAtomicNak m qp => moduleOk m && decide (qp < 4096)
  | .powerGood m _ => moduleOk m
  | .i3cEntdaa m _ => moduleOk m
  | .i3cRead m _ => moduleOk m
  | .mgmtFirmwareLoad m _ _ => moduleOk m
  | .mgmtRead m _ => moduleOk m
  | .powerLoss m => moduleOk m
  | .ideKeyProgramming m => moduleOk m
  | .hedgerowLinkTraining m number => moduleOk m && moduleOk number
  | .linkLevelRetry m p => moduleOk m && decide (p < 32)
  | .soloResultArrival _ => true

end Sys2Proof
end

