-- ==== Sys2Proof/Decode.lean ====
section
/-! DEFINITION. The decoder, total on any word and any bytes, and after it the encoder, both written from
the format and opcode tables of 11_encoding (R174-R201). A word that does not decode is rejected by name:
`illegal` is ILLEGAL_OPCODE and `reserved` is RESERVED_FIELD, and `illegal` outranks `reserved` (R182). -/

namespace Sys2Proof

/-- Why a word is no instruction (R182); `short` is fewer than four bytes. -/
inductive DecodeErr where
  | illegal | reserved | short
  deriving DecidableEq, Repr

/-- The n bits of w from bit lo up. -/
def fld (w lo n : Nat) : Nat := w / 2 ^ lo % 2 ^ n

/-- A one-bit field. -/
def flag (w lo : Nat) : Bool := w / 2 ^ lo % 2 == 1

/-- R182: a condition that makes the word RESERVED_FIELD unless it holds. -/
def need (b : Bool) : Except DecodeErr Unit := if b then .ok () else .error .reserved

/-- Continue after a check or a field. -/
def DecodeErr.bind {α β : Type} (x : Except DecodeErr α) (f : α → Except DecodeErr β) : Except DecodeErr β :=
  match x with
  | .ok a => f a
  | .error e => .error e

/-- R177: the register name field where ports are accepted (R178). -/
def regOf (c : Nat) : Except DecodeErr Reg :=
  if h : c < 16 then .ok (.g ⟨c, h⟩)
  else match c with
    | 16 => .ok (.port .qpav)
    | 17 => .ok (.port .qcpy)
    | 18 => .ok (.port .qgln)
    | 19 => .ok (.port .qtrl)
    | 20 => .ok (.port .qmsg)
    | 21 => .ok (.port .qevt)
    | 24 => .ok .z
    | _ => .error .reserved

/-- R178: the register name field where a port code raises RESERVED_FIELD. -/
def regNP (c : Nat) : Except DecodeErr Reg :=
  if h : c < 16 then .ok (.g ⟨c, h⟩) else if c = 24 then .ok .z else .error .reserved

/-- A field that only g0-g15 (or only v0-v15) may fill. -/
def reg16 (c : Nat) : Except DecodeErr (Fin 16) :=
  if h : c < 16 then .ok ⟨c, h⟩ else .error .reserved

/-- A V-format code that must name g0-g15 by 16-31 (R180, R288). -/
def reg32 (c : Nat) : Except DecodeErr (Fin 16) :=
  if h : 16 ≤ c ∧ c < 32 then .ok ⟨c - 16, by omega⟩ else .error .reserved

/-- VA and VB (R180). -/
def vsrcOf (c : Nat) : Except DecodeErr VSrc :=
  if h : c < 16 then .ok (.v ⟨c, h⟩) else if h : c < 32 then .ok (.g ⟨c - 16, by omega⟩) else .error .reserved

/-- A mask operand: codes 1-7 with bits [4:3] zero (R180). -/
def maskOf (c : Nat) : Except DecodeErr (Fin 8) :=
  if h : 0 < c ∧ c < 8 then .ok ⟨c, by omega⟩ else .error .reserved

/-- MK, 0-7 (R180). -/
def mkOf (c : Nat) : Fin 8 := Fin.ofNat 8 c

/-- FN[10:9] (R187). -/
def ffmtOf (c : Nat) : FFmt := match c with | 0 => .f64 | 1 => .f32 | 2 => .f16 | _ => .bf16

/-- The rounding code (R187); 5-7 are no rounding codes. -/
def rndOf (c : Nat) : Option Rnd :=
  match c with | 0 => some .dyn | 1 => some .rne | 2 => some .rtz | 3 => some .rup | 4 => some .rdn | _ => none

/-- FCVT's type codes (R188). -/
def cvtOf (c : Nat) : Option CvtTy :=
  match c with
  | 0 => some .f64 | 1 => some .f32 | 2 => some .f16 | 3 => some .bf16 | 4 => some .f8a | 5 => some .f8b
  | 6 => some .l6 | 8 => some .i32 | 9 => some .i64 | 10 => some .u32 | 11 => some .u64 | _ => none

/-- VT (R199). -/
def vtyOf (c : Nat) : Option VTy :=
  match c with
  | 0 => some .i32 | 1 => some .f32 | 2 => some .f16 | 3 => some .bf16 | 4 => some .i16 | 5 => some .i8 | _ => none

/-- SZ of VMEM (R200). -/
def vsizeOf (c : Nat) : Option VSize :=
  match c with | 0 => some .b | 1 => some .h | 2 => some .w | _ => none

/-- The scope code (R154); 7 is reserved. -/
def scopeOf (c : Nat) : Except DecodeErr Scope :=
  match c with
  | 0 => .ok .core | 1 => .ok .quad | 2 => .ok .die | 3 => .ok .stack | 4 => .ok .mod | 5 => .ok .pod
  | 6 => .ok .sys | _ => .error .reserved

/-- The scope of a barrier: 1-5 (R192). -/
def barScopeOf (c : Nat) : Except DecodeErr Scope :=
  DecodeErr.bind (scopeOf c) fun s => if barScope s then .ok s else .error .reserved

/-- IMM[14:12] of CMPI (R186). -/
def cmpOf (c : Nat) : Except DecodeErr CmpCond :=
  match c with
  | 0 => .ok .eq | 1 => .ok .ne | 2 => .ok .lt | 3 => .ok .ge | 4 => .ok .ltu | 5 => .ok .geu
  | _ => .error .reserved

/-- CC of BC (R196). -/
def brOf (c : Nat) : Except DecodeErr BrCond :=
  match c with
  | 0 => .ok .eqz | 1 => .ok .nez | 2 => .ok .ltz | 3 => .ok .gez | 4 => .ok .gtz | 5 => .ok .lez
  | 6 => .ok .odd | 7 => .ok .even | _ => .error .reserved

/-- A system register number (R195); 12-31 are reserved. -/
def sregOf (c : Nat) : Except DecodeErr SReg :=
  match c with
  | 0 => .ok .tstat | 1 => .ok .tid | 2 => .ok .kid | 3 => .ok .clock | 4 => .ok .units
  | 5 => .ok .trapcause | 6 => .ok .trapva | 7 => .ok .trappc | 8 => .ok .ctxbase | 9 => .ok .evtmask
  | 10 => .ok .shadesel | 11 => .ok .ptroot | _ => .error .reserved

/-- FN of INT, the two-source forms (R185). -/
def intOps (c : Nat) : Option (Reg → Reg → Reg → Bool → Bool → Instr) :=
  match c with
  | 0x00 => some .add
  | 0x01 => some .sub
  | 0x02 => some .and
  | 0x03 => some .or
  | 0x04 => some .xor
  | 0x05 => some .andn
  | 0x06 => some .sll
  | 0x07 => some .srl
  | 0x08 => some .sra
  | 0x09 => some .ror
  | 0x10 => some .mul
  | 0x11 => some .mulh
  | 0x12 => some .mulhu
  | 0x13 => some .div
  | 0x14 => some .divu
  | 0x15 => some .rem
  | 0x16 => some .remu
  | 0x18 => some .min
  | 0x19 => some .max
  | 0x1a => some .minu
  | 0x1b => some .maxu
  | 0x30 => some .cmpEq
  | 0x31 => some .cmpNe
  | 0x32 => some .cmpLt
  | 0x33 => some .cmpGe
  | 0x34 => some .cmpLtu
  | 0x35 => some .cmpGeu
  | 0x38 => some .selz
  | 0x39 => some .lea
  | _ => none

/-- FN of INT, the unary forms (R185). -/
def intUnary (c : Nat) : Option (Reg → Reg → Bool → Instr) :=
  match c with
  | 0x20 => some .clz
  | 0x21 => some .ctz
  | 0x22 => some .popc
  | 0x23 => some .brev
  | 0x24 => some .bswap
  | 0x28 => some .sextB
  | 0x29 => some .sextH
  | 0x2a => some .sextW
  | 0x2c => some .zextB
  | 0x2d => some .zextH
  | 0x2e => some .zextW
  | _ => none

/-- INT (0x01): `D A B FN —[2] TA TB` (R175, R185). In the unary forms B and TB are unused. -/
def decodeInt (w : Nat) : Except DecodeErr Instr :=
  match intOps (fld w 3 8) with
  | some mk =>
    DecodeErr.bind (need (fld w 2 1 == 0)) fun _ => DecodeErr.bind (regOf (fld w 21 5)) fun d =>
    DecodeErr.bind (regOf (fld w 16 5)) fun a => DecodeErr.bind (regOf (fld w 11 5)) fun b =>
    .ok (mk d a b (flag w 1) (flag w 0))
  | none =>
    match intUnary (fld w 3 8) with
    | some mk =>
      DecodeErr.bind (need (fld w 2 1 == 0 && fld w 11 5 == 0 && !flag w 0)) fun _ =>
      DecodeErr.bind (regOf (fld w 21 5)) fun d => DecodeErr.bind (regOf (fld w 16 5)) fun a =>
      .ok (mk d a (flag w 1))
    | none => .error .illegal

/-- The I-format majors with a 15-bit immediate (R186). -/
def decodeImm (mk : Reg → Reg → Bool → BitVec 15 → Instr) (w : Nat) : Except DecodeErr Instr :=
  DecodeErr.bind (regOf (fld w 21 5)) fun d => DecodeErr.bind (regOf (fld w 16 5)) fun a =>
  .ok (mk d a (flag w 15) (BitVec.ofNat 15 (fld w 0 15)))

/-- SHI's kind, IMM[14:13] (R186). -/
def shiOp (c : Nat) : Reg → Reg → Bool → BitVec 6 → Instr :=
  match c with | 0 => .slli | 1 => .srli | 2 => .srai | _ => .rori

/-- SHI (0x06): IMM[12:6] unused (R186). -/
def decodeShi (w : Nat) : Except DecodeErr Instr :=
  DecodeErr.bind (need (fld w 6 7 == 0)) fun _ => DecodeErr.bind (regOf (fld w 21 5)) fun d =>
  DecodeErr.bind (regOf (fld w 16 5)) fun a =>
  .ok (shiOp (fld w 13 2) d a (flag w 15) (BitVec.ofNat 6 (fld w 0 6)))

/-- CMPI (0x07) (R186). -/
def decodeCmpi (w : Nat) : Except DecodeErr Instr :=
  DecodeErr.bind (cmpOf (fld w 12 3)) fun c => DecodeErr.bind (regOf (fld w 21 5)) fun d =>
  DecodeErr.bind (regOf (fld w 16 5)) fun a =>
  .ok (.cmpi c d a (flag w 15) (BitVec.ofNat 12 (fld w 0 12)))

/-- MOVI (0x08) (R186). -/
def decodeMovi (w : Nat) : Except DecodeErr Instr :=
  DecodeErr.bind (regOf (fld w 21 5)) fun d => .ok (.movi d (BitVec.ofNat 21 (fld w 0 21)))

/-- MOVK (0x09): D takes no port code, [18:16] is reserved (R175, R178, R220). -/
def decodeMovk (w : Nat) : Except DecodeErr Instr :=
  DecodeErr.bind (need (fld w 16 3 == 0)) fun _ => DecodeErr.bind (regNP (fld w 21 5)) fun d =>
  .ok (.movk d (BitVec.ofNat 2 (fld w 19 2)) (BitVec.ofNat 16 (fld w 0 16)))

/-- FP with a rounding code, FN[5:3] (R187); fsqrt is unary. -/
def fpRounded (c : Nat) : Option (FFmt → Rnd → Reg → Reg → Reg → Bool → Bool → Instr) :=
  match c with
  | 0x00 => some .fadd
  | 0x01 => some .fsub
  | 0x02 => some .fmul
  | 0x03 => some .fdiv
  | _ => none

/-- FP group 6, FN[5:3] (R187). -/
def fpCompare (c : Nat) : Option (FFmt → Reg → Reg → Reg → Bool → Bool → Instr) :=
  match c with
  | 0x00 => some .fcmpEq
  | 0x01 => some .fcmpLt
  | 0x02 => some .fcmpLe
  | 0x03 => some .fcmpUn
  | _ => none

/-- FP group 7, the two-source forms (R187). -/
def fpGroup7 (c : Nat) : Option (FFmt → Reg → Reg → Reg → Bool → Bool → Instr) :=
  match c with
  | 0x00 => some .fmin
  | 0x01 => some .fmax
  | 0x04 => some .fsgnj
  | _ => none

/-- FP group 7, the unary forms (R187). -/
def fpUnary7 (c : Nat) : Option (FFmt → Reg → Reg → Bool → Instr) :=
  match c with
  | 0x02 => some .fabs
  | 0x03 => some .fneg
  | 0x05 => some .fclass
  | _ => none

/-- FMA, FN[5:3] (R187). -/
def fmaOps (c : Nat) : Option (FFmt → Rnd → Reg → Reg → Reg → Bool → Bool → Instr) :=
  match c with
  | 0x00 => some .fma
  | 0x01 => some .fms
  | 0x02 => some .fnma
  | 0x03 => some .fnms
  | _ => none

/-- A two-source FP word after its operation is known. -/
def fpTwo (mk : Reg → Reg → Reg → Bool → Bool → Instr) (w : Nat) : Except DecodeErr Instr :=
  DecodeErr.bind (need (fld w 2 1 == 0)) fun _ => DecodeErr.bind (regNP (fld w 21 5)) fun d =>
  DecodeErr.bind (regNP (fld w 16 5)) fun a => DecodeErr.bind (regNP (fld w 11 5)) fun b =>
  .ok (mk d a b (flag w 1) (flag w 0))

/-- A unary FP word: B and TB unused. -/
def fpOne (mk : Reg → Reg → Bool → Instr) (w : Nat) : Except DecodeErr Instr :=
  DecodeErr.bind (need (fld w 2 1 == 0 && fld w 11 5 == 0 && !flag w 0)) fun _ =>
  DecodeErr.bind (regNP (fld w 21 5)) fun d => DecodeErr.bind (regNP (fld w 16 5)) fun a =>
  .ok (mk d a (flag w 1))

/-- FP (0x10) (R187). -/
def decodeFp (w : Nat) : Except DecodeErr Instr :=
  match rndOf (fld w 6 3) with
  | some r =>
    match fpRounded (fld w 3 3) with
    | some mk => fpTwo (mk (ffmtOf (fld w 9 2)) r) w
    | none => if fld w 3 3 = 4 then fpOne (.fsqrt (ffmtOf (fld w 9 2)) r) w else .error .illegal
  | none =>
    if fld w 6 3 = 6 then
      match fpCompare (fld w 3 3) with
      | some mk => fpTwo (mk (ffmtOf (fld w 9 2))) w
      | none => .error .illegal
    else if fld w 6 3 = 7 then
      match fpGroup7 (fld w 3 3) with
      | some mk => fpTwo (mk (ffmtOf (fld w 9 2))) w
      | none =>
        match fpUnary7 (fld w 3 3) with
        | some mk => fpOne (mk (ffmtOf (fld w 9 2))) w
        | none => .error .illegal
    else .error .illegal

/-- FMA (0x11) (R187). -/
def decodeFma (w : Nat) : Except DecodeErr Instr :=
  match rndOf (fld w 6 3), fmaOps (fld w 3 3) with
  | some r, some mk => fpTwo (mk (ffmtOf (fld w 9 2)) r) w
  | _, _ => .error .illegal

/-- FCVT (0x12): B[3:0] is part of the operation code; FN[3], B[4] and TB must be zero (R188). -/
def decodeFcvt (w : Nat) : Except DecodeErr Instr :=
  match cvtOf (fld w 7 4), cvtOf (fld w 11 4), rndOf (fld w 4 3) with
  | some tt, some st, some r =>
    if cvtPair tt st then
      DecodeErr.bind (need (fld w 3 1 == 0 && fld w 15 1 == 0 && fld w 2 1 == 0 && !flag w 0)) fun _ =>
      DecodeErr.bind (regNP (fld w 21 5)) fun d => DecodeErr.bind (regNP (fld w 16 5)) fun a =>
      .ok (.fcvt tt st r d a (flag w 1))
    else .error .illegal
  | _, _, _ => .error .illegal

/-- SZ of major 0x18 (R189). -/
def ldOps (c : Nat) : Option (Reg → Reg → Bool → BitVec 12 → Instr) :=
  match c with
  | 0x00 => some .ldB
  | 0x01 => some .ldBz
  | 0x02 => some .ldH
  | 0x03 => some .ldHz
  | 0x04 => some .ldW
  | 0x05 => some .ldWz
  | 0x06 => some .ldD
  | _ => none

/-- SZ of major 0x19 (R189). -/
def stOps (c : Nat) : Option (Reg → Reg → Bool → BitVec 12 → Instr) :=
  match c with
  | 0x00 => some .stB
  | 0x02 => some .stH
  | 0x04 => some .stW
  | 0x06 => some .stD
  | _ => none

/-- SZ of major 0x1a (R189). -/
def ldfOps (c : Nat) : Option (Reg → Reg → Bool → BitVec 12 → Instr) :=
  match c with
  | 0x00 => some .ldfF32
  | 0x01 => some .ldfBf16
  | 0x02 => some .ldfF64
  | 0x03 => some .ldfI32
  | _ => none

/-- SZ of major 0x1b (R189). -/
def stfOps (c : Nat) : Option (Reg → Reg → Bool → BitVec 12 → Instr) :=
  match c with
  | 0x00 => some .stfF32
  | 0x01 => some .stfBf16
  | 0x02 => some .stfF64
  | 0x03 => some .stfI32
  | _ => none

/-- SZ of major 0x1c (R189). -/
def ldqOps (c : Nat) : Option (Scope → Reg → Reg → Bool → BitVec 9 → Instr) :=
  match c with
  | 0x04 => some .ldqW
  | 0x06 => some .ldqD
  | _ => none

/-- SZ of major 0x1d (R189). -/
def stlOps (c : Nat) : Option (Scope → Reg → Reg → Bool → BitVec 9 → Instr) :=
  match c with
  | 0x04 => some .stlW
  | 0x06 => some .stlD
  | _ => none

/-- The M format (R175, R189). -/
def decodeM (t : Nat → Option (Reg → Reg → Bool → BitVec 12 → Instr)) (w : Nat) : Except DecodeErr Instr :=
  match t (fld w 12 3) with
  | some mk =>
    DecodeErr.bind (regNP (fld w 21 5)) fun d => DecodeErr.bind (regNP (fld w 16 5)) fun a =>
    .ok (mk d a (flag w 15) (BitVec.ofNat 12 (fld w 0 12)))
  | none => .error .illegal

/-- The MS format (R175, R189). -/
def decodeMS (t : Nat → Option (Scope → Reg → Reg → Bool → BitVec 9 → Instr)) (w : Nat) :
    Except DecodeErr Instr :=
  match t (fld w 12 3) with
  | some mk =>
    DecodeErr.bind (scopeOf (fld w 9 3)) fun s => DecodeErr.bind (regNP (fld w 21 5)) fun d =>
    DecodeErr.bind (regNP (fld w 16 5)) fun a => .ok (mk s d a (flag w 15) (BitVec.ofNat 9 (fld w 0 9)))
  | none => .error .illegal

/-- SUB[10:4] of AMO (R190). -/
def amoOps (c : Nat) : Option (Bool → Reg → Reg → Reg → Instr) :=
  match c with
  | 0x00 => some .amoAdd
  | 0x01 => some .amoAnd
  | 0x02 => some .amoOr
  | 0x03 => some .amoXor
  | 0x04 => some .amoMin
  | 0x05 => some .amoMax
  | 0x06 => some .amoMinu
  | 0x07 => some .amoMaxu
  | 0x08 => some .amoSwap
  | 0x09 => some .amoCas
  | 0x0a => some .amoFadd
  | 0x0b => some .amoFmaxa
  | _ => none

/-- SUB[10:4] of AMOP (R190). -/
def amopOps (c : Nat) : Option (Bool → Reg → Reg → Instr) :=
  match c with
  | 0x00 => some .amopAdd
  | 0x01 => some .amopAnd
  | 0x02 => some .amopOr
  | 0x03 => some .amopXor
  | 0x04 => some .amopMin
  | 0x05 => some .amopMax
  | 0x06 => some .amopMinu
  | 0x07 => some .amopMaxu
  | 0x0a => some .amopFadd
  | 0x0b => some .amopFmaxa
  | _ => none

/-- AMO (0x20) (R190). -/
def decodeAmo (w : Nat) : Except DecodeErr Instr :=
  match amoOps (fld w 4 7) with
  | some mk =>
    DecodeErr.bind (need (fld w 0 3 == 0)) fun _ => DecodeErr.bind (regNP (fld w 21 5)) fun d =>
    DecodeErr.bind (regNP (fld w 16 5)) fun a => DecodeErr.bind (regNP (fld w 11 5)) fun b =>
    .ok (mk (flag w 3) d a b)
  | none => .error .illegal

/-- AMOP (0x21): D unused (R190). -/
def decodeAmop (w : Nat) : Except DecodeErr Instr :=
  match amopOps (fld w 4 7) with
  | some mk =>
    DecodeErr.bind (need (fld w 0 3 == 0 && fld w 21 5 == 0)) fun _ =>
    DecodeErr.bind (regNP (fld w 16 5)) fun a => DecodeErr.bind (regNP (fld w 11 5)) fun b =>
    .ok (mk (flag w 3) a b)
  | none => .error .illegal

/-- X-format words that name nothing. -/
def xNone (i : Instr) (w : Nat) : Except DecodeErr Instr :=
  DecodeErr.bind (need (fld w 21 5 == 0 && fld w 16 5 == 0 && fld w 11 5 == 0 && fld w 0 3 == 0)) fun _ => .ok i

/-- X-format words that name D. -/
def xD (mk : Reg → Instr) (w : Nat) : Except DecodeErr Instr :=
  DecodeErr.bind (need (fld w 16 5 == 0 && fld w 11 5 == 0 && fld w 0 3 == 0)) fun _ =>
  DecodeErr.bind (regNP (fld w 21 5)) fun d => .ok (mk d)

/-- X-format words that name A. -/
def xA (mk : Reg → Instr) (w : Nat) : Except DecodeErr Instr :=
  DecodeErr.bind (need (fld w 21 5 == 0 && fld w 11 5 == 0 && fld w 0 3 == 0)) fun _ =>
  DecodeErr.bind (regNP (fld w 16 5)) fun a => .ok (mk a)

/-- X-format words that name D and A. -/
def xDA (mk : Reg → Reg → Instr) (w : Nat) : Except DecodeErr Instr :=
  DecodeErr.bind (need (fld w 11 5 == 0 && fld w 0 3 == 0)) fun _ =>
  DecodeErr.bind (regNP (fld w 21 5)) fun d => DecodeErr.bind (regNP (fld w 16 5)) fun a => .ok (mk d a)

/-- X-format words that name D, A and B. -/
def xDAB (mk : Reg → Reg → Reg → Instr) (w : Nat) : Except DecodeErr Instr :=
  DecodeErr.bind (need (fld w 0 3 == 0)) fun _ => DecodeErr.bind (regNP (fld w 21 5)) fun d =>
  DecodeErr.bind (regNP (fld w 16 5)) fun a => DecodeErr.bind (regNP (fld w 11 5)) fun b => .ok (mk d a b)

/-- `spawn` and `spawna`: B holds g0-g15 (R191, R265). -/
def xSpawn (mk : Reg → Reg → Reg → Instr) (w : Nat) : Except DecodeErr Instr :=
  DecodeErr.bind (need (fld w 0 3 == 0)) fun _ => DecodeErr.bind (regNP (fld w 21 5)) fun d =>
  DecodeErr.bind (regNP (fld w 16 5)) fun a => DecodeErr.bind (reg16 (fld w 11 5)) fun b => .ok (mk d a (.g b))

/-- MIG (0x22) (R191). -/
def decodeMig (w : Nat) : Except DecodeErr Instr :=
  match fld w 3 8 with
  | 0 => xA .go w
  | 1 => xNone .pin w
  | 2 => xNone .unpin w
  | 3 => xD .whereI w
  | 4 => xD .hops w
  | _ => .error .illegal

/-- THR (0x23) (R191). -/
def decodeThr (w : Nat) : Except DecodeErr Instr :=
  match fld w 3 8 with
  | 0 => xSpawn .spawn w
  | 1 => xSpawn .spawna w
  | 2 => xNone .exit w
  | 3 => xA .join w
  | 4 => xNone .yield w
  | 5 => xD .next w
  | 6 => xDA .launch w
  | 7 => xDA .taskDec w
  | 8 => xA .taskDecp w
  | 9 => xA .sleep w
  | _ => .error .illegal

/-- The barrier words: A[2:0] the id, A[4:3] zero, S3 the scope (R192). -/
def xBar (mk : Scope → BitVec 3 → Instr) (w : Nat) : Except DecodeErr Instr :=
  DecodeErr.bind (need (fld w 21 5 == 0 && fld w 19 2 == 0 && fld w 11 5 == 0)) fun _ =>
  DecodeErr.bind (barScopeOf (fld w 0 3)) fun s => .ok (mk s (BitVec.ofNat 3 (fld w 16 3)))

/-- Flock words with registers in A and B (R192). -/
def xFlk (mk : BitVec 4 → Reg → Reg → Instr) (b : Nat → Except DecodeErr Reg) (w : Nat) : Except DecodeErr Instr :=
  DecodeErr.bind (need (fld w 25 1 == 0 && fld w 0 3 == 0)) fun _ =>
  DecodeErr.bind (regNP (fld w 16 5)) fun a => DecodeErr.bind (b (fld w 11 5)) fun b =>
  .ok (mk (BitVec.ofNat 4 (fld w 21 4)) a b)

/-- SYNC (0x24) (R192). -/
def decodeSync (w : Nat) : Except DecodeErr Instr :=
  match fld w 3 8 with
  | 0 => xBar .barArv w
  | 1 => xBar .barWait w
  | 2 => xBar .barArd w
  | 3 => xBar .barSync w
  | 4 =>
    DecodeErr.bind (need (fld w 19 2 == 0 && fld w 11 5 == 0)) fun _ =>
    DecodeErr.bind (barScopeOf (fld w 0 3)) fun s => DecodeErr.bind (regNP (fld w 21 5)) fun d =>
    .ok (.barPhase s d (BitVec.ofNat 3 (fld w 16 3)))
  | 8 =>
    DecodeErr.bind (need (fld w 21 5 == 0 && fld w 16 5 == 0 && fld w 11 5 == 0)) fun _ =>
    DecodeErr.bind (scopeOf (fld w 0 3)) fun s => .ok (.fence s)
  | 16 => xFlk .flkJoin regNP w
  | 17 => xFlk .flkLd (fun c => DecodeErr.bind (reg16 c) fun b => .ok (.g b)) w
  | 18 =>
    DecodeErr.bind (need (fld w 25 1 == 0 && fld w 16 5 == 0 && fld w 11 5 == 0 && fld w 0 3 == 0)) fun _ =>
    .ok (.flkLeave (BitVec.ofNat 4 (fld w 21 4)))
  | 19 =>
    DecodeErr.bind (need (fld w 25 1 == 0 && fld w 11 5 == 0 && fld w 0 3 == 0)) fun _ =>
    DecodeErr.bind (regNP (fld w 16 5)) fun a => .ok (.flkTimer (BitVec.ofNat 4 (fld w 21 4)) a)
  | 24 => xNone .leaseAcq w
  | 25 => xD .leaseTry w
  | 26 => xNone .leaseRel w
  | _ => .error .illegal

/-- TILE (0x25) (R193). -/
def decodeTile (w : Nat) : Except DecodeErr Instr :=
  match fld w 3 8 with
  | 0 => xDAB .tileAlloc w
  | 1 => xA .tileFree w
  | 2 => xA .tileFreef w
  | 3 => xDA .tileState w
  | 4 =>
    DecodeErr.bind (need (fld w 21 5 == 0 && fld w 11 5 == 0 && (fld w 0 3 == 1 || fld w 0 3 == 2))) fun _ =>
    DecodeErr.bind (regNP (fld w 16 5)) fun a => .ok (.tileMark a (BitVec.ofNat 3 (fld w 0 3)))
  | _ => .error .illegal

/-- GANG (0x2B) (R193). -/
def decodeGang (w : Nat) : Except DecodeErr Instr :=
  match fld w 3 8 with
  | 0 =>
    DecodeErr.bind (need (fld w 21 5 == 0 && fld w 16 5 == 0 && fld w 11 5 == 0 && decide (fld w 0 3 < 4))) fun _ =>
    .ok (.gangForm (BitVec.ofNat 3 (fld w 0 3)))
  | 1 => xNone .split w
  | _ => .error .illegal

/-- SYS (0x3C) (R194, R236). -/
def decodeSys (w : Nat) : Except DecodeErr Instr :=
  match fld w 3 8 with
  | 0 =>
    DecodeErr.bind (need (fld w 11 5 == 0 && fld w 0 3 == 0)) fun _ => DecodeErr.bind (sregOf (fld w 21 5)) fun n =>
    DecodeErr.bind (regNP (fld w 16 5)) fun a => .ok (.movs n a)
  | 1 =>
    DecodeErr.bind (need (fld w 11 5 == 0 && fld w 0 3 == 0)) fun _ => DecodeErr.bind (regNP (fld w 21 5)) fun d =>
    DecodeErr.bind (sregOf (fld w 16 5)) fun n => .ok (.movfs d n)
  | 2 =>
    DecodeErr.bind (need (fld w 21 5 == 0 && fld w 16 5 == 0 && fld w 11 5 == 0)) fun _ =>
    .ok (.trap (BitVec.ofNat 3 (fld w 0 3)))
  | 3 => xNone .rfe w
  | 4 => xNone .brk w
  | 5 => xD .waitev w
  | 6 => xA .ctxSw w
  | 7 => xA .tlbInv w
  | 8 => xNone .secFlush w
  | 9 => xA .preempt w
  | 10 => xA .resume w
  | _ => .error .illegal

/-- JL (0x28) (R196, R228). -/
def decodeJl (w : Nat) : Except DecodeErr Instr :=
  DecodeErr.bind (regNP (fld w 21 5)) fun d => .ok (.jl d (BitVec.ofNat 21 (fld w 0 21)))

/-- BC (0x29) (R196, R229). -/
def decodeBc (w : Nat) : Except DecodeErr Instr :=
  DecodeErr.bind (brOf (fld w 22 4)) fun c => DecodeErr.bind (regNP (fld w 17 5)) fun a =>
  .ok (.bc c a (flag w 16) (BitVec.ofNat 16 (fld w 0 16)))

/-- JR (0x2A) (R196, R230). -/
def decodeJr (w : Nat) : Except DecodeErr Instr :=
  DecodeErr.bind (regNP (fld w 21 5)) fun d => DecodeErr.bind (regNP (fld w 16 5)) fun a =>
  .ok (.jr d a (flag w 15) (BitVec.ofNat 15 (fld w 0 15)))

/-- REPF (0x2C) (R175, R197). -/
def decodeRepf (w : Nat) : Except DecodeErr Instr :=
  DecodeErr.bind (need (fld w 0 11 == 0)) fun _ =>
  .ok (.repf (BitVec.ofNat 5 (fld w 21 5)) (BitVec.ofNat 4 (fld w 17 4)) (BitVec.ofNat 2 (fld w 15 2))
    (BitVec.ofNat 2 (fld w 13 2)) (BitVec.ofNat 2 (fld w 11 2)))

/-- PREFIX (0x3F): PSUB 0 is `solo` (R198). -/
def decodePre (w : Nat) : Except DecodeErr Instr :=
  if fld w 20 6 = 0 then DecodeErr.bind (need (fld w 0 20 == 0)) fun _ => .ok .solo else .error .illegal

/-- VFN of VINT, two sources (R199). -/
def vintOps (c : Nat) : Option (VTy → Fin 16 → VSrc → VSrc → Fin 8 → Instr) :=
  match c with
  | 0x00 => some .vadd
  | 0x01 => some .vsub
  | 0x02 => some .vmul
  | 0x03 => some .vmulh
  | 0x04 => some .vand
  | 0x05 => some .vor
  | 0x06 => some .vxor
  | 0x07 => some .vandn
  | 0x08 => some .vsll
  | 0x09 => some .vsrl
  | 0x0a => some .vsra
  | 0x0b => some .vmin
  | 0x0c => some .vmax
  | 0x0d => some .vminu
  | 0x0e => some .vmaxu
  | _ => none

/-- VFN of VFLT, two sources (R199). -/
def vfltOps (c : Nat) : Option (VTy → Fin 16 → VSrc → VSrc → Fin 8 → Instr) :=
  match c with
  | 0x00 => some .vfadd
  | 0x01 => some .vfsub
  | 0x02 => some .vfmul
  | 0x03 => some .vfdiv
  | 0x04 => some .vfmin
  | 0x05 => some .vfmax
  | _ => none

/-- VFN of VFLT, unary (R199). -/
def vfltUnary (c : Nat) : Option (VTy → Fin 16 → VSrc → Fin 8 → Instr) :=
  match c with
  | 0x06 => some .vfabs
  | 0x07 => some .vfneg
  | _ => none

/-- VFN of VFMA (R199). -/
def vfmaOps (c : Nat) : Option (VTy → Fin 16 → VSrc → VSrc → Fin 8 → Instr) :=
  match c with
  | 0x00 => some .vfma
  | 0x01 => some .vfms
  | 0x02 => some .vfnma
  | _ => none

/-- VFN of VPERM, reductions (R199). -/
def vredOps (c : Nat) : Option (VTy → Fin 16 → Fin 16 → Fin 8 → Instr) :=
  match c with
  | 0x06 => some .vredAdd
  | 0x07 => some .vredMin
  | 0x08 => some .vredMax
  | _ => none

/-- VFN of VCMP, compares (R199). -/
def vcmpOps (c : Nat) : Option (VTy → Fin 8 → VSrc → VSrc → Fin 8 → Instr) :=
  match c with
  | 0x00 => some .vcmpEq
  | 0x01 => some .vcmpNe
  | 0x02 => some .vcmpLt
  | 0x03 => some .vcmpGe
  | 0x04 => some .vcmpLtu
  | 0x05 => some .vcmpGeu
  | _ => none

/-- `VD VA VB MK` with a vector destination (R288). -/
def vThree (mk : Fin 16 → VSrc → VSrc → Fin 8 → Instr) (w : Nat) : Except DecodeErr Instr :=
  DecodeErr.bind (reg16 (fld w 21 5)) fun d => DecodeErr.bind (vsrcOf (fld w 16 5)) fun a =>
  DecodeErr.bind (vsrcOf (fld w 11 5)) fun b => .ok (mk d a b (mkOf (fld w 8 3)))

/-- Unary vector words: VB is 0 (R288). -/
def vTwo (mk : Fin 16 → VSrc → Fin 8 → Instr) (w : Nat) : Except DecodeErr Instr :=
  DecodeErr.bind (need (fld w 11 5 == 0)) fun _ => DecodeErr.bind (reg16 (fld w 21 5)) fun d =>
  DecodeErr.bind (vsrcOf (fld w 16 5)) fun a => .ok (mk d a (mkOf (fld w 8 3)))

/-- VINT (0x30) (R199). -/
def decodeVint (w : Nat) : Except DecodeErr Instr :=
  match vtyOf (fld w 0 3) with
  | some t =>
    if vtInt t then
      match vintOps (fld w 3 5) with
      | some mk => vThree (mk t) w
      | none => if fld w 3 5 = 15 then vTwo (.vabs t) w else .error .illegal
    else .error .illegal
  | none => .error .illegal

/-- VFLT (0x31) (R199). `vcvt` takes every VT and its source type in VB[2:0] (R291). -/
def decodeVflt (w : Nat) : Except DecodeErr Instr :=
  match vtyOf (fld w 0 3) with
  | some t =>
    if fld w 3 5 = 8 then
      match vtyOf (fld w 11 3) with
      | some st =>
        DecodeErr.bind (need (fld w 14 2 == 0)) fun _ => DecodeErr.bind (reg16 (fld w 21 5)) fun d =>
        DecodeErr.bind (vsrcOf (fld w 16 5)) fun a => .ok (.vcvt t st d a (mkOf (fld w 8 3)))
      | none => .error .illegal
    else if vtFloat t then
      match vfltOps (fld w 3 5) with
      | some mk => vThree (mk t) w
      | none =>
        match vfltUnary (fld w 3 5) with
        | some mk => vTwo (mk t) w
        | none => .error .illegal
    else .error .illegal
  | none => .error .illegal

/-- VFMA (0x32) (R199). -/
def decodeVfma (w : Nat) : Except DecodeErr Instr :=
  match vtyOf (fld w 0 3), vfmaOps (fld w 3 5) with
  | some t, some mk => if vtFloat t then vThree (mk t) w else .error .illegal
  | _, _ => .error .illegal

/-- VPERM (0x34) (R199, R288). -/
def decodeVperm (w : Nat) : Except DecodeErr Instr :=
  match vtyOf (fld w 0 3) with
  | some t =>
    match fld w 3 5 with
    | 0 => vThree (.vshuf t) w
    | 1 => vTwo (.vbcast t) w
    | 2 =>
      DecodeErr.bind (need (fld w 8 3 == 0)) fun _ => DecodeErr.bind (reg32 (fld w 21 5)) fun d =>
      DecodeErr.bind (reg16 (fld w 16 5)) fun a => DecodeErr.bind (reg32 (fld w 11 5)) fun b => .ok (.vext t d a b)
    | 3 =>
      DecodeErr.bind (need (fld w 8 3 == 0)) fun _ => DecodeErr.bind (reg16 (fld w 21 5)) fun d =>
      DecodeErr.bind (reg32 (fld w 16 5)) fun a => DecodeErr.bind (reg32 (fld w 11 5)) fun b => .ok (.vins t d a b)
    | 4 =>
      if t = .i32 then
        DecodeErr.bind (reg16 (fld w 21 5)) fun d => DecodeErr.bind (reg16 (fld w 16 5)) fun a =>
        DecodeErr.bind (reg32 (fld w 11 5)) fun b => .ok (.vnzs d a b (mkOf (fld w 8 3)))
      else .error .illegal
    | 5 => vThree (.vpfx t) w
    | n =>
      match vredOps n with
      | some mk =>
        DecodeErr.bind (need (fld w 11 5 == 0)) fun _ => DecodeErr.bind (reg32 (fld w 21 5)) fun d =>
        DecodeErr.bind (reg16 (fld w 16 5)) fun a => .ok (mk t d a (mkOf (fld w 8 3)))
      | none => .error .illegal
  | none => .error .illegal

/-- VCMP (0x35) (R199, R288). -/
def decodeVcmp (w : Nat) : Except DecodeErr Instr :=
  match vtyOf (fld w 0 3) with
  | some t =>
    match vcmpOps (fld w 3 5) with
    | some mk =>
      if 4 ≤ fld w 3 5 ∧ vtInt t = false then .error .illegal
      else
        DecodeErr.bind (maskOf (fld w 21 5)) fun d => DecodeErr.bind (vsrcOf (fld w 16 5)) fun a =>
        DecodeErr.bind (vsrcOf (fld w 11 5)) fun b => .ok (mk t d a b (mkOf (fld w 8 3)))
    | none =>
      if fld w 3 5 = 8 then DecodeErr.bind (need (fld w 8 3 != 0)) fun _ => vThree (.vsel t) w
      else if t = .i32 then
        match fld w 3 5 with
        | 9 =>
          DecodeErr.bind (need (fld w 8 3 == 0)) fun _ => DecodeErr.bind (maskOf (fld w 21 5)) fun d =>
          DecodeErr.bind (maskOf (fld w 16 5)) fun a => DecodeErr.bind (maskOf (fld w 11 5)) fun b => .ok (.mand d a b)
        | 10 =>
          DecodeErr.bind (need (fld w 8 3 == 0)) fun _ => DecodeErr.bind (maskOf (fld w 21 5)) fun d =>
          DecodeErr.bind (maskOf (fld w 16 5)) fun a => DecodeErr.bind (maskOf (fld w 11 5)) fun b => .ok (.mor d a b)
        | 11 =>
          DecodeErr.bind (need (fld w 8 3 == 0 && fld w 11 5 == 0)) fun _ => DecodeErr.bind (maskOf (fld w 21 5)) fun d =>
          DecodeErr.bind (maskOf (fld w 16 5)) fun a => .ok (.mnot d a)
        | 12 =>
          DecodeErr.bind (need (fld w 8 3 == 0 && fld w 11 5 == 0)) fun _ => DecodeErr.bind (reg32 (fld w 21 5)) fun d =>
          DecodeErr.bind (maskOf (fld w 16 5)) fun a => .ok (.mpopc d a)
        | _ => .error .illegal
      else .error .illegal
  | none => .error .illegal

/-- VMEM modes 0-3: a general register or `z` in B (R300). -/
def vmB (mk : Fin 16 → Fin 16 → Reg → Fin 8 → Instr) (w : Nat) : Except DecodeErr Instr :=
  DecodeErr.bind (need (fld w 0 3 == 0)) fun _ => DecodeErr.bind (reg16 (fld w 21 5)) fun d =>
  DecodeErr.bind (reg16 (fld w 16 5)) fun a => DecodeErr.bind (regNP (fld w 11 5)) fun b =>
  .ok (mk d a b (mkOf (fld w 8 3)))

/-- VMEM modes 4-5: a vector register in B (R300). -/
def vmV (mk : Fin 16 → Fin 16 → Fin 16 → Fin 8 → Instr) (w : Nat) : Except DecodeErr Instr :=
  DecodeErr.bind (need (fld w 0 3 == 0)) fun _ => DecodeErr.bind (reg16 (fld w 21 5)) fun d =>
  DecodeErr.bind (reg16 (fld w 16 5)) fun a => DecodeErr.bind (reg16 (fld w 11 5)) fun b =>
  .ok (mk d a b (mkOf (fld w 8 3)))

/-- VMEM (0x33): MODE and SZ (R200). -/
def decodeVmem (w : Nat) : Except DecodeErr Instr :=
  match vsizeOf (fld w 3 2) with
  | some sz =>
    match fld w 5 3 with
    | 0 => vmB (.vld sz) w
    | 1 => vmB (.vst sz) w
    | 2 => vmB (.vlds sz) w
    | 3 => vmB (.vsts sz) w
    | 4 => vmV (.vgath sz) w
    | 5 => vmV (.vscat sz) w
    | 6 => match sz with
      | .b => vmB .vldt w
      | .h => vmB .vstt w
      | .w => .error .illegal
    | _ => match sz with
      | .b => vmB .vldfF32 w
      | .h => vmB .vldfBf16 w
      | .w => vmB .vldfI32 w
  | none => .error .illegal

/-- One word, by its major (R184). Majors the grid leaves unassigned, and 0x00, are illegal. -/
def decodeNat (w : Nat) : Except DecodeErr Instr :=
  match fld w 26 6 with
  | 0x01 => decodeInt w
  | 0x02 => decodeImm .addi w
  | 0x03 => decodeImm .andi w
  | 0x04 => decodeImm .ori w
  | 0x05 => decodeImm .xori w
  | 0x06 => decodeShi w
  | 0x07 => decodeCmpi w
  | 0x08 => decodeMovi w
  | 0x09 => decodeMovk w
  | 0x0A => decodeImm .muli w
  | 0x10 => decodeFp w
  | 0x11 => decodeFma w
  | 0x12 => decodeFcvt w
  | 0x18 => decodeM ldOps w
  | 0x19 => decodeM stOps w
  | 0x1A => decodeM ldfOps w
  | 0x1B => decodeM stfOps w
  | 0x1C => decodeMS ldqOps w
  | 0x1D => decodeMS stlOps w
  | 0x20 => decodeAmo w
  | 0x21 => decodeAmop w
  | 0x22 => decodeMig w
  | 0x23 => decodeThr w
  | 0x24 => decodeSync w
  | 0x25 => decodeTile w
  | 0x28 => decodeJl w
  | 0x29 => decodeBc w
  | 0x2A => decodeJr w
  | 0x2B => decodeGang w
  | 0x2C => decodeRepf w
  | 0x30 => decodeVint w
  | 0x31 => decodeVflt w
  | 0x32 => decodeVfma w
  | 0x33 => decodeVmem w
  | 0x34 => decodeVperm w
  | 0x35 => decodeVcmp w
  | 0x3C => decodeSys w
  | 0x3F => decodePre w
  | _ => .error .illegal

/-- The instruction of a 32-bit word, or why there is none (R182). -/
def decode (w : W32) : Except DecodeErr Instr := decodeNat w.toNat

/-- Words are stored little-endian (R6, R174): the instruction of the first four bytes, and the rest. -/
def decodeBytes : List Byte → Except DecodeErr (Instr × List Byte)
  | b0 :: b1 :: b2 :: b3 :: rest =>
    DecodeErr.bind (decodeNat (b0.toNat + 256 * b1.toNat + 65536 * b2.toNat + 16777216 * b3.toNat)) fun i => .ok (i, rest)
  | _ => .error .short

/-- The bytes of a word in memory, lowest address first (R6). -/
def wordBytes (w : W32) : List Byte :=
  [w.extractLsb' 0 8, w.extractLsb' 8 8, w.extractLsb' 16 8, w.extractLsb' 24 8]

/-- The table's numbering of an instruction's bits: bit 0 is the least significant of its one word. -/
def decodeTableWord (nbits w : Nat) : Option Instr :=
  match decodeBytes (wordBytes (BitVec.ofNat 32 (w % 2 ^ nbits))) with
  | .ok (i, _) => some i
  | .error _ => none

/-! ## Staggering inside a repeat frame (R233) -/

/-- A general register code moved by k places within g0-g15; any other code stays (R233). -/
def stagG (c n : Nat) : Nat := if c < 16 then (c + n) % 16 else c

/-- A VA or VB code moved within its own name space (R233). -/
def stagV (c n : Nat) : Nat := if c < 16 then (c + n) % 16 else 16 + (c - 16 + n) % 16

/-- The word with its field at lo replaced. -/
def putFld (w lo n v : Nat) : Nat := w - fld w lo n * 2 ^ lo + v % 2 ^ n * 2 ^ lo

/-- Whether the operation of an INT or FP word leaves B unused (R185, R187). -/
def unusedB (w : Nat) : Bool :=
  match fld w 26 6 with
  | 0x01 => (intUnary (fld w 3 8)).isSome
  | 0x10 => fld w 3 6 == 0x3A || fld w 3 6 == 0x3B || fld w 3 6 == 0x3D || (fld w 3 3 == 4 && decide (fld w 6 3 < 5))
  | _ => false

/-- Whether a V-format word leaves VB unused, or holds a type or a mask in it (R199, R233). -/
def unusedVB (w : Nat) : Bool :=
  match fld w 26 6 with
  | 0x30 => fld w 3 5 == 15
  | 0x31 => fld w 3 5 == 6 || fld w 3 5 == 7 || fld w 3 5 == 8
  | 0x34 => fld w 3 5 == 1 || fld w 3 5 == 6 || fld w 3 5 == 7 || fld w 3 5 == 8
  | 0x35 => decide (9 ≤ fld w 3 5)
  | _ => false

/-- The word that issues in execution k of a frame with staggers sd, sa and sb (R233). Mask fields,
immediates, types and MK are never staggered; MOVI and MOVK have no A or B. -/
def stagger (w k sd sa sb : Nat) : Nat :=
  let m := fld w 26 6
  let d := fun w => putFld w 21 5 (stagG (fld w 21 5) (k * sd))
  let a := fun w => putFld w 16 5 (stagG (fld w 16 5) (k * sa))
  let b := fun w => putFld w 11 5 (stagG (fld w 11 5) (k * sb))
  let vd := fun w => putFld w 21 5 (stagV (fld w 21 5) (k * sd))
  let va := fun w => putFld w 16 5 (stagV (fld w 16 5) (k * sa))
  let vb := fun w => putFld w 11 5 (stagV (fld w 11 5) (k * sb))
  if m = 0x01 ∨ m = 0x10 ∨ m = 0x11 then (if unusedB w then a (d w) else b (a (d w)))
  else if m = 0x08 ∨ m = 0x09 then d w
  else if (2 ≤ m ∧ m ≤ 7) ∨ m = 0x0A ∨ m = 0x12 then a (d w)
  else if m = 0x30 ∨ m = 0x31 ∨ m = 0x32 ∨ m = 0x34 then (if unusedVB w then va (vd w) else vb (va (vd w)))
  else if m = 0x35 then
    if 9 ≤ fld w 3 5 then w
    else if fld w 3 5 = 8 then vb (va (vd w))
    else vb (va w)
  else w

/-- Majors that may stand in a repeat frame (R232). -/
def capturable (w : Nat) : Bool :=
  let m := fld w 26 6
  decide (m = 0x01 ∨ (2 ≤ m ∧ m ≤ 0x0A) ∨ m = 0x10 ∨ m = 0x11 ∨ m = 0x12 ∨ m = 0x30 ∨ m = 0x31 ∨ m = 0x32
    ∨ m = 0x34 ∨ m = 0x35)

/-- A register name field that holds a port code or 24 (R232). -/
def portOrZ (c : Nat) : Bool := decide ((16 ≤ c ∧ c ≤ 21) ∨ c = 24)

/-- R232: a captured word is refused when its major may not be captured, or when one of the D, A and B
fields that name a register holds a port or `z`. -/
def frameRefuses (w : Nat) : Bool :=
  let m := fld w 26 6
  if !capturable w then true
  else if m = 0x01 ∨ m = 0x10 ∨ m = 0x11 then
    portOrZ (fld w 21 5) || portOrZ (fld w 16 5) || (!unusedB w && portOrZ (fld w 11 5))
  else if m = 0x08 ∨ m = 0x09 then portOrZ (fld w 21 5)
  else if m ≤ 0x0A ∨ m = 0x12 then portOrZ (fld w 21 5) || portOrZ (fld w 16 5)
  else false

/-! ## The encoder, from the same tables -/

/-- The code of a register name field (R177). -/
def Reg.code : Reg → Nat
  | .g n => n.val
  | .port .qpav => 16
  | .port .qcpy => 17
  | .port .qgln => 18
  | .port .qtrl => 19
  | .port .qmsg => 20
  | .port .qevt => 21
  | .z => 24

/-- The code of VA or VB (R180). -/
def VSrc.code : VSrc → Nat
  | .v n => n.val
  | .g n => 16 + n.val

/-- FN[10:9] (R187). -/
def FFmt.code : FFmt → Nat | .f64 => 0 | .f32 => 1 | .f16 => 2 | .bf16 => 3

/-- FN[8:6] (R187). -/
def Rnd.code : Rnd → Nat | .dyn => 0 | .rne => 1 | .rtz => 2 | .rup => 3 | .rdn => 4

/-- FCVT's type codes (R188). -/
def CvtTy.code : CvtTy → Nat
  | .f64 => 0 | .f32 => 1 | .f16 => 2 | .bf16 => 3 | .f8a => 4 | .f8b => 5 | .l6 => 6 | .i32 => 8 | .i64 => 9
  | .u32 => 10 | .u64 => 11

/-- VT (R199). -/
def VTy.code : VTy → Nat | .i32 => 0 | .f32 => 1 | .f16 => 2 | .bf16 => 3 | .i16 => 4 | .i8 => 5

/-- SZ of VMEM (R200). -/
def VSize.code : VSize → Nat | .b => 0 | .h => 1 | .w => 2

/-- The scope code (R154). -/
def Scope.code : Scope → Nat
  | .core => 0 | .quad => 1 | .die => 2 | .stack => 3 | .mod => 4 | .pod => 5 | .sys => 6

/-- IMM[14:12] of CMPI (R186). -/
def CmpCond.code : CmpCond → Nat | .eq => 0 | .ne => 1 | .lt => 2 | .ge => 3 | .ltu => 4 | .geu => 5

/-- CC (R196). -/
def BrCond.code : BrCond → Nat
  | .eqz => 0 | .nez => 1 | .ltz => 2 | .gez => 3 | .gtz => 4 | .lez => 5 | .odd => 6 | .even => 7

/-- The system register number (R195). -/
def SReg.code : SReg → Nat
  | .tstat => 0 | .tid => 1 | .kid => 2 | .clock => 3 | .units => 4 | .trapcause => 5 | .trapva => 6 | .trappc => 7
  | .ctxbase => 8 | .evtmask => 9 | .shadesel => 10 | .ptroot => 11

/-- The R format (R175). -/
def encR (maj fn d a b ta tb : Nat) : Nat :=
  maj * 2 ^ 26 + d * 2 ^ 21 + a * 2 ^ 16 + b * 2 ^ 11 + fn * 2 ^ 3 + ta * 2 + tb

/-- The I format (R175). -/
def encI (maj d a ta imm : Nat) : Nat := maj * 2 ^ 26 + d * 2 ^ 21 + a * 2 ^ 16 + ta * 2 ^ 15 + imm

/-- The M format (R175). -/
def encM (maj sz d a ta disp : Nat) : Nat :=
  maj * 2 ^ 26 + d * 2 ^ 21 + a * 2 ^ 16 + ta * 2 ^ 15 + sz * 2 ^ 12 + disp

/-- The MS format (R175). -/
def encMS (maj sz s d a ta disp : Nat) : Nat :=
  maj * 2 ^ 26 + d * 2 ^ 21 + a * 2 ^ 16 + ta * 2 ^ 15 + sz * 2 ^ 12 + s * 2 ^ 9 + disp

/-- The X format (R175). -/
def encX (maj sub d a b s3 : Nat) : Nat :=
  maj * 2 ^ 26 + d * 2 ^ 21 + a * 2 ^ 16 + b * 2 ^ 11 + sub * 2 ^ 3 + s3

/-- The V format (R175). -/
def encV (maj vfn vt d a b k : Nat) : Nat :=
  maj * 2 ^ 26 + d * 2 ^ 21 + a * 2 ^ 16 + b * 2 ^ 11 + k * 2 ^ 8 + vfn * 2 ^ 3 + vt

/-- The VM format (R175). -/
def encVM (mode sz d a b k : Nat) : Nat :=
  0x33 * 2 ^ 26 + d * 2 ^ 21 + a * 2 ^ 16 + b * 2 ^ 11 + k * 2 ^ 8 + mode * 2 ^ 5 + sz * 2 ^ 3

/-- The word of an instruction as a number; none for an engine command or an event, which has no word. -/
def encodeNat : Instr → Option Nat
  | .add d a b ta tb => some (encR 0x01 0x00 d.code a.code b.code ta.toNat tb.toNat)
  | .sub d a b ta tb => some (encR 0x01 0x01 d.code a.code b.code ta.toNat tb.toNat)
  | .and d a b ta tb => some (encR 0x01 0x02 d.code a.code b.code ta.toNat tb.toNat)
  | .or d a b ta tb => some (encR 0x01 0x03 d.code a.code b.code ta.toNat tb.toNat)
  | .xor d a b ta tb => some (encR 0x01 0x04 d.code a.code b.code ta.toNat tb.toNat)
  | .andn d a b ta tb => some (encR 0x01 0x05 d.code a.code b.code ta.toNat tb.toNat)
  | .sll d a b ta tb => some (encR 0x01 0x06 d.code a.code b.code ta.toNat tb.toNat)
  | .srl d a b ta tb => some (encR 0x01 0x07 d.code a.code b.code ta.toNat tb.toNat)
  | .sra d a b ta tb => some (encR 0x01 0x08 d.code a.code b.code ta.toNat tb.toNat)
  | .ror d a b ta tb => some (encR 0x01 0x09 d.code a.code b.code ta.toNat tb.toNat)
  | .mul d a b ta tb => some (encR 0x01 0x10 d.code a.code b.code ta.toNat tb.toNat)
  | .mulh d a b ta tb => some (encR 0x01 0x11 d.code a.code b.code ta.toNat tb.toNat)
  | .mulhu d a b ta tb => some (encR 0x01 0x12 d.code a.code b.code ta.toNat tb.toNat)
  | .div d a b ta tb => some (encR 0x01 0x13 d.code a.code b.code ta.toNat tb.toNat)
  | .divu d a b ta tb => some (encR 0x01 0x14 d.code a.code b.code ta.toNat tb.toNat)
  | .rem d a b ta tb => some (encR 0x01 0x15 d.code a.code b.code ta.toNat tb.toNat)
  | .remu d a b ta tb => some (encR 0x01 0x16 d.code a.code b.code ta.toNat tb.toNat)
  | .min d a b ta tb => some (encR 0x01 0x18 d.code a.code b.code ta.toNat tb.toNat)
  | .max d a b ta tb => some (encR 0x01 0x19 d.code a.code b.code ta.toNat tb.toNat)
  | .minu d a b ta tb => some (encR 0x01 0x1a d.code a.code b.code ta.toNat tb.toNat)
  | .maxu d a b ta tb => some (encR 0x01 0x1b d.code a.code b.code ta.toNat tb.toNat)
  | .clz d a ta => some (encR 0x01 0x20 d.code a.code 0 ta.toNat 0)
  | .ctz d a ta => some (encR 0x01 0x21 d.code a.code 0 ta.toNat 0)
  | .popc d a ta => some (encR 0x01 0x22 d.code a.code 0 ta.toNat 0)
  | .brev d a ta => some (encR 0x01 0x23 d.code a.code 0 ta.toNat 0)
  | .bswap d a ta => some (encR 0x01 0x24 d.code a.code 0 ta.toNat 0)
  | .sextB d a ta => some (encR 0x01 0x28 d.code a.code 0 ta.toNat 0)
  | .sextH d a ta => some (encR 0x01 0x29 d.code a.code 0 ta.toNat 0)
  | .sextW d a ta => some (encR 0x01 0x2a d.code a.code 0 ta.toNat 0)
  | .zextB d a ta => some (encR 0x01 0x2c d.code a.code 0 ta.toNat 0)
  | .zextH d a ta => some (encR 0x01 0x2d d.code a.code 0 ta.toNat 0)
  | .zextW d a ta => some (encR 0x01 0x2e d.code a.code 0 ta.toNat 0)
  | .cmpEq d a b ta tb => some (encR 0x01 0x30 d.code a.code b.code ta.toNat tb.toNat)
  | .cmpNe d a b ta tb => some (encR 0x01 0x31 d.code a.code b.code ta.toNat tb.toNat)
  | .cmpLt d a b ta tb => some (encR 0x01 0x32 d.code a.code b.code ta.toNat tb.toNat)
  | .cmpGe d a b ta tb => some (encR 0x01 0x33 d.code a.code b.code ta.toNat tb.toNat)
  | .cmpLtu d a b ta tb => some (encR 0x01 0x34 d.code a.code b.code ta.toNat tb.toNat)
  | .cmpGeu d a b ta tb => some (encR 0x01 0x35 d.code a.code b.code ta.toNat tb.toNat)
  | .selz d a b ta tb => some (encR 0x01 0x38 d.code a.code b.code ta.toNat tb.toNat)
  | .lea d a b ta tb => some (encR 0x01 0x39 d.code a.code b.code ta.toNat tb.toNat)
  | .addi d a ta imm => some (encI 0x02 d.code a.code ta.toNat imm.toNat)
  | .andi d a ta imm => some (encI 0x03 d.code a.code ta.toNat imm.toNat)
  | .ori d a ta imm => some (encI 0x04 d.code a.code ta.toNat imm.toNat)
  | .xori d a ta imm => some (encI 0x05 d.code a.code ta.toNat imm.toNat)
  | .muli d a ta imm => some (encI 0x0a d.code a.code ta.toNat imm.toNat)
  | .slli d a ta n => some (encI 0x06 d.code a.code ta.toNat (0 * 2 ^ 13 + n.toNat))
  | .srli d a ta n => some (encI 0x06 d.code a.code ta.toNat (1 * 2 ^ 13 + n.toNat))
  | .srai d a ta n => some (encI 0x06 d.code a.code ta.toNat (2 * 2 ^ 13 + n.toNat))
  | .rori d a ta n => some (encI 0x06 d.code a.code ta.toNat (3 * 2 ^ 13 + n.toNat))
  | .cmpi c d a ta imm => some (encI 0x07 d.code a.code ta.toNat (c.code * 2 ^ 12 + imm.toNat))
  | .movi d imm => some (0x08 * 2 ^ 26 + d.code * 2 ^ 21 + imm.toNat)
  | .movk d hw imm => some (0x09 * 2 ^ 26 + d.code * 2 ^ 21 + hw.toNat * 2 ^ 19 + imm.toNat)
  | .fadd f r d a b ta tb => some (encR 0x10 (f.code * 2 ^ 6 + r.code * 2 ^ 3 + 0) d.code a.code b.code ta.toNat tb.toNat)
  | .fsub f r d a b ta tb => some (encR 0x10 (f.code * 2 ^ 6 + r.code * 2 ^ 3 + 1) d.code a.code b.code ta.toNat tb.toNat)
  | .fmul f r d a b ta tb => some (encR 0x10 (f.code * 2 ^ 6 + r.code * 2 ^ 3 + 2) d.code a.code b.code ta.toNat tb.toNat)
  | .fdiv f r d a b ta tb => some (encR 0x10 (f.code * 2 ^ 6 + r.code * 2 ^ 3 + 3) d.code a.code b.code ta.toNat tb.toNat)
  | .fsqrt f r d a ta => some (encR 0x10 (f.code * 2 ^ 6 + r.code * 2 ^ 3 + 4) d.code a.code 0 ta.toNat 0)
  | .fcmpEq f d a b ta tb => some (encR 0x10 (f.code * 2 ^ 6 + 6 * 2 ^ 3 + 0) d.code a.code b.code ta.toNat tb.toNat)
  | .fcmpLt f d a b ta tb => some (encR 0x10 (f.code * 2 ^ 6 + 6 * 2 ^ 3 + 1) d.code a.code b.code ta.toNat tb.toNat)
  | .fcmpLe f d a b ta tb => some (encR 0x10 (f.code * 2 ^ 6 + 6 * 2 ^ 3 + 2) d.code a.code b.code ta.toNat tb.toNat)
  | .fcmpUn f d a b ta tb => some (encR 0x10 (f.code * 2 ^ 6 + 6 * 2 ^ 3 + 3) d.code a.code b.code ta.toNat tb.toNat)
  | .fmin f d a b ta tb => some (encR 0x10 (f.code * 2 ^ 6 + 7 * 2 ^ 3 + 0) d.code a.code b.code ta.toNat tb.toNat)
  | .fmax f d a b ta tb => some (encR 0x10 (f.code * 2 ^ 6 + 7 * 2 ^ 3 + 1) d.code a.code b.code ta.toNat tb.toNat)
  | .fabs f d a ta => some (encR 0x10 (f.code * 2 ^ 6 + 7 * 2 ^ 3 + 2) d.code a.code 0 ta.toNat 0)
  | .fneg f d a ta => some (encR 0x10 (f.code * 2 ^ 6 + 7 * 2 ^ 3 + 3) d.code a.code 0 ta.toNat 0)
  | .fsgnj f d a b ta tb => some (encR 0x10 (f.code * 2 ^ 6 + 7 * 2 ^ 3 + 4) d.code a.code b.code ta.toNat tb.toNat)
  | .fclass f d a ta => some (encR 0x10 (f.code * 2 ^ 6 + 7 * 2 ^ 3 + 5) d.code a.code 0 ta.toNat 0)
  | .fma f r d a b ta tb => some (encR 0x11 (f.code * 2 ^ 6 + r.code * 2 ^ 3 + 0) d.code a.code b.code ta.toNat tb.toNat)
  | .fms f r d a b ta tb => some (encR 0x11 (f.code * 2 ^ 6 + r.code * 2 ^ 3 + 1) d.code a.code b.code ta.toNat tb.toNat)
  | .fnma f r d a b ta tb => some (encR 0x11 (f.code * 2 ^ 6 + r.code * 2 ^ 3 + 2) d.code a.code b.code ta.toNat tb.toNat)
  | .fnms f r d a b ta tb => some (encR 0x11 (f.code * 2 ^ 6 + r.code * 2 ^ 3 + 3) d.code a.code b.code ta.toNat tb.toNat)
  | .fcvt tt st r d a ta => some (encR 0x12 (tt.code * 2 ^ 4 + r.code * 2) d.code a.code st.code ta.toNat 0)
  | .ldB d a ta disp => some (encM 0x18 0 d.code a.code ta.toNat disp.toNat)
  | .ldBz d a ta disp => some (encM 0x18 1 d.code a.code ta.toNat disp.toNat)
  | .ldH d a ta disp => some (encM 0x18 2 d.code a.code ta.toNat disp.toNat)
  | .ldHz d a ta disp => some (encM 0x18 3 d.code a.code ta.toNat disp.toNat)
  | .ldW d a ta disp => some (encM 0x18 4 d.code a.code ta.toNat disp.toNat)
  | .ldWz d a ta disp => some (encM 0x18 5 d.code a.code ta.toNat disp.toNat)
  | .ldD d a ta disp => some (encM 0x18 6 d.code a.code ta.toNat disp.toNat)
  | .stB d a ta disp => some (encM 0x19 0 d.code a.code ta.toNat disp.toNat)
  | .stH d a ta disp => some (encM 0x19 2 d.code a.code ta.toNat disp.toNat)
  | .stW d a ta disp => some (encM 0x19 4 d.code a.code ta.toNat disp.toNat)
  | .stD d a ta disp => some (encM 0x19 6 d.code a.code ta.toNat disp.toNat)
  | .ldfF32 d a ta disp => some (encM 0x1a 0 d.code a.code ta.toNat disp.toNat)
  | .ldfBf16 d a ta disp => some (encM 0x1a 1 d.code a.code ta.toNat disp.toNat)
  | .ldfF64 d a ta disp => some (encM 0x1a 2 d.code a.code ta.toNat disp.toNat)
  | .ldfI32 d a ta disp => some (encM 0x1a 3 d.code a.code ta.toNat disp.toNat)
  | .stfF32 d a ta disp => some (encM 0x1b 0 d.code a.code ta.toNat disp.toNat)
  | .stfBf16 d a ta disp => some (encM 0x1b 1 d.code a.code ta.toNat disp.toNat)
  | .stfF64 d a ta disp => some (encM 0x1b 2 d.code a.code ta.toNat disp.toNat)
  | .stfI32 d a ta disp => some (encM 0x1b 3 d.code a.code ta.toNat disp.toNat)
  | .ldqW sc d a ta disp => some (encMS 0x1c 4 sc.code d.code a.code ta.toNat disp.toNat)
  | .ldqD sc d a ta disp => some (encMS 0x1c 6 sc.code d.code a.code ta.toNat disp.toNat)
  | .stlW sc d a ta disp => some (encMS 0x1d 4 sc.code d.code a.code ta.toNat disp.toNat)
  | .stlD sc d a ta disp => some (encMS 0x1d 6 sc.code d.code a.code ta.toNat disp.toNat)
  | .amoAdd dbl d a b => some (encX 0x20 (0 * 2 + dbl.toNat) d.code a.code b.code 0)
  | .amoAnd dbl d a b => some (encX 0x20 (1 * 2 + dbl.toNat) d.code a.code b.code 0)
  | .amoOr dbl d a b => some (encX 0x20 (2 * 2 + dbl.toNat) d.code a.code b.code 0)
  | .amoXor dbl d a b => some (encX 0x20 (3 * 2 + dbl.toNat) d.code a.code b.code 0)
  | .amoMin dbl d a b => some (encX 0x20 (4 * 2 + dbl.toNat) d.code a.code b.code 0)
  | .amoMax dbl d a b => some (encX 0x20 (5 * 2 + dbl.toNat) d.code a.code b.code 0)
  | .amoMinu dbl d a b => some (encX 0x20 (6 * 2 + dbl.toNat) d.code a.code b.code 0)
  | .amoMaxu dbl d a b => some (encX 0x20 (7 * 2 + dbl.toNat) d.code a.code b.code 0)
  | .amoSwap dbl d a b => some (encX 0x20 (8 * 2 + dbl.toNat) d.code a.code b.code 0)
  | .amoCas dbl d a b => some (encX 0x20 (9 * 2 + dbl.toNat) d.code a.code b.code 0)
  | .amoFadd dbl d a b => some (encX 0x20 (10 * 2 + dbl.toNat) d.code a.code b.code 0)
  | .amoFmaxa dbl d a b => some (encX 0x20 (11 * 2 + dbl.toNat) d.code a.code b.code 0)
  | .amopAdd dbl a b => some (encX 0x21 (0 * 2 + dbl.toNat) 0 a.code b.code 0)
  | .amopAnd dbl a b => some (encX 0x21 (1 * 2 + dbl.toNat) 0 a.code b.code 0)
  | .amopOr dbl a b => some (encX 0x21 (2 * 2 + dbl.toNat) 0 a.code b.code 0)
  | .amopXor dbl a b => some (encX 0x21 (3 * 2 + dbl.toNat) 0 a.code b.code 0)
  | .amopMin dbl a b => some (encX 0x21 (4 * 2 + dbl.toNat) 0 a.code b.code 0)
  | .amopMax dbl a b => some (encX 0x21 (5 * 2 + dbl.toNat) 0 a.code b.code 0)
  | .amopMinu dbl a b => some (encX 0x21 (6 * 2 + dbl.toNat) 0 a.code b.code 0)
  | .amopMaxu dbl a b => some (encX 0x21 (7 * 2 + dbl.toNat) 0 a.code b.code 0)
  | .amopFadd dbl a b => some (encX 0x21 (10 * 2 + dbl.toNat) 0 a.code b.code 0)
  | .amopFmaxa dbl a b => some (encX 0x21 (11 * 2 + dbl.toNat) 0 a.code b.code 0)
  | .go a => some (encX 0x22 0 0 a.code 0 0)
  | .pin => some (encX 0x22 1 0 0 0 0)
  | .unpin => some (encX 0x22 2 0 0 0 0)
  | .whereI d => some (encX 0x22 3 d.code 0 0 0)
  | .hops d => some (encX 0x22 4 d.code 0 0 0)
  | .spawn d a b => some (encX 0x23 0 d.code a.code b.code 0)
  | .spawna d a b => some (encX 0x23 1 d.code a.code b.code 0)
  | .exit => some (encX 0x23 2 0 0 0 0)
  | .join a => some (encX 0x23 3 0 a.code 0 0)
  | .yield => some (encX 0x23 4 0 0 0 0)
  | .next d => some (encX 0x23 5 d.code 0 0 0)
  | .launch d a => some (encX 0x23 6 d.code a.code 0 0)
  | .taskDec d a => some (encX 0x23 7 d.code a.code 0 0)
  | .taskDecp a => some (encX 0x23 8 0 a.code 0 0)
  | .sleep a => some (encX 0x23 9 0 a.code 0 0)
  | .barArv sc id => some (encX 0x24 0 0 id.toNat 0 sc.code)
  | .barWait sc id => some (encX 0x24 1 0 id.toNat 0 sc.code)
  | .barArd sc id => some (encX 0x24 2 0 id.toNat 0 sc.code)
  | .barSync sc id => some (encX 0x24 3 0 id.toNat 0 sc.code)
  | .barPhase sc d id => some (encX 0x24 4 d.code id.toNat 0 sc.code)
  | .fence sc => some (encX 0x24 8 0 0 0 sc.code)
  | .flkJoin grp a b => some (encX 0x24 16 grp.toNat a.code b.code 0)
  | .flkLd grp a b => some (encX 0x24 17 grp.toNat a.code b.code 0)
  | .flkLeave grp => some (encX 0x24 18 grp.toNat 0 0 0)
  | .flkTimer grp a => some (encX 0x24 19 grp.toNat a.code 0 0)
  | .leaseAcq => some (encX 0x24 24 0 0 0 0)
  | .leaseTry d => some (encX 0x24 25 d.code 0 0 0)
  | .leaseRel => some (encX 0x24 26 0 0 0 0)
  | .tileAlloc d a b => some (encX 0x25 0 d.code a.code b.code 0)
  | .tileFree a => some (encX 0x25 1 0 a.code 0 0)
  | .tileFreef a => some (encX 0x25 2 0 a.code 0 0)
  | .tileState d a => some (encX 0x25 3 d.code a.code 0 0)
  | .tileMark a st => some (encX 0x25 4 0 a.code 0 st.toNat)
  | .gangForm n => some (encX 0x2b 0 0 0 0 n.toNat)
  | .split => some (encX 0x2b 1 0 0 0 0)
  | .movs n a => some (encX 0x3c 0 n.code a.code 0 0)
  | .movfs d n => some (encX 0x3c 1 d.code n.code 0 0)
  | .trap n => some (encX 0x3c 2 0 0 0 n.toNat)
  | .rfe => some (encX 0x3c 3 0 0 0 0)
  | .brk => some (encX 0x3c 4 0 0 0 0)
  | .waitev d => some (encX 0x3c 5 d.code 0 0 0)
  | .ctxSw a => some (encX 0x3c 6 0 a.code 0 0)
  | .tlbInv a => some (encX 0x3c 7 0 a.code 0 0)
  | .secFlush => some (encX 0x3c 8 0 0 0 0)
  | .preempt a => some (encX 0x3c 9 0 a.code 0 0)
  | .resume a => some (encX 0x3c 10 0 a.code 0 0)
  | .jl d disp => some (0x28 * 2 ^ 26 + d.code * 2 ^ 21 + disp.toNat)
  | .bc c a ta disp => some (0x29 * 2 ^ 26 + c.code * 2 ^ 22 + a.code * 2 ^ 17 + ta.toNat * 2 ^ 16 + disp.toNat)
  | .jr d a ta imm => some (encI 0x2A d.code a.code ta.toNat imm.toNat)
  | .repf count len sd sa sb => some (0x2C * 2 ^ 26 + count.toNat * 2 ^ 21 + len.toNat * 2 ^ 17 + sd.toNat * 2 ^ 15 + sa.toNat * 2 ^ 13 + sb.toNat * 2 ^ 11)
  | .solo => some (0x3F * 2 ^ 26)
  | .vadd t d a b k => some (encV 0x30 0 t.code d.val a.code b.code k.val)
  | .vsub t d a b k => some (encV 0x30 1 t.code d.val a.code b.code k.val)
  | .vmul t d a b k => some (encV 0x30 2 t.code d.val a.code b.code k.val)
  | .vmulh t d a b k => some (encV 0x30 3 t.code d.val a.code b.code k.val)
  | .vand t d a b k => some (encV 0x30 4 t.code d.val a.code b.code k.val)
  | .vor t d a b k => some (encV 0x30 5 t.code d.val a.code b.code k.val)
  | .vxor t d a b k => some (encV 0x30 6 t.code d.val a.code b.code k.val)
  | .vandn t d a b k => some (encV 0x30 7 t.code d.val a.code b.code k.val)
  | .vsll t d a b k => some (encV 0x30 8 t.code d.val a.code b.code k.val)
  | .vsrl t d a b k => some (encV 0x30 9 t.code d.val a.code b.code k.val)
  | .vsra t d a b k => some (encV 0x30 10 t.code d.val a.code b.code k.val)
  | .vmin t d a b k => some (encV 0x30 11 t.code d.val a.code b.code k.val)
  | .vmax t d a b k => some (encV 0x30 12 t.code d.val a.code b.code k.val)
  | .vminu t d a b k => some (encV 0x30 13 t.code d.val a.code b.code k.val)
  | .vmaxu t d a b k => some (encV 0x30 14 t.code d.val a.code b.code k.val)
  | .vabs t d a k => some (encV 0x30 15 t.code d.val a.code 0 k.val)
  | .vfadd t d a b k => some (encV 0x31 0 t.code d.val a.code b.code k.val)
  | .vfsub t d a b k => some (encV 0x31 1 t.code d.val a.code b.code k.val)
  | .vfmul t d a b k => some (encV 0x31 2 t.code d.val a.code b.code k.val)
  | .vfdiv t d a b k => some (encV 0x31 3 t.code d.val a.code b.code k.val)
  | .vfmin t d a b k => some (encV 0x31 4 t.code d.val a.code b.code k.val)
  | .vfmax t d a b k => some (encV 0x31 5 t.code d.val a.code b.code k.val)
  | .vfabs t d a k => some (encV 0x31 6 t.code d.val a.code 0 k.val)
  | .vfneg t d a k => some (encV 0x31 7 t.code d.val a.code 0 k.val)
  | .vcvt tt st d a k => some (encV 0x31 8 tt.code d.val a.code st.code k.val)
  | .vfma t d a b k => some (encV 0x32 0 t.code d.val a.code b.code k.val)
  | .vfms t d a b k => some (encV 0x32 1 t.code d.val a.code b.code k.val)
  | .vfnma t d a b k => some (encV 0x32 2 t.code d.val a.code b.code k.val)
  | .vshuf t d a b k => some (encV 0x34 0 t.code d.val a.code b.code k.val)
  | .vbcast t d a k => some (encV 0x34 1 t.code d.val a.code 0 k.val)
  | .vext t d a b => some (encV 0x34 2 t.code (16 + d.val) a.val (16 + b.val) 0)
  | .vins t d a b => some (encV 0x34 3 t.code d.val (16 + a.val) (16 + b.val) 0)
  | .vnzs d a b k => some (encV 0x34 4 0 d.val a.val (16 + b.val) k.val)
  | .vpfx t d a b k => some (encV 0x34 5 t.code d.val a.code b.code k.val)
  | .vredAdd t d a k => some (encV 0x34 6 t.code (16 + d.val) a.val 0 k.val)
  | .vredMin t d a k => some (encV 0x34 7 t.code (16 + d.val) a.val 0 k.val)
  | .vredMax t d a k => some (encV 0x34 8 t.code (16 + d.val) a.val 0 k.val)
  | .vcmpEq t d a b k => some (encV 0x35 0 t.code d.val a.code b.code k.val)
  | .vcmpNe t d a b k => some (encV 0x35 1 t.code d.val a.code b.code k.val)
  | .vcmpLt t d a b k => some (encV 0x35 2 t.code d.val a.code b.code k.val)
  | .vcmpGe t d a b k => some (encV 0x35 3 t.code d.val a.code b.code k.val)
  | .vcmpLtu t d a b k => some (encV 0x35 4 t.code d.val a.code b.code k.val)
  | .vcmpGeu t d a b k => some (encV 0x35 5 t.code d.val a.code b.code k.val)
  | .vsel t d a b k => some (encV 0x35 8 t.code d.val a.code b.code k.val)
  | .mand d a b => some (encV 0x35 9 0 d.val a.val b.val 0)
  | .mor d a b => some (encV 0x35 10 0 d.val a.val b.val 0)
  | .mnot d a => some (encV 0x35 11 0 d.val a.val 0 0)
  | .mpopc d a => some (encV 0x35 12 0 (16 + d.val) a.val 0 0)
  | .vld sz d a b k => some (encVM 0 sz.code d.val a.val b.code k.val)
  | .vst sz d a b k => some (encVM 1 sz.code d.val a.val b.code k.val)
  | .vlds sz d a b k => some (encVM 2 sz.code d.val a.val b.code k.val)
  | .vsts sz d a b k => some (encVM 3 sz.code d.val a.val b.code k.val)
  | .vgath sz d a b k => some (encVM 4 sz.code d.val a.val b.val k.val)
  | .vscat sz d a b k => some (encVM 5 sz.code d.val a.val b.val k.val)
  | .vldt d a b k => some (encVM 6 0 d.val a.val b.code k.val)
  | .vstt d a b k => some (encVM 6 1 d.val a.val b.code k.val)
  | .vldfF32 d a b k => some (encVM 7 0 d.val a.val b.code k.val)
  | .vldfBf16 d a b k => some (encVM 7 1 d.val a.val b.code k.val)
  | .vldfI32 d a b k => some (encVM 7 2 d.val a.val b.code k.val)
  | .instructionFetch _ _ => none
  | .longLatencyResult _ => none
  | .loadReply _ => none
  | .dataReturnRequest _ => none
  | .storePerform _ _ => none
  | .atomicPerform _ => none
  | .postedOperation _ => none
  | .pageWalk _ _ => none
  | .faultQueueRetry _ => none
  | .retry _ _ => none
  | .deny _ _ => none
  | .tlbInvalidateRequest _ => none
  | .spreadEntryFetch _ => none
  | .undeliveredReturn _ => none
  | .fenceMarker _ => none
  | .departure _ _ => none
  | .migrationArrival _ => none
  | .migrationRetry _ => none
  | .spillRingTakeFrame _ => none
  | .pinExpiry _ _ => none
  | .longWaitUnbind _ _ => none
  | .frameReadyBind _ => none
  | .repeatFrameEnd _ _ => none
  | .launchAccept _ => none
  | .launchStart _ _ => none
  | .launchCompletion _ _ => none
  | .joinCellIncrement _ => none
  | .joinCellDecrement _ => none
  | .joinComplete _ _ => none
  | .dependentTaskDecrement _ => none
  | .nextRescan _ _ => none
  | .gangFormation _ => none
  | .barrierPhaseComplete _ => none
  | .sleepExpiry _ _ => none
  | .shadeTableRefresh _ _ _ => none
  | .thermalStep _ => none
  | .sensorFailure _ _ => none
  | .leaseRearbitration _ => none
  | .mma _ => none
  | .sheafFwd _ => none
  | .sheafBwd _ => none
  | .copy2d _ => none
  | .copyIdx _ => none
  | .expand24 _ => none
  | .compact24 _ => none
  | .convert _ => none
  | .fill _ => none
  | .gather _ => none
  | .gatherPool _ => none
  | .scatterAdd _ => none
  | .chain _ => none
  | .route _ => none
  | .walk _ => none
  | .walkerStepLimit _ => none
  | .engineCommandStart _ => none
  | .engineCommandComplete _ => none
  | .messageDelivery _ => none
  | .messageRetry _ => none
  | .eventRetry _ => none
  | .flockRequest _ => none
  | .flockTimerExpiry _ _ => none
  | .flockLateWindowEnd _ _ => none
  | .rehomeGranule _ _ => none
  | .epochBoundary _ => none
  | .reductionStepMerge _ _ => none
  | .reductionStepTimeout _ _ _ => none
  | .trapQueueEntry _ _ => none
  | .patrolScrub _ => none
  | .moduleLost _ => none
  | .hedgerowPortFailure _ _ => none
  | .cxlMemWrite _ _ _ _ => none
  | .cxlMemRead _ _ _ => none
  | .boot _ _ => none
  | .fwload _ _ => none
  | .fallowSet _ _ => none
  | .fallowClear _ _ => none
  | .baradd _ _ => none
  | .ptrootWrite _ _ _ => none
  | .reductionWindowWrite _ _ _ _ => none
  | .registerWindowWrite _ _ _ => none
  | .roceSend _ _ _ => none
  | .roceRdmaWrite _ _ _ _ _ => none
  | .roceRdmaRead _ _ _ _ _ => none
  | .roceAtomicNak _ _ => none
  | .powerGood _ _ => none
  | .i3cEntdaa _ _ => none
  | .i3cRead _ _ => none
  | .mgmtFirmwareLoad _ _ _ => none
  | .mgmtRead _ _ => none
  | .powerLoss _ => none
  | .ideKeyProgramming _ => none
  | .hedgerowLinkTraining _ _ => none
  | .linkLevelRetry _ _ => none
  | .soloResultArrival _ => none

/-- The word of an instruction (R174-R200); none for an engine command or an event. -/
def encode (i : Instr) : Option W32 := (encodeNat i).map (BitVec.ofNat 32)

end Sys2Proof
end

