-- ==== Sys2Proof/Machine/Bits.lean ====
section
/-! DEFINITION. Bit fields, sign extension and byte order (00_scope R6, R9, R10). -/

namespace Sys2Proof.Machine

/-- x[lo+n-1:lo] as a number (R9). -/
def bitsOf (x lo n : Nat) : Nat := x / 2 ^ lo % 2 ^ n

/-- Field [lo+n-1:lo] of a word as a number. -/
def fieldOf (w : Word) (lo n : Nat) : Nat := bitsOf w.toNat lo n

/-- Bit i of a word. -/
def bitOf (w : Word) (i : Nat) : Bool := w.getLsbD i

/-- The word with field [lo+n-1:lo] replaced by the low n bits of v. -/
def setField (w : Word) (lo n v : Nat) : Word :=
  (w &&& ~~~(BitVec.ofNat 64 ((2 ^ n - 1) * 2 ^ lo))) ||| BitVec.ofNat 64 (v % 2 ^ n * 2 ^ lo)

/-- sext(x, n) of R10 as a 64-bit word. -/
def sext (n : Nat) (x : Word) : Word := (x.setWidth n).signExtend 64

/-- zext(x, n) of R10 as a 64-bit word. -/
def zext (n : Nat) (x : Word) : Word := (x.setWidth n).setWidth 64

/-- The n low bytes of x, least significant first (R6). -/
def bytesOf : Nat → Nat → List Byte
  | 0, _ => []
  | n + 1, x => BitVec.ofNat 8 x :: bytesOf n (x / 256)

/-- Bytes read little-endian (R6). -/
def ofBytes : List Byte → Nat
  | [] => 0
  | b :: r => b.toNat + 256 * ofBytes r

/-- The n bytes of a list from offset o; a list that ends early reads zero. -/
def sliceBytes (l : List Byte) (o n : Nat) : List Byte :=
  (l.drop o).take n ++ List.replicate (n - (l.length - o)) 0

/-- The little-endian number in n bytes from offset o. -/
def numAt (l : List Byte) (o n : Nat) : Nat := ofBytes (sliceBytes l o n)

/-- ceil(a / b). -/
def ceilDiv (a b : Nat) : Nat := (a + b - 1) / b

/-- Two's-complement reading of the low n bits of x. -/
def toSigned (n x : Nat) : Int :=
  let y := x % 2 ^ n
  if 2 * y < 2 ^ n then (y : Int) else (y : Int) - (2 ^ n : Nat)

/-- The low n bits of an integer (R9). -/
def ofInt (n : Nat) (x : Int) : Nat := (x % ((2 ^ n : Nat) : Int)).toNat

/-- The list with entry i replaced; unchanged when i is past its end. -/
def setAt {α : Type} : List α → Nat → α → List α
  | [], _, _ => []
  | _ :: r, 0, y => y :: r
  | x :: r, n + 1, y => x :: setAt r n y

/-- The list without its entry i. -/
def dropAt {α : Type} : List α → Nat → List α
  | [], _ => []
  | _ :: r, 0 => r
  | x :: r, n + 1 => x :: dropAt r n

/-- The position of the first element with p. -/
def findAt {α : Type} (p : α → Bool) : List α → Option Nat
  | [] => none
  | x :: r => if p x then some 0 else (findAt p r).map (· + 1)

/-- Replace each element with p by its image. -/
def mapIf {α : Type} (p : α → Bool) (f : α → α) (l : List α) : List α := l.map fun x => if p x then f x else x

end Sys2Proof.Machine
end

