-- ==== Sys2Proof/Machine/Flags.lean ====
section
/-! DEFINITION. The conditions that instructions test. The part keeps no flag register: a compare writes 1 or 0 to
its destination (R217, R219) and a branch tests a register (R229). -/

namespace Sys2Proof.Machine

open Sys2Proof

/-- The compares of R217 and R219. -/
def cmpHolds (c : CmpCond) (a b : Word) : Bool :=
  match c with
  | .eq => a == b
  | .ne => a != b
  | .lt => a.slt b
  | .ge => b.sle a
  | .ltu => a.ult b
  | .geu => b.ule a

/-- The branch conditions of R229. -/
def brHolds (c : BrCond) (a : Word) : Bool :=
  match c with
  | .eqz => a == 0
  | .nez => a != 0
  | .ltz => a.slt 0
  | .gez => (0#64).sle a
  | .gtz => (0#64).slt a
  | .lez => a.sle 0
  | .odd => a.getLsbD 0
  | .even => !a.getLsbD 0

/-- 1 or 0 (R217). -/
def ofBool (b : Bool) : Word := if b then 1 else 0

end Sys2Proof.Machine
end

