-- ==== Sys2Proof/Config.lean ====
section
/-! DEFINITION. What an implementation fixes and what the manual leaves free. A free value has no
body, so no proof can rest on what it is (log entries 4, 5, 9, 15, 16, 31, 34, 36). -/

namespace Sys2Proof.Config

/-- The byte that stands after an engine command was ended inside a row or block: R318 allows the old
or the new byte. The argument is a plain counter (State.nextId) and the byte's place. Log entry 15. -/
opaque keepsOld : Nat → Nat → Bool

/-- What stands in a byte of the row or block in progress when an engine's read fails there: R318 allows the old
byte or the new one, and the new one may rest on the byte that could not be read. Log entry 15. -/
opaque rowByte : Nat → Nat → Byte

/-- Whether the Bothy's ECDSA check accepts the image at this place (R380). The manual gives no
arithmetic for it that the model could run; the verdict is free. Log entry 16. -/
opaque imageGood : Nat → Nat → Bool

/-- The physical location that event 0x13 names for a doubleword: the manual gives the word no layout (R360, R362).
Log entry 34. -/
opaque scrubPlace : Nat → Word

/-- Word 1 of event 0x41, which the manual counts and does not describe (R360). The argument is a plain counter
(State.nextId). Log entry 36. -/
opaque lostWord : Nat → Word

/-- Whether an L2 slice gives up, at this clk, the sector that holds this memory byte, to make room: replacement rests on the
sets' other lines (R138). Log entry 9. -/
opaque evicts : Nat → Nat → Bool

/-- The row that CLAMP puts in place of an index where the bound is 0 and no row exists (R340, R346). The argument is the
index. Log entry 31. -/
opaque clampEmpty : Nat → Nat

/-- The word address that the Bothy writes to ctxbase at bring-up (R240): the manual states no value.
Log entry 5 (DESIGN CHOICE, unsafe). -/
def ctxbaseReset : Word := 0

/-- The stamp of "the device's position outside a pod": module 0 (R18). -/
def loneModule : Nat := 0

/-- The default step limit of a walker (R350). -/
def walkerLimit : Nat := 2 ^ 24

end Sys2Proof.Config
end

