-- ==== Sys2Proof/Machine/State.lean ====
section
/-! DEFINITION. The state of the machine as plain data: everything the manual names, for every module of
the pod, and the model's own bookkeeping (State.turns, cur, note, net, words, evq, nextId, outs). A register lives in
one place; things that come in large numbers are held sparsely, by number, with a default for those not
listed. INVENTORY.md lists each piece with its rule and its reset value. -/

namespace Sys2Proof.Machine

open Sys2Proof

/-- A sparse table from numbers, in rising order of the keys; an unlisted number holds the default that the
reader names. -/
abbrev SMap (α : Type) := List (Nat × α)

/-- The entry of number k, or d. -/
def SMap.get {α : Type} (m : SMap α) (d : α) (k : Nat) : α :=
  match m with
  | [] => d
  | (j, x) :: r => if j = k then x else SMap.get r d k

/-- The table with entry k replaced or inserted in its place. -/
def SMap.put {α : Type} (m : SMap α) (k : Nat) (x : α) : SMap α :=
  match m with
  | [] => [(k, x)]
  | (j, y) :: r =>
    if j = k then (k, x) :: r else if k < j then (k, x) :: (j, y) :: r else (j, y) :: SMap.put r k x

/-- Whether number k is listed. -/
def SMap.has {α : Type} (m : SMap α) (k : Nat) : Bool := m.any fun e => e.1 == k

/-! ## Names of small things -/

/-- The trap causes of R357. -/
inductive Cause where
  | illegalOpcode | reservedField | privilege | registerEmpty | poison | misaligned | formatSplit
  | translation | protection | remoteDenied | rangeLocked | uncorrectable | barrierOverArrival
  | depUnderflow | tileStale | frameIllegal | gangDiverge | lease | flock | bounds | trap | break
  deriving DecidableEq, Repr

/-- The code of a cause (R357). -/
def Cause.code : Cause → Nat
  | .illegalOpcode => 0x01 | .reservedField => 0x02 | .privilege => 0x03 | .registerEmpty => 0x04
  | .poison => 0x05 | .misaligned => 0x06 | .formatSplit => 0x07 | .translation => 0x08 | .protection => 0x09
  | .remoteDenied => 0x0A | .rangeLocked => 0x0B | .uncorrectable => 0x0C | .barrierOverArrival => 0x0D
  | .depUnderflow => 0x0E | .tileStale => 0x0F | .frameIllegal => 0x10 | .gangDiverge => 0x11 | .lease => 0x12
  | .flock => 0x13 | .bounds => 0x14 | .trap => 0x15 | .break => 0x16

/-- The fault reasons of R128. -/
inductive Reason where
  | notPresent | permission | badEntry | fallow
  deriving DecidableEq, Repr

/-- The code of a reason (R128). -/
def Reason.code : Reason → Nat | .notPresent => 0 | .permission => 1 | .badEntry => 2 | .fallow => 3

/-- The reasons of an error record (R361). -/
inductive RecReason where
  | deny | lock | uncorrectable | message | underflow | undelivered | handler | hostAtomic | area | isol
  deriving DecidableEq, Repr

/-- The code of an error-record reason (R361). -/
def RecReason.code : RecReason → Nat
  | .deny => 0 | .lock => 1 | .uncorrectable => 2 | .message => 3 | .underflow => 4 | .undelivered => 5
  | .handler => 6 | .hostAtomic => 7 | .area => 8 | .isol => 9

/-- The operations of AMO and AMOP (R261). -/
inductive AmoOp where
  | add | and | or | xor | min | max | minu | maxu | swap | cas | fadd | fmaxa
  deriving DecidableEq, Repr

/-- The types of LDF, STF and VLDF (R257, R305). -/
inductive DecTy where
  | f32 | bf16 | f64 | i32
  deriving DecidableEq, Repr

/-- The engines that take commands from a port (R28, R315), with their numbers. -/
inductive Eng where
  | pavilion (p : Nat)
  | barrow (q : Nat)
  | gleaner (l : Loc)
  | trellis (q : Nat)
  deriving DecidableEq, Repr

/-- The ports that have a sequence counter (R307). -/
inductive EPort where
  | pav | cpy | gln | trl
  deriving DecidableEq, Repr

/-- What a thread in a long wait waits for (R44). `displaced` waits to leave for the core that R76 chose, with the
end of a `sleep` that it was in and, for an anchored thread, the frame reserved there; `queued` found its home's
fault queue full and looks again at a clk (R127). -/
inductive Wait where
  | join (va : Word)
  | next
  | bar (sc : Scope) (id : Nat)
  | lease
  | sleep (till : Nat)
  | waitev
  | tile (slot : Nat)
  | popPort (p : Port)
  | pushPort (p : Port)
  | depart (va : Word) (isGo : Bool)
  | displaced (dest : Loc) (till : Option Nat) (frame : Option Nat)
  | gang (n : Nat)
  | parked (h : Home) (va : Word)
  | lanes
  | queued (again : Nat)
  deriving DecidableEq, Repr

/-- The answer to an instruction that holds its slot for its home's reply. `again va` says that the
thread's task store buffer has to drain before the request for va is made again (R68); `buffer` gives the bytes that an
idempotent task's `stf` buffers, and `restore va y` has y stored there after a drain. -/
inductive Ans where
  | val (w : Word)
  | bytes (b : List Byte)
  | poison
  | fail (c : Cause) (va : Word)
  | vec (v : BitVec 512)
  | again (va : Word)
  | buffer (va : Word) (b : List Byte)
  | restore (va y : Word)
  deriving DecidableEq, Repr

/-- Where the one request of a slot-holding instruction stands; `lanes` is a vector access that has done
the lanes below `lane` (log entry 13). -/
inductive Pend where
  | idle
  | sent (id : Nat)
  | got (a : Ans)
  | lanes (lane : Nat) (acc : BitVec 512)
  deriving DecidableEq, Repr

/-- One engine port of a thread (R307): the sequence counter, the commands pushed and not yet popped, and
the completion words waiting to be popped, each with the VA that a BOUNDS trap of R340 would name. -/
structure PortSt where
  seq : W32 := 0
  opened : Nat := 0
  words : List (Word × Option Word) := []
  deriving DecidableEq, Repr

/-- A task entry (R59), with the launch it is tagged with, the core that issued it and the packet number of its issue
(R169). -/
structure Task where
  pc : Word := 0
  idem : Bool := false
  anch : Bool := false
  jc : Word := 0
  a0 : Word := 0
  a1 : Word := 0
  launch : W32 := 0
  lmod : Nat := 0
  src : Loc := 0
  seq : Nat := 0
  deriving DecidableEq, Repr

/-- A buffered store: where, how wide, what, whose; `rel` is the scope of an `stl`, `phys` the bank byte of a store
at the issuing core, and `tile` says that it is a tile's, which is not translated (R304). -/
structure SEntry where
  id : Nat
  va : Word
  size : Nat
  v : Word
  home : Home
  key : Nat
  uid : Nat
  user : Bool
  launch : W32
  lmod : Nat
  rel : Option Scope := none
  checked : Bool := false
  phys : Option Nat := none
  tile : Bool := false
  deriving DecidableEq, Repr

/-- A waiting trap, with the clk at which it was raised (R356). -/
structure TrapEntry where
  frame : Nat
  cause : Cause
  va : Word
  pc : Word
  tcode : Nat
  clk : Nat := 0
  deriving DecidableEq, Repr

/-- What has bad parity in a frame's register arrays (R362): general registers, vector registers, masks, and the bytes of pc,
`tstat`, the full and the poison bits. -/
structure Parity where
  g : BitVec 16 := 0
  v : BitVec 16 := 0
  m : BitVec 8 := 0
  ctl : Bool := false
  deriving DecidableEq, Repr

/-- A context frame and the resident thread it holds (R41, R42), with what the device keeps beside it. `hist` is the
migration history, newest first, each with the instructions retired since; `m` has masks at 1-7 and entry 0 is
not used; `pinDue` and `rfDue` say that a pin or a repeat frame has just run out (R50, R234); `word` is the
instruction that the thread issued last, which goes on while its request is under way; `par` is what an error in the
register arrays has spoilt. `late` are writes of the frame window (byte offset, bytes, value) that wait for the end of the
instruction under way (R358), and `shed` says that R76 displaces the thread at that end. -/
structure Frame where
  used : Bool := false
  uid : Nat := 0
  g : Vector Word 16 := Vector.replicate 16 0
  full : BitVec 16 := 0xFFFF
  poisoned : BitVec 16 := 0
  launch : W32 := 0
  lmod : Nat := 0
  pc : Word := 0
  tstat : Word := 0
  jcell : Word := 0
  hops : BitVec 16 := 0
  hist : List (Loc × W32) := []
  v : Vector (BitVec 512) 16 := Vector.replicate 16 0
  m : Vector (BitVec 16) 8 := Vector.replicate 8 0
  pav : PortSt := {}
  cpy : PortSt := {}
  gln : PortSt := {}
  trl : PortSt := {}
  wait : Option Wait := none
  since : Nat := 0
  pend : Pend := .idle
  path : List Home := []
  pathDies : List DieId := []
  pinOther : Option Loc := none
  origin : Loc := 0
  index : Nat := 0
  bounds : Option Word := none
  kept : Option TrapEntry := none
  away : Bool := false
  vbusy : BitVec 16 := 0
  task : Option Task := none
  pinDue : Bool := false
  rfDue : Bool := false
  word : Option W32 := none
  par : Parity := {}
  late : List (Nat × Nat × Nat) := []
  shed : Bool := false
  deriving DecidableEq, Repr

/-- What a packet carries (R21): a request to a home, a reply on its way, a marker, a message or a thread. `tlbInv n` belongs
to the instruction whose wait has number n. A `probe` stores nothing: it asks for the bytes that an idempotent task is to
buffer (R68). -/
inductive PKind where
  | load (size : Nat) (sgn : Bool) (d : Option (Fin 16)) (acq : Option Scope)
  | store (size : Nat) (v : Word)
  | word (v : Word)
  | amo (op : AmoOp) (dbl : Bool) (b d : Word)
  | post (op : AmoOp) (dbl : Bool) (b : Word)
  | ldf (t : DecTy)
  | stf (t : DecTy) (v : Word) (probe : Bool)
  | record
  | taskDec (ret : Bool)
  | joinInc
  | joinDec
  | lane (d : Fin 16) (j size : Nat)
  | vldf (t : DecTy) (act : BitVec 16)
  | hot (x : Nat)
  | hotTest (e q least : Nat) (total : Word) (th : Home) (desc : Word)
  | marker (sc : Scope)
  | tlbInv (n : Nat)
  | flock (grp mem cnt len tile gen : Nat) (die : DieId)
  | spread
  | result (d : Fin 16) (v : Word) (bad long : Bool) (acq : Option Scope)
  | vresult (d : Fin 16) (v : BitVec 512)
  | soloG (d : Fin 16) (v : Word) (bad : Bool)
  | soloV (d : Fin 16) (v : BitVec 512)
  | migrate (fr : Frame)
  | displace (fr : Frame) (slot : Nat)
  | ready (tile gen status : Nat)
  | msg (v : Word)
  deriving DecidableEq, Repr

/-- A packet in flight: who sent it, on whose behalf, to which home, and for which address. `ticket` is that of
R49, `retryAt` the clk of the next retry of a refused packet, `via` the homes that forwarded it, latest first (R132), `fan` the
gang members that get a copy of a result (R73); `replay` marks a caught packet that a core replays (R368), and `others`
are the further launches whose operations a merged packet carries (R58, R167). `asked` is the number of the request that a
reply answers (R156). -/
structure Pkt where
  id : Nat
  kind : PKind
  src : Loc
  key : Nat
  uid : Nat
  user : Bool := true
  launch : W32 := 0
  lmod : Nat := 0
  home : Home
  va : Word := 0
  via : List Home := []
  ticket : Option W32 := none
  refused : Bool := false
  retryAt : Nat := 0
  fan : List Nat := []
  replay : Bool := false
  others : List (W32 × Nat) := []
  asked : Nat := 0
  deriving DecidableEq, Repr

/-- A parked item (R126). -/
inductive Parked where
  | thread (key : Nat)
  | fetch (key : Nat)
  | request (p : Pkt)
  | engine (cmd : Nat)
  | flock (hold : Nat)
  | task (t : Task) (slotCore : Loc)
  deriving DecidableEq, Repr

/-- An entry of a fault queue (R126): its index, its fault page, its reason and the item. -/
structure FEntry where
  idx : Nat
  base : Nat
  size : Nat
  reason : Reason
  item : Parked
  va : Word
  deriving DecidableEq, Repr

/-- A cached translation (R124): the page, and its leaf as it was read. -/
structure TlbEntry where
  base : Nat
  size : Nat
  pte : Word
  writes : Nat := 0
  writer : Option DieId := none
  deriving DecidableEq, Repr

/-- A 256-byte sector of a fallow core's bank that a slice's L2 holds (R25, R130, R138): its first bank byte, the pages
(base and size) through which it was reached, and whether it is dirty. Its bytes stand in memory at the sector's own
numbers (log entry 9). -/
structure Sector where
  key : Nat
  pages : List (Nat × Nat)
  dirty : Bool := false
  deriving DecidableEq, Repr

/-- What a home holds beside the data: its TLB, its fault queue, and the L2 sectors of pages in fallow cores (R124, R126,
R130). -/
structure HomeSt where
  tlb : List TlbEntry := []
  faults : List FEntry := []
  l2 : List Sector := []
  deriving DecidableEq, Repr

/-- An instruction word in a slot's buffer (R170), with the local-store bytes it was read from. -/
structure IWord where
  va : Word
  phys : Nat
  w : W32
  deriving DecidableEq, Repr

/-- A barrel slot (R43), its instruction buffer (R170), captured repeat frame (R232) and task store buffer (R68). `next`
is the first clk at which it may issue again (R45); `draining` says that the task store buffer's stores are on their way to
the core's store buffer, as it has room (R68, R152). -/
structure Slot where
  enabled : Bool := true
  bound : Option Nat := none
  ibuf : List IWord := []
  rf : Option (List W32) := none
  tsb : List SEntry := []
  next : Nat := 0
  draining : Bool := false
  deriving DecidableEq, Repr

/-- A linked entry of a ready queue, with the launch it is tagged with: a record by its VA (R66, R67), or with `task` an
entry linked without a record (R68). -/
structure RTag where
  launch : W32
  lmod : Nat
  va : Word := 0
  task : Option Task := none
  deriving DecidableEq, Repr

/-- A level of a ready queue (R66, R67): its entries in the order in which they are linked. -/
structure RQueue where
  tags : List RTag := []
  deriving DecidableEq, Repr

/-- A tile-table entry (R139) with its allocating launch, and whether `tile.mark` set its STATE 1 (R140, R282). -/
structure Tile where
  base : BitVec 22 := 0
  gen : BitVec 10 := 0
  rows : BitVec 9 := 0
  cols : BitVec 9 := 0
  fmt : BitVec 6 := 0
  state : BitVec 2 := 0
  status : BitVec 6 := 0
  launch : W32 := 0
  lmod : Nat := 0
  marked : Bool := false
  deriving DecidableEq, Repr

/-- A thermal step taken by a core, most recent first in its list (R76, R77). -/
inductive HeatStep where
  | slot (n : Nat)
  | gang (id : Nat)
  deriving DecidableEq, Repr

/-- A core beside its frames. Each word of `qevt` says whether it is an event's code word (R247, R360). -/
structure Core where
  slots : Vector Slot 8 := Vector.replicate 8 {}
  rr : Nat := 0
  fifo : List Nat := []
  sb : List SEntry := []
  deque : List Task := []
  ready : Vector RQueue 4 := Vector.replicate 4 {}
  spill : List Pkt := []
  ticketNext : W32 := 0
  tickets : List W32 := []
  nispill : List Pkt := []
  tiles : SMap Tile := []
  msgs : List Word := []
  qevt : List (Word × Bool) := []
  trapq : List TrapEntry := []
  serving : Option Nat := none
  retFrame : Option Nat := none
  trapcause : Word := 0
  trapva : Word := 0
  trappc : Word := 0
  ctxbase : Word := Config.ctxbaseReset
  evtmask : Word := 0xFFFF
  sel : BitVec 8 := 0
  spread : List (W32 × Nat × Nat × Word) := []
  fallow : Bool := false
  heat : List HeatStep := []
  deriving DecidableEq, Repr

/-- A core die beside its cores: `ptroot` (R119), HOT and the threshold in force since the last 50 µs step (R242), the
Shade table and its sensors (R75, R242, R369, R370; `broken` are those that have failed, `failed` those whose event has
been posted too), the list of moved spread leaves (R133), SUPCORE (R374) and the topology of each core (R30, R31). -/
structure Die where
  ptroot : Word := 0
  hot : BitVec 7 := 105
  threshold : BitVec 7 := 105
  reading : SMap Int := []
  samples : List (List (BitVec 12)) := []
  powers : List Nat := []
  broken : BitVec 64 := 0
  failed : BitVec 64 := 0
  dfix : Bool := false
  slow : Bool := false
  skipped : List Nat := []
  moved : List Nat := []
  supcore : BitVec 8 := 0
  topo : SMap Nat := []
  deriving DecidableEq, Repr

/-- The fields of a launch record (R53). -/
structure LRec where
  entry : Word := 0
  count : Nat := 0
  kind : Nat := 0
  prio : Nat := 0
  topo : Nat := 0
  order : Nat := 0
  smask : BitVec 16 := 0
  dmask : BitVec 8 := 0
  x0 : Nat := 0
  y0 : Nat := 0
  x1 : Nat := 0
  y1 : Nat := 0
  argp : Word := 0
  args : List Word := []
  caddr : Word := 0
  flags : Nat := 0
  cap : Nat := 0
  spread : Word := 0
  save : Word := 0
  sbase : Word := 0
  sbytes : Nat := 0
  zeros : Bool := true
  deriving DecidableEq, Repr

/-- Where a launch stands (R54-R58, R251, R252). -/
inductive LStatus where
  | pending | held | running | preempted | done
  deriving DecidableEq, Repr

/-- A launch of the pod; `placed` are its threads with the cores R57 placed them on, `exited` those that
ended (barrier membership, R273, R275), `src` the core that issued it (R169). `order` is the packet number of its
acceptance. -/
structure Launch where
  id : W32
  mod : Nat
  order : Nat
  lr : LRec
  status : LStatus := .pending
  super : Bool := false
  live : Nat := 0
  tasks : Nat := 0
  errs : Nat := 0
  first : Option Nat := none
  placed : List (Nat × Loc) := []
  exited : List Nat := []
  saved : List (Nat × Nat × Nat) := []
  src : Option Loc := none
  deriving DecidableEq, Repr

/-- A barrier (R273, R274): `arrived` holds each arrived member with the packet number its release looks back
from (R160), `ards` those that leave at the end of the phase, `joining` members from the next phase (R374). -/
structure Barrier where
  launch : W32
  lmod : Nat
  sc : Scope
  inst : Nat
  id : Nat
  phase : W32 := 0
  members : List Nat := []
  arrived : List (Nat × Nat) := []
  ards : List Nat := []
  joining : List Nat := []
  deriving DecidableEq, Repr

/-- A gang, or the reserved rectangle it forms on (R69-R74, R284); `next` is the first clk at which it may issue
again (R74). -/
structure Gang where
  id : Nat
  die : DieId
  x : Nat
  y : Nat
  size : Nat
  launch : W32
  lmod : Nat
  formed : Bool := false
  members : List Nat := []
  interval : Nat := 4
  next : Nat := 0
  deriving DecidableEq, Repr

/-- A Pavilion lease (R79, R80); waiters are frame keys. `saving` is a save write of the Pavilion that is parked, by its
number, and whether a DENY has refused it (R367). -/
structure Lease where
  holder : Option Nat := none
  left : Nat := 0
  last : Nat := 0
  waiters : List Nat := []
  saved : List (Nat × Nat) := []
  saving : Option (Nat × Bool) := none
  deriving DecidableEq, Repr

/-- A value pushed to an engine and not yet accepted (R307, R312). `parked` while its block read waits on a
fault, `held` while its launch is pre-empted (R364). `refused` is the home whose full fault queue turned its access away,
the clk of the next try, and the packet number of that time (R127). -/
structure Push where
  id : Nat
  eng : Eng
  v : Word
  src : Loc
  key : Nat
  uid : Nat
  user : Bool
  seq : W32
  launch : W32
  lmod : Nat
  parked : Bool := false
  failVA : Option Word := none
  held : Bool := false
  refused : Option (Home × Nat × Nat) := none
  deriving DecidableEq, Repr

/-- Where an accepted command stands. -/
inductive CPhase where
  | waiting
  | parked
  | saved
  | done (status : Nat) (detail : Nat)
  deriving DecidableEq, Repr

/-- A range that a command locks (R142): addresses, or bytes of a bank (a tile). -/
inductive Rng where
  | va (lo len : Nat)
  | bank (l : Loc) (lo len : Nat)
  deriving DecidableEq, Repr

/-- A registered range lock (R142, R143); `cmd` names the command or Flock load that holds it, `homes` the homes
that the range touches, and `bank` the ranges of memory numbers that its bytes in a core's banks have. -/
structure Lock where
  cmd : Nat
  dst : Bool
  rng : Rng
  homes : List Home := []
  bank : List (Nat × Nat) := []
  deriving DecidableEq, Repr

/-- A tile that a command names: the core of its table, its slot and generation, and whether it is written. -/
structure TileRef where
  loc : Loc
  slot : Nat
  gen : Nat
  dst : Bool
  deriving DecidableEq, Repr

/-- A walker's registers, cursors, word index, and open tiles (R351, R354). -/
structure Walker where
  regs : List Nat
  x0 : Nat := 0
  x1 : Nat := 0
  idx : Nat := 0
  opened : List Nat := []
  deriving DecidableEq, Repr

/-- Where a walk stands between two of its words: the walker, the steps left of its limit, and the last word it executed
(R352, log entry 45). -/
structure WalkAt where
  walker : Walker
  left : Nat
  last : Nat
  deriving DecidableEq, Repr

/-- An output block of a Pavilion command in progress (R104, R106, R367): the next k-chunk, and what each partial that is
not EMPTY holds for the block's elements, row by row, as A48 or I48. -/
structure BlockAt where
  chunk : Nat := 0
  parts : List (Option (List (BitVec 48))) := []
  deriving DecidableEq, Repr

/-- An accepted engine command (R312-R318). `mask` and `exact` are its active layer mask and order mode, fixed when it
begins; `version` names the descriptor and slot whose in-flight count it raised (R339); `failVA` is the access it is
parked at, or the index entry of R340; `since` is the clk at which its work ended or paused, and `walk` where a walk goes
on. `wrote` counts the rows or blocks that it has written and `det` holds the detail bits that are due (R318); `dropped`
says that a closed region refused a write of it (R313); `plan` holds its positions once they are resolved (R340). `cells`,
`amax` and `restore` are a Pavilion's: the block in progress, the greatest abs-max pattern so far, and whether its save
record is still to be read back (R367, R368). `refused` is the home whose full fault queue turned its access away, the
clk of the next try, and the packet number of that time (R127). -/
structure Cmd where
  id : Nat
  eng : Eng
  code : Nat
  va : Word
  block : List Byte
  src : Loc
  key : Nat
  uid : Nat
  user : Bool
  seq : W32
  launch : W32
  lmod : Nat
  phase : CPhase := .waiting
  tiles : List TileRef := []
  begun : Bool := false
  mask : Nat := 0
  version : Option (Word × Nat) := none
  failVA : Option Word := none
  since : Nat := 0
  walk : Option WalkAt := none
  exact : Bool := false
  wrote : Nat := 0
  det : Nat := 0
  dropped : Bool := false
  plan : Option (List (Option Nat)) := none
  cells : Option BlockAt := none
  amax : Nat := 0
  restore : Bool := false
  refused : Option (Home × Nat × Nat) := none
  deriving DecidableEq, Repr

/-- A Flock group of a launch on a die (R144). -/
structure FGroup where
  launch : W32
  lmod : Nat
  die : DieId
  grp : Nat
  mask : Word
  enrolled : List (Nat × Nat) := []
  timer : Nat := 8
  deriving DecidableEq, Repr

/-- A Flock load request at its home (R145): which member, and the tile it fills. -/
structure FReq where
  mem : Nat
  loc : Loc
  tile : Nat
  gen : Nat
  lock : Nat
  user : Bool
  deriving DecidableEq, Repr

/-- An open hold, or after its timer served it the window in which later requests are LATE (R146, R147). `status` is
what its delivery writes: not DONE for a request that is served alone. `retryAt` is the clk of the next try when its home's
fault queue was full (R127). -/
structure Hold where
  id : Nat
  home : Home
  launch : W32
  lmod : Nat
  die : DieId
  grp : Nat
  va : Word
  len : Nat
  cnt : Nat
  members : List FReq := []
  ends : Nat := 0
  left : Option Nat := none
  period : Nat := 0
  late : Bool := false
  status : Nat := 0
  retryAt : Nat := 0
  deriving DecidableEq, Repr

/-- An operation waiting in a reduction window's step (R167). -/
structure RedOp where
  step : Nat
  mod : Nat
  va : Word
  op : AmoOp
  dbl : Bool
  v : Word
  pkt : Pkt
  deriving DecidableEq, Repr

/-- A reduction window of a module's register window (R166, R167, R374). -/
structure RWindow where
  base : Word := 0
  pages : W32 := 0
  ty : BitVec 8 := 0
  enable : Bool := false
  closing : Bool := false
  mask : BitVec 256 := 0
  steps : SMap Nat := []
  ops : List RedOp := []
  closed : List (Nat × Nat × Nat) := []
  deriving DecidableEq, Repr

/-- A module: power, bring-up status, register window, firmware, links and management ports
(R374-R378, R380, R383). `ibi` is an in-band interrupt that waits for the I3C port's address, `silent` the clk
since which the module does not answer. Region i of `regions` is a die of the module, a partition offset and a
length; `recvs` are the posted receives of the queue pairs, each a region, and `cq` the completion entries. `epoch` is
the clk at which `clock` read 0 (R238), and `epochAt` that of the next 16 ms boundary (R133). -/
structure Module where
  power : Bool := true
  lost : Bool := false
  ready : Bool := true
  step : Nat := 8
  fail : Bool := false
  failStack : Nat := 0
  failDie : Nat := 0
  failKind : Nat := 0
  fwwait : Bool := false
  mbox : Word := 0
  bootState : Nat := 0
  bootId : W32 := 0
  fallowState : Nat := 0
  baradd : Word := 0
  windows : Vector RWindow 16 := Vector.replicate 16 {}
  part : Part := {}
  epoch : Nat := 0
  epochAt : Nat := 32000000
  portsDown : BitVec 32 := 0
  inRetry : BitVec 32 := 0
  trained : Bool := false
  ideKeyed : Bool := false
  i3cAddr : Option (BitVec 7) := none
  ibi : Bool := true
  silent : Option Nat := none
  regions : List (Nat × Nat × Nat) := []
  recvs : List (Nat × Nat) := []
  cq : List (Nat × Nat) := []
  counters : Vector (BitVec 28) 16 := Vector.replicate 16 1
  deriving DecidableEq, Repr

/-- An event held at its source (R360); `src` numbers the source, `dest` is the core whose `qevt` gets it and `retryAt`
the clk of the source's next retry. -/
structure Event where
  src : Nat
  dest : Loc
  words : List Word
  retryAt : Nat := 0
  deriving DecidableEq, Repr

/-- Who moves at a turn (log entry 1): a core issues from one of its slots, or an event takes place. -/
inductive Who where
  | issue (loc : Loc)
  | event (i : Instr)
  deriving DecidableEq, Repr

/-- One turn: how many clk pass before it, at least one (log entry 2), and who moves. -/
structure Turn where
  clks : Nat := 1
  who : Who
  deriving DecidableEq, Repr

/-- The thread in issue. `fan` are the gang members that get copies of its results under `solo` (R73). -/
structure Cur where
  loc : Loc := 0
  frame : Nat := 0
  slot : Nat := 0
  fan : List Nat := []
  deriving DecidableEq, Repr

/-- What the last turn did; `held` says that an instruction has issued and holds its slot for an answer. -/
inductive Note where
  | idle | retired | held | waiting | trapped | moved
  deriving DecidableEq, Repr

/-- What the outside was shown (host reads, replies on Ethernet and the management ports). -/
inductive Out where
  | hostRead (v : Word)
  | hostPoison
  | refused
  | roce (qp : Nat) (data : List Byte)
  | nak (qp : Nat)
  | reading (v : Word)
  | ibi (m : Nat)
  deriving DecidableEq, Repr

/-- The whole machine. -/
structure State where
  mem : List Host.Cell := []
  bad : List Nat := []
  frames : SMap Frame := []
  cores : SMap Core := []
  homes : SMap HomeSt := []
  dies : SMap Die := []
  mods : SMap Module := [(Config.loneModule, {})]
  launches : List Launch := []
  barriers : List Barrier := []
  gangs : List Gang := []
  leases : SMap Lease := []
  pushes : List Push := []
  cmds : List Cmd := []
  locks : List Lock := []
  fgroups : List FGroup := []
  holds : List Hold := []
  net : List Pkt := []
  words : List (Home × Nat × Bool) := []
  evq : List Event := []
  clk : Nat := 0
  cur : Cur := {}
  note : Note := .idle
  nextId : Nat := 1
  turns : List Turn := []
  outs : List Out := []
  deriving DecidableEq, Repr

/-- How a step can stop the machine. -/
inductive Fault where
  /-- Raised by Machine.step when no module of the pod has power and no turn is left: nothing runs without power
  (R380). Safe: nothing is claimed of a machine that is switched off. -/
  | powerOff
  deriving DecidableEq, Repr

/-- How the model turns an instruction away. -/
inductive Refusal where
  /-- Raised by an arm of Machine.exec for an instruction whose meaning is not written. Safe: the model stops. -/
  | notModelled (mnemonic : String)
  deriving DecidableEq, Repr

/-- The machine right after bring-up: READY is 1, module 0 stands alone with a complete part, no launch has
started, memory lists nothing, and no turn is scheduled (R7, R375, R380; log entries 4, 5, 7, 8). -/
def State.reset : State := {}

end Sys2Proof.Machine
end

