-- ==== Sys2Proof/Machine/Ops.lean ====
section
/-! DEFINITION. The named operations over memory, frames, cores, launches and packets, taking a trap and
returning from one, retiring an instruction, and issuing for a thread or a gang. Every meaning goes through
them. -/

namespace Sys2Proof.Machine

open Sys2Proof

/-! ## Memory: one list of bytes in canonical form -/

/-- Bytes of a die's DRAM partition (R26). -/
def partBytes : Nat := 24 * 2 ^ 30

/-- The number under which memory keeps byte o of a die's DRAM partition. -/
def dramKey (d : DieId) (o : Nat) : Nat := d * 2 ^ 35 + o
/-- The number of byte o of a core's banks (R23). -/
def bankKey (l : Loc) (o : Nat) : Nat := 2 ^ 60 + l * 2 ^ 22 + o
/-- The number of byte a of the host memory behind module m's CXL port (R115). -/
def hostKey (m : Nat) (a : Nat) : Nat := 2 ^ 61 + m * 2 ^ 52 + a

/-- The number of the byte that a slice's L2 holds for byte a of a core's bank (R130, R138; log entry 9). -/
def cacheKey (a : Nat) : Nat := a + 2 ^ 62

/-- What an unlisted byte reads as: zero (R380 step 7), and the presence map of a complete part in the top
64 KiB frame of each C0 partition (R34; log entries 4, 6). -/
def memDefault (a : Nat) : Byte :=
  if a < 2 ^ 60 ∧ a / 2 ^ 35 % 4 = 0 ∧ partBytes - 65536 ≤ a % 2 ^ 35 ∧ a % 2 ^ 35 < partBytes then
    let o := a % 2 ^ 35 - (partBytes - 65536)
    if o < 64 then 0x1F else if o < 320 then 1 else if o < 448 then 0xFF else 0
  else 0

namespace Memory

/-- The byte at a. -/
def get (m : List Host.Cell) (a : Nat) : Byte :=
  match m with
  | [] => memDefault a
  | (k, b) :: r => if k = a then b else get r a

/-- Memory with byte a set to v, in canonical form. -/
def set (m : List Host.Cell) (a : Nat) (v : Byte) : List Host.Cell :=
  match m with
  | [] => if v = memDefault a then [] else [(a, v)]
  | (k, b) :: r =>
    if k = a then (if v = memDefault a then r else (a, v) :: r)
    else if a < k then (if v = memDefault a then (k, b) :: r else (a, v) :: (k, b) :: r)
    else (k, b) :: set r a v

/-- Rising addresses above lo, and no entry equal to what an unlisted address reads as. -/
def wfAbove (lo : Nat) (m : List Host.Cell) : Bool :=
  match m with
  | [] => true
  | (k, b) :: r => decide (lo ≤ k) && b != memDefault k && wfAbove (k + 1) r

/-- The canonical form of memory. -/
def wf (m : List Host.Cell) : Bool := wfAbove 0 m

/-- n bytes from a. -/
def read (m : List Host.Cell) (a : Nat) : Nat → List Byte
  | 0 => []
  | n + 1 => get m a :: read m (a + 1) n

/-- The bytes written from a. -/
def write (m : List Host.Cell) (a : Nat) : List Byte → List Host.Cell
  | [] => m
  | b :: r => write (set m a b) (a + 1) r

end Memory

/-- n bytes of the machine's memory from key a. -/
def State.bytes (s : State) (a n : Nat) : List Byte := Memory.read s.mem a n

/-- The little-endian number in n bytes from key a (R6). -/
def State.num (s : State) (a n : Nat) : Nat := ofBytes (s.bytes a n)

/-- Some byte of [a, a+n) lies in an uncorrectable doubleword (R362). -/
def State.isBad (s : State) (a n : Nat) : Bool := s.bad.any fun d => decide (d * 8 < a + n ∧ a < d * 8 + 8)

/-- The words of a slot's buffer that a write to [a, a+n) discards (R170). -/
def Slot.snoop (a n : Nat) (x : Slot) : Slot :=
  { x with ibuf := x.ibuf.filter fun e => !decide (e.phys < a + n ∧ a < e.phys + 4) }

/-- The bytes written to memory. Doublewords covered whole get fresh check bits (R254), and a write to a core's
bank discards the instruction words buffered from there (R170). -/
def State.poke (s : State) (a : Nat) (b : List Byte) : State :=
  let n := b.length
  { s with
    mem := Memory.write s.mem a b
    bad := s.bad.filter fun d => !decide (a ≤ d * 8 ∧ d * 8 + 8 ≤ a + n)
    cores := if 2 ^ 60 ≤ a ∧ a < 2 ^ 61 then
        s.cores.map fun c => (c.1, { c.2 with slots := c.2.slots.map (Slot.snoop a n) })
      else s.cores }

/-! ## Frames and what `tstat` says -/

/-- The number of frame f of a core; f = 32 is the handler frame (R355). -/
def keyOf (l : Loc) (f : Nat) : Nat := l * 64 + f
/-- The core of a frame number. -/
def keyLoc (k : Nat) : Loc := k / 64
/-- The frame within its core. -/
def keyFrame (k : Nat) : Nat := k % 64

/-- A frame that no thread has used; the handler frame starts supervisor and anchored (R355). -/
def frameDefault (k : Nat) : Frame := if k % 64 = 32 then { tstat := 3, uid := 2 ^ 60 + k } else {}

/-- Frame number k. -/
def State.frame (s : State) (k : Nat) : Frame := s.frames.get (frameDefault k) k
/-- The state with frame k replaced. -/
def State.setFrame (s : State) (k : Nat) (f : Frame) : State := { s with frames := s.frames.put k f }
/-- The state with frame k changed. -/
def State.updFrame (s : State) (k : Nat) (h : Frame → Frame) : State := s.setFrame k (h (s.frame k))

/-- A core. -/
def State.core (s : State) (l : Loc) : Core := s.cores.get {} l
/-- The state with a core changed. -/
def State.updCore (s : State) (l : Loc) (h : Core → Core) : State :=
  { s with cores := s.cores.put l (h (s.core l)) }
/-- A die. -/
def State.die (s : State) (d : DieId) : Die := s.dies.get {} d
/-- The state with a die changed. -/
def State.updDie (s : State) (d : DieId) (h : Die → Die) : State := { s with dies := s.dies.put d (h (s.die d)) }

/-- The number of a home in State.homes. -/
def homeKey : Home → Nat
  | .slice d q => d * 64 + q
  | .core l => 2 ^ 32 + l
  | .cxl m => 2 ^ 33 + m

/-- What a home holds. -/
def State.home (s : State) (h : Home) : HomeSt := s.homes.get {} (homeKey h)
/-- The state with a home changed. -/
def State.updHome (s : State) (h : Home) (f : HomeSt → HomeSt) : State :=
  { s with homes := s.homes.put (homeKey h) (f (s.home h)) }
/-- A module of the pod. -/
def State.module (s : State) (m : Nat) : Module := s.mods.get { power := false } m
/-- The state with a module changed. -/
def State.updModule (s : State) (m : Nat) (f : Module → Module) : State :=
  { s with mods := s.mods.put m (f (s.module m)) }
/-- A Pavilion's lease. -/
def State.lease (s : State) (p : Nat) : Lease := s.leases.get {} p
/-- The state with a lease changed. -/
def State.updLease (s : State) (p : Nat) (f : Lease → Lease) : State :=
  { s with leases := s.leases.put p (f (s.lease p)) }

/-- The module is in the pod and has power. -/
def State.powered (s : State) (m : Nat) : Bool := s.mods.has m && (s.module m).power
/-- The module's Hedgerow side carries packets: it is trained, has a port left and is not declared lost (R18, R377). -/
def Module.linked (x : Module) : Bool := x.trained && !x.lost && x.portsDown != BitVec.allOnes 32
/-- Module m answers what module `own` sends it. -/
def State.answers (s : State) (own m : Nat) : Bool :=
  s.powered m && (own == m || ((s.module own).linked && (s.module m).linked))
/-- The switches return what module `own` sends to m: there is no such module in the pod, or one is declared lost
(R115, R377). -/
def State.goneFrom (s : State) (own m : Nat) : Bool :=
  own != m && (!s.mods.has m || !(s.module m).trained || (s.module m).lost || !(s.module own).trained || (s.module own).lost)

/-- The number of the frame in issue. -/
def State.me (s : State) : Nat := keyOf s.cur.loc s.cur.frame
/-- The thread in issue. -/
def State.my (s : State) : Frame := s.frame s.me
/-- The state with the frame in issue changed. -/
def State.updMy (s : State) (h : Frame → Frame) : State := s.updFrame s.me h

namespace Frame

/-- PRIV. -/
def priv (f : Frame) : Bool := bitOf f.tstat 0
/-- KIND: anchored. -/
def anch (f : Frame) : Bool := bitOf f.tstat 1
/-- RMODE. -/
def rmode (f : Frame) : Nat := fieldOf f.tstat 2 2
/-- FE. -/
def fe (f : Frame) : Bool := bitOf f.tstat 4
/-- PIN. -/
def pin (f : Frame) : Bool := bitOf f.tstat 5
/-- PINLEFT. -/
def pinLeft (f : Frame) : Nat := fieldOf f.tstat 6 9
/-- IDEM. -/
def idem (f : Frame) : Bool := bitOf f.tstat 15
/-- WORKER. -/
def worker (f : Frame) : Bool := bitOf f.tstat 16
/-- SOLO. -/
def solo (f : Frame) : Bool := bitOf f.tstat 25
/-- RFA. -/
def rfa (f : Frame) : Bool := bitOf f.tstat 26
/-- RFPOS. -/
def rfpos (f : Frame) : Nat := fieldOf f.tstat 27 4
/-- RFITER. -/
def rfiter (f : Frame) : Nat := fieldOf f.tstat 31 5
/-- LRV. -/
def lrv (f : Frame) : Bool := bitOf f.tstat 36
/-- LANE. -/
def lane (f : Frame) : Nat := fieldOf f.tstat 37 4
/-- INLD. -/
def inld (f : Frame) : Nat := fieldOf f.tstat 41 20
/-- The frame with a field of `tstat` replaced. -/
def setT (f : Frame) (lo n v : Nat) : Frame := { f with tstat := setField f.tstat lo n v }

/-- The port state behind an engine port. -/
def port (f : Frame) : EPort → PortSt
  | .pav => f.pav | .cpy => f.cpy | .gln => f.gln | .trl => f.trl
/-- The frame with an engine port's state replaced. -/
def setPort (f : Frame) (p : EPort) (x : PortSt) : Frame :=
  match p with
  | .pav => { f with pav := x } | .cpy => { f with cpy := x } | .gln => { f with gln := x }
  | .trl => { f with trl := x }

/-- A register written: full and unpoisoned (R215), with good parity (R362). -/
def setG (f : Frame) (n : Fin 16) (v : Word) : Frame :=
  { f with g := f.g.set n v, full := f.full ||| BitVec.twoPow 16 n, poisoned := f.poisoned &&& ~~~(BitVec.twoPow 16 n)
           par := { f.par with g := f.par.g &&& ~~~(BitVec.twoPow 16 n) } }
/-- A register poisoned: it reads 0 (R254). -/
def poisonG (f : Frame) (n : Fin 16) : Frame :=
  { f with g := f.g.set n 0, full := f.full ||| BitVec.twoPow 16 n, poisoned := f.poisoned ||| BitVec.twoPow 16 n
           par := { f.par with g := f.par.g &&& ~~~(BitVec.twoPow 16 n) } }
/-- A vector register written, with good parity. -/
def setV (f : Frame) (n : Fin 16) (v : BitVec 512) : Frame :=
  { f with v := f.v.set n v, par := { f.par with v := f.par.v &&& ~~~(BitVec.twoPow 16 n) } }
/-- A mask register written, with good parity. -/
def setM (f : Frame) (n : Fin 8) (v : BitVec 16) : Frame :=
  { f with m := f.m.set n v, par := { f.par with m := f.par.m &&& ~~~(BitVec.twoPow 8 n) } }
/-- A register marked empty. -/
def emptyG (f : Frame) (n : Fin 16) : Frame := { f with full := f.full &&& ~~~(BitVec.twoPow 16 n) }

end Frame

/-! ## A pin and a repeat frame that run out, and a frame's bytes in its window (R41, R50, R234, R358) -/

/-- R50: PINLEFT has reached 0 from 1, so PIN clears. -/
def Frame.pinExpire (f : Frame) : Frame := if f.pinDue then { f.setT 5 1 0 with pinDue := false, pinOther := none } else f

/-- R234: RFITER has passed COUNT: the repeat frame ends. pc already stands past the frame. -/
def Frame.frameEnd (f : Frame) : Frame :=
  if f.rfDue then { (f.setT 26 1 0).setT 31 5 0 with rfDue := false } else f

/-- A pin and a repeat frame that have run out end before anything more is seen of the thread. -/
def Frame.expire (f : Frame) : Frame := f.pinExpire.frameEnd

/-- The 8-byte group i of a frame as R41 and R358 lay it out. -/
def Frame.group (f : Frame) (i : Nat) : Word :=
  let loc (n : Nat) : Nat := match f.hist[n]? with | some e => e.1 | none => 0
  let w (x : Nat) : Word := BitVec.ofNat 64 x
  if h : i < 16 then f.g[i]
  else if i = 16 then w (f.full.toNat + f.poisoned.toNat * 2 ^ 16 + f.launch.toNat * 2 ^ 32)
  else if i = 17 then f.pc
  else if i = 18 then f.expire.tstat
  else if i = 19 then f.jcell
  else if i = 20 then w (f.hops.toNat + min f.gln.words.length 8 * 2 ^ 16 + loc 0 * 2 ^ 32)
  else if i = 21 then w (loc 1 + loc 2 * 2 ^ 32)
  else if i = 22 then w (loc 3 + (match f.hist.getLast? with | some e => e.2.toNat | none => 0) * 2 ^ 32)
  else if i = 23 then 0
  else if i < 32 then (f.gln.words.getD (i - 24) (0, none)).1
  else if i < 160 then w (bitsOf (f.v.toList.getD ((i - 32) / 8) 0).toNat (64 * ((i - 32) % 8)) 64)
  else if i < 162 then
    let m (n : Nat) : Nat := if n < 8 then (f.m.toList.getD n 0).toNat else 0
    let b := 4 * (i - 160) + 1
    w (m b + m (b + 1) * 2 ^ 16 + m (b + 2) * 2 ^ 32 + m (b + 3) * 2 ^ 48)
  else 0

/-- A supervisor's write of `tstat`: every field but KIND, reserved bits discarded (R42, R243, R8). -/
def Frame.writeTstat (f : Frame) (v : Word) : Frame :=
  { f with tstat := setField (setField v 1 1 (fieldOf f.tstat 1 1)) 61 3 0 }

/-- The history with location n replaced, padded when it is shorter. -/
def setHist (h : List (Loc × W32)) (n : Nat) (l : Loc) : List (Loc × W32) :=
  if n < h.length then setAt h n (l, (h.getD n (0, 0)).2)
  else if l = 0 then h
  else h ++ List.replicate (n - h.length) (0, 0) ++ [(l, 0)]

/-- The frame with its 8-byte group i written (R358). -/
def Frame.setGroup (f : Frame) (i : Nat) (v : Word) : Frame :=
  let lo := fieldOf v 0 22
  let hi := fieldOf v 32 22
  if h : i < 16 then { f with g := f.g.set i v }
  else if i = 16 then
    { f with full := v.setWidth 16, poisoned := (v >>> 16).setWidth 16, launch := (v >>> 32).setWidth 32 }
  else if i = 17 then { f with pc := v &&& ~~~3#64 }
  else if i = 18 then f.expire.writeTstat v
  else if i = 19 then { f with jcell := v }
  else if i = 20 then
    { f with hops := v.setWidth 16, hist := setHist f.hist 0 hi
             gln := { f.gln with words := f.gln.words.take (fieldOf v 16 8) ++
                        List.replicate (min (fieldOf v 16 8) 8 - f.gln.words.length) (0, none) } }
  else if i = 21 then { f with hist := setHist (setHist f.hist 1 lo) 2 hi }
  else if i = 22 then
    let h := setHist f.hist 3 lo
    { f with hist := match h.getLast? with | some e => h.dropLast ++ [(e.1, (v >>> 32).setWidth 32)] | none => h }
  else if i = 23 then f
  else if i < 32 then
    { f with gln := { f.gln with words := setAt f.gln.words (i - 24) (v, ((f.gln.words.getD (i - 24) (0, none)).2)) } }
  else if h : (i - 32) / 8 < 16 then
    if i < 160 then
      let n := (i - 32) / 8
      let sh := 64 * ((i - 32) % 8)
      let old := f.v[n]
      { f with v := f.v.set n ((old &&& ~~~((BitVec.ofNat 512 (2 ^ 64 - 1)) <<< sh)) ||| (v.setWidth 512 <<< sh)) }
    else f
  else if i < 162 then
    let b := 4 * (i - 160) + 1
    let put (m : Vector (BitVec 16) 8) (n : Nat) (x : Word) : Vector (BitVec 16) 8 :=
      if h : n < 8 then m.set n (x.setWidth 16) else m
    { f with m := put (put (put (put f.m b v) (b + 1) (v >>> 16)) (b + 2) (v >>> 32)) (b + 3) (v >>> 48) }
  else f

/-- The frame with n bytes (1-8, aligned) from offset o written. -/
def Frame.putBytes (f : Frame) (o n v : Nat) : Frame :=
  f.setGroup (o / 8) (setField (f.group (o / 8)) (8 * (o % 8)) (8 * n) v)

/-- The writes of the frame window that waited for the end of an instruction take effect, in their order (R358). -/
def Frame.settle (f : Frame) : Frame :=
  f.late.foldl (fun x e => x.putBytes e.1 e.2.1 e.2.2) { f with late := [] }

/-! ## Commands -/

/-- The command with an id. -/
def State.cmd (s : State) (id : Nat) : Option Cmd := s.cmds.find? fun c => c.id == id
/-- The state with a command changed. -/
def State.updCmd (s : State) (id : Nat) (f : Cmd → Cmd) : State := { s with cmds := mapIf (fun c => c.id == id) f s.cmds }

/-! ## Launches and placement regions -/

/-- The launch with this id on this module. -/
def State.launchOf (s : State) (id : W32) (m : Nat) : Option Launch :=
  s.launches.find? fun l => l.id == id && l.mod == m
/-- The state with a launch changed. -/
def State.updLaunch (s : State) (id : W32) (m : Nat) (f : Launch → Launch) : State :=
  { s with launches := mapIf (fun l => l.id == id && l.mod == m) f s.launches }

/-- The core lies in the placement region of the record (R38). -/
def LRec.holds (r : LRec) (m : Nat) (l : Loc) : Bool :=
  Loc.module l == m && r.smask.getLsbD (Loc.stack l) && r.dmask.getLsbD (Loc.die l) &&
  decide (r.x0 ≤ Loc.x l / 2 ∧ Loc.x l / 2 ≤ r.x1 ∧ r.y0 ≤ Loc.y l / 2 ∧ Loc.y l / 2 ≤ r.y1)

/-- The cores of a region by ascending stack, die and core (R57). -/
def LRec.cores (r : LRec) (m : Nat) : List Loc :=
  (List.range 64).flatMap fun d =>
    if r.smask.getLsbD (d / 4) && r.dmask.getLsbD (d % 4) then
      ((List.range 256).map fun c => (m * 64 + d) * 256 + c).filter fun l => r.holds m l
    else []

/-- The core lies in the region of this launch. -/
def State.inRegion (s : State) (id : W32) (m : Nat) (l : Loc) : Bool :=
  match s.launchOf id m with
  | some x => x.lr.holds m l
  | none => false

/-- R40: a core whose region another launch has closed refuses user packets of this one. -/
def State.isolRefuses (s : State) (user : Bool) (id : W32) (m : Nat) (l : Loc) : Bool :=
  user && s.launches.any fun x =>
    (x.status == .running || x.status == .preempted) && bitsOf x.lr.flags 1 1 == 1 && x.lr.holds x.mod l &&
    !(x.id == id && x.mod == m)

/-! ## Slots, the frame-ready FIFO and waking -/

/-- The slot that a frame is bound to. -/
def Core.slotOf (c : Core) (f : Nat) : Option Nat := findAt (fun x => x.bound == some f) c.slots.toList
/-- The slot that a frame number is bound to. -/
def State.slotOf (s : State) (k : Nat) : Option Nat := (s.core (keyLoc k)).slotOf (keyFrame k)
/-- A slot of a core. -/
def Core.slot (c : Core) (n : Nat) : Slot := c.slots.toList.getD n {}
/-- The core with a slot changed. -/
def Core.updSlot (c : Core) (n : Nat) (h : Slot → Slot) : Core :=
  { c with slots := c.slots.mapIdx fun i x => if i = n then h x else x }
/-- The state with a slot changed. -/
def State.updSlot (s : State) (l : Loc) (n : Nat) (h : Slot → Slot) : State := s.updCore l fun c => c.updSlot n h

/-- The thread waits in its core's trap queue (R356). -/
def State.inTrapq (s : State) (k : Nat) : Bool := (s.core (keyLoc k)).trapq.any fun e => e.frame == keyFrame k

/-- A resident, unbound thread that can go on enters the frame-ready FIFO once (R44). -/
def State.ready (s : State) (k : Nat) : State :=
  let f := s.frame k
  let c := s.core (keyLoc k)
  if f.used && !f.away && (c.slotOf (keyFrame k)).isNone && !c.fifo.contains (keyFrame k)
      && !s.inTrapq k && c.serving != some (keyFrame k) then
    s.updCore (keyLoc k) fun c => { c with fifo := c.fifo ++ [keyFrame k] }
  else s

/-- A thread's wait is over; what a `sleep` waits for stays with it until it issues again. -/
def Frame.awake (f : Frame) : Frame :=
  match f.wait with
  | some (.sleep _) => f
  | _ => { f with wait := none }

/-- Every waiting thread with p becomes ready. -/
def State.wake (s : State) (p : Nat → Frame → Bool) : State :=
  s.frames.foldl (fun t e =>
    if e.2.used && e.2.wait.isSome && p e.1 e.2 then (t.updFrame e.1 Frame.awake).ready e.1 else t) s

/-- A long wait begins, or goes on (R44). -/
def Frame.waitFor (f : Frame) (w : Wait) (now : Nat) : Frame :=
  if f.wait == some w then f else { f with wait := some w, since := now }

/-- The stores of a draining buffer, numbered as they leave for the store buffer. -/
def numbered (n : Nat) : List SEntry → List SEntry
  | [] => []
  | e :: r => { e with id := n } :: numbered (n + 1) r

/-- The stores of the task store buffers that drain enter the core's store buffer of 16, in order and as far as it has room
(R68, R152; log entry 47). -/
def Core.pour (c : Core) : Core :=
  (List.range 8).foldl (fun c n =>
    let x := c.slot n
    let room := 16 - c.sb.length
    if x.draining then
      { c.updSlot n (fun x => { x with tsb := x.tsb.drop room, draining := decide (room < x.tsb.length) }) with
        sb := c.sb ++ x.tsb.take room }
    else c) c

/-- A task store buffer starts to drain, its stores numbered from n. One that drains already goes on. -/
def Slot.startDrain (n : Nat) (x : Slot) : Slot :=
  if x.draining then x else { x with tsb := numbered n x.tsb, draining := true }

/-- R68: the task store buffer of a slot starts to drain into the core's store buffer, and IDEM clears. -/
def State.drain (s : State) (k : Nat) : State :=
  if (s.frame k).idem then
    let s := s.updFrame k fun f => f.setT 15 1 0
    match s.slotOf k with
    | some n =>
      { s.updCore (keyLoc k) fun c => (c.updSlot n (Slot.startDrain s.nextId)).pour with
        nextId := s.nextId + ((s.core (keyLoc k)).slot n).tsb.length }
    | none => s
  else s

/-- A slot loses its frame; the instruction buffer and a captured repeat frame go with it. What drains goes on draining. -/
def State.unbind (s : State) (l : Loc) (n : Nat) : State :=
  match ((s.core l).slot n).bound with
  | some f => (s.drain (keyOf l f)).updSlot l n fun x => { x with bound := none, ibuf := [], rf := none }
  | none => s

/-- A slot gets a frame: its buffer is discarded and a repeat frame is recaptured before the next issue
(R43, R235). -/
def State.bind (s : State) (l : Loc) (n f : Nat) : State :=
  (s.updSlot l n fun x => { x with bound := some f, ibuf := [], rf := none }).updFrame (keyOf l f) fun x =>
    { x with since := s.clk }

/-! ## Packets, events and error records -/

/-- A packet leaves. -/
def State.send (s : State) (p : Pkt) : State :=
  { s with net := s.net ++ [{ p with id := s.nextId }], nextId := s.nextId + 1 }

/-- A packet of the thread in issue. -/
def State.mkPkt (s : State) (k : PKind) (h : Home) (va : Word) : Pkt :=
  let f := s.my
  { id := s.nextId, kind := k, src := s.cur.loc, key := s.me, uid := f.uid, user := !f.priv, launch := f.launch
    lmod := f.lmod, home := h, va := va, fan := s.cur.fan, asked := s.nextId }

/-- The requests that are parked at homes (R126). -/
def State.parkedPkts (s : State) : List Pkt :=
  s.homes.flatMap fun h => h.2.faults.filterMap fun e => match e.item with | .request p => some p | _ => none

/-- The die that a home stands on; the CXL port counts as die 0 of stack 0 (R128). -/
def homeDie : Home → DieId
  | .slice d _ => d
  | .core l => Loc.dieId l
  | .cxl m => m * 64

/-- The module that a home stands on. -/
def homeMod (h : Home) : Nat := homeDie h / 64

/-- Home kind and home index of R128. -/
def homeCode : Home → Nat × Nat
  | .slice _ q => (0, q)
  | .core l => (1, Loc.core l)
  | .cxl _ => (0, 0xFF)

/-- The core whose `qevt` receives a die's events (R360, R374). -/
def State.supLoc (s : State) (d : DieId) : Loc := d * 256 + (s.die d).supcore.toNat

/-- The class of some code word in `qevt` is enabled in `evtmask` (R241, R247). -/
def Core.evtReady (c : Core) : Bool := c.qevt.any fun w => w.2 && bitOf c.evtmask (fieldOf w.1 4 4)

/-- An event's words as a `qevt` holds them: the first is the code word (R360). -/
def eventWords (ws : List Word) : List (Word × Bool) := ws.zipIdx.map fun e => (e.1, e.2 == 0)

/-- An event's words enter the `qevt` of a core, or are held at their source in order (R360). -/
def State.event (s : State) (src : Nat) (dest : Loc) (ws : List Word) : State :=
  if (s.core dest).qevt.length + ws.length ≤ 1024 ∧ !(s.evq.any fun e => e.src == src && e.dest == dest) then
    (s.updCore dest fun c => { c with qevt := c.qevt ++ eventWords ws }).wake fun k f =>
      keyLoc k == dest && (f.wait == some .waitev || f.wait == some (.popPort .qevt))
  else { s with evq := s.evq ++ [{ src := src, dest := dest, words := ws, retryAt := s.clk + 64 }] }

/-- An event to the supervisor of a home's die, from that home. -/
def State.eventAt (s : State) (h : Home) (ws : List Word) : State :=
  s.event (homeKey h) (s.supLoc (homeDie h)) ws

/-- The launch word of an event (R128). -/
def launchWord (id : W32) (m : Nat) : Word := BitVec.ofNat 64 (id.toNat + m * 2 ^ 32)

/-- R361: an error record at a home, counted against its launch. -/
def State.record (s : State) (h : Home) (status : Nat) (r : RecReason) (va : Word) (id : W32) (m : Nat) : State :=
  let (kd, ix) := homeCode h
  let w0 := BitVec.ofNat 64 (0x12 + status * 2 ^ 8 + r.code * 2 ^ 16 + kd * 2 ^ 20 + ix * 2 ^ 21)
  (s.eventAt h [w0, va, launchWord id m]).updLaunch id m fun l =>
    { l with errs := l.errs + 1, first := some (l.first.getD status) }

/-! ## Gangs -/

/-- The formed gang that a frame is a member of. -/
def State.gangOf (s : State) (k : Nat) : Option Gang := s.gangs.find? fun g => g.formed && g.members.contains k

/-- The threads that execute the instruction in issue: all members of its thread's gang, but under `solo` the leader alone
(R71, R73). -/
def State.fellows (s : State) : List Nat :=
  match s.gangOf s.me with
  | some g => if s.my.solo then [s.me] else g.members
  | none => [s.me]

/-- A gang is dissolved: its members are independent again, and waiting `gang.form`s look again (R71, R72, R284). -/
def State.dissolve (s : State) (g : Gang) : State :=
  let s := { s with gangs := s.gangs.filter fun x => x.id != g.id }
  let s := g.members.foldl (fun t k => t.updFrame k fun f => (f.setT 17 4 0).setT 21 4 0) s
  s.wake fun _ f => match f.wait with | some (.gang _) => true | _ => false

/-! ## Taking a trap and returning (R355-R359, R246) -/

/-- The head of a trap queue, or a thread that traps on its slot, enters the handler frame on slot n. -/
def State.enter (s : State) (l : Loc) (n : Nat) (e : TrapEntry) : State :=
  let s := s.unbind l n
  let s := s.updCore l fun c =>
    { c with
      trapcause := BitVec.ofNat 64 (e.cause.code + e.tcode * 2 ^ 8 + e.frame * 2 ^ 11 + n * 2 ^ 16)
      trapva := e.va, trappc := e.pc, serving := some e.frame, retFrame := none }
  let s := s.updFrame (keyOf l 32) fun f =>
    { f with used := true, pc := (s.core l).ctxbase &&& ~~~3#64, wait := none, pend := .idle }
  s.bind l n 32

/-- The order of the trap queue: by the clk of the trap, then by the frame (R356). -/
def TrapEntry.before (e x : TrapEntry) : Bool := decide (e.clk < x.clk ∨ (e.clk = x.clk ∧ e.frame < x.frame))

/-- A trap queue with an entry put in its place (R356). -/
def insertTrap (e : TrapEntry) : List TrapEntry → List TrapEntry
  | [] => [e]
  | x :: r => if e.before x then e :: x :: r else x :: insertTrap e r

/-- A thread joins its core's trap queue (R356). -/
def State.queueTrap (s : State) (l : Loc) (e : TrapEntry) : State :=
  s.updCore l fun c => { c with trapq := insertTrap e c.trapq, fifo := c.fifo.filter (· != e.frame) }

/-- R356: a cause is raised for a thread. It enters the handler frame at once when that is free, the trap
queue is empty and the thread holds a slot, which R76 has not disabled; otherwise it queues. A pre-empted launch's
thread keeps its entry (R364). -/
def State.raise (s : State) (k : Nat) (c : Cause) (va : Word) (tcode : Nat) : State :=
  let s := match s.gangOf k with | some g => s.dissolve g | none => s
  let f := s.frame k
  let l := keyLoc k
  let e : TrapEntry := { frame := keyFrame k, cause := c, va := va, pc := f.pc, tcode := tcode, clk := s.clk }
  let s := s.updFrame k fun f => { f with wait := none, pend := .idle }.settle
  if f.away then s.updFrame k fun f => { f with kept := some e }
  else
    match s.slotOf k with
    | some n =>
      if (s.core l).serving.isNone && (s.core l).trapq.isEmpty && ((s.core l).slot n).enabled then s.enter l n e
      else (s.unbind l n).queueTrap l e
    | none => s.queueTrap l e

/-! ## The end of a thread (R267 step 7, R275, R359) -/

/-- The position of a waiting thread in its column (R79). -/
def State.waiterPos (k : Nat) : Nat := 32 * Loc.ctrl (keyLoc k) + keyFrame k

/-- The priority of a frame's launch. -/
def State.prioOf (s : State) (k : Nat) : Nat :=
  match s.launchOf (s.frame k).launch (s.frame k).lmod with
  | some l => l.lr.prio
  | none => 0

/-- R79, R368: the waiter that a free lease goes to: highest priority, a saved pusher before others of its
priority or lower, then the first position after the previous holder's. A waiting thread of a pre-empted launch is
passed over until its launch is resumed (log entry 86). -/
def State.nextHolder (s : State) (p : Nat) : Option Nat :=
  let x := s.lease p
  let rank (k : Nat) : Nat :=
    (3 - s.prioOf k) * 2048 + (if x.saved.any fun e => e.1 == (s.frame k).uid then 0 else 1024) +
      (State.waiterPos k + 511 - x.last) % 512
  (x.waiters.filter fun k => !(s.frame k).away).foldl (fun b k => match b with
    | none => some k
    | some j => if rank k < rank j then some k else some j) none

/-- R79: a free lease is granted to its next holder, whose wait ends. -/
def State.grant (s : State) (p : Nat) : State :=
  if (s.lease p).holder.isSome then s
  else
    match s.nextHolder p with
    | some k =>
      let s := s.updLease p fun x =>
        { x with holder := some (s.frame k).uid, left := 64, last := State.waiterPos k
                 waiters := x.waiters.filter (· != k)
                 saved := x.saved.filter fun e => e.1 != (s.frame k).uid }
      s.wake fun j f => j == k && (f.wait == some .lease || f.wait == some (.pushPort .qpav))
    | none => s

/-- The lease is freed when this thread holds it, and granted on (R80). -/
def State.freeLease (s : State) (p uid : Nat) : State :=
  if (s.lease p).holder == some uid then (s.updLease p fun x => { x with holder := none, left := 0 }).grant p
  else s

/-- R275: a thread that ends leaves every barrier; an arrive bit it has not set counts as a `bar.ard`. -/
def Barrier.leave (uid nid : Nat) (b : Barrier) : Barrier :=
  if b.members.contains uid then
    if b.arrived.any fun e => e.1 == uid then { b with ards := b.ards ++ [uid] }
    else { b with arrived := b.arrived ++ [(uid, nid)], ards := b.ards ++ [uid] }
  else { b with joining := b.joining.filter (· != uid) }

/-- R278: a thread that ends leaves each Flock group as by `flk.leave`. -/
def FGroup.leave (uid : Nat) (g : FGroup) : FGroup :=
  { g with
    mask := (g.enrolled.filter fun e => e.1 == uid).foldl (fun m e => m &&& ~~~(BitVec.twoPow 64 e.2)) g.mask
    enrolled := g.enrolled.filter fun e => e.1 != uid }

/-- A word placed in the space and at the owner that its bits name (R115), for a join cell. -/
def lsOwner (va : Word) : Loc := fieldOf va 33 22

/-- R62: the launch's outstanding count goes down, and waiting `next`s see it (R63). -/
def State.countDown (s : State) (id : W32) (m : Nat) : State :=
  (s.updLaunch id m fun l => { l with tasks := l.tasks - 1 }).wake fun _ f =>
    f.wait == some .next && f.launch == id && f.lmod == m
/-- R62: the count goes up. -/
def State.countUp (s : State) (id : W32) (m : Nat) : State :=
  s.updLaunch id m fun l => { l with tasks := l.tasks + 1 }

/-- Step 6 of R267: the join cell's decrement is sent as a posted operation, and the task's share leaves the
count. -/
def State.taskEnd (s : State) (k : Nat) : State :=
  let f := s.frame k
  let s := if f.jcell = 0 then s else
    s.send { id := 0, kind := .joinDec, src := keyLoc k, key := k, uid := f.uid, user := !f.priv, launch := f.launch
             lmod := f.lmod, home := .core (lsOwner f.jcell), va := f.jcell }
  let s := s.updFrame k fun f => { f with jcell := 0, task := none }
  if f.worker && f.task.isSome then s.countDown f.launch f.lmod else s

/-- Step 7 of R267: the barrier drops take effect and the frame is freed. -/
def State.threadEnd (s : State) (k : Nat) : State :=
  let f := s.frame k
  let l := keyLoc k
  let s := s.freeLease (Loc.pav l) f.uid
  let s := s.updLease (Loc.pav l) fun x => { x with waiters := x.waiters.filter (· != k) }
  let s := match s.slotOf k with | some n => s.unbind l n | none => s
  let drop (g : Gang) : Gang := { g with members := g.members.filter (· != k) }
  let s := { s with
    barriers := s.barriers.map (Barrier.leave f.uid s.nextId)
    gangs := (s.gangs.map drop).filter (fun g => !g.members.isEmpty)
    fgroups := s.fgroups.map (FGroup.leave f.uid) }
  let s := s.updLaunch f.launch f.lmod fun x => { x with live := x.live - 1, exited := x.exited ++ [f.uid] }
  let s := s.updCore l fun c =>
    { c with fifo := c.fifo.filter (· != keyFrame k), trapq := c.trapq.filter fun e => e.frame != keyFrame k }
  s.updFrame k fun f => { f.settle with used := false, wait := none, pend := .idle, task := none, kept := none, away := false, shed := false }

/-- R359: the thread of frame f ends, with an error record and event 0x14. -/
def State.killThread (s : State) (l : Loc) (f status : Nat) (r : RecReason) : State :=
  let k := keyOf l f
  let x := s.frame k
  let s := (s.taskEnd k).threadEnd k
  let s := s.record (.core l) status r 0 x.launch x.lmod
  s.eventAt (.core l) [0x14, BitVec.ofNat 64 f]

/-- R359: the thread that the handler was serving ends, and the handler frame is free. -/
def State.handlerEnd (s : State) (l : Loc) : State :=
  let s := match (s.core l).serving with
    | some f => s.killThread l f 0x04 .handler
    | none => s
  let s := s.updCore l fun c => { c with serving := none, retFrame := none, fifo := c.fifo.filter (· != 32) }
  s.updFrame (keyOf l 32) fun f => { f with used := false, wait := none, pend := .idle }

/-- R359: a cause raised in the handler frame: the trapped thread ends, and the handler frame, on its slot n,
serves the next entry of the trap queue or is free. -/
def State.handlerFault (s : State) (l : Loc) (n : Option Nat) : State :=
  let s := s.handlerEnd l
  match n with
  | none => s
  | some n =>
    match (s.core l).trapq with
    | e :: r => (s.updCore l fun c => { c with trapq := r }).enter l n e
    | [] => s.unbind l n

/-- A cause is raised for the thread of frame k, wherever it stands. -/
def State.raiseAt (s : State) (k : Nat) (c : Cause) (va : Word) (tcode : Nat) : State :=
  if keyFrame k = 32 then s.handlerFault (keyLoc k) (s.slotOf k) else s.raise k c va tcode

/-- A cause raised by the thread in issue. -/
def State.trapMy (s : State) (c : Cause) (va : Word) (tcode : Nat) : State :=
  s.raiseAt s.me c va tcode

/-- R248: `ctx.sw` can bind frame f: it holds a resident thread, bound to no slot and not in the trap queue. -/
def State.canSwitch (s : State) (l : Loc) (f : Nat) : Bool :=
  (s.frame (keyOf l f)).used && decide (f < 32) && (s.slotOf (keyOf l f)).isNone && !s.inTrapq (keyOf l f)
    && !(s.frame (keyOf l f)).away

/-- R246: the return from a handler on slot n of a core. Bits [1:0] of trappc are taken as 0 (log entry 101). -/
def State.rfe (s : State) (l : Loc) (n : Nat) : State :=
  let c := s.core l
  let f := c.serving.getD 0
  let k := keyOf l f
  let s := s.updFrame k fun x => if c.serving.isSome then { x with pc := c.trappc &&& ~~~3#64 } else x
  let back := match c.retFrame with
    | some r => if s.canSwitch l r then r else f
    | none => f
  let s := s.updFrame (keyOf l 32) fun x => { x with used := false }
  let s := s.unbind l n
  let s := s.updCore l fun c => { c with serving := none, retFrame := none }
  let trapped := (s.frame k).used && c.serving.isSome
  match (s.core l).trapq with
  | e :: r =>
    let s := (s.updCore l fun c => { c with trapq := r }).enter l n e
    let s := if trapped && (s.frame k).wait.isNone then s.ready k else s
    if back != f && (s.frame (keyOf l back)).wait.isNone then s.ready (keyOf l back) else s
  | [] =>
    let ok := (s.frame (keyOf l back)).used && !(s.frame (keyOf l back)).away
    let s := if ok then
        (s.updCore l fun c => { c with fifo := c.fifo.filter (· != back) }).bind l n back
      else s
    if back != f && trapped && (s.frame k).wait.isNone then s.ready k else s

/-! ## Retiring an instruction -/

/-- R234: after a captured word, the position, the execution and pc move on. `rep` is the REPF word's COUNT
and LEN. -/
def Frame.advance (f : Frame) (count len : Nat) : Frame :=
  let base := f.pc - BitVec.ofNat 64 (4 * f.rfpos)
  if f.rfpos < len then { f.setT 27 4 (f.rfpos + 1) with pc := f.pc + 4 }
  else if f.rfiter < count then { (f.setT 27 4 0).setT 31 5 (f.rfiter + 1) with pc := base }
  else { f.setT 27 4 0 with pc := base + BitVec.ofNat 64 (4 + 4 * len), rfDue := true }

/-- What each retired instruction does to its thread: PINLEFT and the instruction count go on (R41, R50), SOLO
is used up unless just set (R198), LRV and LANE clear unless just written (R303), and a long wait is over. -/
def Frame.tick (f : Frame) (keepSolo keepLane : Bool) : Frame :=
  let older (n : W32) : W32 := if n = BitVec.allOnes 32 then n else n + 1
  let f := { f with wait := none, pend := .idle, hist := f.hist.map fun e => (e.1, older e.2) }
  let f := if keepSolo then f else f.setT 25 1 0
  let f := if keepLane then f else f.setT 36 5 0
  if f.pin && f.pinLeft != 0 then { f.setT 6 9 (f.pinLeft - 1) with pinDue := f.pinLeft == 1 } else f

/-- COUNT and LEN of the repeat frame that slot n of a core has captured: its first word is the REPF word. -/
def Slot.repf (x : Slot) : Nat × Nat :=
  match x.rf with
  | some (w :: _) => (bitsOf w.toNat 21 5, bitsOf w.toNat 17 4)
  | _ => (0, 0)

/-- How the pc of a retiring instruction goes on. -/
inductive Next where
  | seq
  | at (pc : Word)
  deriving DecidableEq, Repr

/-- The thread in issue retires its instruction; what was written to its frame meanwhile follows (R358). -/
def State.retire (s : State) (nx : Next) (keepSolo keepLane : Bool) : State :=
  let x := ((s.core s.cur.loc).slot s.cur.slot)
  s.updMy fun f =>
    let f := f.tick keepSolo keepLane
    (match nx with
      | .at pc => { f with pc := pc }
      | .seq => if f.rfa && x.rf.isSome then f.advance x.repf.1 x.repf.2 else { f with pc := f.pc + 4 }).settle

/-! ## What a meaning can answer, and issuing it -/

/-- The outcome of an instruction for one thread: `wait` stays at issue and `waitFor` is a long wait, both with
no effect; `hold` stays at issue with a request under way; `trap` discards every effect (R11), `trapOn` keeps
those of the state it names (R302); `done` completes, with what follows the retirement in `post`. -/
inductive Eff where
  | wait
  | waitFor (w : Wait)
  | hold (s : State)
  | trap (c : Cause) (va : Word) (tcode : Nat)
  | trapOn (s : State) (c : Cause) (va : Word)
  | done (s : State) (nx : Next)
  | keep (s : State) (solo lane : Bool)
  | branch (s : State) (taken : Bool) (pc : Word)
  | gone (s : State)
  | after (s : State) (post : State → State)

/-- The next state of the thread in issue, from the state s before the instruction. An instruction that now holds its slot
for an answer has issued; one that goes on waiting has not. -/
def Eff.finish (s : State) : Eff → State
  | .wait => { s with note := .waiting }
  | .waitFor w => { s.updMy (fun f => f.waitFor w s.clk) with note := .waiting }
  | .hold t => { t with note := if s.my.pend = .idle ∧ t.my.pend ≠ .idle then .held else .waiting }
  | .trap c va n => { s.trapMy c va n with note := .trapped }
  | .trapOn t c va => { t.trapMy c va 0 with note := .trapped }
  | .done t nx => { t.retire nx false false with note := .retired }
  | .keep t a b => { t.retire .seq a b with note := .retired }
  | .branch t taken pc => { t.retire (if taken then .at pc else .seq) false false with note := .retired }
  | .gone t => { t with note := .retired }
  | .after t post => { post (t.retire .seq false false) with note := .retired }

/-- The thread named for issue, with its slot. -/
def State.onThread (s : State) (k : Nat) (fan : List Nat) : State :=
  { s with cur := { loc := keyLoc k, frame := keyFrame k, slot := (s.slotOf k).getD 0, fan := fan } }

/-- The gang is not able to issue this on some member, or waits there. -/
def Eff.blocks : Eff → Bool
  | .wait => true | .waitFor _ => true | _ => false
/-- The member has only sent a request so far. -/
def Eff.holds : Eff → Bool
  | .hold _ => true | _ => false
/-- The member traps. -/
def Eff.traps : Eff → Bool
  | .trap _ _ _ => true | .trapOn _ _ _ => true | _ => false
/-- The member's branch is taken. -/
def Eff.takes : Eff → Option Bool
  | .branch _ t _ => some t | _ => none

/-- The members' instructions one after the other: the state after those that complete, and what each answered. -/
def State.gangRun (s : State) (body : State → Eff) : List Nat → State × List (Nat × Eff)
  | [] => (s, [])
  | k :: r =>
    let e := body (s.onThread k [])
    let t := if e.blocks || e.holds || e.traps then s else e.finish (s.onThread k [])
    let (u, l) := t.gangRun body r
    (u, (k, e) :: l)

/-- The long wait, with no request under way, that a member's answer of `hold` has put it in. -/
def Eff.waits (k : Nat) : Eff → Option Wait
  | .hold u => if (u.frame k).pend = .idle then (u.frame k).wait else none
  | _ => none

/-- A member's `hold` takes effect after those of the members before it. One that has to wait only because of what another
member's completion would do waits too: no member completes before all can (R71, R82). -/
def State.gangHold (s : State) (body : State → Eff) (t : State) (e : Nat × Eff) : State :=
  match body (t.onThread e.1 []), e.2.waits e.1 with
  | .hold u, _ => u
  | _, some w => t.updFrame e.1 fun f => f.waitFor w s.clk
  | _, none => t

/-- A member of a gang that cannot issue: a long wait that it is in begins or goes on (R44). An answer of `hold` with no
request under way is such a wait. -/
def State.gangWait (s : State) (body : State → Eff) (t : State) (e : Nat × Eff) : State :=
  match e.2, e.2.waits e.1 with
  | .waitFor w, _ => t.updFrame e.1 fun f => f.waitFor w s.clk
  | _, some w =>
    match body (t.onThread e.1 []) with
    | .hold u => if ((Eff.hold u).waits e.1).isSome then u else t.updFrame e.1 fun f => f.waitFor w s.clk
    | _ => t.updFrame e.1 fun f => f.waitFor w s.clk
  | _, none => t

/-- R71: one instruction of a gang, on every member; the leader is first and `cur` stays the leader. -/
def State.gangStep (s : State) (g : Gang) (body : State → Eff) : State :=
  let (done, effs) := s.gangRun body g.members
  let has (p : Eff → Bool) : Bool := effs.any fun e => p e.2
  if !(g.members.all fun k => (s.slotOf k).isSome) then { s with note := .waiting }
  else if has (fun e => e.takes == some true) && has (fun e => e.takes == some false) then
    { g.members.foldl (fun t k => t.raise k .gangDiverge 0 0) (s.dissolve g) with note := .trapped }
  else if has Eff.traps then
    let one (t : State) (e : Nat × Eff) : State :=
      match e.2 with
      | .trap c va n => t.raiseAt e.1 c va n
      | .trapOn _ _ _ => (body (t.onThread e.1 [])).finish (t.onThread e.1 [])
      | _ => t
    { effs.foldl one (s.dissolve g) with cur := s.cur, note := .trapped }
  else if has Eff.blocks then { effs.foldl (s.gangWait body) s with cur := s.cur, note := .waiting }
  else if has Eff.holds then
    let t := effs.foldl (s.gangHold body) s
    let busy (t : State) : Bool := g.members.any fun k => (t.frame k).pend != .idle
    { t with cur := s.cur, note := if busy t && !busy s then .held else .waiting }
  else
    let pc := (done.frame s.me).pc
    let same (t : State) (k : Nat) : State :=
      if (t.frame k).used then t.updFrame k fun f => { f with pc := pc } else t
    { g.members.foldl same done with cur := s.cur }

/-- R73: under `solo` the leader alone executes; the members follow its pc. -/
def State.soloStep (s : State) (g : Gang) (body : State → Eff) : State :=
  let others := g.members.filter (· != s.me)
  let e := body (s.onThread s.me others)
  if e.traps then { e.finish { s.dissolve g with cur := s.cur } with cur := s.cur, note := .trapped }
  else if e.blocks || e.holds then { e.finish s with cur := s.cur }
  else
    let t := { e.finish s with cur := s.cur }
    let pc := (t.frame s.me).pc
    let tick (t : State) (k : Nat) : State := t.updFrame k fun f => { f.tick false false with pc := pc }.settle
    { others.foldl tick t with cur := s.cur }

/-- Issue an instruction's meaning for the thread in issue: alone, or for its gang (R71, R73). A member that does
not lead issues nothing itself. -/
def issue (body : State → Eff) (s : State) : Host.Outcome State Fault Refusal :=
  match s.gangOf s.me with
  | none => .next ((body s).finish s)
  | some g =>
    if g.members.head? != some s.me then .next { s with note := .waiting }
    else if s.my.solo then .next (s.soloStep g body)
    else .next (s.gangStep g body)

end Sys2Proof.Machine
end

