-- ==== Sys2Proof/Machine/Walk.lean ====
section
/-! DEFINITION. Virtual addresses, page-table walks, translation at the home, and the checks a home makes on an
access (07_memory R115-R143). -/

namespace Sys2Proof.Machine

open Sys2Proof

/-! ## Virtual addresses (R115, R116) -/

/-- VA[56:55] (R115). -/
inductive Space where
  | dm | ls | host | spread
  deriving DecidableEq, Repr

/-- The space of an address. -/
def spaceOf (va : Word) : Space :=
  match fieldOf va 55 2 with
  | 0 => .dm | 1 => .ls | 2 => .host | _ => .spread

/-- R115: bits that must be zero are not. -/
def vaBad (va : Word) : Bool :=
  fieldOf va 57 7 != 0 ||
  match spaceOf va with
  | .host => fieldOf va 52 3 != 0
  | .spread => fieldOf va 41 14 != 0
  | _ => false

/-- The die that a DM address names. -/
def dmDie (va : Word) : DieId := fieldOf va 41 14
/-- R116: the slice that homes the line. -/
def sliceOf (va : Word) : Nat := fieldOf va 10 6
/-- The granule of a spread address. -/
def granuleOf (va : Word) : Nat := fieldOf va 16 25

/-- R115, R116: the home of an address that is not in spread space, for a requester on module m. -/
def homeOf (m : Nat) (va : Word) : Home :=
  match spaceOf va with
  | .ls => .core (lsOwner va)
  | .host => .cxl m
  | _ => .slice (dmDie va) (sliceOf va)

/-- R154: the home lies within the scope of a core. -/
def scopeHas (sc : Scope) (l : Loc) (h : Home) : Bool :=
  match sc, h with
  | .core, .core c => c == l
  | .core, _ => false
  | .quad, .core c => Loc.quadId c == Loc.quadId l
  | .quad, .slice d q => d * 64 + q == Loc.quadId l
  | .quad, .cxl _ => false
  | .die, .cxl _ => false
  | .die, h => homeDie h == Loc.dieId l
  | .stack, .cxl _ => false
  | .stack, h => homeDie h / 4 == Loc.stackId l
  | .mod, .cxl _ => false
  | .mod, h => homeMod h == Loc.module l
  | .pod, .cxl _ => false
  | .pod, _ => true
  | .sys, _ => true

/-! ## Page-table entries (R121, R134) -/

/-- P. -/
def pteP (e : Word) : Bool := bitOf e 0
/-- W. -/
def pteW (e : Word) : Bool := bitOf e 1
/-- X. -/
def pteX (e : Word) : Bool := bitOf e 2
/-- U. -/
def pteU (e : Word) : Bool := bitOf e 3
/-- KIND. -/
def pteKind (e : Word) : Nat := fieldOf e 6 2
/-- FMT. -/
def pteFmt (e : Word) : Nat := fieldOf e 8 6
/-- GEO. -/
def pteGeo (e : Word) : Nat := fieldOf e 14 4
/-- FWD. -/
def pteFwd (e : Word) : Bool := bitOf e 21

/-- R134: the format and geometry codes and their combination are permitted. -/
def fmtOk (fmt geo : Nat) : Bool :=
  decide (fmt ≤ 11 ∧ geo ≤ 4) &&
  (geo == 0 || (decide (1 ≤ fmt) && (geo != 4 || decide (fmt ≤ 10))))

/-- Element bits of a format code (R134); 0 for RAW. -/
def fmtBits (f : Nat) : Nat :=
  match f with
  | 1 => 8 | 2 => 16 | 3 => 32 | 4 => 64 | 5 => 16 | 6 => 16 | 7 => 32 | 8 => 64 | 9 => 8 | 10 => 8 | 11 => 6
  | _ => 0

/-! ## Walks (R119-R122) -/

/-- How a walk ends. -/
inductive WRes where
  | leaf (base size : Nat) (pte : Word) (key : Nat)
  | fwd (pte : Word)
  | fault (r : Reason)
  deriving DecidableEq, Repr

/-- Bytes of a table at a level, and of a page that a leaf there maps (R120). -/
def tableBytes (level : Nat) : Nat := match level with | 3 => 16384 | 2 => 4096 | _ => 256
/-- Bytes that a leaf at a level maps (R120). -/
def pageBytes (level : Nat) : Nat := match level with | 3 => 2 ^ 30 | 2 => 2 ^ 21 | _ => 2 ^ 16

/-- R122: the leaf's KIND is permitted for the tree and level, and what it names is in range. -/
def leafOk (s : State) (d : DieId) (sp : Space) (level : Nat) (va : Word) (e : Word) : Bool :=
  let size := pageBytes level
  match pteKind e with
  | 1 =>
    (sp == .dm || sp == .spread) && fieldOf e 59 5 == 0 && fieldOf e 24 35 % size == 0 &&
    decide (fieldOf e 24 35 + size ≤ partBytes)
  | 2 =>
    let c := fieldOf e 24 8
    let u := fieldOf e 32 6
    fieldOf e 38 26 == 0 && decide (level ≤ 2) && (level == 1 || u == 0 || u == 32) &&
    match sp with
    | .ls => c == Loc.core (lsOwner va)
    | .host => false
    | _ => (s.core (d * 256 + c)).fallow
  | _ =>
    (sp == .dm || sp == .host) && fieldOf e 60 4 == 0 && fieldOf e 24 36 * 65536 % size == 0

/-- A walk from a table at a level down (R120, R122). -/
def walkAt (s : State) (d : DieId) (sp : Space) (va : Word) (key : Nat) : Nat → Nat → WRes
  | 0, _ => .fault .badEntry
  | level + 1, off =>
    let lv := level + 1
    if off % tableBytes lv ≠ 0 ∨ partBytes < off + tableBytes lv then .fault .badEntry
    else
      let ix := bitsOf key (match lv with | 3 => 30 | 2 => 21 | _ => 16) (match lv with | 3 => 11 | 2 => 9 | _ => 5)
      let a := dramKey d (off + 8 * ix)
      let e : Word := BitVec.ofNat 64 (s.num a 8)
      if s.isBad a 8 then .fault .badEntry
      else if !pteP e then
        if !pteFwd e then .fault .notPresent
        else if sp == .spread && lv == 1 && fieldOf e 38 26 == 0 && fieldOf e 22 2 == 0 &&
            fmtOk (pteFmt e) (pteGeo e) then .fwd e
        else .fault .badEntry
      else if pteFwd e || fieldOf e 22 2 != 0 || !fmtOk (pteFmt e) (pteGeo e) then .fault .badEntry
      else if pteKind e = 0 then
        if level = 0 ∨ fieldOf e 59 5 ≠ 0 then .fault .badEntry else walkAt s d sp va key level (fieldOf e 24 35)
      else if leafOk s d sp lv va e then
        .leaf (va.toNat / pageBytes lv * pageBytes lv) (pageBytes lv) e a
      else .fault .badEntry

/-- R119, R120, R122: the walk of an address at a home, from the root block of the home's die, whose bytes 40-63 are zero. -/
def walk (s : State) (h : Home) (va : Word) : WRes :=
  let d := homeDie h
  let root := (s.die d).ptroot
  let off := fieldOf root 6 29 * 64
  let sp := spaceOf va
  if !bitOf root 0 then .fault .notPresent
  else if partBytes < off + 64 then .fault .badEntry
  else if s.num (dramKey d (off + 40)) 24 ≠ 0 then .fault .badEntry
  else if sp == .host && fieldOf va 41 11 != 0 then .fault .badEntry
  else
    let slot := match sp with | .dm => 0 | .ls => 8 | .spread => 16 | .host => 24
    if s.isBad (dramKey d (off + slot)) 8 then .fault .badEntry
    else walkAt s d sp va (fieldOf va 0 41) 3 (s.num (dramKey d (off + slot)) 8)

/-! ## The L2 sectors of pages in fallow cores (R25, R130, R138, R148; log entry 9) -/

/-- The 256-byte sectors over n bytes from a, by their first byte. -/
def sectorsOf (a n : Nat) : List Nat := (List.range ((a % 256 + n + 255) / 256)).map fun i => a / 256 * 256 + 256 * i

/-- The home holds the sector. -/
def HomeSt.sector (x : HomeSt) (k : Nat) : Option Sector := x.l2.find? fun e => e.key == k

/-- n bytes from a copied to b, whole doublewords with their check bits (R362). -/
def State.copyBytes (s : State) (a b n : Nat) : State :=
  let moved := (s.bad.filter fun d => decide (a ≤ d * 8 ∧ d * 8 < a + n)).map fun d => d - a / 8 + b / 8
  let t := s.poke b (s.bytes a n)
  { t with bad := t.bad ++ moved }

/-- A sector leaves a slice: its bytes go to the fallow bank when it is dirty (R130, R138). -/
def State.dropSector (s : State) (h : Home) (k : Nat) : State :=
  match (s.home h).sector k with
  | some e =>
    let s := if e.dirty then s.copyBytes (cacheKey k) k 256 else s
    (s.poke (cacheKey k) (List.replicate 256 0)).updHome h fun x => { x with l2 := x.l2.filter fun e => e.key != k }
  | none => s

/-- A sector of a page is held: one that is missing is filled from the fallow bank (R130). -/
def State.fillSector (s : State) (h : Home) (pg : Nat × Nat) (k : Nat) : State :=
  match (s.home h).sector k with
  | some e =>
    if e.pages.contains pg then s
    else s.updHome h fun x => { x with l2 := mapIf (fun y => y.key == k) (fun y => { y with pages := pg :: y.pages }) x.l2 }
  | none => (s.copyBytes k (cacheKey k) 256).updHome h fun x => { x with l2 := x.l2 ++ [{ key := k, pages := [pg] }] }

/-- The sectors that a slice gives up now, to make room (R138). -/
def State.ageSectors (s : State) (h : Home) : State :=
  (s.home h).l2.foldl (fun t e => if Config.evicts s.clk e.key then t.dropSector h e.key else t) s

/-- The slice of the same die that homes an address (R116). -/
def sliceBeside (h : Home) (va : Word) : Home := match h with | .slice d _ => .slice d (sliceOf va) | h => h

/-- The slices hold the sectors over n bytes at va of a page, at bank byte p. -/
def State.cachePage (s : State) (h : Home) (pg : Nat × Nat) (va : Word) (p n : Nat) : State :=
  (sectorsOf p n).foldl (fun t k =>
    let h := sliceBeside h (BitVec.ofNat 64 (va.toNat + k - p))
    (t.ageSectors h).fillSector h pg k) s

/-- R148: the dirty sectors of an address's page are written back, and all of its sectors go. -/
def State.flushPage (s : State) (h : Home) (va : Word) : State :=
  (s.home h).l2.foldl (fun t e =>
    if e.pages.any fun g => decide (g.1 ≤ va.toNat ∧ va.toNat < g.1 + g.2) then t.dropSector h e.key else t) s

/-! ## The TLB of a home (R124, R125; log entry 10) -/

/-- Entries of a home's TLB (R124). -/
def tlbSize : Home → Nat
  | .slice _ _ => 4096 | .core _ => 64 | .cxl _ => 256

/-- A walk's leaf enters the home's TLB, the oldest entry leaving a full one, and A is set in the entry
(R124). -/
def State.tlbLoad (s : State) (h : Home) (base size : Nat) (e : Word) (a : Nat) : State :=
  let e := e ||| 0x10#64
  let s := s.poke a (bytesOf 1 e.toNat)
  s.updHome h fun x =>
    let t := x.tlb ++ [{ base := base, size := size, pte := e }]
    { x with tlb := if tlbSize h < t.length then t.drop 1 else t }

/-- The cached translation of an address. -/
def State.tlbHit (s : State) (h : Home) (va : Word) : Option TlbEntry :=
  (s.home h).tlb.find? fun e => decide (e.base ≤ va.toNat ∧ va.toNat < e.base + e.size)

/-- The leaf of an address at its home, from the TLB or by a walk that fills it. -/
def State.leaf (s : State) (h : Home) (va : Word) : State × WRes :=
  match s.tlbHit h va with
  | some e => (s, .leaf e.base e.size e.pte 0)
  | none =>
    match walk s h va with
    | .leaf b n e a => (s.tlbLoad h b n e a, .leaf b n (e ||| 0x10#64) a)
    | r => (s, r)

/-- D is set at the first write through a translation, in the cached leaf and in the entry (R124). -/
def State.setDirty (s : State) (h : Home) (va : Word) : State :=
  match s.tlbHit h va with
  | some e =>
    if bitOf e.pte 5 then s
    else
      let s := s.updHome h fun x =>
        { x with tlb := mapIf (fun t => t.base == e.base && t.size == e.size) (fun t => { t with pte := t.pte ||| 0x20#64 }) x.tlb }
      match walk s h va with
      | .leaf _ _ p a => s.poke a (bytesOf 1 (p ||| 0x20#64).toNat)
      | _ => s
  | none => s

/-- The sectors of a slice over n bytes from a become dirty, where a is the number of a byte that it holds (R138). -/
def State.soil (s : State) (h : Home) (va : Word) (a n : Nat) : State :=
  if a < 2 ^ 62 then s
  else
    (sectorsOf (a - 2 ^ 62) n).foldl (fun t k =>
      t.updHome (sliceBeside h (BitVec.ofNat 64 (va.toNat + k - (a - 2 ^ 62)))) fun x =>
        { x with l2 := mapIf (fun y => y.key == k) (fun y => { y with dirty := true }) x.l2 }) s

/-- The bytes of a write through a translation go to memory, at memory number a (R124, R138). -/
def State.writeAt (s : State) (h : Home) (va : Word) (a : Nat) (b : List Byte) : State :=
  ((s.setDirty h va).soil h va a b.length).poke a b

/-- Where a leaf puts an address (R121). -/
def leafPhys (d : DieId) (e : Word) (size : Nat) (va : Word) : Nat :=
  let o := va.toNat % size
  match pteKind e with
  | 1 => dramKey d (fieldOf e 24 35 + o)
  | 2 => bankKey (d * 256 + fieldOf e 24 8) (fieldOf e 32 6 * 65536 + o)
  | _ => hostKey (d / 64) (fieldOf e 24 36 * 65536 + o)

/-! ## The checks of a home -/

/-- An access as its home sees it. `eng` is the command that makes it. -/
structure Req where
  home : Home
  va : Word
  size : Nat
  write : Bool
  exec : Bool := false
  user : Bool
  launch : W32
  lmod : Nat
  eng : Option Nat := none
  locks : Bool := true
  deriving DecidableEq, Repr

/-- What the checks say. `wait` is that of a granule whose home takes no request now (R132, R172), `lost` that of a home
that the switches do not reach (R115). -/
inductive HRes where
  | ok (phys : Nat) (pte : Word) (base size : Nat)
  | park (r : Reason) (base size : Nat)
  | area
  | isol
  | lock
  | fwd (d : DieId)
  | wait
  | lost
  deriving DecidableEq, Repr

/-- A bank offset in one of the areas of R24. -/
def inArea (o size : Nat) : Bool :=
  decide ((o < 0x200000 ∧ 0x1F8000 < o + size) ∨ 0x380000 < o + size)

/-- Two ranges overlap. -/
def overlaps (a n b m : Nat) : Bool := decide (a < b + m ∧ b < a + n)

/-- Where an address of this home lies now, when its walk reaches a leaf. -/
def State.physOf (s : State) (h : Home) (va : Word) : Option Nat :=
  match s.tlbHit h va with
  | some e => some (leafPhys (homeDie h) e.pte e.size va)
  | none =>
    match walk s h va with
    | .leaf _ n e _ => some (leafPhys (homeDie h) e n va)
    | _ => none

/-- Where an access counts for the orders and the scopes: one to a host frame, whose leaf has KIND 3, counts at the CXL port
of its module, as host space does (R152, R154, R168; log entry 110). -/
def State.seen (s : State) (h : Home) (va : Word) : Home :=
  match h with
  | .slice d _ =>
    match s.physOf h va with
    | some a => if 2 ^ 61 ≤ a ∧ a < 2 ^ 62 then .cxl (d / 64) else h
    | none => h
  | h => h

/-- The ranges of memory numbers behind n bytes of a core's local store from va, page by page, as far as they are mapped;
more than `fuel` pages are never looked at. -/
def State.storePieces (s : State) (va n : Nat) : Nat → List (Nat × Nat)
  | 0 => []
  | fuel + 1 =>
    let w : Word := BitVec.ofNat 64 va
    let room := min n (65536 - va % 65536)
    let rest := if n ≤ room then [] else s.storePieces (va + room) (n - room) fuel
    match s.physOf (.core (lsOwner w)) w with
    | some a => (a, room) :: rest
    | none => rest

/-- The ranges of memory numbers that a range of addresses or bank bytes has in the banks of cores. -/
def Rng.pieces (s : State) : Rng → List (Nat × Nat)
  | .bank l lo n => [(bankKey l lo, n)]
  | .va lo n => if spaceOf (BitVec.ofNat 64 lo) = .ls then s.storePieces lo n 66 else []

/-- The access falls into this lock's range: by its address, or by its bytes in a core's banks (R142, R143). -/
def Lock.covers (k : Lock) (r : Req) (phys : Nat) : Bool :=
  (match k.rng with
    | .va lo len => overlaps r.va.toNat r.size lo len
    | .bank _ _ _ => false) ||
  k.bank.any fun b => overlaps phys r.size b.1 b.2

/-- R143, R315: the access meets this lock. A command never meets its own, and in a range that it holds itself
(`own`) it comes before the commands accepted after it. -/
def Lock.meets (k : Lock) (r : Req) (phys : Nat) (own : Bool) : Bool :=
  k.covers r phys && (k.dst || r.write) &&
  match r.eng with
  | some c => k.cmd != c && (!own || decide (k.cmd < c))
  | none => true

/-- R143: some lock is met. A sector's byte counts as that of its bank. -/
def State.locked (s : State) (r : Req) (phys : Nat) : Bool :=
  let phys := phys % 2 ^ 62
  let own := match r.eng with | some c => s.locks.any fun k => k.cmd == c && k.covers r phys | none => false
  r.locks && s.locks.any fun k => k.meets r phys own

/-- The parked entry on a fault page that holds the address, if there is one (R126). -/
def State.parkedOn (s : State) (h : Home) (va : Word) : Option FEntry :=
  (s.home h).faults.find? fun e => decide (e.base ≤ va.toNat ∧ va.toNat < e.base + e.size)

/-- R123, R126, R129, R24, R40, R143: the checks of a home on an access, in the order translation, hardware
area, permission, lock. A hardware area refuses the access without parking, also on a page with parked entries. The state
changes in TLB and A, and a page in a fallow core is answered from the L2 sectors of its slice (R130). A user's DM or spread
access to a hardware area through such a page is no LS access, and is performed (R24, R123; log entry 102). -/
def State.check (s : State) (r : Req) : State × HRes :=
  let page := r.va.toNat / 65536 * 65536
  let ls := spaceOf r.va == .ls
  let owner := lsOwner r.va
  let area (p : Nat) : Bool := ls && r.user && inArea (p % 2 ^ 22) r.size
  if ls && s.isolRefuses r.user r.launch r.lmod owner then (s, .isol)
  else
    match s.parkedOn r.home r.va with
    | some e =>
      if !(ls && (s.core owner).fallow) && (s.physOf r.home r.va).any area then (s, .area) else (s, .park e.reason e.base e.size)
    | none =>
      if ls && (s.core owner).fallow then (s, .park .fallow page 65536)
      else
        match s.leaf r.home r.va with
        | (s, .fault e) => (s, .park e page 65536)
        | (s, .fwd e) => (s, .fwd (fieldOf e 24 8 * 64 + fieldOf e 32 4 * 4 + fieldOf e 36 2))
        | (s, .leaf b n e _) =>
          let p := leafPhys (homeDie r.home) e n r.va
          if area p then (s, .area)
          else if (r.write && !pteW e) || (r.exec && !pteX e) || (r.user && !pteU e) then (s, .park .permission b n)
          else if s.locked r p then (s, .lock)
          else if pteKind e = 2 && !ls then (s.cachePage r.home (b, n) r.va p r.size, .ok (cacheKey p) e b n)
          else (s, .ok p e b n)

/-! ## Counting writes to spread granules (R131) -/

/-- R131: a request from a die to a spread granule counts, or starts the count again. -/
def TlbEntry.count (e : TlbEntry) (own die : DieId) (write : Bool) : TlbEntry :=
  if 64 ≤ e.writes then e
  else if write && die != own then
    if e.writer = some die then { e with writes := e.writes + 1 } else { e with writes := 1, writer := some die }
  else { e with writes := 0, writer := none }

/-- The home counts a request that it performs. -/
def State.countReq (s : State) (h : Home) (src : Loc) (va : Word) (write : Bool) : State :=
  if spaceOf va = .spread then
    s.updHome h fun x =>
      { x with tlb := mapIf (fun e => e.size == 65536 && decide (e.base ≤ va.toNat ∧ va.toNat < e.base + e.size))
                 (fun e => e.count (homeDie h) (Loc.dieId src) write) x.tlb }
  else s

/-- The granule is on the way to its new home, so the slice takes no request to it (R132 step 1). -/
def State.moving (s : State) (h : Home) (va : Word) : Bool :=
  spaceOf va == .spread && match s.tlbHit h va with | some e => decide (64 ≤ e.writes) | none => false

/-! ## Requests that a home passed on (R132, R172) -/

/-- The packet is a request that travels to a home and takes its place in the order of its route (R151). -/
def PKind.isRequest : PKind → Bool
  | .load _ _ _ _ => true | .store _ _ => true | .word _ => true | .amo _ _ _ _ => true | .post _ _ _ => true
  | .ldf _ => true | .stf _ _ _ => true | .record => true | .taskDec _ => true | .joinInc => true | .joinDec => true
  | .lane _ _ _ => true | .vldf _ _ => true | .marker _ => true | .tlbInv _ => true | .spread => true
  | .flock _ _ _ _ _ _ _ => true | .hot _ => true | .hotTest _ _ _ _ _ _ => true
  | _ => false

/-- A packet that a reduction window made carries no thread; its sender is the module's switch (R167). -/
def Pkt.merged (p : Pkt) : Bool := p.via.any fun h => match h with | .cxl _ => true | _ => false

/-- The home that the request was sent to first: for a spread access, that of the die which its spread-table entry named
(R132, R154). -/
def Pkt.named (p : Pkt) : Home := if p.merged then p.home else p.via.getLast?.getD p.home

/-- Where a packet counts for the orders and the scopes. -/
def State.seenAt (s : State) (p : Pkt) : Home := s.seen p.named p.va

/-- A request that another home has passed on to home h, for the granule of an address (R132). -/
def Pkt.passed (q : Pkt) (h : Home) (va : Word) : Bool :=
  q.kind.isRequest && q.home == h && spaceOf q.va == .spread && spaceOf va == .spread && granuleOf q.va == granuleOf va &&
  !q.via.isEmpty && !q.merged

/-- The page of an address at a home: its leaf's, or the 64 KiB range when no walk reaches one (R126). -/
def State.pageAt (s : State) (h : Home) (va : Word) : Nat × Nat :=
  match s.tlbHit h va with
  | some e => (e.base, e.size)
  | none => match walk s h va with | .leaf b n _ _ => (b, n) | _ => (va.toNat / 65536 * 65536, 65536)

/-- Two addresses lie in one page of a home. -/
def State.onePage (s : State) (h : Home) (a b : Word) : Bool :=
  let (x, n) := s.pageAt h a
  decide (x ≤ b.toNat ∧ b.toNat < x + n)

/-- A released request that still waits at the home for this address, which comes before any later one to the page (R149). -/
def State.resumes (s : State) (q : Pkt) (h : Home) (va : Word) : Bool :=
  q.replay && q.kind.isRequest && q.home == h && s.onePage h q.va va

/-- R132: the NI of core l drops its entry of the granule, to fetch it again. -/
def State.dropSpread (s : State) (l : Loc) (id : W32) (m : Nat) (va : Word) : State :=
  s.updCore l fun c =>
    { c with spread := c.spread.filter fun e => !(e.1 == id && e.2.1 == m && e.2.2.1 == granuleOf va) }

/-- More forwarding leaves than a granule can have (R132): one for each die of the largest pod. -/
def maxForwards : Nat := 16384

/-- An access that no packet carries (an instruction fetch, an engine's, a decoded vector load's or a Flock hold's) at its
home and at those that pass it on, from core l: it waits while the granule moves and for what has been passed on before
it, and the home that performs it counts it (R131, R132, R172). -/
def State.through (s : State) (l : Loc) (r : Req) : Nat → State × Home × HRes
  | 0 => (s, r.home, .wait)
  | n + 1 =>
    if !s.answers (Loc.module l) (homeMod r.home) then
      (s, r.home, if s.goneFrom (Loc.module l) (homeMod r.home) then .lost else .wait)
    else if s.moving r.home r.va || s.net.any fun q => q.passed r.home r.va || s.resumes q r.home r.va then
      (s, r.home, .wait)
    else
      match s.check r with
      | (s, .fwd d) =>
        (s.dropSpread l r.launch r.lmod r.va).through l { r with home := .slice d (sliceOf r.va) } n
      | (s, .ok p e b z) => (s.countReq r.home l r.va r.write, r.home, .ok p e b z)
      | (s, x) => (s, r.home, x)

end Sys2Proof.Machine
end

