-- ==== Sys2Proof/Machine/Operands.lean ====
section
/-! DEFINITION. Operands: `src` and `put` of R215 in every form that the register name field (R177) and the V
format (R180, R287) give, the ports with their queues (R179, R307, R309, R128), and results that arrive later
(R216, R256). -/

namespace Sys2Proof.Machine

open Sys2Proof

/-! ## Ports -/

/-- The engine port behind a port code. -/
def eportOf : Port → Option EPort
  | .qpav => some .pav | .qcpy => some .cpy | .qgln => some .gln | .qtrl => some .trl
  | _ => none

/-- The engine that a thread's port leads to (R17, R28). -/
def engOf (l : Loc) : EPort → Eng
  | .pav => .pavilion (Loc.pav l)
  | .cpy => .barrow (Loc.quadId l)
  | .gln => .gleaner l
  | .trl => .trellis (Loc.quadId l)

/-- R178: naming this register is a PRIVILEGE violation for the thread. -/
def Frame.portDenied (f : Frame) : Reg → Bool
  | .port .qevt => !f.priv
  | .port .qpav => !f.anch
  | .port .qcpy => !f.anch
  | .port .qtrl => !f.anch
  | _ => false

/-- R183: PRIVILEGE comes before any operand is read. -/
def guardPorts (s : State) (rs : List Reg) (k : Unit → Eff) : Eff :=
  if rs.any s.my.portDenied then .trap .privilege 0 0 else k ()

/-- The next word of a port and the state with it popped (R179, R307, R309). A BOUNDS trap that R340 ties to a
completion word is due once the word is popped. -/
def State.pop (s : State) (p : Port) : Option (Word × State) :=
  match eportOf p with
  | some e =>
    match (s.my.port e).words with
    | [] => none
    | (w, b) :: r =>
      some (w, s.updMy fun f =>
        { f.setPort e { f.port e with opened := (f.port e).opened - 1, words := r } with bounds := b.orElse fun _ => f.bounds })
  | none =>
    let c := s.core s.cur.loc
    match p with
    | .qmsg =>
      match c.msgs with
      | [] => none
      | w :: r => some (w, s.updCore s.cur.loc fun c => { c with msgs := r })
    | _ =>
      match c.qevt with
      | [] => none
      | w :: r => some (w.1, s.updCore s.cur.loc fun c => { c with qevt := r })

/-- R215: read a source and go on with its value; a port's word is popped in the state handed on. -/
def src (s : State) (r : Reg) (t : Bool) (k : Word → State → Eff) : Eff :=
  match r with
  | .z => k 0 s
  | .g n =>
    if s.my.full.getLsbD n then
      if s.my.poisoned.getLsbD n then .trap .poison 0 0 else k s.my.g[n] s
    else if t || s.my.fe then .trap .registerEmpty 0 0 else .wait
  | .port p =>
    match s.pop p with
    | some (w, s) => k w s
    | none => if t || s.my.fe then .trap .registerEmpty 0 0 else .waitFor (.popPort p)

/-! ## Pushes -/

/-- R128: what a resolution word pushed to `qevt` names: home, queue index, and whether it is DENY. -/
def resolution (l : Loc) (v : Word) : Option (Home × Nat × Bool) :=
  let ix := fieldOf v 20 8
  let ok := fieldOf v 0 8 == 0x90 && fieldOf v 10 9 == 0 && fieldOf v 36 28 == 0 && decide (fieldOf v 8 2 < 2)
  if !ok then none
  else
    let q := fieldOf v 28 8
    let deny := fieldOf v 8 2 == 1
    if bitOf v 19 then some (.core (Loc.dieId l * 256 + ix), q, deny)
    else if ix < 64 then some (.slice (Loc.dieId l) ix, q, deny)
    else if ix = 0xFF then some (.cxl (Loc.module l), q, deny)
    else none

/-- The core lies in the region of the thread in issue; the handler's is its module (R355). -/
def State.myRegion (s : State) (l : Loc) : Bool :=
  if s.cur.frame = 32 then Loc.module l == Loc.module s.cur.loc else s.inRegion s.my.launch s.my.lmod l

/-- Pushes that stand in an engine's intake. -/
def State.intake (s : State) (e : Eng) : List Push := s.pushes.filter fun p => p.eng == e && !p.held

/-- R307: a command value joins the engine's intake with the thread's next sequence number. -/
def State.pushCmd (s : State) (e : EPort) (v : Word) : State :=
  let f := s.my
  let x := f.port e
  let p : Push :=
    { id := s.nextId, eng := engOf s.cur.loc e, v := v, src := s.cur.loc, key := s.me, uid := f.uid, user := !f.priv
      seq := x.seq + 1, launch := f.launch, lmod := f.lmod }
  let s := s.updMy fun f => f.setPort e { x with seq := x.seq + 1, opened := x.opened + 1 }
  { s with pushes := s.pushes ++ [p], nextId := s.nextId + 1 }

/-- R309: a message leaves, or is dropped with an error record. -/
def State.sendMsg (s : State) (v : Word) : State :=
  let l := fieldOf v 3 22
  if fieldOf v 0 3 == 0 && fieldOf v 25 7 == 0 && s.myRegion l then s.send (s.mkPkt (.msg v) (.core l) 0)
  else s.record (.core s.cur.loc) 0x04 .message 0 s.my.launch s.my.lmod

/-- The port has a free entry, and the engine's intake a place for the value (R307, R312). -/
def State.portRoom (s : State) (e : EPort) : Bool :=
  decide ((s.my.port e).opened < 8) && !(e == .pav && decide (14 ≤ (s.intake (engOf s.cur.loc e)).length))

/-- R215: deliver to a port. A push to `qpav` needs the lease and one of its commands (R79, R80). -/
def pushPort (s : State) (p : Port) (v : Word) (k : State → Eff) : Eff :=
  let s := s.drain s.me
  match eportOf p with
  | some .pav =>
    let x := s.lease (Loc.pav s.cur.loc)
    if x.holder = some s.my.uid then
      if x.left = 0 || !s.portRoom .pav then .waitFor (.pushPort p)
      else k ((s.updLease (Loc.pav s.cur.loc) fun x => { x with left := x.left - 1 }).pushCmd .pav v)
    else if x.waiters.contains s.me then .waitFor (.pushPort p)
    else .trap .lease 0 0
  | some e => if s.portRoom e then k (s.pushCmd e v) else .waitFor (.pushPort p)
  | none =>
    match p with
    | .qmsg => k (s.sendMsg v)
    | _ =>
      match resolution s.cur.loc v with
      | some w => k { s with words := s.words ++ [w] }
      | none => .trap .reservedField 0 0

/-! ## Results -/

/-- A general register is written now; under `solo` each member's copy goes empty until it arrives (R73). -/
def State.writeG (s : State) (n : Fin 16) (v : Word) : State :=
  let s := s.updMy fun f => f.setG n v
  s.cur.fan.foldl (fun t k =>
    (t.updFrame k fun f => f.emptyG n).send
      { t.mkPkt (.soloG n v false) (.core (keyLoc k)) 0 with key := k, uid := (t.frame k).uid, fan := [] }) s

/-- The general register that a packet brings a value to, now or by its reply. -/
def PKind.fills : PKind → Option (Fin 16)
  | .load _ _ d _ => d
  | .result d _ _ _ _ => some d
  | .soloG d _ _ => some d
  | _ => none

/-- An earlier result is still on its way to register n of frame k, from a request that may be parked (R216, R256). -/
def State.owed (s : State) (k : Nat) (n : Fin 16) : Bool :=
  let mine (p : Pkt) : Bool := p.kind.fills == some n && ((p.key == k && p.uid == (s.frame k).uid) || p.fan.contains k)
  (s.net ++ s.parkedPkts).any mine

/-- A result may be written: no earlier one is still on its way to the register, on any frame that this instruction
writes. -/
def State.canWriteG (s : State) (n : Fin 16) : Bool :=
  let may (k : Nat) : Bool := (s.frame k).full.getLsbD n || !s.owed k n
  may s.me && s.cur.fan.all may

/-- R215, R216: deliver a result and go on. -/
def put (s : State) (r : Reg) (v : Word) (k : State → Eff) : Eff :=
  match r with
  | .z => k s
  | .g n => if s.canWriteG n then k (s.writeG n v) else .wait
  | .port p => pushPort s p v k

/-- Mark a general destination empty, on every frame that gets the result. -/
def State.emptyDest (s : State) (n : Fin 16) : State :=
  s.cur.fan.foldl (fun t k => t.updFrame k fun f => f.emptyG n) (s.updMy fun f => f.emptyG n)

/-- R163: an instruction that pops a completion word is an acquire at `.sys` until its destination is full. -/
def popAcq (rs : List Reg) : Option Scope :=
  if rs.any fun r => match r with | .port p => (eportOf p).isSome | _ => false then some .sys else none

/-- R216: the result of a long-latency instruction: a general register goes empty until it arrives; a port is
pushed while the slot is held. -/
def putLate (s : State) (r : Reg) (v : Word) (acq : Option Scope) (k : State → Eff) : Eff :=
  match r with
  | .g n =>
    if s.canWriteG n then
      k ((s.emptyDest n).send (s.mkPkt (.result n v false true acq) (.core s.cur.loc) 0))
    else .wait
  | r => put s r v k

/-- An instruction of one source (R217, R219). -/
def aluOne (s : State) (d a : Reg) (ta : Bool) (f : Word → Word) : Eff :=
  guardPorts s [d, a] fun _ => src s a ta fun x s => put s d (f x) fun s => .done s .seq

/-- An instruction of two sources (R217). -/
def aluTwo (s : State) (d a b : Reg) (ta tb : Bool) (f : Word → Word → Word) : Eff :=
  guardPorts s [d, a, b] fun _ =>
    src s a ta fun x s => src s b tb fun y s => put s d (f x y) fun s => .done s .seq

/-- A long-latency instruction of two sources (R216). -/
def lateTwo (s : State) (d a b : Reg) (ta tb : Bool) (f : Word → Word → Word) : Eff :=
  guardPorts s [d, a, b] fun _ =>
    src s a ta fun x s => src s b tb fun y s => putLate s d (f x y) (popAcq [a, b]) fun s => .done s .seq

/-- A long-latency instruction of one source (R216). -/
def lateOne (s : State) (d a : Reg) (ta : Bool) (f : Word → Word) : Eff :=
  guardPorts s [d, a] fun _ => src s a ta fun x s => putLate s d (f x) (popAcq [a]) fun s => .done s .seq

/-! ## Vector operands (R285-R287) -/

/-- The width of an element type. -/
def vtyBits : VTy → Nat
  | .i32 => 32 | .f32 => 32 | .f16 => 16 | .bf16 => 16 | .i16 => 16 | .i8 => 8

/-- Element e of a 512-bit value with w-bit elements. -/
def elemOf (w : Nat) (x : BitVec 512) (e : Nat) : Nat := bitsOf x.toNat (w * e) w

/-- A 512-bit value from its elements, lowest first. -/
def packElems (w : Nat) : List Nat → Nat
  | [] => 0
  | x :: r => x % 2 ^ w + 2 ^ w * packElems w r

/-- A 512-bit value whose element e is f e. -/
def buildVec (w : Nat) (f : Nat → Nat) : BitVec 512 := BitVec.ofNat 512 (packElems w ((List.range (512 / w)).map f))

/-- Element e of width w is active under MK (R286). -/
def Frame.active (f : Frame) (k : Fin 8) (w e : Nat) : Bool :=
  k.val == 0 || (f.m.toList.getD k.val 0).getLsbD (e * w / 32)

/-- Read a vector register, once no `vfdiv` result is on its way to it (R287). Bad parity traps (R362). -/
def vread (s : State) (n : Fin 16) (k : BitVec 512 → Eff) : Eff :=
  if s.my.vbusy.getLsbD n then .wait
  else if s.my.par.v.getLsbD n then .trap .uncorrectable 0 0
  else k s.my.v[n]

/-- The elements of a destination as they were, which only a masked instruction reads (R286). -/
def vold (s : State) (n : Fin 16) (mk : Fin 8) (k : BitVec 512 → Eff) : Eff :=
  if mk.val = 0 then (if s.my.vbusy.getLsbD n then .wait else k s.my.v[n]) else vread s n k

/-- Read VA or VB with element width w: a register, or a scalar in every element (R287). -/
def vsrc (s : State) (w : Nat) (r : VSrc) (k : BitVec 512 → Eff) : Eff :=
  match r with
  | .v n => vread s n k
  | .g n => src s (.g n) false fun x _ => k (buildVec w fun _ => x.toNat)

/-- Write a vector register; under `solo` each member's copy waits for its arrival (R73). -/
def vput (s : State) (n : Fin 16) (v : BitVec 512) (k : State → Eff) : Eff :=
  if s.my.vbusy.getLsbD n || s.cur.fan.any fun j => (s.frame j).vbusy.getLsbD n then .wait
  else
    let s := s.updMy fun f => f.setV n v
    k (s.cur.fan.foldl (fun t j =>
      (t.updFrame j fun f => { f with vbusy := f.vbusy ||| BitVec.twoPow 16 n }).send
        { t.mkPkt (.soloV n v) (.core (keyLoc j)) 0 with key := j, uid := (t.frame j).uid, fan := [] }) s)

/-- A vector result that arrives later (`vfdiv`, R287). -/
def vputLate (s : State) (n : Fin 16) (v : BitVec 512) (k : State → Eff) : Eff :=
  if s.my.vbusy.getLsbD n || s.cur.fan.any fun j => (s.frame j).vbusy.getLsbD n then .wait
  else
    let busy (t : State) (j : Nat) : State := t.updFrame j fun f => { f with vbusy := f.vbusy ||| BitVec.twoPow 16 n }
    k ((s.cur.fan.foldl busy (busy s s.me)).send (s.mkPkt (.vresult n v) (.core s.cur.loc) 0))

/-- A mask register is written (R286). -/
def State.writeM (s : State) (n : Fin 8) (v : BitVec 16) : State := s.updMy fun f => f.setM n v

/-- R37: only an anchored thread goes on. -/
def anchored (s : State) (k : Unit → Eff) : Eff := if s.my.anch then k () else .trap .privilege 0 0

/-- Supervisor only. -/
def supervisor (s : State) (k : Unit → Eff) : Eff := if s.my.priv then k () else .trap .privilege 0 0

end Sys2Proof.Machine
end

