-- ==== Sys2Proof/Machine/Fault.lean ====
section
/-! DEFINITION. Fault queues and fault events (R126-R128), spread-table entries (R117, R118), and the fetch of
instruction words (R170, R174, R232). -/

namespace Sys2Proof.Machine

open Sys2Proof

/-! ## Parking (R126, R127, R128) -/

/-- The origin code of R128. -/
def Parked.origin : Parked → Nat
  | .thread _ => 0
  | .request p =>
    match p.kind with
    | .store _ _ => 2 | .word _ => 2 | .post _ _ _ => 2 | .stf _ _ probe => if probe then 1 else 2 | .taskDec ret => if ret then 1 else 2 | .joinDec => 2
    | .hot _ => 2 | .hotTest _ _ _ _ _ _ => 2
    | _ => 1
  | .engine _ => 3
  | .flock _ => 4
  | .task _ _ => 5
  | .fetch _ => 6

/-- The lowest free index of a fault queue (log entry 11); none when its 256 entries are taken. -/
def freeIndex (fs : List FEntry) : Option Nat := (List.range 256).find? fun i => fs.all fun e => e.idx != i

/-- What a fault event says of the request: write, execute and user (R128). -/
structure FBits where
  write : Bool := false
  exec : Bool := false
  user : Bool := true
  deriving DecidableEq, Repr

/-- R128: the three words of a fault event. -/
def faultEvent (h : Home) (r : Reason) (o : Nat) (b : FBits) (ix : Nat) (va : Word) (id : W32) (m : Nat) : List Word :=
  let (kd, hx) := homeCode h
  [BitVec.ofNat 64 (0x10 + r.code * 2 ^ 8 + o * 2 ^ 12 + b.write.toNat * 2 ^ 16 + b.exec.toNat * 2 ^ 17 +
      b.user.toNat * 2 ^ 18 + kd * 2 ^ 19 + hx * 2 ^ 20 + ix * 2 ^ 28),
    BitVec.ofNat 64 (fieldOf va 0 57), launchWord id m]

/-- R126: an item parks at a home. The first entry of a fault page posts its event; later ones join it. None when
the queue is full (R127). -/
def State.park (s : State) (h : Home) (r : Reason) (base size : Nat) (item : Parked) (va : Word) (b : FBits) (id : W32)
    (m : Nat) : Option State :=
  match freeIndex (s.home h).faults with
  | none => none
  | some ix =>
    let first := (s.parkedOn h va).isNone
    let s := s.updHome h fun x =>
      { x with faults := x.faults ++ [{ idx := ix, base := base, size := size, reason := r, item := item, va := va }] }
    some (if first then s.eventAt h (faultEvent h r item.origin b ix va id m) else s)

/-- R68: the context of an idempotent task is freed, and its buffered stores are discarded; those of an earlier thread that
still drain go on. The thread counts as ended, while the task's share stays in the outstanding count (log entry 104). -/
def State.dropTask (s : State) (k : Nat) : State :=
  let s := match s.slotOf k with
    | some n => s.updSlot (keyLoc k) n fun x => if x.draining then x else { x with tsb := [] }
    | none => s
  s.threadEnd k

/-- R126, first row, and R68: a thread at home parks: it stays in its frame, unbound, in a long wait. An
idempotent task's stores are discarded, its context is freed and its entry parks instead. With the fault queue full
the thread waits in its frame and looks again in 64 clk (R127). -/
def State.parkThread (s : State) (k : Nat) (fetch : Bool) (h : Home) (r : Reason) (base size : Nat) (va : Word)
    (b : FBits) : State :=
  let f := s.frame k
  let l := keyLoc k
  let asTask := f.idem && !fetch
  let item := match f.task with
    | some t => if asTask then Parked.task t l else if fetch then .fetch k else .thread k
    | none => if fetch then .fetch k else .thread k
  match s.park h r base size item va b f.launch f.lmod with
  | none =>
    s.updFrame k fun f => { f with wait := some (.queued (s.clk + 64)), since := s.clk }
  | some s =>
    match item with
    | .task _ _ => s.dropTask k
    | _ =>
      let s := match s.slotOf k with | some n => s.unbind l n | none => s
      s.updFrame k fun f => { f with wait := some (.parked h va), since := s.clk }

/-! ## Spread-table entries (R117, R118) -/

/-- The table's pointer for a launch; 0 when it has none. -/
def State.spreadPtr (s : State) (id : W32) (m : Nat) : Word :=
  match s.launchOf id m with
  | some l => l.lr.spread
  | none => 0

/-- The cached entry of a granule; bit 32 marks a granule beyond the table (R117). -/
def State.spreadEntry (s : State) (l : Loc) (id : W32) (m g : Nat) : Option Word :=
  ((s.core l).spread.find? fun e => e.1 == id && e.2.1 == m && e.2.2.1 == g).map fun e => e.2.2.2

/-- The die that an entry names, or nothing when it raises PROTECTION (R117). -/
def spreadDie (e : Word) : Option DieId :=
  if fieldOf e 14 19 = 0 then some (fieldOf e 0 8 * 64 + fieldOf e 8 4 * 4 + fieldOf e 12 2) else none

/-- An entry enters the NI's cache of 64, the oldest leaving a full one. -/
def State.spreadLoad (s : State) (l : Loc) (id : W32) (m g : Nat) (e : Word) : State :=
  s.updCore l fun c =>
    let t := (c.spread.filter fun x => !(x.1 == id && x.2.1 == m && x.2.2.1 == g)) ++ [(id, m, g, e)]
    { c with spread := if 64 < t.length then t.drop 1 else t }

/-- What is known of the home of an address at issue. -/
inductive HomeAt where
  | home (h : Home)
  | denied
  | fetching
  deriving DecidableEq, Repr

/-- The home of an address for a thread of a launch at core l (R115-R118). -/
def State.homeAt (s : State) (l : Loc) (id : W32) (m : Nat) (va : Word) : HomeAt :=
  match spaceOf va with
  | .spread =>
    let p := s.spreadPtr id m
    if p = 0 ∨ p.toNat % 64 ≠ 0 ∨ vaBad p ∨ spaceOf p ≠ .dm then .denied
    else
      match s.spreadEntry l id m (granuleOf va) with
      | none => .fetching
      | some e => match spreadDie e with | some d => .home (.slice d (sliceOf va)) | none => .denied
  | _ => .home (homeOf (Loc.module l) va)

/-- The NI asks for a granule's entry, once. -/
def State.askSpread (s : State) (va : Word) : State :=
  let f := s.my
  let p := s.spreadPtr f.launch f.lmod
  let a := p + BitVec.ofNat 64 (64 + 4 * granuleOf va)
  if s.net.any fun q => q.kind == .spread && q.src == s.cur.loc && q.launch == f.launch && q.va == a then s
  else s.send { s.mkPkt .spread (homeOf (Loc.module s.cur.loc) a) a with fan := [] }

/-! ## Homes of addresses that no packet names -/

/-- Why an access that no packet carries stops, at which address. -/
inductive VStop where
  | cause (c : Cause) (va : Word)
  | park (h : Home) (r : Reason) (base size : Nat) (va : Word)
  | lost (va : Word)
  | wait
  deriving DecidableEq, Repr

/-- What stops an access with this outcome. -/
def VStop.of (h : Home) (va : Word) : HRes → VStop
  | .park r b n => .park h r b n va
  | .area => .cause .protection va
  | .isol => .cause .remoteDenied va
  | .lock => .cause .rangeLocked va
  | .lost => .lost va
  | .wait => .wait
  | _ => .cause .translation va

/-- The home of an address for a launch at core l. A spread-table entry that the NI does not hold is read at its
home first (R117, R118). -/
def State.findHome (s : State) (l : Loc) (user : Bool) (id : W32) (m : Nat) (va : Word) : State × Except VStop Home :=
  match s.homeAt l id m va with
  | .home h => (s, .ok h)
  | .denied => (s, .error (.cause .protection va))
  | .fetching =>
    let ptr := s.spreadPtr id m
    let g := granuleOf va
    let a := ptr + BitVec.ofNat 64 (64 + 4 * g)
    let req (va : Word) : Req :=
      { home := homeOf (Loc.module l) va, va := va, size := 4, write := false, user := user, launch := id, lmod := m }
    match s.through l (req ptr) 1 with
    | (s, _, .ok p _ _ _) =>
      if s.isBad p 4 then (s, .error (.cause .uncorrectable ptr))
      else if s.num p 4 ≤ g then (s, .error (.cause .protection va))
      else
        match s.through l (req a) 1 with
        | (s, _, .ok q _ _ _) =>
          if s.isBad q 4 then (s, .error (.cause .uncorrectable a)) else
          let e : Word := BitVec.ofNat 64 (s.num q 4)
          let s := s.spreadLoad l id m g e
          match spreadDie e with
          | some d => (s, .ok (.slice d (sliceOf va)))
          | none => (s, .error (.cause .protection va))
        | (s, h, r) => (s, .error (VStop.of h a r))
    | (s, h, r) => (s, .error (VStop.of h ptr r))

/-! ## The frame window (R358) -/

/-- The address lies in a core's frame window; the frame and byte it names. -/
def windowAt (va : Word) : Option (Nat × Nat) :=
  let o := fieldOf va 0 33
  if spaceOf va = .ls ∧ 2 ^ 32 ≤ o ∧ o < 2 ^ 32 + 0x800 * 33 then some ((o - 2 ^ 32) / 0x800, o % 0x800) else none

/-! ## Instruction words -/

/-- How a fetch goes. -/
inductive FetchRes where
  | word (w : W32) (phys : Nat)
  | trap (c : Cause)
  | park (h : Home) (r : Reason) (base size : Nat)
  | fetching
  deriving DecidableEq, Repr

/-- R174: the page of a fetch refuses it at once: its leaf has X = 0 or, for a user's fetch, U = 0, or the walk meets a
BADENTRY entry. -/
def State.fetchBarred (s : State) (h : Home) (user : Bool) (va : Word) : Bool :=
  match (s.leaf h va).2 with
  | .leaf _ _ e _ => !pteX e || (user && !pteU e)
  | .fault r => r == .badEntry
  | .fwd _ => false

/-- A fetch at its home (R132, R174). One that a closed region refuses raises REMOTE_DENIED (log entry 92). A page that
bars the fetch does so whatever is parked on it, but a core in fallow state parks every access (R129). -/
def fetchAt (s : State) (user : Bool) (id : W32) (m : Nat) (va : Word) (h : Home) : State × FetchRes :=
  let r : Req :=
    { home := h, va := va, size := 4, write := false, exec := true, user := user, launch := id, lmod := m, locks := false }
  match s.through s.cur.loc r maxForwards with
  | (s, _, .ok p _ _ _) =>
    if s.isBad p 4 then (s, .trap .uncorrectable) else (s, .word (BitVec.ofNat 32 (s.num p 4)) p)
  | (s, h, .park e b z) =>
    let fallow := spaceOf va == .ls && (s.core (lsOwner va)).fallow
    if !fallow && s.fetchBarred h user va then (s, .trap .protection) else (s, .park h e b z)
  | (s, _, .area) => (s, .trap .protection)
  | (s, _, .isol) => (s, .trap .remoteDenied)
  | (s, _, .lock) => (s, .trap .rangeLocked)
  | (s, _, .wait) => (s, .fetching)
  | (s, _, _) => (s, .trap .translation)

/-- Fetch the word at va for the thread in issue (R115, R174). -/
def State.fetch (s : State) (va : Word) : State × FetchRes :=
  let f := s.my
  if vaBad va || (windowAt va).isSome then (s, .trap .protection)
  else
    match s.homeAt s.cur.loc f.launch f.lmod va with
    | .denied => (s, .trap .protection)
    | .fetching => (s.askSpread va, .fetching)
    | .home h => fetchAt s (!f.priv) f.launch f.lmod va h

/-- A fetched word enters the slot's buffer of 16 (R170); only words of local store are snooped. -/
def Slot.buffer (x : Slot) (va : Word) (p : Nat) (w : W32) : Slot :=
  let e : IWord := { va := va, phys := if spaceOf va = .ls then p else 0, w := w }
  let t := (x.ibuf.filter fun i => i.va != va) ++ [e]
  { x with ibuf := if 16 < t.length then t.drop 1 else t }

/-- The word at va as the slot in issue sees it: from its buffer, or fetched into it. -/
def State.word (s : State) (va : Word) : State × FetchRes :=
  match ((s.core s.cur.loc).slot s.cur.slot).ibuf.find? fun i => i.va == va with
  | some i => (s, .word i.w i.phys)
  | none =>
    match s.fetch va with
    | (s, .word w p) => (s.updSlot s.cur.loc s.cur.slot fun x => x.buffer va p w, .word w p)
    | r => r

/-- Why a capture stops: a word that the frame refuses (R232), or one that cannot be fetched. -/
inductive CapErr where
  | refused (va : Word)
  | fetch (va : Word) (r : FetchRes)
  deriving DecidableEq, Repr

/-- The words of a repeat frame from va, in order (R232); the first that is refused or cannot be read ends it. -/
def capture (s : State) (va : Word) : Nat → State × Except CapErr (List W32)
  | 0 => (s, .ok [])
  | n + 1 =>
    match s.fetch va with
    | (s, .word w _) =>
      if frameRefuses w.toNat then (s, .error (.refused va))
      else
        match capture s (va + 4) n with
        | (s, .ok r) => (s, .ok (w :: r))
        | (s, .error e) => (s, .error e)
    | (s, r) => (s, .error (.fetch va r))

end Sys2Proof.Machine
end

