-- ==== Sys2Proof/Machine/Float.lean ====
section
/-! DEFINITION. Floating-point values and arithmetic: every operation computes the exact result on naturals and
integers and rounds once (05_numbers R86-R100). -/

namespace Sys2Proof.Machine

open Sys2Proof

/-- A value: a NaN with its sign and its fraction aligned at bit 51, an infinity, or (-1)^s × m × 2^e. -/
inductive FVal where
  | nan (s : Bool) (frac : Nat)
  | inf (s : Bool)
  | fin (s : Bool) (m : Nat) (e : Int)
  deriving DecidableEq, Repr

/-- A format of R86 or R94: exponent bits and fraction bits below a sign. -/
structure Fmt where
  ew : Nat
  fw : Nat
  deriving DecidableEq, Repr

namespace Fmt

/-- binary64. -/
def f64 : Fmt := ⟨11, 52⟩
/-- binary32. -/
def f32 : Fmt := ⟨8, 23⟩
/-- binary16. -/
def f16 : Fmt := ⟨5, 10⟩
/-- BF16. -/
def bf16 : Fmt := ⟨8, 7⟩
/-- A48 (R94). -/
def a48 : Fmt := ⟨10, 37⟩

/-- Bits of the format. -/
def width (f : Fmt) : Nat := 1 + f.ew + f.fw
/-- The bias. -/
def bias (f : Fmt) : Nat := 2 ^ (f.ew - 1) - 1
/-- The exponent of the lowest bit of a subnormal. -/
def qmin (f : Fmt) : Int := 1 - (f.bias : Int) - (f.fw : Int)
/-- The sign bit. -/
def signBit (f : Fmt) : Nat := 2 ^ (f.ew + f.fw)
/-- Infinity without its sign. -/
def infBits (f : Fmt) : Nat := (2 ^ f.ew - 1) * 2 ^ f.fw
/-- The quiet bit (R87). -/
def quiet (f : Fmt) : Nat := 2 ^ (f.fw - 1)
/-- The default NaN (R86). -/
def defNaN (f : Fmt) : Nat := f.infBits + f.quiet
/-- A sign in its place. -/
def sgn (f : Fmt) (s : Bool) : Nat := if s then f.signBit else 0

/-- The value of a code (R86). -/
def value (f : Fmt) (x : Nat) : FVal :=
  let s := decide (x / f.signBit % 2 = 1)
  let e := x / 2 ^ f.fw % 2 ^ f.ew
  let m := x % 2 ^ f.fw
  if e = 2 ^ f.ew - 1 then (if m = 0 then .inf s else .nan s (m * 2 ^ (52 - f.fw)))
  else if e = 0 then .fin s m f.qmin
  else .fin s (2 ^ f.fw + m) (f.qmin + (e - 1 : Nat))

/-- The code is a NaN. -/
def isNaN (f : Fmt) (x : Nat) : Bool := decide (f.infBits < x % f.signBit)

/-- A NaN code with its quiet bit set (R87). -/
def quieten (f : Fmt) (x : Nat) : Nat := if x / f.quiet % 2 = 1 then x else x + f.quiet

end Fmt

/-- The format of FN[10:9]. -/
def fmtOf : FFmt → Fmt | .f64 => Fmt.f64 | .f32 => Fmt.f32 | .f16 => Fmt.f16 | .bf16 => Fmt.bf16

/-! ## Rounding (R96, R97) -/

/-- Whether the magnitude is rounded up: mode 0 RNE, 1 RTZ, 2 RUP, 3 RDN (R96); `odd` is the kept last bit, `half`
compares the rest with one half (2 × rest against the unit), `any` says the rest is not zero. -/
def roundsUp (mode : Nat) (s odd : Bool) (half : Ordering) (any : Bool) : Bool :=
  match mode with
  | 0 => half == .gt || (half == .eq && odd)
  | 1 => false
  | 2 => !s && any
  | _ => s && any

/-- m × 2^e (a little more when `st`) as a whole number of 2^q, rounded. -/
def roundAt (mode : Nat) (s : Bool) (m : Nat) (e q : Int) (st : Bool) : Nat :=
  if q ≤ e then m * 2 ^ (e - q).toNat + (if roundsUp mode s false .lt st then 1 else 0)
  else
    let k := (q - e).toNat
    let n := m / 2 ^ k
    let r := m % 2 ^ k
    let half := if 2 * r = 2 ^ k then (if st then .gt else .eq) else if 2 * r < 2 ^ k then .lt else .gt
    n + (if roundsUp mode s (decide (n % 2 = 1)) half (decide (r ≠ 0) || st) then 1 else 0)

/-- The magnitude on the grid with fw fraction bits whose lowest step is 2^qmin, as the code the format would give
it without an upper limit. -/
def roundMag (fw : Nat) (qmin : Int) (mode : Nat) (s : Bool) (m : Nat) (e : Int) (st : Bool) : Nat :=
  let q := max ((Nat.log2 m : Int) + e - fw) qmin
  (q - qmin).toNat * 2 ^ fw + roundAt mode s m e q st

/-- R97: an exact non-zero result taken to a format. -/
def Fmt.round (f : Fmt) (mode : Nat) (s : Bool) (m : Nat) (e : Int) (st : Bool) : Nat :=
  let b := roundMag f.fw f.qmin mode s m e st
  let b := if b < f.infBits then b
    else match mode with
      | 0 => f.infBits
      | 1 => f.infBits - 1
      | 2 => if s then f.infBits - 1 else f.infBits
      | _ => if s then f.infBits else f.infBits - 1
  f.sgn s + b

/-- A value in a format; NaNs are converted by R100. -/
def Fmt.code (f : Fmt) (mode : Nat) : FVal → Nat
  | .nan s p => f.sgn s + f.quieten (f.infBits + p / 2 ^ (52 - f.fw))
  | .inf s => f.sgn s + f.infBits
  | .fin s m e => if m = 0 then f.sgn s else f.round mode s m e false

/-! ## Exact arithmetic -/

/-- (-1)^s × m × 2^e as a whole number of 2^q, for q ≤ e. -/
def scaled (s : Bool) (m : Nat) (e q : Int) : Int :=
  let x : Int := (m * 2 ^ (e - q).toNat : Nat)
  if s then -x else x

/-- The sign of an exact zero sum (R89). -/
def zeroSign (mode : Nat) (s t bothZero : Bool) : Bool := if bothZero && s == t then s else mode == 3

/-- The exact sum, with the sign of R89 when it is zero. Two infinities of opposite sign have no sum. -/
def FVal.add (mode : Nat) : FVal → FVal → Option FVal
  | .nan s p, _ => some (.nan s p)
  | _, .nan s p => some (.nan s p)
  | .inf s, .inf t => if s = t then some (.inf s) else none
  | .inf s, .fin _ _ _ => some (.inf s)
  | .fin _ _ _, .inf t => some (.inf t)
  | .fin s m e, .fin t n d =>
    let q := min e d
    let x := scaled s m e q + scaled t n d q
    if x = 0 then some (.fin (zeroSign mode s t (m == 0 && n == 0)) 0 q)
    else some (.fin (decide (x < 0)) x.natAbs q)

/-- The value with the opposite sign. -/
def FVal.neg : FVal → FVal
  | .nan s p => .nan s p
  | .inf s => .inf (!s)
  | .fin s m e => .fin (!s) m e

/-- The exact product; 0 × ∞ has none. -/
def FVal.mul : FVal → FVal → Option FVal
  | .nan s p, _ => some (.nan s p)
  | _, .nan s p => some (.nan s p)
  | .inf s, .inf t => some (.inf (s != t))
  | .inf s, .fin t n _ => if n = 0 then none else some (.inf (s != t))
  | .fin s m _, .inf t => if m = 0 then none else some (.inf (s != t))
  | .fin s m e, .fin t n d => some (.fin (s != t) (m * n) (e + d))

/-- The first NaN among codes, made quiet (R87). -/
def firstNaN (f : Fmt) : List Nat → Option Nat
  | [] => none
  | x :: r => if f.isNaN x then some (f.quieten x) else firstNaN f r

/-- The code of an exact result, the default NaN when there is none. -/
def Fmt.deliver (f : Fmt) (mode : Nat) : Option FVal → Nat
  | some v => f.code mode v
  | none => f.defNaN

/-- x + y (R87, R89). -/
def Fmt.add (f : Fmt) (mode x y : Nat) : Nat :=
  match firstNaN f [x, y] with
  | some n => n
  | none => f.deliver mode ((f.value x).add mode (f.value y))

/-- x − y. -/
def Fmt.sub (f : Fmt) (mode x y : Nat) : Nat :=
  match firstNaN f [x, y] with
  | some n => n
  | none => f.deliver mode ((f.value x).add mode (f.value y).neg)

/-- x × y. -/
def Fmt.mul (f : Fmt) (mode x y : Nat) : Nat :=
  match firstNaN f [x, y] with
  | some n => n
  | none => f.deliver mode ((f.value x).mul (f.value y))

/-- ±(x × y) ± d, rounded once (R226). -/
def Fmt.fma (f : Fmt) (mode : Nat) (negP negD : Bool) (x y d : Nat) : Nat :=
  match firstNaN f [x, y, d] with
  | some n => n
  | none =>
    match (f.value x).mul (f.value y) with
    | none => f.defNaN
    | some p =>
      f.deliver mode (FVal.add mode (if negP then p.neg else p) (if negD then (f.value d).neg else f.value d))

/-- x ÷ y (R87). -/
def Fmt.div (f : Fmt) (mode x y : Nat) : Nat :=
  match firstNaN f [x, y] with
  | some n => n
  | none =>
    match f.value x, f.value y with
    | .inf _, .inf _ => f.defNaN
    | .inf s, .fin t _ _ => f.sgn (s != t) + f.infBits
    | .fin s _ _, .inf t => f.sgn (s != t)
    | .fin s m e, .fin t n d =>
      if n = 0 then (if m = 0 then f.defNaN else f.sgn (s != t) + f.infBits)
      else if m = 0 then f.sgn (s != t)
      else
        let k := f.fw + 4 + Nat.log2 n
        f.round mode (s != t) (m * 2 ^ k / n) (e - d - k) (decide (m * 2 ^ k % n ≠ 0))
    | _, _ => f.defNaN

/-- The whole square root, bit by bit. -/
def isqrtGo (n : Nat) : Nat → Nat → Nat
  | 0, r => r
  | k + 1, r => isqrtGo n k (if (r + 2 ^ k) * (r + 2 ^ k) ≤ n then r + 2 ^ k else r)

/-- floor(sqrt n). -/
def isqrt (n : Nat) : Nat := isqrtGo n (Nat.log2 n / 2 + 1) 0

/-- The square root (R222). -/
def Fmt.sqrt (f : Fmt) (mode x : Nat) : Nat :=
  match firstNaN f [x] with
  | some n => n
  | none =>
    match f.value x with
    | .inf s => if s then f.defNaN else f.infBits
    | .fin s m e =>
      if m = 0 then f.sgn s
      else if s then f.defNaN
      else
        let k := 2 * f.fw + 8
        let k := if (e - k) % 2 = 0 then k else k + 1
        let n := m * 2 ^ k
        let r := isqrt n
        f.round mode false r ((e - k) / 2) (decide (r * r ≠ n))
    | _ => f.defNaN

/-! ## Comparing, selecting, classifying (R88, R224, R225) -/

/-- The order of two values that are not NaN; zeros are equal. -/
def FVal.cmp : FVal → FVal → Ordering
  | .inf s, .inf t => if s = t then .eq else if s then .lt else .gt
  | .inf s, _ => if s then .lt else .gt
  | _, .inf t => if t then .gt else .lt
  | .fin s m e, .fin t n d => compare (scaled s m e (min e d)) (scaled t n d (min e d))
  | _, _ => .eq

/-- fcmp: 0 when an operand is NaN. -/
def Fmt.test (f : Fmt) (p : Ordering → Bool) (x y : Nat) : Bool :=
  !f.isNaN x && !f.isNaN y && p ((f.value x).cmp (f.value y))

/-- fmin (max = false) and fmax: −0 lies below +0 (R88). -/
def Fmt.minmax (f : Fmt) (max : Bool) (x y : Nat) : Nat :=
  if f.isNaN x then (if f.isNaN y then f.quieten x else y)
  else if f.isNaN y then x
  else
    let below : Bool := match (f.value x).cmp (f.value y) with
      | .lt => true
      | .gt => false
      | .eq => decide (x / f.signBit % 2 = 1)
    if below != max then x else y

/-- The quiet bit of a NaN result of a sign operation (R224). -/
def Fmt.tidy (f : Fmt) (x : Nat) : Nat := if f.isNaN x then f.quieten x else x
/-- The magnitude bits. -/
def Fmt.mag (f : Fmt) (x : Nat) : Nat := x % f.signBit
/-- fabs. -/
def Fmt.abs (f : Fmt) (x : Nat) : Nat := f.tidy (f.mag x)
/-- fneg. -/
def Fmt.flip (f : Fmt) (x : Nat) : Nat := f.tidy (f.mag x + f.sgn (decide (x / f.signBit % 2 = 0)))
/-- fsgnj. -/
def Fmt.sgnj (f : Fmt) (x y : Nat) : Nat := f.tidy (f.mag x + f.sgn (decide (y / f.signBit % 2 = 1)))

/-- The class bit of R225. -/
def Fmt.classOf (f : Fmt) (x : Nat) : Nat :=
  let s := decide (x / f.signBit % 2 = 1)
  let m := f.mag x
  if f.isNaN x then (if x / f.quiet % 2 = 1 then 9 else 8)
  else if m = f.infBits then (if s then 0 else 7)
  else if m = 0 then (if s then 3 else 4)
  else if m < 2 ^ f.fw then (if s then 2 else 5)
  else (if s then 1 else 6)

/-! ## F8A, F8B, L6 and integers (R90-R92, R98, R99) -/

/-- F8A has 3 fraction bits and lowest step 2^−10; F8B 2 and 2^−17. -/
def f8Grid (b : Bool) : Nat × Int := if b then (2, -17) else (3, -10)

/-- The value of an F8A (b = false) or F8B code (R90). -/
def f8Value (b : Bool) (x : Nat) : FVal :=
  let (fw, q) := f8Grid b
  let m := x % 128
  let e := m / 2 ^ fw
  if x % 256 = 128 then .nan false 0
  else
    .fin (decide (x % 256 / 128 = 1)) (if e = 0 then m % 2 ^ fw else 2 ^ fw + m % 2 ^ fw) (q + (e - 1 : Nat))

/-- A value as F8A or F8B; magnitudes above the largest saturate (R98). -/
def f8Code (b : Bool) (mode : Nat) : FVal → Nat
  | .nan _ _ => 0x80
  | .inf s => if s then 0xFF else 0x7F
  | .fin s m e =>
    let (fw, q) := f8Grid b
    let r := if m = 0 then 0 else min (roundMag fw q mode s m e false) 127
    if r = 0 then 0 else (if s then 128 else 0) + r

/-- T of R91. -/
def l6T (n : Nat) : Nat := match n % 4 with | 0 => 16384 | 1 => 19484 | 2 => 23170 | _ => 27554

/-- t(L) × 2^18 (R91); 0 for L = 0. -/
def l6Mag (l : Nat) : Nat := if l = 0 then 0 else l6T l * 2 ^ (l / 4)

/-- The value of an L6 code (R91). -/
def l6Value (x : Nat) : FVal :=
  if x % 64 = 32 then .nan false 0 else .fin (decide (x % 64 / 32 = 1)) (l6Mag (x % 32)) (-18)

/-- The largest L whose t(L) is not above m × 2^e, looking at L and below. -/
def l6Floor (m : Nat) (e : Int) : Nat → Nat
  | 0 => 0
  | l + 1 => if scaled false (l6Mag (l + 1)) (-18) (min e (-18)) ≤ scaled false m e (min e (-18)) then l + 1 else l6Floor m e l

/-- A value as L6 (R99). -/
def l6Code (mode : Nat) : FVal → Nat
  | .nan _ _ => 0x20
  | .inf s => if s then 0x3F else 0x1F
  | .fin s m e =>
    let l := l6Floor m e 31
    let q := min e (-18)
    let x := scaled false m e q
    let lo := scaled false (l6Mag l) (-18) q
    let hi := scaled false (l6Mag (l + 1)) (-18) q
    let up := l != 31 && x != lo && roundsUp mode s (decide (l % 2 = 1)) (compare (2 * x) (lo + hi)) true
    let r := if up then l + 1 else l
    if r = 0 then 0 else (if s then 32 else 0) + r

/-- A value rounded to an integer under the mode. -/
def intRound (mode : Nat) (s : Bool) (m : Nat) (e : Int) : Int :=
  let x : Int := (roundAt mode s m e 0 false : Nat)
  if s then -x else x

/-- A value as an integer of n bits, saturated; NaN gives 0 (R98). The result is its low n bits. -/
def intCode (signed : Bool) (n : Nat) (mode : Nat) : FVal → Nat :=
  let lo : Int := if signed then -(2 ^ (n - 1) : Nat) else 0
  let hi : Int := if signed then (2 ^ (n - 1) : Nat) - 1 else (2 ^ n : Nat) - 1
  fun
  | .nan _ _ => 0
  | .inf s => ofInt n (if s then lo else hi)
  | .fin s m e => ofInt n (max lo (min hi (intRound mode s m e)))

/-- An integer code as a value. -/
def intValue (signed : Bool) (n x : Nat) : FVal :=
  let v := if signed then toSigned n x else ((x % 2 ^ n : Nat) : Int)
  .fin (decide (v < 0)) v.natAbs 0

/-- The width of a type of FCVT (R227). -/
def cvtWidth : CvtTy → Nat
  | .f64 => 64 | .f32 => 32 | .f16 => 16 | .bf16 => 16 | .f8a => 8 | .f8b => 8 | .l6 => 6
  | .i32 => 32 | .i64 => 64 | .u32 => 32 | .u64 => 64

/-- The value of a code of a type. -/
def cvtValue (t : CvtTy) (x : Nat) : FVal :=
  match t with
  | .f64 => Fmt.f64.value (x % 2 ^ 64)
  | .f32 => Fmt.f32.value (x % 2 ^ 32)
  | .f16 => Fmt.f16.value (x % 2 ^ 16)
  | .bf16 => Fmt.bf16.value (x % 2 ^ 16)
  | .f8a => f8Value false x
  | .f8b => f8Value true x
  | .l6 => l6Value x
  | .i32 => intValue true 32 x
  | .i64 => intValue true 64 x
  | .u32 => intValue false 32 x
  | .u64 => intValue false 64 x

/-- A value as a code of a type, by R98-R100. -/
def cvtCode (t : CvtTy) (mode : Nat) (v : FVal) : Nat :=
  match t with
  | .f64 => Fmt.f64.code mode v
  | .f32 => Fmt.f32.code mode v
  | .f16 => Fmt.f16.code mode v
  | .bf16 => Fmt.bf16.code mode v
  | .f8a => f8Code false mode v
  | .f8b => f8Code true mode v
  | .l6 => l6Code mode v
  | .i32 => intCode true 32 mode v
  | .i64 => intCode true 64 mode v
  | .u32 => intCode false 32 mode v
  | .u64 => intCode false 64 mode v

/-- The value times 2^k, exactly (block scales, R93). -/
def FVal.scale (k : Int) : FVal → FVal
  | .fin s m e => .fin s m (e + k)
  | v => v

/-- Widen or narrow an integer code between vector types: low bits kept, sign-extended (R98). -/
def intResize (n m x : Nat) : Nat := ofInt m (toSigned n x)

end Sys2Proof.Machine
end

