-- ==== Sys2Proof/Machine/Access.lean ====
section
/-! DEFINITION. Issue-time routing (15_isa_threads R253, R254), the frame window's bytes (R358), decoded elements
(R135, R136, R257, R258), and what a home does with an atomic (R261). -/

namespace Sys2Proof.Machine

open Sys2Proof

/-! ## Routing at issue -/

/-- `how` of R253. -/
inductive How where
  | mig | ret | post
  deriving DecidableEq, Repr

/-- The packet is a load or a returning atomic (R152). -/
def PKind.isLoad : PKind → Bool
  | .load _ _ _ _ => true | .amo _ _ _ _ => true | .ldf _ => true | .lane _ _ _ => true | .vldf _ _ => true
  | _ => false

/-- The packet is a store that has left its buffer and is not yet performed. -/
def PKind.isStore : PKind → Bool
  | .store _ _ => true | .stf _ _ probe => !probe | _ => false

/-- The acquire that a load or its reply stands for (R155). -/
def PKind.acq : PKind → Option Scope
  | .load _ _ _ a => a
  | .result _ _ _ _ a => a
  | _ => none

/-- R154: an access of core l to an address at a home is of this scope. `.sys` has every home. -/
def State.within (s : State) (sc : Scope) (l : Loc) (h : Home) (va : Word) : Bool := sc == .sys || scopeHas sc l (s.seen h va)

/-- R155, R163: an `ldq` of the thread in issue, or a pop whose destination is empty, holds back accesses to this address. -/
def State.acqHeld (s : State) (h : Home) (va : Word) : Bool :=
  (s.net ++ s.parkedPkts).any fun p => p.uid == s.my.uid && match p.kind.acq with
    | some sc => s.within sc s.cur.loc h va
    | none => false

/-- The home is die-local to the core (R152). -/
def dieLocal (l : Loc) : Home → Bool
  | .cxl _ => false
  | h => homeDie h == Loc.dieId l

/-- The access to an address at a home is die-local to the core: it is no host frame's (R152). -/
def State.near (s : State) (l : Loc) (h : Home) (va : Word) : Bool := dieLocal l (s.seen h va)

/-- The packet's access is die-local to its core. -/
def State.nearPkt (s : State) (p : Pkt) : Bool := s.near p.src p.named p.va

/-- R152: no die-local load or returning atomic of the thread with an earlier number is unperformed. One that is parked
counts as performed (R149). -/
def State.loadsDone (s : State) (uid before : Nat) : Bool :=
  s.net.all fun p => !(p.uid == uid && decide (p.id < before) && p.kind.isLoad && s.nearPkt p)

/-- The stores that a core has buffered, those of the task store buffers last (R68, R152). -/
def Core.buffered (c : Core) : List SEntry := c.sb ++ c.slots.toList.flatMap fun x => x.tsb

/-- The stores of a core that are in the store buffer or on their way into it. -/
def Core.queued (c : Core) : List SEntry := c.sb ++ c.slots.toList.flatMap fun x => if x.draining then x.tsb else []

/-- R152: no die-local store of the thread with an earlier number has left its buffer unperformed. -/
def State.storesGone (s : State) (uid before : Nat) : Bool :=
  s.net.all fun p => !(p.uid == uid && decide (p.id < before) && p.kind.isStore && s.nearPkt p)

/-- R156, R157: every load of the thread with an earlier number has returned: none is on its way or parked, and no reply
to one is. -/
def State.loadsBack (s : State) (uid before : Nat) : Bool :=
  (s.net ++ s.parkedPkts).all fun p => !(p.uid == uid && match p.kind with
    | .result _ _ _ long _ => !long && decide (p.asked < before)
    | k => k.isLoad && decide (p.id < before))

/-- R156, R159, R162: every store of the thread with an earlier number, to homes within the scope, is
performed. -/
def State.storesDone (s : State) (l : Loc) (uid before : Nat) (sc : Scope) : Bool :=
  let mine (u i : Nat) (h : Home) (va : Word) : Bool := u == uid && decide (i < before) && s.within sc l h va
  ((s.core l).buffered.all fun e => !mine e.uid e.id e.home e.va) &&
  s.net.all fun p => !(p.kind.isStore && mine p.uid p.id p.named p.va)

/-- The thread's own earlier stores are performed. -/
def State.myStoresDone (s : State) : Bool := s.storesDone s.cur.loc s.my.uid s.nextId .sys

/-- R157: the home joins the thread's path set; past 32 listed homes it is recorded by its die. A CXL port belongs to no
die, and is always listed. -/
def State.addPath (s : State) (h : Home) : State :=
  s.updMy fun f =>
    if f.path.contains h then f
    else if f.path.length < 32 || (match h with | .cxl _ => true | _ => false) then { f with path := f.path ++ [h] }
    else if f.pathDies.contains (homeDie h) then f
    else { f with pathDies := f.pathDies ++ [homeDie h] }

/-- The path set for an access to an address: one to a host frame counts for the CXL port too (R157, R168). -/
def State.addPathAt (s : State) (h : Home) (va : Word) : State :=
  if s.seen h va = h then s.addPath h else (s.addPath h).addPath (s.seen h va)

/-- Bytes of the location that a request of a thread writes; 0 where it writes none. -/
def PKind.span : PKind → Nat
  | .store n _ => n | .amo _ _ _ _ => 8 | .post _ _ _ => 8 | .stf _ _ probe => if probe then 0 else 8
  | .taskDec _ => 64 | .joinInc => 8 | .joinDec => 8 | _ => 0

/-- R150: a write that the thread issued before number `before` over one of these bytes is still on its way. -/
def State.owes (s : State) (uid before : Nat) (va : Word) (n : Nat) : Bool :=
  s.net.any fun p => p.uid == uid && decide (p.id < before) && p.kind.span != 0 &&
    overlaps (p.va.toNat / 8 * 8) p.kind.span (va.toNat / 8 * 8) (va.toNat % 8 + n)

/-- R150, R151: nothing that the thread in issue sent to its own core is still on its way. -/
def State.ownClear (s : State) : Bool :=
  s.net.all fun p => !(p.uid == s.my.uid && p.kind.isRequest && p.home == .core s.cur.loc)

/-- The thread in issue may perform an access at its own core: its die-local loads are performed, and what it sent
there before (R151, R152). -/
def State.myTurn (s : State) : Bool := s.loadsDone s.my.uid s.nextId && s.ownClear

/-- R47: the thread waits to depart. An automatic pin ends with the departure (R51, R263). -/
def State.waitDepart (s : State) (va : Word) (isGo : Bool) : State := s.updMy fun f => f.waitFor (.depart va isGo) s.clk

/-- R253. `plain` says that the access may enter the frame window, which the continuation then serves (R358). -/
def route (s : State) (va : Word) (size : Nat) (how : How) (plain : Bool) (k : Home → Eff) : Eff :=
  if vaBad va then .trap .protection va 0
  else if va.toNat % size ≠ 0 then .trap .misaligned va 0
  else if (windowAt va).isSome && !(plain && s.my.priv && lsOwner va == s.cur.loc) then .trap .protection va 0
  else
    match s.homeAt s.cur.loc s.my.launch s.my.lmod va with
    | .denied => .trap .protection va 0
    | .fetching => .hold (s.askSpread va)
    | .home h =>
      let go : Eff := if s.acqHeld h va then .wait else k h
      if h = .core s.cur.loc ∨ spaceOf va ≠ .ls ∨ s.cur.frame = 32 then go
      else if s.my.anch then (if s.myRegion (lsOwner va) then go else .trap .remoteDenied va 0)
      else if how = .mig ∧ !(s.my.pin && (s.my.pinLeft == 0 || s.my.pinOther == some (lsOwner va))) then
        .hold (s.waitDepart va false)
      else go

/-- What a home is asked for the thread in issue. -/
def State.myReq (s : State) (h : Home) (va : Word) (size : Nat) (write : Bool) : Req :=
  { home := h, va := va, size := size, write := write, user := !s.my.priv, launch := s.my.launch, lmod := s.my.lmod }

/-- R254: an access homed at the issuing core is translated and checked at issue; a fault parks the thread. -/
def checkOwn (s : State) (va : Word) (size : Nat) (write : Bool) (k : State → Nat → Word → Eff) : Eff :=
  let h : Home := .core s.cur.loc
  match s.check (s.myReq h va size write) with
  | (s, .ok p e _ _) => k s p e
  | (s, .park r b n) => .hold (s.parkThread s.me false h r b n va { write := write, user := !s.my.priv })
  | (_, .area) => .trap .protection va 0
  | (_, .isol) => .trap .remoteDenied va 0
  | (_, .lock) => .trap .rangeLocked va 0
  | (_, .wait) => .wait
  | (_, _) => .trap .translation va 0

/-! ## The frame window (R41, R358) -/

/-- Read n bytes (1-8, aligned) of a core's frame window. A write that still waits for the end of an instruction is seen. -/
def State.windowRead (s : State) (l : Loc) (f o n : Nat) : Nat :=
  bitsOf ((s.frame (keyOf l f)).settle.group (o / 8)).toNat (8 * (o % 8)) (8 * n)

/-- Write n bytes (1-8, aligned) of a core's frame window. A thread whose instruction is under way gets them at its end, so
that the write falls between two instructions (R358; log entry 109). -/
def State.windowWrite (s : State) (l : Loc) (f o n v : Nat) : State :=
  s.updFrame (keyOf l f) fun x =>
    if x.pend = .idle then x.putBytes o n v else { x with late := x.late ++ [(o, n, v)] }

/-! ## Decoded elements (R135, R136, R258) -/

/-- The value of an element code of a format (R134). -/
def fmtValue (f x : Nat) : FVal :=
  match f with
  | 1 => intValue true 8 x | 2 => intValue true 16 x | 3 => intValue true 32 x | 4 => intValue true 64 x
  | 5 => Fmt.f16.value (x % 2 ^ 16) | 6 => Fmt.bf16.value (x % 2 ^ 16) | 7 => Fmt.f32.value (x % 2 ^ 32)
  | 8 => Fmt.f64.value (x % 2 ^ 64) | 9 => f8Value false x | 10 => f8Value true x | _ => l6Value x

/-- A value as an element code of a format (R98, R99). -/
def fmtCode (f mode : Nat) (v : FVal) : Nat :=
  match f with
  | 1 => intCode true 8 mode v | 2 => intCode true 16 mode v | 3 => intCode true 32 mode v
  | 4 => intCode true 64 mode v | 5 => Fmt.f16.code mode v | 6 => Fmt.bf16.code mode v | 7 => Fmt.f32.code mode v
  | 8 => Fmt.f64.code mode v | 9 => f8Code false mode v | 10 => f8Code true mode v | _ => l6Code mode v

/-- Bytes of a decoded instruction's own format (R257). -/
def decSize : DecTy → Nat | .f32 => 4 | .bf16 => 2 | .f64 => 8 | .i32 => 4

/-- The FMT code of a decoded instruction's own format. -/
def decFmt : DecTy → Nat | .f32 => 7 | .bf16 => 6 | .f64 => 8 | .i32 => 3

/-- How a decoded result stands in a general register (R258). -/
def decWord (t : DecTy) (x : Nat) : Word :=
  match t with
  | .i32 => sext 32 (BitVec.ofNat 64 x)
  | _ => BitVec.ofNat 64 (x % 2 ^ (8 * decSize t))

/-- Elements of a block on a GEO 1-3 page (R134). -/
def geoBlock (geo : Nat) : Nat := match geo with | 1 => 16 | 2 => 32 | _ => 64

/-- Bytes of a block of a scaled page (R135). -/
def blockBytes (fmt geo : Nat) : Nat := geoBlock geo * fmtBits fmt / 8

/-- Blocks of a scaled page (R135). -/
def pageBlocks (fmt geo size : Nat) : Nat := size / (blockBytes fmt geo + 1)

/-- Bytes of a page's data area (R135): all of a plain page. -/
def dataArea (fmt geo size : Nat) : Nat :=
  if geo = 0 then size
  else if geo = 4 then
    let e := fmtBits fmt / 8
    2 * e * (2 * (size / (4 * e + 1)))
  else pageBlocks fmt geo size * blockBytes fmt geo

/-- The scale byte's offset in the page, for data at offset o of a scaled page (R135). -/
def scaleAt (fmt geo size o : Nat) : Nat := pageBlocks fmt geo size * blockBytes fmt geo + o / blockBytes fmt geo

/-- A value times its block scale; a NaN block gives NaN (R93), the default NaN with sign 0 (log entry 107). -/
def applyScale (e : Nat) (v : FVal) : FVal := if e = 0xFF then .nan false 0 else v.scale ((e : Int) - 127)

/-- A value divided by its block scale, which is 1 on a NaN block (R136). -/
def unscale (e : Nat) (v : FVal) : FVal := if e = 0xFF then v else v.scale (127 - (e : Int))

/-- An element code of format f as format g, under its block's scale where there is one: an unscaled code stays as it
is in its own format, an unscaled integer keeps its low bits or is extended, anything else is converted by its value
(R98, R100; log entry 40). On a block-scaled page an integer too is converted by its value, under the rounding mode and with
saturation (R258; log entry 108). -/
def fmtConv (f g mode x : Nat) (sc : Option Nat) : Nat :=
  match sc with
  | none =>
    if f = g then x
    else if 1 ≤ f ∧ f ≤ 4 ∧ 1 ≤ g ∧ g ≤ 4 then intResize (fmtBits f) (fmtBits g) x else fmtCode g mode (fmtValue f x)
  | some e => fmtCode g mode (applyScale e (fmtValue f x))

/-- The address and the physical place of the scale byte of the element at va, on a page that has scales (R135). -/
def scalePlace (pte : Word) (base size : Nat) (va : Word) (phys : Nat) : Option (Word × Nat) :=
  let g := pteGeo pte
  let o := va.toNat - base
  if g = 0 ∨ g = 4 then none
  else some (BitVec.ofNat 64 (base + scaleAt (pteFmt pte) g size o), phys - o + scaleAt (pteFmt pte) g size o)

/-- The element's scale byte on a page in a fallow core: its slice holds the sector (R130). -/
def State.fillScale (s : State) (h : Home) (pte : Word) (base size : Nat) (va : Word) (phys : Nat) : State :=
  match scalePlace pte base size va phys with
  | some (a, p) => if p < 2 ^ 62 then s else s.cachePage h (base, size) a (p - 2 ^ 62) 1
  | none => s

/-- How a decoded load goes at its home. -/
inductive DecRes where
  | ok (v : Word)
  | poison
  deriving DecidableEq, Repr

/-- Bytes of an element of a page for a decoded access whose own format has `own` bytes (R257); 1 on an L6 page, which
`ldf` and `stf` do not read. -/
def decElem (fmt own : Nat) : Nat := if fmt = 0 then own else max (fmtBits fmt / 8) 1

/-- The checks of R136 and R257 on one element at offset o of a page, as they apply to `ldf` and `stf`, in their order.
`split` says that the element reaches into a page of another FMT or GEO. -/
def decCheck (fmt geo size o own : Nat) (split store : Bool) : Option Cause :=
  let e := decElem fmt own
  if (geo ≠ 0 ∧ dataArea fmt geo size < o + e) ∨ split then some .formatSplit
  else if store ∧ geo = 4 then some .protection
  else if fmt = 11 ∨ o % e ≠ 0 then some .misaligned
  else none

/-- `ldf` of an element that the checks have let through: the page's leaf, its size, the physical place of the element
and its offset. `held` is the element as the thread's own buffered store has it (R152, R258). -/
def decLoad (s : State) (t : DecTy) (mode : Nat) (pte : Word) (size phys o : Nat) (held : Option Nat) : DecRes :=
  let fmt := pteFmt pte
  let geo := pteGeo pte
  let e := decElem fmt (decSize t)
  if held.isNone && s.isBad phys e then .poison
  else
    let x := held.getD (s.num phys e)
    if fmt = 0 then .ok (decWord t x)
    else if geo = 0 ∨ geo = 4 then .ok (decWord t (fmtConv fmt (decFmt t) mode x none))
    else
      let a := phys - o + scaleAt fmt geo size o
      if s.isBad a 1 then .poison else .ok (decWord t (fmtConv fmt (decFmt t) mode x (some (s.num a 1))))

/-- The bytes that `stf` writes where the checks have let it through, or none where its scale is uncorrectable (R258). On a
scaled page an integer is rounded and saturated (log entry 108). -/
def decStore (s : State) (t : DecTy) (mode : Nat) (pte : Word) (size phys o : Nat) (y : Word) : Option (List Byte) :=
  let fmt := pteFmt pte
  let geo := pteGeo pte
  let e := decElem fmt (decSize t)
  if fmt = 0 then some (bytesOf e y.toNat)
  else
    let x := y.toNat % 2 ^ (8 * decSize t)
    let a := phys - o + scaleAt fmt geo size o
    if geo = 0 then some (bytesOf e (fmtConv (decFmt t) fmt mode x none))
    else if s.isBad a 1 then none
    else some (bytesOf e (fmtCode fmt mode (unscale (s.num a 1) (fmtValue (decFmt t) x))))

/-! ## Stores and atomics at the home -/

/-- R254: an uncorrectable doubleword lies under a store that does not replace it whole. -/
def State.badUnder (s : State) (phys n : Nat) : Bool := s.isBad phys n && !(n == 8 && phys % 8 == 0)

/-- A BF16 or F32 maximum of magnitudes (R261). -/
def fmaxa (w a b : Nat) : Nat := max (a % 2 ^ (w - 1)) (b % 2 ^ (w - 1))

/-- R261: the new value of the location, of 4 or 8 bytes as `n` bits. -/
def amoNew (op : AmoOp) (dbl : Bool) (old b d : Nat) : Nat :=
  let n := if dbl then 64 else 32
  let b := b % 2 ^ n
  match op with
  | .add => (old + b) % 2 ^ n
  | .and => old &&& b
  | .or => old ||| b
  | .xor => old ^^^ b
  | .min => if toSigned n b < toSigned n old then b else old
  | .max => if toSigned n old < toSigned n b then b else old
  | .minu => min old b
  | .maxu => max old b
  | .swap => b
  | .cas => if old = d % 2 ^ n then b else old
  | .fadd =>
    if dbl then Fmt.bf16.add 0 (old % 2 ^ 16) (b % 2 ^ 16) + 2 ^ 16 * Fmt.bf16.add 0 (old / 2 ^ 16) (b / 2 ^ 16 % 2 ^ 16)
    else Fmt.f32.add 0 old b
  | .fmaxa =>
    if dbl then fmaxa 16 (old % 2 ^ 16) (b % 2 ^ 16) + 2 ^ 16 * fmaxa 16 (old / 2 ^ 16) (b / 2 ^ 16 % 2 ^ 16)
    else fmaxa 32 old b

/-- The bytes an atomic touches: `.p` forms are a word (R260). -/
def amoSize (op : AmoOp) (dbl : Bool) : Nat :=
  match op with
  | .fadd => 4 | .fmaxa => 4 | _ => if dbl then 8 else 4

/-- The new value of the location, with `.p` operands cut to a word. -/
def amoApply (op : AmoOp) (dbl : Bool) (old b d : Nat) : Nat :=
  match op with
  | .fadd => amoNew .fadd dbl old (b % 2 ^ 32) d
  | .fmaxa => amoNew .fmaxa dbl old (b % 2 ^ 32) d
  | op => amoNew op dbl old b d

/-- R261: the read, the operation and the write as one step at the home of the address; none when the read is
uncorrectable. -/
def State.atomic (s : State) (op : AmoOp) (dbl : Bool) (h : Home) (va : Word) (phys b d : Nat) : Option (State × Nat) :=
  let n := amoSize op dbl
  if s.isBad phys n then none
  else
    let old := s.num phys n
    some (s.writeAt h va phys (bytesOf n (amoApply op dbl old b d)), old)

end Sys2Proof.Machine
end

