-- ==== Sys2Proof/Machine/Areas.lean ====
section
/-! DEFINITION. The areas of a local store that the hardware uses: the task deque's overflow, the arrival spill ring and the
NI spill ring, with their entries in the bank's bytes (01_module R24, 03_execution R41, R48, R59, R60, 21_system R365; log
entry 60). -/

namespace Sys2Proof.Machine

open Sys2Proof

/-- n doublewords of memory from number a on. -/
def State.dwords (s : State) (a n : Nat) : List Word := (List.range n).map fun i => BitVec.ofNat 64 (s.num (a + 8 * i) 8)

/-- Doublewords written to memory from number a on. -/
def State.putDwords (s : State) (a : Nat) (ws : List Word) : State := s.poke a (ws.flatMap fun w => bytesOf 8 w.toNat)

/-! ## The task deque (R59, R60) -/

/-- The doublewords of a task entry. -/
def Task.dwords (t : Task) : List Word :=
  [(t.pc &&& ~~~3#64) ||| BitVec.ofNat 64 (2 * t.idem.toNat + t.anch.toNat), t.jc, t.a0, t.a1]

/-- A task entry as the doublewords in its place say; what it is tagged with stays. -/
def Task.reread (t : Task) (ws : List Word) : Task :=
  let x := ws.getD 0 0
  { t with pc := x &&& ~~~3#64, idem := bitOf x 1, anch := bitOf x 0, jc := ws.getD 1 0, a0 := ws.getD 2 0, a1 := ws.getD 3 0 }

/-- The place of entry i of the overflow area, the oldest first. -/
def overflowAt (l : Loc) (i : Nat) : Nat := bankKey l (0x1F8000 + 32 * i)

/-- Entries of a deque that lie in the overflow area: all but the 64 youngest. -/
def overflowed (ts : List Task) : Nat := ts.length - 64

/-- A core's task entries, the oldest first, as its deque and its overflow area hold them. -/
def State.deque (s : State) (l : Loc) : List Task :=
  let ts := (s.core l).deque
  ts.mapIdx fun i t => if i < overflowed ts then t.reread (s.dwords (overflowAt l i) 4) else t

/-- A core's task entries are these now. -/
def State.setDeque (s : State) (l : Loc) (ts : List Task) : State :=
  (ts.take (overflowed ts)).zipIdx.foldl (fun t e => t.putDwords (overflowAt l e.2) e.1.dwords)
    (s.updCore l fun c => { c with deque := ts })

/-! ## The spill rings (R48, R365) -/

/-- The frame that a packet carries, with the doublewords of it that travel (R76). -/
def Pkt.carries (p : Pkt) : Option (Frame × Nat) :=
  match p.kind with
  | .migrate f => some (f, 32)
  | .displace f _ => some (f, 192)
  | _ => none

/-- A frame as the doublewords in its place say. -/
def Frame.reread (f : Frame) (ws : List Word) : Frame :=
  ws.zipIdx.foldl (fun g e => if f.group e.2 = e.1 then g else g.setGroup e.2 e.1) f

/-- A packet as the doublewords in its place say. -/
def Pkt.reread (p : Pkt) (ws : List Word) : Pkt :=
  match p.kind with
  | .migrate f => { p with kind := .migrate (f.reread ws) }
  | .displace f n => { p with kind := .displace (f.reread ws) n }
  | _ => p

/-- Entries that a caught packet occupies in the NI spill ring (R365). -/
def Pkt.room (p : Pkt) : Nat := match p.kind with | .displace _ _ => 6 | _ => 1

/-- The packets of a ring with their places: 256 bytes an entry, the oldest first, from number a on. -/
def ringPlaces : Nat → List Pkt → List (Nat × Pkt)
  | _, [] => []
  | a, p :: r => (a, p) :: ringPlaces (a + 256 * p.room) r

/-- The packets of a ring as its bytes hold them. -/
def State.readRing (s : State) (a : Nat) (ps : List Pkt) : List Pkt :=
  (ringPlaces a ps).map fun e => match e.2.carries with
    | some (_, n) => e.2.reread (s.dwords e.1 n)
    | none => e.2

/-- The packets of a ring go into its bytes. -/
def State.writeRing (s : State) (a : Nat) (ps : List Pkt) : State :=
  (ringPlaces a ps).foldl (fun t e => match e.2.carries with
    | some (f, n) => t.putDwords e.1 ((List.range n).map f.group)
    | none => t) s

/-- Where the arrival spill ring lies. -/
def spillAt (l : Loc) : Nat := bankKey l 0x380000
/-- Where the NI spill ring lies. -/
def nispillAt (l : Loc) : Nat := bankKey l 0x3C0000

/-- The arrival spill ring of a core. -/
def State.spill (s : State) (l : Loc) : List Pkt := s.readRing (spillAt l) (s.core l).spill
/-- The arrival spill ring of a core holds these packets now. -/
def State.setSpill (s : State) (l : Loc) (ps : List Pkt) : State :=
  (s.updCore l fun c => { c with spill := ps }).writeRing (spillAt l) ps
/-- The NI spill ring of a core. -/
def State.nispill (s : State) (l : Loc) : List Pkt := s.readRing (nispillAt l) (s.core l).nispill
/-- The NI spill ring of a core holds these packets now. -/
def State.setNispill (s : State) (l : Loc) (ps : List Pkt) : State :=
  (s.updCore l fun c => { c with nispill := ps }).writeRing (nispillAt l) ps

end Sys2Proof.Machine
end

