-- ==== Sys2Proof/Machine/Mem.lean ====
section
/-! DEFINITION. Loads and stores, plain, decoded, acquiring and releasing, majors 0x18-0x1D (15_isa_threads
R255-R259, 09_ordering R152, R155, R156). -/

namespace Sys2Proof.Machine

open Sys2Proof

/-- A buffered store overlaps the bytes at va. -/
def SEntry.hits (e : SEntry) (va : Word) (n : Nat) : Bool := overlaps va.toNat n e.va.toNat e.size

/-- A buffered store of a thread at the issuing core overlaps these bank bytes. -/
def SEntry.covers (e : SEntry) (uid p n : Nat) : Bool :=
  e.uid == uid && match e.phys with | some q => overlaps p n q e.size | none => false

/-- What a load finds in the buffers (R152, R68): the value of the newest overlapping store of the thread, a store
that overlaps it in part, or nothing. -/
inductive Fwd where
  | value (v : Nat)
  | partly
  | none
  deriving DecidableEq, Repr

/-- A buffered store is over these bytes: by its address or, at the issuing core, by the bank bytes, which a tile chunk's
store has alone. -/
def SEntry.over (e : SEntry) (uid : Nat) (va : Word) (n : Nat) (phys : Option Nat) : Bool :=
  (e.uid == uid && !e.tile && e.hits va n) || match phys with | some p => e.covers uid p n | none => false

/-- How far into a buffered store the n bytes at va lie, when they lie wholly within it. -/
def SEntry.within (e : SEntry) (va : Word) (n : Nat) (phys : Option Nat) : Option Nat :=
  if e.va.toNat ≤ va.toNat ∧ va.toNat + n ≤ e.va.toNat + e.size then some (va.toNat - e.va.toNat)
  else
    match phys, e.phys with
    | some p, some q => if q ≤ p ∧ p + n ≤ q + e.size then some (p - q) else none
    | _, _ => none

/-- The newest overlapping store of a thread in a buffer, oldest first. A tile chunk's forwards nothing (R304). -/
def forward (b : List SEntry) (uid : Nat) (va : Word) (n : Nat) (phys : Option Nat) : Fwd :=
  match (b.filter fun e => e.over uid va n phys).getLast? with
  | some e =>
    if e.tile then .partly
    else match e.within va n phys with
      | some o => .value (bitsOf e.v.toNat (8 * o) (8 * n))
      | none => .partly
  | none => .none

/-- The value a load delivers (R256). -/
def extend (size : Nat) (sgn : Bool) (x : Nat) : Word :=
  if sgn then sext (8 * size) (BitVec.ofNat 64 x) else BitVec.ofNat 64 (x % 2 ^ (8 * size))

/-- A load's reply sets out to its register; a load to `z` has no reply (R256). -/
def State.reply (s : State) (d : Option (Fin 16)) (v : Word) (bad : Bool) (acq : Option Scope) : State :=
  match d with
  | some n => s.send (s.mkPkt (.result n v bad false acq) (.core s.cur.loc) 0)
  | none => s

/-- The general register that a destination field names. -/
def Reg.num : Reg → Option (Fin 16)
  | .g n => some n
  | _ => none

/-- Mark a load's destination empty. -/
def State.emptyLoad (s : State) (d : Option (Fin 16)) : State :=
  match d with
  | some n => s.emptyDest n
  | none => s

/-- The destination of a load may be written: no earlier result is on its way to it (R256). -/
def State.canLoad (s : State) (d : Option (Fin 16)) : Bool :=
  match d with
  | some n => s.canWriteG n
  | none => true

/-- R68: an idempotent task's stores drain and IDEM clears before the instruction goes on. -/
def drained (s : State) (k : State → Eff) : Eff := if s.my.idem then .hold (s.drain s.me) else k s

/-- What a load of a thread finds in its core's buffers, the task store buffers after the store buffer (R68, R152). -/
def Core.forwarded (c : Core) (uid : Nat) (va : Word) (n : Nat) (phys : Option Nat) : Fwd := forward c.buffered uid va n phys

/-- The same for the thread in issue. -/
def State.forwarded (s : State) (va : Word) (n : Nat) (phys : Option Nat) : Fwd :=
  (s.core s.cur.loc).forwarded s.my.uid va n phys

/-- A task of the thread at frame k has buffered a store over these bytes, which its own buffer holds (R68). -/
def State.taskHeld (s : State) (k : Nat) (va : Word) (n : Nat) (phys : Option Nat) : Bool :=
  (s.frame k).idem && match s.slotOf k with
    | some i => ((s.core (keyLoc k)).slot i).tsb.any fun e => e.over (s.frame k).uid va n phys
    | none => false

/-- A load waits for a store that it overlaps in part: a task store buffer drains first (R68, R152). -/
def State.partly (s : State) (va : Word) (n : Nat) (phys : Option Nat) : Eff :=
  if s.taskHeld s.me va n phys then .hold (s.drain s.me) else .wait

/-- `ld` and `ldq` from an address (R256, R259). An address at the issuing core is translated and checked before anything
is forwarded (R254). -/
def loadAt (s : State) (size : Nat) (sgn : Bool) (d : Reg) (acq : Option Scope) (va : Word) : Eff :=
  route s va size .mig true fun h =>
    if !s.canLoad (Reg.num d) then .wait
    else
      match windowAt va with
      | some (f, o) => put s d (extend size sgn (s.windowRead s.cur.loc f o size)) fun s => .done s .seq
      | none =>
        let back (s : State) (v : Word) (bad : Bool) : Eff :=
          .done ((s.emptyLoad (Reg.num d)).reply (Reg.num d) v bad acq) .seq
        let go (s : State) (own : Option Nat) : Eff :=
          match s.forwarded va size own with
          | .value v => back s (extend size sgn v) false
          | .partly => s.partly va size own
          | .none =>
            match own with
            | some p =>
              if s.myTurn then
                let bad := s.isBad p size
                back s (if bad then 0 else extend size sgn (s.num p size)) bad
              else .done ((s.emptyLoad (Reg.num d)).send (s.mkPkt (.load size sgn (Reg.num d) acq) h va)) .seq
            | none => .done ((s.emptyLoad (Reg.num d)).send (s.mkPkt (.load size sgn (Reg.num d) acq) h va)) .seq
        if h = .core s.cur.loc then checkOwn s va size false fun s p _ => go s (some p) else go s none

/-- Room for n more stores in the core's buffer of 16 (R152). -/
def State.sbRoom (s : State) (n : Nat) : Bool := decide ((s.core s.cur.loc).sb.length + n ≤ 16)

/-- A store of the thread in issue, as its buffer holds it. -/
def State.mkStore (s : State) (va : Word) (size : Nat) (v : Word) (h : Home) (rel : Option Scope) : SEntry :=
  let f := s.my
  { id := s.nextId, va := va, size := size, v := zext (8 * size) v, home := h, key := s.me, uid := f.uid
    user := !f.priv, launch := f.launch, lmod := f.lmod, rel := rel, checked := h == .core s.cur.loc }

/-- A store enters the core's store buffer, and its home the path set (R152, R157). -/
def State.enterStore (s : State) (e : SEntry) : State :=
  let s := s.updCore s.cur.loc fun c => { c with sb := c.sb ++ [e] }
  { s with nextId := s.nextId + 1 }.addPathAt e.home e.va

/-- A store of an idempotent task enters its slot's task store buffer (R68). -/
def State.enterTask (s : State) (e : SEntry) : State :=
  let s := s.updSlot s.cur.loc s.cur.slot fun x => { x with tsb := x.tsb ++ [e] }
  { s with nextId := s.nextId + 1 }.addPathAt e.home e.va

/-- A later store waits while stores that drained from a task store buffer have not all entered the store buffer: the
thread's own, in program order, and an idempotent task's while its slot's buffer still holds another's (R68, R152). -/
def State.pouring (s : State) : Bool :=
  let c := s.core s.cur.loc
  (c.slots.toList.any fun x => x.draining && x.tsb.any fun e => e.uid == s.my.uid) || (s.my.idem && (c.slot s.cur.slot).draining)

/-- Whether n more stores of the thread in issue have room: in the task store buffer under IDEM, where a full one has to drain
first, otherwise in the store buffer (R68, R152). -/
inductive Room where
  | free | full | drain
  deriving DecidableEq, Repr

/-- The same. -/
def State.room (s : State) (n : Nat) : Room :=
  if s.pouring then .full
  else if s.my.idem then
    if ((s.core s.cur.loc).slot s.cur.slot).tsb.length + n ≤ 64 then .free else .drain
  else if s.sbRoom n then .free
  else .full

/-- A store of the thread enters its buffer. -/
def State.buffer (s : State) (e : SEntry) : State := if s.my.idem then s.enterTask e else s.enterStore e

/-- Queue a store. -/
def queueStore (s : State) (e : SEntry) (k : State → Eff) : Eff :=
  match s.room 1 with
  | .free => k (s.buffer e)
  | .drain => .hold (s.drain s.me)
  | .full => .wait

/-- `st` and `stl` to an address (R256, R259). A write of the thread's own `tstat` through the frame window acts as a
supervisor's `movs`, which keeps the SOLO, LRV and LANE bits it wrote, byte by byte: LANE's highest bit is in the byte
above the others (R243, R358). -/
def storeAt (s : State) (size : Nat) (v : Word) (rel : Option Scope) (va : Word) : Eff :=
  route s va size .mig true fun h =>
    match windowAt va with
    | some (f, o) =>
      let own (n : Nat) : Bool := f == s.cur.frame && decide (o ≤ n ∧ n < o + size)
      let s := s.windowWrite s.cur.loc f o size v.toNat
      let rest (f : Frame) : Frame :=
        if own 148 && !own 149 then f.setT 40 1 0 else if own 149 && !own 148 then f.setT 36 4 0 else f
      .keep (s.updMy rest) (own 147) (own 148 || own 149)
    | none =>
      if h = .core s.cur.loc then
        checkOwn s va size true fun s p _ =>
          queueStore s { s.mkStore va size v h rel with phys := some p } fun s => .done s .seq
      else queueStore s (s.mkStore va size v h rel) fun s => .done s .seq

/-- The address of an M or MS word: g[A] + the displacement in units of the size (R176). -/
def effAddr (base disp : Word) (size : Nat) : Word := base + disp * BitVec.ofNat 64 size

/-- The body of `ld` (R256). -/
def loadOp (s : State) (size : Nat) (sgn : Bool) (d a : Reg) (ta : Bool) (disp : BitVec 12) : Eff :=
  src s a ta fun x s => loadAt s size sgn d (popAcq [a]) (effAddr x (disp.signExtend 64) size)

/-- The body of `st`; TA governs D and A (R181, R256). -/
def storeOp (s : State) (size : Nat) (d a : Reg) (ta : Bool) (disp : BitVec 12) : Eff :=
  src s a ta fun x s => src s d ta fun y s => storeAt s size y none (effAddr x (disp.signExtend 64) size)

/-- The answer that the thread in issue waits for has come, or is not asked for yet (R254). -/
def pending (s : State) (ask : Eff) (got : Ans → State → Eff) : Eff :=
  match s.my.pend with
  | .idle => ask
  | .lanes _ _ => ask
  | .sent _ => .wait
  | .got a => got a s

/-- A request of the thread in issue leaves, and the slot waits for its answer (R262). -/
def ask (s : State) (k : PKind) (h : Home) (va : Word) : Eff :=
  .hold ((s.send (s.mkPkt k h va)).updMy fun f => { f with pend := .sent s.nextId })

/-- A destination poisoned, with its copies under `solo` (R254, R73). -/
def poisonDest (s : State) (d : Reg) (k : State → Eff) : Eff :=
  match d with
  | .g n =>
    if s.canWriteG n then
      let s := s.updMy fun f => f.poisonG n
      k (s.cur.fan.foldl (fun t j =>
        (t.updFrame j fun f => f.emptyG n).send
          { t.mkPkt (.soloG n 0 true) (.core (keyLoc j)) 0 with key := j, uid := (t.frame j).uid, fan := [] }) s)
    else .wait
  | _ => k s

/-- Deliver the answer of a slot-holding request to its destination (R254, R262). -/
def deliver (s : State) (d : Reg) (a : Ans) : Eff :=
  match a with
  | .val v => put s d v fun s => .done s .seq
  | .poison => poisonDest s d fun s => .done s .seq
  | .fail c va => .trap c va 0
  | _ => .done s .seq

/-- The element at va reaches into the next page, which has another FMT or GEO (R136). -/
def State.splits (s : State) (h : Home) (va : Word) (pte : Word) (base size e : Nat) : Bool :=
  decide (base + size < va.toNat + e) &&
  match walk s h (BitVec.ofNat 64 (base + size)) with
  | .leaf _ _ f _ => pteFmt f != pteFmt pte || pteGeo f != pteGeo pte
  | _ => false

/-- The checks of R136, R257 and R143 on a decoded access at its home, in their order. -/
def State.decStop (s : State) (r : Req) (t : DecTy) (pte : Word) (base size phys : Nat) : Option Cause :=
  let e := decElem (pteFmt pte) (decSize t)
  match decCheck (pteFmt pte) (pteGeo pte) size (r.va.toNat - base) (decSize t) (s.splits r.home r.va pte base size e) r.write with
  | some c => some c
  | none => if s.locked { r with size := e } phys then some .rangeLocked else none

/-- What a decoded load of a thread finds in its buffers: the element's value, or the place of a store that has to be
performed first, over part of the element or over its scale byte (R68, R152). -/
inductive DecFwd where
  | value (v : Nat)
  | none
  | after (va : Word) (n : Nat) (phys : Option Nat)
  deriving DecidableEq, Repr

/-- The same, from what the buffers hold at an address. `own` says that the bytes are the issuing core's own, which are
looked up by their physical place p too. -/
def decFwd (look : Word → Nat → Option Nat → Fwd) (va : Word) (p : Nat) (own : Bool) (scale : Option (Word × Nat)) (n : Nat) :
    DecFwd :=
  let at' (a : Nat) : Option Nat := if own then some a else none
  match look va n (at' p), scale with
  | .partly, _ => .after va n (at' p)
  | x, some (sc, a) =>
    if look sc 1 (at' a) != .none then .after sc 1 (at' a) else (match x with | .value v => .value v | _ => .none)
  | .value v, none => .value v
  | .none, none => .none

/-- The request of a decoded access as its home's first checks see it: its locks depend on the page's element. -/
def Req.decoded (r : Req) : Req := { r with size := 1, locks := false }

/-- `ldf` of an element at the issuing core (R258). -/
def ldfOwn (s : State) (t : DecTy) (d : Reg) (va : Word) : Eff :=
  let r := s.myReq (.core s.cur.loc) va (decSize t) false
  match s.check r.decoded with
  | (s, .ok p e b n) =>
    let w := decElem (pteFmt e) (decSize t)
    let load (s : State) (held : Option Nat) : Eff :=
      match decLoad s t s.my.rmode e n p (va.toNat - b) held with
      | .ok v => put s d v fun s => .done s .seq
      | .poison => poisonDest s d fun s => .done s .seq
    match s.decStop r t e b n p with
    | some c => .trap c va 0
    | none =>
      match decFwd s.forwarded va p true (scalePlace e b n va p) w with
      | .value v => load s (some v)
      | .after a k x => s.partly a k x
      | .none => if s.myTurn then load s none else .wait
  | _ => checkOwn s va 1 false fun s _ _ => .done s .seq

/-- `ldf`: the slot issues nothing further until the home has answered (R257, R258). -/
def ldfOp (s : State) (t : DecTy) (d a : Reg) (ta : Bool) (disp : BitVec 12) : Eff :=
  pending s
    (src s a ta fun x s =>
      let va := effAddr x (disp.signExtend 64) (decSize t)
      if spaceOf va = .host ∧ !vaBad va then .trap .protection va 0
      else
        route s va 1 .mig false fun h =>
          if !s.canLoad (Reg.num d) then .wait
          else if h = .core s.cur.loc then ldfOwn s t d va
          else ask s (.ldf t) h va)
    fun w s => match w with
      | .again va =>
        if s.my.idem then .hold (s.drain s.me) else route s va 1 .ret false fun h => ask s (.ldf t) h va
      | w => deliver s d w

/-- The store of a converted element enters the thread's buffer. -/
def stfBuffer (s : State) (va : Word) (bs : List Byte) (h : Home) (phys : Option Nat) : Eff :=
  queueStore s { s.mkStore va bs.length (BitVec.ofNat 64 (ofBytes bs)) h none with phys := phys } fun s => .done s .seq

/-- The scale byte that an element of the issuing core is divided by, where the thread's own store over it is buffered or on
its way, which comes first (R150, R258). -/
def State.scaleOwed (s : State) (pte : Word) (base size : Nat) (va : Word) (phys : Nat) : Option (Word × Option Nat) :=
  match scalePlace pte base size va phys with
  | some (a, x) =>
    if s.forwarded a 1 (some x) != .none || !s.ownClear then some (a, some x) else none
  | none => none

/-- `stf` to another home: an idempotent task asks for the bytes, and any other waits for its earlier stores and loads
(R68, R258). -/
def stfFar (s : State) (t : DecTy) (h : Home) (va y : Word) : Eff :=
  if s.my.idem then ask s (.stf t y true) h va
  else if !s.myStoresDone || !s.loadsDone s.my.uid s.nextId then .wait
  else ask (s.addPathAt h va) (.stf t y false) h va

/-- `stf` (R257, R258). From another home it is performed before the slot goes on; an idempotent task asks the home for the
bytes, and buffers them (R68). -/
def stfOp (s : State) (t : DecTy) (d a : Reg) (ta : Bool) (disp : BitVec 12) : Eff :=
  let at' (s : State) (k : Word → Word → State → Eff) : Eff :=
    src s a ta fun x s => src s d ta fun y s => k (effAddr x (disp.signExtend 64) (decSize t)) y s
  pending s
    (at' s fun va y s =>
      if spaceOf va = .host ∧ !vaBad va then .trap .protection va 0
      else
        route s va 1 .mig false fun h =>
          if h = .core s.cur.loc then
            let r := s.myReq h va (decSize t) true
            match s.check r.decoded with
            | (s, .ok p e b n) =>
              match s.decStop r t e b n p, s.scaleOwed e b n va p with
              | some c, _ => .trap c va 0
              | none, some (a, x) => s.partly a 1 x
              | none, none =>
                match decStore s t s.my.rmode e n p (va.toNat - b) y with
                | some bs => stfBuffer s va bs h (some p)
                | none => .done (s.record h 0x05 .uncorrectable va s.my.launch s.my.lmod) .seq
            | _ => checkOwn s va 1 true fun s _ _ => .done s .seq
          else stfFar s t h va y)
    fun w s => match w with
      | .fail c va => .trap c va 0
      | .buffer va bs => route s va 1 .ret false fun h => stfBuffer s va bs h none
      | .restore va y => if s.my.idem then .hold (s.drain s.me) else route s va 1 .ret false fun h => stfFar s t h va y
      | _ => .done s .seq

/-- ldB: a load of 1 bytes, sign-extended (R256). -/
def execLdB (d a : Reg) (ta : Bool) (disp : BitVec 12) (s : State) : Host.Outcome State Fault Refusal :=
  issue (fun s => loadOp s 1 true d a ta disp) s

/-- ldBz: a load of 1 bytes, zero-extended (R256). -/
def execLdBz (d a : Reg) (ta : Bool) (disp : BitVec 12) (s : State) : Host.Outcome State Fault Refusal :=
  issue (fun s => loadOp s 1 false d a ta disp) s

/-- ldH: a load of 2 bytes, sign-extended (R256). -/
def execLdH (d a : Reg) (ta : Bool) (disp : BitVec 12) (s : State) : Host.Outcome State Fault Refusal :=
  issue (fun s => loadOp s 2 true d a ta disp) s

/-- ldHz: a load of 2 bytes, zero-extended (R256). -/
def execLdHz (d a : Reg) (ta : Bool) (disp : BitVec 12) (s : State) : Host.Outcome State Fault Refusal :=
  issue (fun s => loadOp s 2 false d a ta disp) s

/-- ldW: a load of 4 bytes, sign-extended (R256). -/
def execLdW (d a : Reg) (ta : Bool) (disp : BitVec 12) (s : State) : Host.Outcome State Fault Refusal :=
  issue (fun s => loadOp s 4 true d a ta disp) s

/-- ldWz: a load of 4 bytes, zero-extended (R256). -/
def execLdWz (d a : Reg) (ta : Bool) (disp : BitVec 12) (s : State) : Host.Outcome State Fault Refusal :=
  issue (fun s => loadOp s 4 false d a ta disp) s

/-- ldD: a load of 8 bytes, zero-extended (R256). -/
def execLdD (d a : Reg) (ta : Bool) (disp : BitVec 12) (s : State) : Host.Outcome State Fault Refusal :=
  issue (fun s => loadOp s 8 false d a ta disp) s

/-- stB: a store of 1 bytes (R256). -/
def execStB (d a : Reg) (ta : Bool) (disp : BitVec 12) (s : State) : Host.Outcome State Fault Refusal :=
  issue (fun s => storeOp s 1 d a ta disp) s

/-- stH: a store of 2 bytes (R256). -/
def execStH (d a : Reg) (ta : Bool) (disp : BitVec 12) (s : State) : Host.Outcome State Fault Refusal :=
  issue (fun s => storeOp s 2 d a ta disp) s

/-- stW: a store of 4 bytes (R256). -/
def execStW (d a : Reg) (ta : Bool) (disp : BitVec 12) (s : State) : Host.Outcome State Fault Refusal :=
  issue (fun s => storeOp s 4 d a ta disp) s

/-- stD: a store of 8 bytes (R256). -/
def execStD (d a : Reg) (ta : Bool) (disp : BitVec 12) (s : State) : Host.Outcome State Fault Refusal :=
  issue (fun s => storeOp s 8 d a ta disp) s

/-- ldf.f32 (R257, R258). -/
def execLdfF32 (d a : Reg) (ta : Bool) (disp : BitVec 12) (s : State) : Host.Outcome State Fault Refusal :=
  issue (fun s => ldfOp s .f32 d a ta disp) s

/-- stf.f32 (R257, R258). -/
def execStfF32 (d a : Reg) (ta : Bool) (disp : BitVec 12) (s : State) : Host.Outcome State Fault Refusal :=
  issue (fun s => stfOp s .f32 d a ta disp) s

/-- ldf.bf16 (R257, R258). -/
def execLdfBf16 (d a : Reg) (ta : Bool) (disp : BitVec 12) (s : State) : Host.Outcome State Fault Refusal :=
  issue (fun s => ldfOp s .bf16 d a ta disp) s

/-- stf.bf16 (R257, R258). -/
def execStfBf16 (d a : Reg) (ta : Bool) (disp : BitVec 12) (s : State) : Host.Outcome State Fault Refusal :=
  issue (fun s => stfOp s .bf16 d a ta disp) s

/-- ldf.f64 (R257, R258). -/
def execLdfF64 (d a : Reg) (ta : Bool) (disp : BitVec 12) (s : State) : Host.Outcome State Fault Refusal :=
  issue (fun s => ldfOp s .f64 d a ta disp) s

/-- stf.f64 (R257, R258). -/
def execStfF64 (d a : Reg) (ta : Bool) (disp : BitVec 12) (s : State) : Host.Outcome State Fault Refusal :=
  issue (fun s => stfOp s .f64 d a ta disp) s

/-- ldf.i32 (R257, R258). -/
def execLdfI32 (d a : Reg) (ta : Bool) (disp : BitVec 12) (s : State) : Host.Outcome State Fault Refusal :=
  issue (fun s => ldfOp s .i32 d a ta disp) s

/-- stf.i32 (R257, R258). -/
def execStfI32 (d a : Reg) (ta : Bool) (disp : BitVec 12) (s : State) : Host.Outcome State Fault Refusal :=
  issue (fun s => stfOp s .i32 d a ta disp) s

/-- ldq.w: an acquire at its scope (R155, R259). -/
def execLdqW (sc : Scope) (d a : Reg) (ta : Bool) (disp : BitVec 9) (s : State) : Host.Outcome State Fault Refusal :=
  issue (fun s => src s a ta fun x s => drained s fun s =>
    loadAt s 4 true d (some ((popAcq [a]).getD sc)) (effAddr x (disp.signExtend 64) 4)) s

/-- stl.w: a release at its scope (R156, R259). -/
def execStlW (sc : Scope) (d a : Reg) (ta : Bool) (disp : BitVec 9) (s : State) : Host.Outcome State Fault Refusal :=
  issue (fun s => src s a ta fun x s => src s d ta fun y s => drained s fun s =>
    storeAt s 4 y (some sc) (effAddr x (disp.signExtend 64) 4)) s

/-- ldq.d: an acquire at its scope (R155, R259). -/
def execLdqD (sc : Scope) (d a : Reg) (ta : Bool) (disp : BitVec 9) (s : State) : Host.Outcome State Fault Refusal :=
  issue (fun s => src s a ta fun x s => drained s fun s =>
    loadAt s 8 true d (some ((popAcq [a]).getD sc)) (effAddr x (disp.signExtend 64) 8)) s

/-- stl.d: a release at its scope (R156, R259). -/
def execStlD (sc : Scope) (d a : Reg) (ta : Bool) (disp : BitVec 9) (s : State) : Host.Outcome State Fault Refusal :=
  issue (fun s => src s a ta fun x s => src s d ta fun y s => drained s fun s =>
    storeAt s 8 y (some sc) (effAddr x (disp.signExtend 64) 8)) s

end Sys2Proof.Machine
end

