-- ==== Sys2Proof/Machine/Amo.lean ====
section
/-! DEFINITION. Atomics, majors 0x20 and 0x21 (15_isa_threads R260-R262, 09_ordering R158, R159). -/

namespace Sys2Proof.Machine

open Sys2Proof

/-- A returning atomic: it issues once every earlier store of the thread is performed and holds its slot until its
destination is full or poisoned (R159, R262). `cas` reads D as its comparand. -/
def amoOp (s : State) (op : AmoOp) (dbl : Bool) (d a b : Reg) : Eff :=
  pending s
    (src s a false fun va s => src s b false fun y s =>
      let go (z : Word) (s : State) : Eff :=
        route s va (amoSize op dbl) .mig false fun h =>
          if spaceOf va = .host then .trap .protection va 0
          else drained s fun s =>
            if !s.myStoresDone || !s.loadsDone s.my.uid s.nextId || (h == .core s.cur.loc && !s.ownClear) then .wait
            else if !s.canLoad (Reg.num d) then .wait
            else if h = .core s.cur.loc then
              checkOwn s va (amoSize op dbl) true fun s p _ =>
                match s.atomic op dbl h va p y.toNat z.toNat with
                | some (s, old) => put (s.addPath h) d (BitVec.ofNat 64 old) fun s => .done s .seq
                | none => poisonDest s d fun s => .done s .seq
            else ask (s.addPathAt h va) (.amo op dbl y z) h va
      if op = .cas then src s d false go else go 0 s)
    fun a s => deliver s d a

/-- A posted atomic: it issues without waiting and never migrates (R158, R260, R262). At the issuing core it is
checked at issue (R254). -/
def amopOp (s : State) (op : AmoOp) (dbl : Bool) (a b : Reg) : Eff :=
  src s a false fun va s => src s b false fun y s =>
    route s va (amoSize op dbl) .post false fun h =>
      if spaceOf va = .host then .trap .protection va 0
      else drained s fun s =>
        let go (s : State) : Eff := .done ((s.addPathAt h va).send (s.mkPkt (.post op dbl y) h va)) .seq
        if h = .core s.cur.loc then checkOwn s va (amoSize op dbl) true fun s _ _ => go s else go s

/-- amo.add (R261). -/
def execAmoAdd (dbl : Bool) (d a b : Reg) (s : State) : Host.Outcome State Fault Refusal :=
  issue (fun s => amoOp s .add dbl d a b) s

/-- amop.add (R261). -/
def execAmopAdd (dbl : Bool) (a b : Reg) (s : State) : Host.Outcome State Fault Refusal :=
  issue (fun s => amopOp s .add dbl a b) s

/-- amo.and (R261). -/
def execAmoAnd (dbl : Bool) (d a b : Reg) (s : State) : Host.Outcome State Fault Refusal :=
  issue (fun s => amoOp s .and dbl d a b) s

/-- amop.and (R261). -/
def execAmopAnd (dbl : Bool) (a b : Reg) (s : State) : Host.Outcome State Fault Refusal :=
  issue (fun s => amopOp s .and dbl a b) s

/-- amo.or (R261). -/
def execAmoOr (dbl : Bool) (d a b : Reg) (s : State) : Host.Outcome State Fault Refusal :=
  issue (fun s => amoOp s .or dbl d a b) s

/-- amop.or (R261). -/
def execAmopOr (dbl : Bool) (a b : Reg) (s : State) : Host.Outcome State Fault Refusal :=
  issue (fun s => amopOp s .or dbl a b) s

/-- amo.xor (R261). -/
def execAmoXor (dbl : Bool) (d a b : Reg) (s : State) : Host.Outcome State Fault Refusal :=
  issue (fun s => amoOp s .xor dbl d a b) s

/-- amop.xor (R261). -/
def execAmopXor (dbl : Bool) (a b : Reg) (s : State) : Host.Outcome State Fault Refusal :=
  issue (fun s => amopOp s .xor dbl a b) s

/-- amo.min (R261). -/
def execAmoMin (dbl : Bool) (d a b : Reg) (s : State) : Host.Outcome State Fault Refusal :=
  issue (fun s => amoOp s .min dbl d a b) s

/-- amop.min (R261). -/
def execAmopMin (dbl : Bool) (a b : Reg) (s : State) : Host.Outcome State Fault Refusal :=
  issue (fun s => amopOp s .min dbl a b) s

/-- amo.max (R261). -/
def execAmoMax (dbl : Bool) (d a b : Reg) (s : State) : Host.Outcome State Fault Refusal :=
  issue (fun s => amoOp s .max dbl d a b) s

/-- amop.max (R261). -/
def execAmopMax (dbl : Bool) (a b : Reg) (s : State) : Host.Outcome State Fault Refusal :=
  issue (fun s => amopOp s .max dbl a b) s

/-- amo.minu (R261). -/
def execAmoMinu (dbl : Bool) (d a b : Reg) (s : State) : Host.Outcome State Fault Refusal :=
  issue (fun s => amoOp s .minu dbl d a b) s

/-- amop.minu (R261). -/
def execAmopMinu (dbl : Bool) (a b : Reg) (s : State) : Host.Outcome State Fault Refusal :=
  issue (fun s => amopOp s .minu dbl a b) s

/-- amo.maxu (R261). -/
def execAmoMaxu (dbl : Bool) (d a b : Reg) (s : State) : Host.Outcome State Fault Refusal :=
  issue (fun s => amoOp s .maxu dbl d a b) s

/-- amop.maxu (R261). -/
def execAmopMaxu (dbl : Bool) (a b : Reg) (s : State) : Host.Outcome State Fault Refusal :=
  issue (fun s => amopOp s .maxu dbl a b) s

/-- amo.swap (R261). -/
def execAmoSwap (dbl : Bool) (d a b : Reg) (s : State) : Host.Outcome State Fault Refusal :=
  issue (fun s => amoOp s .swap dbl d a b) s

/-- amo.cas (R261). -/
def execAmoCas (dbl : Bool) (d a b : Reg) (s : State) : Host.Outcome State Fault Refusal :=
  issue (fun s => amoOp s .cas dbl d a b) s

/-- amo.fadd (R261). -/
def execAmoFadd (dbl : Bool) (d a b : Reg) (s : State) : Host.Outcome State Fault Refusal :=
  issue (fun s => amoOp s .fadd dbl d a b) s

/-- amop.fadd (R261). -/
def execAmopFadd (dbl : Bool) (a b : Reg) (s : State) : Host.Outcome State Fault Refusal :=
  issue (fun s => amopOp s .fadd dbl a b) s

/-- amo.fmaxa (R261). -/
def execAmoFmaxa (dbl : Bool) (d a b : Reg) (s : State) : Host.Outcome State Fault Refusal :=
  issue (fun s => amoOp s .fmaxa dbl d a b) s

/-- amop.fmaxa (R261). -/
def execAmopFmaxa (dbl : Bool) (a b : Reg) (s : State) : Host.Outcome State Fault Refusal :=
  issue (fun s => amopOp s .fmaxa dbl a b) s

end Sys2Proof.Machine
end

