-- ==== Sys2Proof/Machine/Tasks.lean ====
section
/-! DEFINITION. Dependent task records, ready queues and the search of `next` (03_execution R60-R68, R386). -/

namespace Sys2Proof.Machine

open Sys2Proof

/-- Who makes an access to a task record: the thread whose instruction causes it (R386). -/
structure Actor where
  user : Bool
  launch : W32
  lmod : Nat
  deriving DecidableEq, Repr

/-- The thread of a frame as an actor. -/
def Frame.actor (f : Frame) : Actor := { user := !f.priv, launch := f.launch, lmod := f.lmod }

/-- An access of n bytes at core l for an actor. -/
def Actor.req (a : Actor) (l : Loc) (va : Word) (n : Nat) (write : Bool) : Req :=
  { home := .core l, va := va, size := n, write := write, user := a.user, launch := a.launch, lmod := a.lmod }

/-- A ready queue of a core. -/
def Core.queue (c : Core) (n : Nat) : RQueue := c.ready.toList.getD n {}
/-- The VA of the last record of a level, 0 with none (R386). -/
def RQueue.tail (q : RQueue) : Word := ((q.tags.filter fun t => t.task.isNone).getLast?.map fun t => t.va).getD 0
/-- The state with a ready queue changed. -/
def State.updQueue (s : State) (l : Loc) (n : Nat) (f : RQueue → RQueue) : State :=
  s.updCore l fun c => { c with ready := c.ready.mapIdx fun i q => if i = n then f q else q }

/-- How a decrement goes (R67, R272, R386): applied with the value left, refused by the home's checks at an address, or met by
an uncorrectable counter. -/
inductive DecOut where
  | done (left : Nat)
  | underflow
  | bad
  | check (va : Word) (r : HRes)
  deriving DecidableEq, Repr

/-- R67, R386: the decrement at the record's home as one step: the counter, and when it reaches zero the record's
own link and the link of the tail of its level. Nothing changes unless every access is allowed. -/
def State.decrement (s : State) (l : Loc) (a : Actor) (va : Word) : State × DecOut :=
  match s.check (a.req l va 64 true) with
  | (s, .ok p _ _ _) =>
    if s.isBad p 8 then (s, .bad)
    else
      let c := s.num p 4
      if c = 0 then (s, .underflow)
      else if 2 ≤ c then (s.writeAt (.core l) va p (bytesOf 4 (c - 1)), .done (c - 1))
      else
        let lv := bitsOf (s.num (p + 4) 1) 0 2
        let q := (s.core l).queue lv
        let link (s : State) : State :=
          let s := s.writeAt (.core l) va p (bytesOf 4 0)
          let s := s.poke (p + 40) (bytesOf 8 0)
          let s := s.updQueue l lv fun q => { tags := q.tags ++ [{ launch := a.launch, lmod := a.lmod, va := va }] }
          s.countUp a.launch a.lmod
        if q.tail = 0 then (link s, .done 0)
        else
          match s.check (a.req l q.tail 64 true) with
          | (s, .ok t _ _ _) => ((link s).writeAt (.core l) q.tail (t + 40) (bytesOf 8 va.toNat), .done 0)
          | (s, r) => (s, .check q.tail r)
  | (s, r) => (s, .check va r)

/-- A task from a record's bytes (R66). Bits [1:0] of its entry pc are taken as 0: a pc is a multiple of 4 (R174; log
entry 105). -/
def recordTask (b : List Byte) (id : W32) (m : Nat) : Task :=
  { pc := BitVec.ofNat 64 (numAt b 8 8) &&& ~~~3#64, idem := bitsOf (numAt b 5 1) 1 1 == 1, jc := BitVec.ofNat 64 (numAt b 16 8)
    a0 := BitVec.ofNat 64 (numAt b 24 8), a1 := BitVec.ofNat 64 (numAt b 32 8), launch := id, lmod := m }

/-- What a search of `next` finds: a task, that the count is zero, nothing yet, or a read that cannot be made. -/
inductive Found where
  | task (t : Task)
  | over
  | nothing
  | check (va : Word) (r : HRes)
  | bad (va : Word)
  deriving DecidableEq, Repr

/-- The entry is tagged with the actor's launch. -/
def RTag.of (t : RTag) (a : Actor) : Bool := t.launch == a.launch && t.lmod == a.lmod
/-- The entry is the record at this VA. -/
def RTag.at (t : RTag) (va : Word) : Bool := t.task.isNone && t.va == va

/-- R67: what remains linked after a record of the actor's launch whose link field reads `nxt`, where `r` was linked
behind it. A link that software changed is followed as it reads: the launch's own records before the place that it names
are skipped, and a record that is not linked is linked there. The entries of other launches stay. -/
def followLink (a : Actor) (nxt : Word) (r : List RTag) : List RTag :=
  let mine (t : RTag) : Bool := t.of a && t.task.isNone
  if nxt = ((r.find? fun t => t.task.isNone).map fun t => t.va).getD 0 then r
  else if r.any fun t => t.at nxt then
    ((r.takeWhile fun t => !t.at nxt).filter fun t => !mine t) ++ r.dropWhile fun t => !t.at nxt
  else (if nxt = 0 then [] else [{ launch := a.launch, lmod := a.lmod, va := nxt }]) ++ r.filter fun t => !mine t

/-- R63, R386: the first entry of the actor's launch in one level of a ready queue. `done` are the entries before it,
latest first, whose records the search has read. -/
def searchLevel (s : State) (l : Loc) (a : Actor) (lv : Nat) : List RTag → List RTag → State × Found
  | [], _ => (s, .nothing)
  | t :: r, done =>
    match t.task with
    | some x =>
      if t.of a then (s.updQueue l lv fun _ => { tags := done.reverse ++ r }, .task x) else searchLevel s l a lv r (t :: done)
    | none =>
      match s.check (a.req l t.va 64 false) with
      | (s, .ok p _ _ _) =>
        if s.isBad p 48 then (s, .bad t.va)
        else if t.of a then
          let nxt : Word := BitVec.ofNat 64 (s.num (p + 40) 8)
          let x := recordTask (s.bytes p 48) t.launch t.lmod
          let take (s : State) : State := s.updQueue l lv fun _ => { tags := done.reverse ++ followLink a nxt r }
          match done.find? fun t => t.task.isNone with
          | none => (take s, .task x)
          | some prev =>
            match s.check (a.req l prev.va 64 true) with
            | (s, .ok p0 _ _ _) => ((take s).writeAt (.core l) prev.va (p0 + 40) (bytesOf 8 nxt.toNat), .task x)
            | (s, e) => (s, .check prev.va e)
        else searchLevel s l a lv r (t :: done)
      | (s, e) => (s, .check t.va e)

/-- R63: the ready queue of the core, highest priority first. -/
def searchReady (s : State) (l : Loc) (a : Actor) : Nat → State × Found
  | 0 => (s, .nothing)
  | lv + 1 =>
    let q := (s.core l).queue lv
    match searchLevel s l a lv q.tags [] with
    | (s, .nothing) => searchReady s l a lv
    | r => r

/-- The last position with p. -/
def findLast {α : Type} (p : α → Bool) (l : List α) : Option Nat :=
  (findAt p l.reverse).map fun i => l.length - 1 - i

/-- R63: the victims in order: the quad clockwise from the taker's position, then the die by core index from the
taker's own, within the region. -/
def victims (s : State) (l : Loc) (a : Actor) : List Loc :=
  let ring := [0, 2, 3, 1]
  let d := Loc.dieId l * 256
  let at0 := (findAt (· == Loc.pos l) ring).getD 0
  let quad := (List.range 3).map fun i => d + coreOf (Loc.quad l) (ring.getD ((at0 + i + 1) % 4) 0)
  let rest := (List.range 255).map fun i => d + (Loc.core l + i + 1) % 256
  (quad ++ rest.filter fun x => !quad.contains x).filter fun x => s.inRegion a.launch a.lmod x

/-- R63: the first victim with a stealable entry of the launch, and its position there. -/
def stealFrom (s : State) (a : Actor) : List Loc → Option (Loc × Nat)
  | [] => none
  | v :: r =>
    match findAt (fun t => t.launch == a.launch && t.lmod == a.lmod && !t.anch) (s.deque v) with
    | some i => some (v, i)
    | none => stealFrom s a r

/-- R169: the stores of core `src` to the local store of core `dst` with a number below `before` are performed. -/
def State.storesTo (s : State) (src dst : Loc) (before : Nat) : Bool :=
  let mine (i : Nat) (h : Home) : Bool := decide (i < before) && h == .core dst
  ((s.core src).queued.all fun e => !mine e.id e.home) &&
  s.net.all fun p => !(p.src == src && mine p.id p.home &&
    match p.kind with | .word _ => true | k => k.isStore)

/-- Entry i of core v's deque goes to core l, once the issuer's earlier stores to core l are performed there (R169). -/
def State.takeFrom (s : State) (v l : Loc) (i : Nat) : State × Found :=
  let ts := s.deque v
  let t := ts.getD i {}
  if s.storesTo t.src l t.seq then (s.setDeque v (dropAt ts i), .task t) else (s, .nothing)

/-- The cores whose only deque entry their own thread takes in this clk, as a later member of the gang in issue with nothing
in its ready queue: no other steals it (R71, R266). -/
def State.spared (s : State) : List Loc :=
  let later := (s.fellows.dropWhile fun k => k != s.me).drop 1
  (later.map keyLoc).filter fun l =>
    (s.deque l).length == 1 && (s.core l).ready.all fun q => q.tags.all fun t => !t.of s.my.actor

/-- R63: one search of `next` at core l, which steals from no core of `spared`. The entry found leaves its queue. -/
def State.search (s : State) (l : Loc) (a : Actor) (spared : List Loc) : State × Found :=
  match searchReady s l a 4 with
  | (s, .nothing) =>
    match findLast (fun t => t.launch == a.launch && t.lmod == a.lmod) (s.deque l) with
    | some i => s.takeFrom l l i
    | none =>
      match stealFrom s a ((victims s l a).filter fun v => !spared.contains v) with
      | some (v, i) => s.takeFrom v l i
      | none =>
        match s.launchOf a.launch a.lmod with
        | some x => (s, if x.tasks = 0 then .over else .nothing)
        | none => (s, .over)
  | r => r

/-- R64: the thread of frame k becomes the task; its registers g1 and g2 are written after any destination. What an idempotent
task has buffered drains first, as at `exit` (log entry 106), and the slot's instruction words go: the task fetches what
its start released (R169). -/
def State.become (s : State) (k : Nat) (t : Task) : State :=
  let s := s.drain k
  let s := match s.slotOf k with | some n => s.updSlot (keyLoc k) n fun x => { x with ibuf := [] } | none => s
  s.updFrame k fun f =>
    { ((((f.setG 1 t.a0).setG 2 t.a1).setT 15 1 t.idem.toNat).setT 16 1 1) with
      jcell := t.jc, task := some t }

/-- A task entry is queued at a core, and waiting `next`s of its launch see it (R63). -/
def State.wakeNext (s : State) (id : W32) (m : Nat) : State :=
  s.wake fun _ f => f.wait == some .next && f.launch == id && f.lmod == m

end Sys2Proof.Machine
end

