-- ==== Sys2Proof/Machine/Int.lean ====
section
/-! DEFINITION. The integer register instructions, major 0x01 (13_isa_scalar R217, R218). -/

namespace Sys2Proof.Machine

open Sys2Proof

/-- The high half of the signed product (R217). -/
def mulHigh (x y : Word) : Word := BitVec.ofInt 64 (x.toInt * y.toInt / 2 ^ 64)
/-- The high half of the unsigned product (R217). -/
def mulHighU (x y : Word) : Word := BitVec.ofNat 64 (x.toNat * y.toNat / 2 ^ 64)
/-- R85: all ones when the divisor is 0; the one overflow wraps. -/
def divS (x y : Word) : Word := if y = 0 then BitVec.allOnes 64 else x.sdiv y
/-- R85, unsigned. -/
def divU (x y : Word) : Word := if y = 0 then BitVec.allOnes 64 else x / y
/-- R85: the dividend when the divisor is 0. -/
def remS (x y : Word) : Word := if y = 0 then x else x.srem y
/-- R85, unsigned. -/
def remU (x y : Word) : Word := if y = 0 then x else x % y
/-- The one bits among the low n of x. -/
def onesIn : Nat → Nat → Nat
  | 0, _ => 0
  | n + 1, x => x % 2 + onesIn n (x / 2)
/-- R218: VA[56:0] from a location laid out as in `tid` and an offset. -/
def leaAddr (a b : Word) : Word := BitVec.ofNat 64 (2 ^ 55 + fieldOf b 3 22 * 2 ^ 33 + fieldOf a 0 33)

/-- add: a + b (R217). -/
def execAdd (d a b : Reg) (ta tb : Bool) (s : State) : Host.Outcome State Fault Refusal :=
  issue (fun s => aluTwo s d a b ta tb fun x y => x + y) s

/-- sub: a − b (R217). -/
def execSub (d a b : Reg) (ta tb : Bool) (s : State) : Host.Outcome State Fault Refusal :=
  issue (fun s => aluTwo s d a b ta tb fun x y => x - y) s

/-- and: a AND b (R217). -/
def execAnd (d a b : Reg) (ta tb : Bool) (s : State) : Host.Outcome State Fault Refusal :=
  issue (fun s => aluTwo s d a b ta tb fun x y => x &&& y) s

/-- or: a OR b (R217). -/
def execOr (d a b : Reg) (ta tb : Bool) (s : State) : Host.Outcome State Fault Refusal :=
  issue (fun s => aluTwo s d a b ta tb fun x y => x ||| y) s

/-- xor: a XOR b (R217). -/
def execXor (d a b : Reg) (ta tb : Bool) (s : State) : Host.Outcome State Fault Refusal :=
  issue (fun s => aluTwo s d a b ta tb fun x y => x ^^^ y) s

/-- andn: a AND NOT b (R217). -/
def execAndn (d a b : Reg) (ta tb : Bool) (s : State) : Host.Outcome State Fault Refusal :=
  issue (fun s => aluTwo s d a b ta tb fun x y => x &&& ~~~y) s

/-- sll: a shifted left by b[5:0] (R217). -/
def execSll (d a b : Reg) (ta tb : Bool) (s : State) : Host.Outcome State Fault Refusal :=
  issue (fun s => aluTwo s d a b ta tb fun x y => x <<< (y.toNat % 64)) s

/-- srl: a shifted right by b[5:0], zeros in (R217). -/
def execSrl (d a b : Reg) (ta tb : Bool) (s : State) : Host.Outcome State Fault Refusal :=
  issue (fun s => aluTwo s d a b ta tb fun x y => x >>> (y.toNat % 64)) s

/-- sra: a shifted right by b[5:0], copies of a[63] in (R217). -/
def execSra (d a b : Reg) (ta tb : Bool) (s : State) : Host.Outcome State Fault Refusal :=
  issue (fun s => aluTwo s d a b ta tb fun x y => x.sshiftRight (y.toNat % 64)) s

/-- ror: a rotated right by b[5:0] (R217). -/
def execRor (d a b : Reg) (ta tb : Bool) (s : State) : Host.Outcome State Fault Refusal :=
  issue (fun s => aluTwo s d a b ta tb fun x y => x.rotateRight (y.toNat % 64)) s

/-- mul: (a × b)[63:0] (R217). -/
def execMul (d a b : Reg) (ta tb : Bool) (s : State) : Host.Outcome State Fault Refusal :=
  issue (fun s => aluTwo s d a b ta tb fun x y => x * y) s

/-- mulh: the high half of the signed product (R217). -/
def execMulh (d a b : Reg) (ta tb : Bool) (s : State) : Host.Outcome State Fault Refusal :=
  issue (fun s => aluTwo s d a b ta tb fun x y => mulHigh x y) s

/-- mulhu: the high half of the unsigned product (R217). -/
def execMulhu (d a b : Reg) (ta tb : Bool) (s : State) : Host.Outcome State Fault Refusal :=
  issue (fun s => aluTwo s d a b ta tb fun x y => mulHighU x y) s

/-- min: the smaller, signed (R217). -/
def execMin (d a b : Reg) (ta tb : Bool) (s : State) : Host.Outcome State Fault Refusal :=
  issue (fun s => aluTwo s d a b ta tb fun x y => if x.slt y then x else y) s

/-- max: the larger, signed (R217). -/
def execMax (d a b : Reg) (ta tb : Bool) (s : State) : Host.Outcome State Fault Refusal :=
  issue (fun s => aluTwo s d a b ta tb fun x y => if x.slt y then y else x) s

/-- minu: the smaller, unsigned (R217). -/
def execMinu (d a b : Reg) (ta tb : Bool) (s : State) : Host.Outcome State Fault Refusal :=
  issue (fun s => aluTwo s d a b ta tb fun x y => if x.ult y then x else y) s

/-- maxu: the larger, unsigned (R217). -/
def execMaxu (d a b : Reg) (ta tb : Bool) (s : State) : Host.Outcome State Fault Refusal :=
  issue (fun s => aluTwo s d a b ta tb fun x y => if x.ult y then y else x) s

/-- selz: 0 when b = 0, otherwise a (R217). -/
def execSelz (d a b : Reg) (ta tb : Bool) (s : State) : Host.Outcome State Fault Refusal :=
  issue (fun s => aluTwo s d a b ta tb fun x y => if y = 0 then 0 else x) s

/-- lea: a local-store address from a location in b and an offset in a (R218). -/
def execLea (d a b : Reg) (ta tb : Bool) (s : State) : Host.Outcome State Fault Refusal :=
  issue (fun s => aluTwo s d a b ta tb fun x y => leaAddr x y) s

/-- div: the signed quotient, toward zero (R217, R85), a long-latency result (R216). -/
def execDiv (d a b : Reg) (ta tb : Bool) (s : State) : Host.Outcome State Fault Refusal :=
  issue (fun s => lateTwo s d a b ta tb fun x y => divS x y) s

/-- divu: the unsigned quotient (R217, R85), a long-latency result (R216). -/
def execDivu (d a b : Reg) (ta tb : Bool) (s : State) : Host.Outcome State Fault Refusal :=
  issue (fun s => lateTwo s d a b ta tb fun x y => divU x y) s

/-- rem: the signed remainder (R217, R85), a long-latency result (R216). -/
def execRem (d a b : Reg) (ta tb : Bool) (s : State) : Host.Outcome State Fault Refusal :=
  issue (fun s => lateTwo s d a b ta tb fun x y => remS x y) s

/-- remu: the unsigned remainder (R217, R85), a long-latency result (R216). -/
def execRemu (d a b : Reg) (ta tb : Bool) (s : State) : Host.Outcome State Fault Refusal :=
  issue (fun s => lateTwo s d a b ta tb fun x y => remU x y) s

/-- clz: leading zero bits (R217). -/
def execClz (d a : Reg) (ta : Bool) (s : State) : Host.Outcome State Fault Refusal :=
  issue (fun s => aluOne s d a ta fun x => x.clz) s

/-- ctz: trailing zero bits (R217). -/
def execCtz (d a : Reg) (ta : Bool) (s : State) : Host.Outcome State Fault Refusal :=
  issue (fun s => aluOne s d a ta fun x => x.reverse.clz) s

/-- popc: one bits (R217). -/
def execPopc (d a : Reg) (ta : Bool) (s : State) : Host.Outcome State Fault Refusal :=
  issue (fun s => aluOne s d a ta fun x => BitVec.ofNat 64 (onesIn 64 x.toNat)) s

/-- brev: the bits in reverse (R217). -/
def execBrev (d a : Reg) (ta : Bool) (s : State) : Host.Outcome State Fault Refusal :=
  issue (fun s => aluOne s d a ta fun x => x.reverse) s

/-- bswap: the bytes in reverse (R217). -/
def execBswap (d a : Reg) (ta : Bool) (s : State) : Host.Outcome State Fault Refusal :=
  issue (fun s => aluOne s d a ta fun x => BitVec.ofNat 64 (ofBytes (bytesOf 8 x.toNat).reverse)) s

/-- sextB: sext(a, 8) (R217). -/
def execSextB (d a : Reg) (ta : Bool) (s : State) : Host.Outcome State Fault Refusal :=
  issue (fun s => aluOne s d a ta fun x => sext 8 x) s

/-- sextH: sext(a, 16) (R217). -/
def execSextH (d a : Reg) (ta : Bool) (s : State) : Host.Outcome State Fault Refusal :=
  issue (fun s => aluOne s d a ta fun x => sext 16 x) s

/-- sextW: sext(a, 32) (R217). -/
def execSextW (d a : Reg) (ta : Bool) (s : State) : Host.Outcome State Fault Refusal :=
  issue (fun s => aluOne s d a ta fun x => sext 32 x) s

/-- zextB: zext(a, 8) (R217). -/
def execZextB (d a : Reg) (ta : Bool) (s : State) : Host.Outcome State Fault Refusal :=
  issue (fun s => aluOne s d a ta fun x => zext 8 x) s

/-- zextH: zext(a, 16) (R217). -/
def execZextH (d a : Reg) (ta : Bool) (s : State) : Host.Outcome State Fault Refusal :=
  issue (fun s => aluOne s d a ta fun x => zext 16 x) s

/-- zextW: zext(a, 32) (R217). -/
def execZextW (d a : Reg) (ta : Bool) (s : State) : Host.Outcome State Fault Refusal :=
  issue (fun s => aluOne s d a ta fun x => zext 32 x) s

/-- cmpEq: 1 when the condition holds, otherwise 0 (R217). -/
def execCmpEq (d a b : Reg) (ta tb : Bool) (s : State) : Host.Outcome State Fault Refusal :=
  issue (fun s => aluTwo s d a b ta tb fun x y => ofBool (cmpHolds .eq x y)) s

/-- cmpNe: 1 when the condition holds, otherwise 0 (R217). -/
def execCmpNe (d a b : Reg) (ta tb : Bool) (s : State) : Host.Outcome State Fault Refusal :=
  issue (fun s => aluTwo s d a b ta tb fun x y => ofBool (cmpHolds .ne x y)) s

/-- cmpLt: 1 when the condition holds, otherwise 0 (R217). -/
def execCmpLt (d a b : Reg) (ta tb : Bool) (s : State) : Host.Outcome State Fault Refusal :=
  issue (fun s => aluTwo s d a b ta tb fun x y => ofBool (cmpHolds .lt x y)) s

/-- cmpGe: 1 when the condition holds, otherwise 0 (R217). -/
def execCmpGe (d a b : Reg) (ta tb : Bool) (s : State) : Host.Outcome State Fault Refusal :=
  issue (fun s => aluTwo s d a b ta tb fun x y => ofBool (cmpHolds .ge x y)) s

/-- cmpLtu: 1 when the condition holds, otherwise 0 (R217). -/
def execCmpLtu (d a b : Reg) (ta tb : Bool) (s : State) : Host.Outcome State Fault Refusal :=
  issue (fun s => aluTwo s d a b ta tb fun x y => ofBool (cmpHolds .ltu x y)) s

/-- cmpGeu: 1 when the condition holds, otherwise 0 (R217). -/
def execCmpGeu (d a b : Reg) (ta tb : Bool) (s : State) : Host.Outcome State Fault Refusal :=
  issue (fun s => aluTwo s d a b ta tb fun x y => ofBool (cmpHolds .geu x y)) s

end Sys2Proof.Machine
end

