-- ==== Sys2Proof/Machine/Tile.lean ====
section
/-! DEFINITION. The tile table and the TILE major 0x25 (07_memory R139-R141, 15_isa_threads R280-R283). -/

namespace Sys2Proof.Machine

open Sys2Proof

/-! ## Status codes (R313) -/

/-- STALE. -/
def stStale : Nat := 1
/-- LOCKED. -/
def stLocked : Nat := 2
/-- BOUNDS. -/
def stBounds : Nat := 3
/-- FAULTED. -/
def stFaulted : Nat := 4
/-- POISONED. -/
def stPoisoned : Nat := 5
/-- ABSENT. -/
def stAbsent : Nat := 6
/-- MALFORMED. -/
def stMalformed : Nat := 7
/-- FORMAT_SPLIT. -/
def stSplit : Nat := 8
/-- LATE. -/
def stLate : Nat := 9
/-- MISMATCH. -/
def stMismatch : Nat := 10

/-! ## Entries and handles -/

/-- A slot of a core's tile table. -/
def Core.tile (c : Core) (n : Nat) : Tile := c.tiles.get {} n
/-- The state with a slot of a tile table changed. -/
def State.updTile (s : State) (l : Loc) (n : Nat) (f : Tile → Tile) : State :=
  s.updCore l fun c => { c with tiles := c.tiles.put n (f (c.tile n)) }

/-- The entry as R139 lays it out. -/
def Tile.word (t : Tile) : Word :=
  BitVec.ofNat 64 (t.base.toNat + t.gen.toNat * 2 ^ 22 + t.rows.toNat * 2 ^ 32 + t.cols.toNat * 2 ^ 41 +
    t.fmt.toNat * 2 ^ 50 + t.state.toNat * 2 ^ 56 + t.status.toNat * 2 ^ 58)

/-- A tile's row pitch (R139). -/
def tilePitch (cols fmt : Nat) : Nat := ceilDiv (ceilDiv (cols * fmtBits fmt) 8) 64 * 64
/-- The pitch of an entry. -/
def Tile.pitch (t : Tile) : Nat := tilePitch t.cols.toNat t.fmt.toNat
/-- The bytes of an entry's tile (R139). -/
def Tile.bytes (t : Tile) : Nat := t.rows.toNat * t.pitch

/-- R140: the slot that a handle names on a core, unless the handle is stale. -/
def State.handle (s : State) (l : Loc) (v : Word) : Option Nat :=
  let n := fieldOf v 0 6
  let t := (s.core l).tile n
  if fieldOf v 16 48 = 0 ∧ t.state ≠ 0 ∧ t.gen.toNat = fieldOf v 6 10 then some n else none

/-- STATE is 1 or 3 through an engine or Flock operation (R140, R283). -/
def Tile.busy (t : Tile) : Bool := t.state == 3 || (t.state == 1 && !t.marked)

/-- R140: the slot is freed and its generation moves on. -/
def State.freeTile (s : State) (l : Loc) (n : Nat) : State :=
  (s.updTile l n fun t => { t with state := 0, gen := t.gen + 1, marked := false }).wake fun k f =>
    keyLoc k == l && f.wait == some (.tile n)

/-- A thread waits for a tile, or traps under FE (R141). -/
def tileWait (s : State) (n : Nat) : Eff := if s.my.fe then .trap .registerEmpty 0 0 else .waitFor (.tile n)

/-- A TILE instruction reads its handle first (R281). -/
def withTile (s : State) (a : Reg) (k : Nat → Tile → State → Eff) : Eff :=
  anchored s fun _ => src s a false fun v s =>
    match s.handle s.cur.loc v with
    | some n => k n ((s.core s.cur.loc).tile n) s
    | none => .trap .tileStale 0 0

/-- tile.free (R140, R281). -/
def execTileFree (a : Reg) (s : State) : Host.Outcome State Fault Refusal :=
  issue (fun s => withTile s a fun n t s =>
    if t.busy then tileWait s n else .done (s.freeTile s.cur.loc n) .seq) s

/-- The detail bits of R113. -/
def detail113 (mask : Nat) (exact sat nan : Bool) : Nat :=
  mask + 16 * exact.toNat + 32 * sat.toNat + 64 * nan.toNat

/-- The slot bit of a Gleaner command that has sampled its table (R342). -/
def Cmd.slotBit (c : Cmd) : Nat := match c.version with | some v => 16 * v.2 | none => 0

/-- The detail bits of a command that ends: those due so far, and a Pavilion's mask and mode once it has begun or a
Gleaner's slot once it has sampled (R113, R342). -/
def Cmd.endDetail (c : Cmd) : Nat :=
  c.det ||| if c.begun && (c.code == 0x0101 || c.code == 0x0102) then detail113 c.mask c.exact false false else c.slotBit

/-- R140: the engine or Flock operation on a tile is aborted; its completion carries STALE. -/
def State.abortTile (s : State) (l : Loc) (n : Nat) : State :=
  let gen := ((s.core l).tile n).gen.toNat
  let hit (c : Cmd) : Bool := c.begun && c.tiles.any fun r => r.loc == l && r.slot == n && r.gen == gen
  let held := (s.holds.flatMap fun h => h.members).filter fun m => m.loc == l && m.tile == n && m.gen == gen
  { s with
    cmds := mapIf hit (fun c => { c with phase := .done stStale c.endDetail }) s.cmds
    locks := s.locks.filter fun k => !(held.any fun m => m.lock == k.cmd)
    holds := s.holds.map fun h =>
      { h with members := h.members.filter fun m => !(m.loc == l && m.tile == n && m.gen == gen) } }

/-- tile.freef: supervisor only (R140, R281). -/
def execTileFreef (a : Reg) (s : State) : Host.Outcome State Fault Refusal :=
  issue (fun s => anchored s fun _ => supervisor s fun _ => withTile s a fun n _ s =>
    .done ((s.abortTile s.cur.loc n).freeTile s.cur.loc n) .seq) s

/-- tile.state: the entry, with no wait (R281). -/
def execTileState (d a : Reg) (s : State) : Host.Outcome State Fault Refusal :=
  issue (fun s => withTile s a fun _ t s => put s d t.word fun s => .done s .seq) s

/-- tile.mark: STATE is set to 1 or 2 (R140, R283). -/
def execTileMark (a : Reg) (st : BitVec 3) (s : State) : Host.Outcome State Fault Refusal :=
  issue (fun s => withTile s a fun n t s =>
    if t.busy then tileWait s n
    else
      let s := s.updTile s.cur.loc n fun t => { t with state := st.setWidth 2, marked := st == 1 }
      let l := s.cur.loc
      .done (if st == 2 then s.wake fun k f => keyLoc k == l && f.wait == some (.tile n) else s) .seq) s

/-- A shape within the limits of R280 (R282 step 1). -/
def shapeOk (v : Word) : Bool :=
  let r := fieldOf v 0 9
  let c := fieldOf v 9 9
  let f := fieldOf v 18 6
  fieldOf v 24 40 == 0 && decide (1 ≤ r ∧ r ≤ 256 ∧ 1 ≤ c ∧ c ≤ 256 ∧ 1 ≤ f ∧ f ≤ 11) && (f != 11 || c % 4 == 0)

/-- The lowest empty slot of a tile table (R140). -/
def Core.freeSlot (c : Core) : Option Nat := (List.range 64).find? fun n => (c.tile n).state == 0

/-- tile.alloc (R282). The base is translated by the core's own TLB; the page must hold the whole tile. -/
def execTileAlloc (d a b : Reg) (s : State) : Host.Outcome State Fault Refusal :=
  issue (fun s => anchored s fun _ => src s a false fun base s => src s b false fun shape s =>
    let rows := fieldOf shape 0 9
    let cols := fieldOf shape 9 9
    let fmt := fieldOf shape 18 6
    let bytes := rows * tilePitch cols fmt
    if !shapeOk shape then .trap .protection base 0
    else if base.toNat % 64 ≠ 0 then .trap .misaligned base 0
    else if vaBad base ∨ spaceOf base ≠ .ls ∨ lsOwner base ≠ s.cur.loc ∨ (windowAt base).isSome then
      .trap .protection base 0
    else if !s.canLoad (Reg.num d) then .wait
    else
      let h : Home := .core s.cur.loc
      match s.check { s.myReq h base 1 false with locks := false } with
      | (s, .park r pb n) => .hold (s.parkThread s.me false h r pb n base { user := !s.my.priv })
      | (s, .ok p e pb n) =>
        let o := p % 2 ^ 22
        if pb + n < base.toNat + bytes ∨ inArea o bytes ∨ (pteFmt e ≠ 0 ∧ pteFmt e ≠ fmt) ∨ pteGeo e ≠ 0 then
          .trap .protection base 0
        else
          match (s.core s.cur.loc).freeSlot with
          | none => put s d (BitVec.allOnes 64) fun s => .done s .seq
          | some n =>
            let gen := ((s.core s.cur.loc).tile n).gen
            let s := s.updTile s.cur.loc n fun t =>
              { t with base := BitVec.ofNat 22 o, rows := BitVec.ofNat 9 rows, cols := BitVec.ofNat 9 cols
                       fmt := BitVec.ofNat 6 fmt, state := 2, status := 0, marked := false
                       launch := s.my.launch, lmod := s.my.lmod }
            put s d (BitVec.ofNat 64 (n + gen.toNat * 64)) fun s => .done s .seq
      | (_, .isol) => .trap .remoteDenied base 0
      | _ => .trap .protection base 0) s

end Sys2Proof.Machine
end

