-- ==== Sys2Proof/Machine/Sync.lean ====
section
/-! DEFINITION. Barriers, fences, Flock groups and Pavilion leases, major 0x24 (15_isa_threads R273-R279,
09_ordering R157-R160, 07_memory R144-R147). -/

namespace Sys2Proof.Machine

open Sys2Proof

/-! ## Barriers (R273, R274) -/

/-- The instance of a scope that holds a core (R273). -/
def instanceOf (sc : Scope) (l : Loc) : Nat :=
  match sc with
  | .core => l
  | .quad => Loc.quadId l
  | .die => Loc.dieId l
  | .stack => Loc.stackId l
  | .mod => Loc.module l
  | _ => 0

/-- Where R57 placed a thread of a launch. -/
def Launch.placedAt (x : Launch) (uid : Nat) : Option Loc := (x.placed.find? fun e => e.1 == uid).map fun e => e.2

/-- This is the barrier of that launch, scope, instance and id. -/
def Barrier.isAt (b : Barrier) (id : W32) (m : Nat) (sc : Scope) (inst n : Nat) : Bool :=
  b.launch == id && b.lmod == m && b.sc == sc && b.inst == inst && b.id == n

/-- A barrier as it is when its launch starts, with the members that have ended since dropped (R273, R275). -/
def Launch.freshBarrier (x : Launch) (sc : Scope) (inst n : Nat) : Barrier :=
  let ms := if x.lr.kind = 1 then (x.placed.filter fun e => instanceOf sc e.2 == inst).map fun e => e.1 else []
  let out := ms.filter fun u => x.exited.contains u
  { launch := x.id, lmod := x.mod, sc := sc, inst := inst, id := n, members := ms, arrived := out.map fun u => (u, 0)
    ards := out }

/-- The barrier that a thread's SYNC word names: one it joined through BARADD, or its own launch's (R273). -/
def State.barrierOf (s : State) (k : Nat) (sc : Scope) (n : Nat) : Option Barrier :=
  let f := s.frame k
  match s.barriers.find? fun b => b.sc == sc && b.id == n && b.launch != f.launch && b.members.contains f.uid with
  | some b => some b
  | none =>
    match s.launchOf f.launch f.lmod with
    | none => none
    | some x =>
      let inst := instanceOf sc ((x.placedAt f.uid).getD (keyLoc k))
      match s.barriers.find? fun b => b.isAt x.id x.mod sc inst n with
      | some b => some b
      | none => some (x.freshBarrier sc inst n)

/-- The state with a barrier put in its place. -/
def State.putBarrier (s : State) (b : Barrier) : State :=
  let same (c : Barrier) : Bool := c.isAt b.launch b.lmod b.sc b.inst b.id
  { s with barriers := if s.barriers.any same then mapIf same (fun _ => b) s.barriers else s.barriers ++ [b] }

/-- The thread's arrive bit is set. -/
def State.hasArrived (s : State) (sc : Scope) (n : Nat) : Bool :=
  match s.barrierOf s.me sc n with
  | some b => b.arrived.any fun e => e.1 == s.my.uid
  | none => false

/-- An arrival, dropping out afterwards when `drop` (R274); the release looks back from here (R160). -/
def arrive (s : State) (sc : Scope) (n : Nat) (drop : Bool) (k : State → Eff) : Eff :=
  match s.barrierOf s.me sc n with
  | some b =>
    if b.members.contains s.my.uid && !b.arrived.any (fun e => e.1 == s.my.uid) then
      k (s.putBarrier { b with
        arrived := b.arrived ++ [(s.my.uid, s.nextId)], ards := if drop then b.ards ++ [s.my.uid] else b.ards })
    else .trap .barrierOverArrival 0 0
  | none => .trap .barrierOverArrival 0 0

/-- The wait of `bar.wait` and `bar.sync` (R274). -/
def barrierWait (s : State) (sc : Scope) (n : Nat) : Eff :=
  if s.hasArrived sc n then .waitFor (.bar sc n) else .done s .seq

/-- bar.arv (R274). -/
def execBarArv (sc : Scope) (id : BitVec 3) (s : State) : Host.Outcome State Fault Refusal :=
  issue (fun s => anchored s fun _ => arrive s sc id.toNat false fun s => .done s .seq) s

/-- bar.wait (R274). -/
def execBarWait (sc : Scope) (id : BitVec 3) (s : State) : Host.Outcome State Fault Refusal :=
  issue (fun s => anchored s fun _ => barrierWait s sc id.toNat) s

/-- bar.ard (R274). -/
def execBarArd (sc : Scope) (id : BitVec 3) (s : State) : Host.Outcome State Fault Refusal :=
  issue (fun s => anchored s fun _ => arrive s sc id.toNat true fun s => .done s .seq) s

/-- bar.sync: the arrival, then the wait (R274). -/
def execBarSync (sc : Scope) (id : BitVec 3) (s : State) : Host.Outcome State Fault Refusal :=
  issue (fun s => anchored s fun _ =>
    match s.my.pend with
    | .got _ => barrierWait s sc id.toNat
    | _ => arrive s sc id.toNat false fun s => .hold (s.updMy fun f => { f with pend := .got (.val 0) })) s

/-- bar.phase (R274). -/
def execBarPhase (sc : Scope) (d : Reg) (id : BitVec 3) (s : State) : Host.Outcome State Fault Refusal :=
  issue (fun s => anchored s fun _ =>
    let n := match s.barrierOf s.me sc id.toNat with | some b => b.phase.setWidth 64 | none => 0
    put s d n fun s => .done s .seq) s

/-! ## Reduction windows, as a fence sees them (R166, R167) -/

/-- The window covers this byte of device memory. -/
def RWindow.covers (w : RWindow) (va : Word) : Bool :=
  w.enable && spaceOf va == .dm && decide (w.base.toNat ≤ va.toNat ∧ va.toNat < w.base.toNat + w.pages.toNat * 65536)

/-- The home lies in the window: a slice of a die whose memory it covers, from the die of its base to that of its last
byte. -/
def RWindow.hasHome (w : RWindow) (h : Home) : Bool :=
  let last := w.base.toNat + w.pages.toNat * 65536 - 1
  w.enable && decide (0 < w.pages.toNat) &&
    match h with | .slice d _ => decide (dmDie w.base ≤ d ∧ d ≤ last / 2 ^ 41) | _ => false

/-- The current step of a module. -/
def RWindow.step (w : RWindow) (m : Nat) : Nat := w.steps.get 0 m

/-- A module closes its current step. -/
def RWindow.close (w : RWindow) (m now : Nat) : RWindow :=
  { w with closed := w.closed ++ [(w.step m, m, now)], steps := w.steps.put m (w.step m + 1) }

/-- The windows that combine: operations of these kinds and of the window's type, from a participant (R166). -/
def RWindow.combines (w : RWindow) (m : Nat) (op : AmoOp) (dbl : Bool) (va : Word) : Bool :=
  w.covers va && w.mask.getLsbD m &&
  match w.ty.toNat with
  | 0 => !dbl && (op == .add || op == .min || op == .max)
  | 1 => dbl && (op == .add || op == .min || op == .max)
  | 2 => !dbl && (op == .fadd || op == .fmaxa)
  | 3 => dbl && (op == .fadd || op == .fmaxa)
  | _ => false

/-- Every window of the pod changed. -/
def State.mapWindows (s : State) (f : RWindow → RWindow) : State :=
  { s with mods := s.mods.map fun e => (e.1, { e.2 with windows := e.2.windows.map f }) }

/-- Some window of the pod has p. -/
def State.anyWindow (s : State) (p : RWindow → Bool) : Bool := s.mods.any fun e => e.2.windows.toList.any p

/-- R167: a fence of scope `.pod` or `.sys` closes the step of each window that its path set reaches. -/
def State.closeSteps (s : State) (path : List Home) (m : Nat) : State :=
  s.mapWindows fun w => if w.mask.getLsbD m && path.any (fun h => w.hasHome h) then w.close m s.clk else w

/-! ## fence (R157, R277) -/

/-- Every home of a die. -/
def dieHomes (d : DieId) : List Home :=
  (List.range 64).map (fun q => Home.slice d q) ++ (List.range 256).map fun c => Home.core (d * 256 + c)

/-- Every home of the die lies within the scope. -/
def dieInside (sc : Scope) (l : Loc) (d : DieId) : Bool :=
  match sc with
  | .core => false | .quad => false | _ => scopeHas sc l (.core (d * 256))

/-- The homes that a fence sends markers to (R157). -/
def fenceTargets (s : State) (sc : Scope) : List Home :=
  ((s.my.path ++ s.my.pathDies.flatMap dieHomes).filter fun h => scopeHas sc s.cur.loc h).eraseDups

/-- Step 3 of R157: the path set loses what the fence covered, and the slot's buffer is discarded (R170). -/
def fenceDone (s : State) (sc : Scope) : Eff :=
  let l := s.cur.loc
  let s := s.updSlot l s.cur.slot fun x => { x with ibuf := [] }
  .done (s.updMy fun f =>
    { f with path := f.path.filter fun h => !scopeHas sc l h
             pathDies := f.pathDies.filter fun d => !dieInside sc l d }) .seq

/-- fence (R157). The combinable operations that the thread has sent from here have passed the port before a step is closed
(R161, R167). -/
def execFence (sc : Scope) (s : State) : Host.Outcome State Fault Refusal :=
  issue (fun s => drained s fun s =>
    let uid := s.my.uid
    match s.my.pend with
    | .sent _ => if s.net.any fun p => p.uid == uid && match p.kind with | .marker _ => true | _ => false then .wait else fenceDone s sc
    | _ =>
      let wide := sc == .pod || sc == .sys
      let posted (p : Pkt) : Bool := p.uid == uid && p.src == s.cur.loc && p.via.isEmpty && match p.kind with
        | .post op dbl _ => s.anyWindow fun w => w.combines (Loc.module p.src) op dbl p.va
        | _ => false
      if !s.loadsBack uid s.nextId || (s.core s.cur.loc).buffered.any (fun e => e.uid == uid) || (wide && s.net.any posted) then
        .wait
      else
        let hs := fenceTargets s sc
        if hs.isEmpty then fenceDone s sc
        else
          let s := if wide then s.closeSteps hs (Loc.module s.cur.loc) else s
          let s := hs.foldl (fun t h => t.send { t.mkPkt (.marker sc) h 0 with fan := [] }) s
          .hold (s.updMy fun f => { f with pend := .sent s.nextId })) s

/-! ## Flock (R144, R145, R278) -/

/-- This is the group of that launch, die and number. -/
def FGroup.isAt (g : FGroup) (id : W32) (m : Nat) (d : DieId) (n : Nat) : Bool :=
  g.launch == id && g.lmod == m && g.die == d && g.grp == n

/-- The group that a Flock word names, when some thread is enrolled in it. -/
def State.fgroup (s : State) (n : Nat) : Option FGroup :=
  s.fgroups.find? fun g => g.isAt s.my.launch s.my.lmod (Loc.dieId s.cur.loc) n && !g.enrolled.isEmpty

/-- The state with a group put in its place. -/
def State.putGroup (s : State) (g : FGroup) : State :=
  { s with fgroups := (s.fgroups.filter fun x => !x.isAt g.launch g.lmod g.die g.grp) ++ [g] }

/-- The thread's member number in a group: the one it enrolled under last (log entry 87). -/
def FGroup.member (g : FGroup) (uid : Nat) : Option Nat := (g.enrolled.reverse.find? fun e => e.1 == uid).map fun e => e.2

/-- flk.join (R144). A thread may enrol under several numbers (log entry 87). -/
def execFlkJoin (grp : BitVec 4) (a b : Reg) (s : State) : Host.Outcome State Fault Refusal :=
  issue (fun s => anchored s fun _ => src s a false fun mask s => src s b false fun k s =>
    let old := s.fgroup grp.toNat
    let g := old.getD
      { launch := s.my.launch, lmod := s.my.lmod, die := Loc.dieId s.cur.loc, grp := grp.toNat, mask := mask }
    if 64 ≤ k.toNat ∨ !bitOf mask k.toNat ∨ g.mask ≠ mask ∨ (g.enrolled.any fun e => e.2 == k.toNat) then
      .trap .flock 0 0
    else .done (s.putGroup { g with enrolled := g.enrolled ++ [(s.my.uid, k.toNat)] }) .seq) s

/-- flk.leave (R144, R278). -/
def execFlkLeave (grp : BitVec 4) (s : State) : Host.Outcome State Fault Refusal :=
  issue (fun s => anchored s fun _ =>
    match s.fgroup grp.toNat with
    | some g =>
      if (g.member s.my.uid).isSome then .done (s.putGroup (g.leave s.my.uid)) .seq else .trap .flock 0 0
    | none => .trap .flock 0 0) s

/-- flk.timer (R144, R278). -/
def execFlkTimer (grp : BitVec 4) (a : Reg) (s : State) : Host.Outcome State Fault Refusal :=
  issue (fun s => anchored s fun _ => src s a false fun t s =>
    match s.fgroup grp.toNat with
    | some g =>
      if (g.member s.my.uid).isSome ∧ 1 ≤ t.toNat ∧ t.toNat ≤ 256 then .done (s.putGroup { g with timer := t.toNat }) .seq
      else .trap .flock 0 0
    | none => .trap .flock 0 0) s

/-- The page of an address at its home: its leaf's, or the 64 KiB range when no walk reaches one (R126). -/
def State.pageOf (s : State) (h : Home) (va : Word) : Nat × Nat :=
  match s.leaf h va with
  | (_, .leaf b n _ _) => (b, n)
  | _ => (va.toNat / 65536 * 65536, 65536)

/-- Lock entries of each home (R142). -/
def lockRoom : Nat := 64

/-- Locks registered on the bytes of a core's bank. -/
def State.bankLocks (s : State) (l : Loc) : Nat :=
  (s.locks.filter fun k => k.homes.contains (.core l)).length

/-- flk.ld: the checks in the order of R278, then the destination lock, STATE 1 and the request (R145, R142). -/
def execFlkLd (grp : BitVec 4) (a b : Reg) (s : State) : Host.Outcome State Fault Refusal :=
  issue (fun s => anchored s fun _ =>
    match b with
    | .g n =>
      src s a false fun va s => src s b false fun len s => src s (.g (n + 1)) false fun hd s =>
        match s.handle s.cur.loc hd with
        | none => .trap .tileStale 0 0
        | some t =>
          let tile := (s.core s.cur.loc).tile t
          let go (g : FGroup) (k : Nat) (h : Home) : Eff :=
            let (pb, pn) := s.pageOf h va
            if len = 0 ∨ 65536 < len.toNat ∨ pb + pn < va.toNat + len.toNat ∨ tile.bytes < len.toNat then .trap .flock va 0
            else if va.toNat % 256 ≠ 0 ∨ len.toNat % 256 ≠ 0 then .trap .misaligned va 0
            else if tile.state ≠ 2 then tileWait s t
            else if s.acqHeld h va ∨ lockRoom ≤ s.bankLocks s.cur.loc then .wait
            else
              let id := s.nextId
              let cnt := onesIn 64 g.mask.toNat
              let k : PKind := .flock grp.toNat k cnt len.toNat t tile.gen.toNat (Loc.dieId s.cur.loc)
              let s := s.updTile s.cur.loc t fun t => { t with state := 1, marked := false }
              let s := s.send { s.mkPkt k h va with fan := [] }
              .done { s with
                locks := s.locks ++ [{ cmd := id, dst := true, rng := .bank s.cur.loc tile.base.toNat tile.bytes
                                       homes := [.core s.cur.loc]
                                       bank := [(bankKey s.cur.loc tile.base.toNat, tile.bytes)] }] } .seq
          match s.fgroup grp.toNat with
          | none => .trap .flock va 0
          | some g =>
            match g.member s.my.uid with
            | none => .trap .flock va 0
            | some k =>
              if spaceOf va ≠ .dm ∧ spaceOf va ≠ .spread then .trap .flock va 0
              else if vaBad va then .trap .protection va 0
              else match s.homeAt s.cur.loc s.my.launch s.my.lmod va with
                | .denied => .trap .protection va 0
                | .fetching => .hold (s.askSpread va)
                | .home h => go g k h
    | _ => .trap .reservedField 0 0) s

/-! ## Pavilion leases (R79, R80, R279) -/

/-- The threads that ask for a Pavilion's lease in one clk: the one in issue, and the members of its gang on the Pavilion's
control cores that do not wait for it yet (R71, R79). -/
def State.askers (s : State) (p : Nat) : List Nat :=
  s.fellows.filter fun k => (k == s.me || Loc.pav (keyLoc k) == p) && !(s.lease p).waiters.contains k && (s.lease p).holder != some (s.frame k).uid

/-- The lease with those that ask for it among the waiters. -/
def State.askLease (s : State) (p : Nat) : State := s.updLease p fun x => { x with waiters := x.waiters ++ s.askers p }

/-- lease.acq (R279). A gang's members ask together, and R79 chooses among them. -/
def execLeaseAcq (s : State) : Host.Outcome State Fault Refusal :=
  issue (fun s => anchored s fun _ =>
    let p := Loc.pav s.cur.loc
    if (s.lease p).holder = some s.my.uid then .done s .seq
    else
      let s := (s.askLease p).grant p
      if (s.lease p).holder = some s.my.uid then .done s .seq
      else .hold (s.updMy fun f => f.waitFor .lease s.clk)) s

/-- lease.try (R279). Of a gang's members, which look at the lease in one clk, the one that R79 chooses gets it. -/
def execLeaseTry (d : Reg) (s : State) : Host.Outcome State Fault Refusal :=
  issue (fun s => anchored s fun _ =>
    let p := Loc.pav s.cur.loc
    let x := s.lease p
    if x.holder = some s.my.uid then put s d 1 fun s => .done s .seq
    else if x.holder.isNone && x.waiters.isEmpty && (s.askLease p).nextHolder p == some s.me then
      put ((s.updLease p fun x => { x with waiters := [s.me] }).grant p) d 1 fun s => .done s .seq
    else put s d 0 fun s => .done s .seq) s

/-- lease.rel (R279, R80). -/
def execLeaseRel (s : State) : Host.Outcome State Fault Refusal :=
  issue (fun s => anchored s fun _ => .done (s.freeLease (Loc.pav s.cur.loc) s.my.uid) .seq) s

end Sys2Proof.Machine
end

