-- ==== Sys2Proof/Machine/Fp.lean ====
section
/-! DEFINITION. The floating-point instructions and conversions, majors 0x10-0x12 (13_isa_scalar R221-R227). -/

namespace Sys2Proof.Machine

open Sys2Proof

/-- The rounding mode in force (R221, R187). -/
def modeOf (s : State) : Rnd → Nat
  | .dyn => s.my.rmode
  | .rne => 0
  | .rtz => 1
  | .rup => 2
  | .rdn => 3

/-- An operand of a format: the low bits of the register (R221). -/
def fin (f : Fmt) (x : Word) : Nat := x.toNat % 2 ^ f.width

/-- A result of a format, zero-extended to 64 bits (R221). -/
def fres (f : Fmt) (x : Nat) : Word := BitVec.ofNat 64 (x % 2 ^ f.width)

/-- How FCVT writes a result (R227): i32 sign-extended, the rest zero-extended. -/
def cvtWord (t : CvtTy) (x : Nat) : Word :=
  match t with
  | .i32 => sext 32 (BitVec.ofNat 64 x)
  | _ => BitVec.ofNat 64 (x % 2 ^ cvtWidth t)

/-- ±(A × B) ± D into D (R226); D is read as a source after A and B (R183). -/
def fusedOp (s : State) (f : Fmt) (negP negD : Bool) (mode : Nat) (d a b : Reg) (ta tb : Bool) : Eff :=
  src s a ta fun x s => src s b tb fun y s => src s d false fun z s =>
    put s d (fres f (f.fma mode negP negD (fin f x) (fin f y) (fin f z))) fun s => .done s .seq

/-- fadd (R222). -/
def execFadd (f : FFmt) (r : Rnd) (d a b : Reg) (ta tb : Bool) (s : State) : Host.Outcome State Fault Refusal :=
  issue (fun s => aluTwo s d a b ta tb fun x y =>
    fres (fmtOf f) ((fmtOf f).add (modeOf s r) (fin (fmtOf f) x) (fin (fmtOf f) y))) s

/-- fsub (R222). -/
def execFsub (f : FFmt) (r : Rnd) (d a b : Reg) (ta tb : Bool) (s : State) : Host.Outcome State Fault Refusal :=
  issue (fun s => aluTwo s d a b ta tb fun x y =>
    fres (fmtOf f) ((fmtOf f).sub (modeOf s r) (fin (fmtOf f) x) (fin (fmtOf f) y))) s

/-- fmul (R222). -/
def execFmul (f : FFmt) (r : Rnd) (d a b : Reg) (ta tb : Bool) (s : State) : Host.Outcome State Fault Refusal :=
  issue (fun s => aluTwo s d a b ta tb fun x y =>
    fres (fmtOf f) ((fmtOf f).mul (modeOf s r) (fin (fmtOf f) x) (fin (fmtOf f) y))) s

/-- fdiv (R222), a long-latency result (R216). -/
def execFdiv (f : FFmt) (r : Rnd) (d a b : Reg) (ta tb : Bool) (s : State) : Host.Outcome State Fault Refusal :=
  issue (fun s => lateTwo s d a b ta tb fun x y =>
    fres (fmtOf f) ((fmtOf f).div (modeOf s r) (fin (fmtOf f) x) (fin (fmtOf f) y))) s

/-- fsqrt (R222), a long-latency result (R216). -/
def execFsqrt (f : FFmt) (r : Rnd) (d a : Reg) (ta : Bool) (s : State) : Host.Outcome State Fault Refusal :=
  issue (fun s => lateOne s d a ta fun x => fres (fmtOf f) ((fmtOf f).sqrt (modeOf s r) (fin (fmtOf f) x))) s

/-- fcmp.eq (R223, R88). -/
def execFcmpEq (f : FFmt) (d a b : Reg) (ta tb : Bool) (s : State) : Host.Outcome State Fault Refusal :=
  issue (fun s => aluTwo s d a b ta tb fun x y => ofBool ((fmtOf f).test (· == .eq) (fin (fmtOf f) x) (fin (fmtOf f) y))) s

/-- fcmp.lt (R223, R88). -/
def execFcmpLt (f : FFmt) (d a b : Reg) (ta tb : Bool) (s : State) : Host.Outcome State Fault Refusal :=
  issue (fun s => aluTwo s d a b ta tb fun x y => ofBool ((fmtOf f).test (· == .lt) (fin (fmtOf f) x) (fin (fmtOf f) y))) s

/-- fcmp.le (R223, R88). -/
def execFcmpLe (f : FFmt) (d a b : Reg) (ta tb : Bool) (s : State) : Host.Outcome State Fault Refusal :=
  issue (fun s => aluTwo s d a b ta tb fun x y => ofBool ((fmtOf f).test (· != .gt) (fin (fmtOf f) x) (fin (fmtOf f) y))) s

/-- fcmp.un (R223, R88). -/
def execFcmpUn (f : FFmt) (d a b : Reg) (ta tb : Bool) (s : State) : Host.Outcome State Fault Refusal :=
  issue (fun s => aluTwo s d a b ta tb fun x y => ofBool ((fmtOf f).isNaN (fin (fmtOf f) x) || (fmtOf f).isNaN (fin (fmtOf f) y))) s

/-- fmin (R224, R88). -/
def execFmin (f : FFmt) (d a b : Reg) (ta tb : Bool) (s : State) : Host.Outcome State Fault Refusal :=
  issue (fun s => aluTwo s d a b ta tb fun x y => fres (fmtOf f) ((fmtOf f).minmax false (fin (fmtOf f) x) (fin (fmtOf f) y))) s

/-- fmax (R224, R88). -/
def execFmax (f : FFmt) (d a b : Reg) (ta tb : Bool) (s : State) : Host.Outcome State Fault Refusal :=
  issue (fun s => aluTwo s d a b ta tb fun x y => fres (fmtOf f) ((fmtOf f).minmax true (fin (fmtOf f) x) (fin (fmtOf f) y))) s

/-- fsgnj (R224). -/
def execFsgnj (f : FFmt) (d a b : Reg) (ta tb : Bool) (s : State) : Host.Outcome State Fault Refusal :=
  issue (fun s => aluTwo s d a b ta tb fun x y => fres (fmtOf f) ((fmtOf f).sgnj (fin (fmtOf f) x) (fin (fmtOf f) y))) s

/-- fabs (R224). -/
def execFabs (f : FFmt) (d a : Reg) (ta : Bool) (s : State) : Host.Outcome State Fault Refusal :=
  issue (fun s => aluOne s d a ta fun x => fres (fmtOf f) ((fmtOf f).abs (fin (fmtOf f) x))) s

/-- fneg (R224). -/
def execFneg (f : FFmt) (d a : Reg) (ta : Bool) (s : State) : Host.Outcome State Fault Refusal :=
  issue (fun s => aluOne s d a ta fun x => fres (fmtOf f) ((fmtOf f).flip (fin (fmtOf f) x))) s

/-- fclass (R225). -/
def execFclass (f : FFmt) (d a : Reg) (ta : Bool) (s : State) : Host.Outcome State Fault Refusal :=
  issue (fun s => aluOne s d a ta fun x => BitVec.ofNat 64 (2 ^ (fmtOf f).classOf (fin (fmtOf f) x))) s

/-- fma (R226). -/
def execFma (f : FFmt) (r : Rnd) (d a b : Reg) (ta tb : Bool) (s : State) : Host.Outcome State Fault Refusal :=
  issue (fun s => fusedOp s (fmtOf f) false false (modeOf s r) d a b ta tb) s

/-- fms (R226). -/
def execFms (f : FFmt) (r : Rnd) (d a b : Reg) (ta tb : Bool) (s : State) : Host.Outcome State Fault Refusal :=
  issue (fun s => fusedOp s (fmtOf f) false true (modeOf s r) d a b ta tb) s

/-- fnma (R226). -/
def execFnma (f : FFmt) (r : Rnd) (d a b : Reg) (ta tb : Bool) (s : State) : Host.Outcome State Fault Refusal :=
  issue (fun s => fusedOp s (fmtOf f) true false (modeOf s r) d a b ta tb) s

/-- fnms (R226). -/
def execFnms (f : FFmt) (r : Rnd) (d a b : Reg) (ta tb : Bool) (s : State) : Host.Outcome State Fault Refusal :=
  issue (fun s => fusedOp s (fmtOf f) true true (modeOf s r) d a b ta tb) s

/-- fcvt (R227). -/
def execFcvt (tt st : CvtTy) (r : Rnd) (d a : Reg) (ta : Bool) (s : State) : Host.Outcome State Fault Refusal :=
  issue (fun s => aluOne s d a ta fun x => cvtWord tt (cvtCode tt (modeOf s r) (cvtValue st x.toNat))) s

end Sys2Proof.Machine
end

