-- ==== Sys2Proof/Machine/Vec.lean ====
section
/-! DEFINITION. Vector arithmetic, compares, selection and masks: VINT, VFLT, VFMA and VCMP, majors 0x30-0x32 and
0x35 (17_isa_vector R285-R294). -/

namespace Sys2Proof.Machine

open Sys2Proof

/-! ## Shared forms -/

/-- Every active element takes f, every other keeps that of old (R286). -/
def mergeVec (fr : Frame) (w : Nat) (k : Fin 8) (old : BitVec 512) (f : Nat → Nat) : BitVec 512 :=
  buildVec w fun e => if fr.active k w e then f e else elemOf w old e

/-- A vector operation of two sources, element by element, with the elements of VD as they were (R287). -/
def vecTwo (s : State) (t : VTy) (d : Fin 16) (a b : VSrc) (k : Fin 8) (f : Nat → Nat → Nat → Nat) : Eff :=
  anchored s fun _ =>
    let w := vtyBits t
    vsrc s w a fun x => vsrc s w b fun y => vold s d k fun z =>
      vput s d (mergeVec s.my w k z fun e => f (elemOf w x e) (elemOf w y e) (elemOf w z e)) fun s => .done s .seq

/-- A vector operation whose third source is VD as it is read, with or without a mask (R290, R362). -/
def vecMac (s : State) (t : VTy) (d : Fin 16) (a b : VSrc) (k : Fin 8) (f : Nat → Nat → Nat → Nat) : Eff :=
  anchored s fun _ =>
    let w := vtyBits t
    vsrc s w a fun x => vsrc s w b fun y => vread s d fun z =>
      vput s d (mergeVec s.my w k z fun e => f (elemOf w x e) (elemOf w y e) (elemOf w z e)) fun s => .done s .seq

/-- A vector operation of one source. -/
def vecOne (s : State) (t : VTy) (d : Fin 16) (a : VSrc) (k : Fin 8) (f : Nat → Nat) : Eff :=
  anchored s fun _ =>
    let w := vtyBits t
    vsrc s w a fun x => vold s d k fun z =>
      vput s d (mergeVec s.my w k z fun e => f (elemOf w x e)) fun s => .done s .seq

/-- The format of a float element type. -/
def vfmt : VTy → Fmt | .f16 => Fmt.f16 | .bf16 => Fmt.bf16 | _ => Fmt.f32

/-- The element type is a float. -/
def VTy.isFloat : VTy → Bool | .f32 => true | .f16 => true | .bf16 => true | _ => false

/-! ## Integer arithmetic (R289) -/

/-- vadd: a + b (R289). -/
def execVadd (t : VTy) (d : Fin 16) (a b : VSrc) (k : Fin 8) (s : State) : Host.Outcome State Fault Refusal :=
  issue (fun s => vecTwo s t d a b k fun x y _ => x + y) s

/-- vsub: a − b (R289). -/
def execVsub (t : VTy) (d : Fin 16) (a b : VSrc) (k : Fin 8) (s : State) : Host.Outcome State Fault Refusal :=
  issue (fun s => vecTwo s t d a b k fun x y _ => x + 2 ^ vtyBits t - y) s

/-- vmul: the low half of a × b (R289). -/
def execVmul (t : VTy) (d : Fin 16) (a b : VSrc) (k : Fin 8) (s : State) : Host.Outcome State Fault Refusal :=
  issue (fun s => vecTwo s t d a b k fun x y _ => x * y) s

/-- vmulh: the high half of the signed product (R289). -/
def execVmulh (t : VTy) (d : Fin 16) (a b : VSrc) (k : Fin 8) (s : State) : Host.Outcome State Fault Refusal :=
  issue (fun s => vecTwo s t d a b k fun x y _ => ofInt (vtyBits t) (toSigned (vtyBits t) x * toSigned (vtyBits t) y / (2 ^ vtyBits t : Nat))) s

/-- vand: a AND b (R289). -/
def execVand (t : VTy) (d : Fin 16) (a b : VSrc) (k : Fin 8) (s : State) : Host.Outcome State Fault Refusal :=
  issue (fun s => vecTwo s t d a b k fun x y _ => x &&& y) s

/-- vor: a OR b (R289). -/
def execVor (t : VTy) (d : Fin 16) (a b : VSrc) (k : Fin 8) (s : State) : Host.Outcome State Fault Refusal :=
  issue (fun s => vecTwo s t d a b k fun x y _ => x ||| y) s

/-- vxor: a XOR b (R289). -/
def execVxor (t : VTy) (d : Fin 16) (a b : VSrc) (k : Fin 8) (s : State) : Host.Outcome State Fault Refusal :=
  issue (fun s => vecTwo s t d a b k fun x y _ => x ^^^ y) s

/-- vandn: a AND NOT b (R289). -/
def execVandn (t : VTy) (d : Fin 16) (a b : VSrc) (k : Fin 8) (s : State) : Host.Outcome State Fault Refusal :=
  issue (fun s => vecTwo s t d a b k fun x y _ => x &&& (2 ^ vtyBits t - 1 - y)) s

/-- vsll: a shifted left by b mod w (R289). -/
def execVsll (t : VTy) (d : Fin 16) (a b : VSrc) (k : Fin 8) (s : State) : Host.Outcome State Fault Refusal :=
  issue (fun s => vecTwo s t d a b k fun x y _ => x <<< (y % vtyBits t)) s

/-- vsrl: a shifted right by b mod w, zeros in (R289). -/
def execVsrl (t : VTy) (d : Fin 16) (a b : VSrc) (k : Fin 8) (s : State) : Host.Outcome State Fault Refusal :=
  issue (fun s => vecTwo s t d a b k fun x y _ => x >>> (y % vtyBits t)) s

/-- vsra: a shifted right by b mod w, copies of the sign in (R289). -/
def execVsra (t : VTy) (d : Fin 16) (a b : VSrc) (k : Fin 8) (s : State) : Host.Outcome State Fault Refusal :=
  issue (fun s => vecTwo s t d a b k fun x y _ => ofInt (vtyBits t) (toSigned (vtyBits t) x / (2 ^ (y % vtyBits t) : Nat))) s

/-- vmin: the signed smaller (R289). -/
def execVmin (t : VTy) (d : Fin 16) (a b : VSrc) (k : Fin 8) (s : State) : Host.Outcome State Fault Refusal :=
  issue (fun s => vecTwo s t d a b k fun x y _ => if toSigned (vtyBits t) x < toSigned (vtyBits t) y then x else y) s

/-- vmax: the signed larger (R289). -/
def execVmax (t : VTy) (d : Fin 16) (a b : VSrc) (k : Fin 8) (s : State) : Host.Outcome State Fault Refusal :=
  issue (fun s => vecTwo s t d a b k fun x y _ => if toSigned (vtyBits t) x < toSigned (vtyBits t) y then y else x) s

/-- vminu: the unsigned smaller (R289). -/
def execVminu (t : VTy) (d : Fin 16) (a b : VSrc) (k : Fin 8) (s : State) : Host.Outcome State Fault Refusal :=
  issue (fun s => vecTwo s t d a b k fun x y _ => min x y) s

/-- vmaxu: the unsigned larger (R289). -/
def execVmaxu (t : VTy) (d : Fin 16) (a b : VSrc) (k : Fin 8) (s : State) : Host.Outcome State Fault Refusal :=
  issue (fun s => vecTwo s t d a b k fun x y _ => max x y) s

/-- vabs; the most negative value stays (R289). -/
def execVabs (t : VTy) (d : Fin 16) (a : VSrc) (k : Fin 8) (s : State) : Host.Outcome State Fault Refusal :=
  issue (fun s => vecOne s t d a k fun x => if toSigned (vtyBits t) x < 0 then 2 ^ vtyBits t - x else x) s

/-! ## Floating point (R290, R291) -/

/-- vfadd: a + b (R290). -/
def execVfadd (t : VTy) (d : Fin 16) (a b : VSrc) (k : Fin 8) (s : State) : Host.Outcome State Fault Refusal :=
  issue (fun s => vecTwo s t d a b k fun x y _ => (vfmt t).add s.my.rmode x y) s

/-- vfsub: a − b (R290). -/
def execVfsub (t : VTy) (d : Fin 16) (a b : VSrc) (k : Fin 8) (s : State) : Host.Outcome State Fault Refusal :=
  issue (fun s => vecTwo s t d a b k fun x y _ => (vfmt t).sub s.my.rmode x y) s

/-- vfmul: a × b (R290). -/
def execVfmul (t : VTy) (d : Fin 16) (a b : VSrc) (k : Fin 8) (s : State) : Host.Outcome State Fault Refusal :=
  issue (fun s => vecTwo s t d a b k fun x y _ => (vfmt t).mul s.my.rmode x y) s

/-- vfmin: R88 (R290). -/
def execVfmin (t : VTy) (d : Fin 16) (a b : VSrc) (k : Fin 8) (s : State) : Host.Outcome State Fault Refusal :=
  issue (fun s => vecTwo s t d a b k fun x y _ => (vfmt t).minmax false x y) s

/-- vfmax: R88 (R290). -/
def execVfmax (t : VTy) (d : Fin 16) (a b : VSrc) (k : Fin 8) (s : State) : Host.Outcome State Fault Refusal :=
  issue (fun s => vecTwo s t d a b k fun x y _ => (vfmt t).minmax true x y) s

/-- vfdiv: a ÷ b, whose result arrives later (R287, R290). -/
def execVfdiv (t : VTy) (d : Fin 16) (a b : VSrc) (k : Fin 8) (s : State) : Host.Outcome State Fault Refusal :=
  issue (fun s => anchored s fun _ =>
    let w := vtyBits t
    vsrc s w a fun x => vsrc s w b fun y => vold s d k fun z =>
      vputLate s d (mergeVec s.my w k z fun e => (vfmt t).div s.my.rmode (elemOf w x e) (elemOf w y e)) fun s =>
        .done s .seq) s

/-- vfabs: the sign cleared (R290). -/
def execVfabs (t : VTy) (d : Fin 16) (a : VSrc) (k : Fin 8) (s : State) : Host.Outcome State Fault Refusal :=
  issue (fun s => vecOne s t d a k fun x => (vfmt t).abs x) s

/-- vfneg: the sign inverted (R290). -/
def execVfneg (t : VTy) (d : Fin 16) (a : VSrc) (k : Fin 8) (s : State) : Host.Outcome State Fault Refusal :=
  issue (fun s => vecOne s t d a k fun x => (vfmt t).flip x) s

/-- vfma: (a × b) + d, rounded once (R290). -/
def execVfma (t : VTy) (d : Fin 16) (a b : VSrc) (k : Fin 8) (s : State) : Host.Outcome State Fault Refusal :=
  issue (fun s => vecMac s t d a b k fun x y z => (vfmt t).fma s.my.rmode false false x y z) s

/-- vfms: (a × b) − d, rounded once (R290). -/
def execVfms (t : VTy) (d : Fin 16) (a b : VSrc) (k : Fin 8) (s : State) : Host.Outcome State Fault Refusal :=
  issue (fun s => vecMac s t d a b k fun x y z => (vfmt t).fma s.my.rmode false true x y z) s

/-- vfnma: −(a × b) + d, rounded once (R290). -/
def execVfnma (t : VTy) (d : Fin 16) (a b : VSrc) (k : Fin 8) (s : State) : Host.Outcome State Fault Refusal :=
  issue (fun s => vecMac s t d a b k fun x y z => (vfmt t).fma s.my.rmode true false x y z) s

/-- The value of an element of a vector type. -/
def vtyValue (t : VTy) (x : Nat) : FVal := if VTy.isFloat t then (vfmt t).value x else intValue true (vtyBits t) x

/-- One element converted (R291): between integers the low bits of the sign-extended value, otherwise by R98-R100. -/
def vcvtElem (mode : Nat) (tt st : VTy) (x : Nat) : Nat :=
  if tt = st then x
  else if VTy.isFloat tt then (vfmt tt).code mode (vtyValue st x)
  else if VTy.isFloat st then intCode true (vtyBits tt) mode (vtyValue st x)
  else intResize (vtyBits st) (vtyBits tt) x

/-- vcvt: the elements beyond the shorter of the two vectors are 0 (R291). -/
def execVcvt (tt st : VTy) (d : Fin 16) (a : VSrc) (k : Fin 8) (s : State) : Host.Outcome State Fault Refusal :=
  issue (fun s => anchored s fun _ =>
    let w := vtyBits st
    vsrc s w a fun x => vold s d k fun z =>
      let f (e : Nat) : Nat := if e * w < 512 then vcvtElem s.my.rmode tt st (elemOf w x e) else 0
      vput s d (mergeVec s.my (vtyBits tt) k z f) fun s => .done s .seq) s

/-! ## Compares, selection and masks (R292-R294) -/

/-- Bit j is 1 when lane j is active and the condition holds for every element of the lane (R292). -/
def laneMask (fr : Frame) (w : Nat) (k : Fin 8) (p : Nat → Bool) : BitVec 16 :=
  let lane (j : Nat) : Bool := fr.active k 32 j && (List.range (32 / w)).all fun i => p (j * (32 / w) + i)
  BitVec.ofNat 16 (packElems 1 ((List.range 16).map fun j => (lane j).toNat))

/-- A vector compare (R292). -/
def vecCmp (s : State) (t : VTy) (d : Fin 8) (a b : VSrc) (k : Fin 8) (p : Nat → Nat → Bool) : Eff :=
  anchored s fun _ =>
    let w := vtyBits t
    vsrc s w a fun x => vsrc s w b fun y =>
      .done (s.writeM d (laneMask s.my w k fun e => p (elemOf w x e) (elemOf w y e))) .seq

/-- vcmp.eq (R292, R88). -/
def execVcmpEq (t : VTy) (d : Fin 8) (a b : VSrc) (k : Fin 8) (s : State) : Host.Outcome State Fault Refusal :=
  issue (fun s => vecCmp s t d a b k fun x y => if VTy.isFloat t then (vfmt t).test (· == .eq) x y else x == y) s

/-- vcmp.ne (R292, R88). -/
def execVcmpNe (t : VTy) (d : Fin 8) (a b : VSrc) (k : Fin 8) (s : State) : Host.Outcome State Fault Refusal :=
  issue (fun s => vecCmp s t d a b k fun x y => if VTy.isFloat t then !(vfmt t).test (· == .eq) x y else x != y) s

/-- vcmp.lt (R292, R88). -/
def execVcmpLt (t : VTy) (d : Fin 8) (a b : VSrc) (k : Fin 8) (s : State) : Host.Outcome State Fault Refusal :=
  issue (fun s => vecCmp s t d a b k fun x y => if VTy.isFloat t then (vfmt t).test (· == .lt) x y else decide (toSigned (vtyBits t) x < toSigned (vtyBits t) y)) s

/-- vcmp.ge (R292, R88). -/
def execVcmpGe (t : VTy) (d : Fin 8) (a b : VSrc) (k : Fin 8) (s : State) : Host.Outcome State Fault Refusal :=
  issue (fun s => vecCmp s t d a b k fun x y => if VTy.isFloat t then (vfmt t).test (· != .gt) y x else decide (toSigned (vtyBits t) y ≤ toSigned (vtyBits t) x)) s

/-- vcmp.ltu (R292). -/
def execVcmpLtu (t : VTy) (d : Fin 8) (a b : VSrc) (k : Fin 8) (s : State) : Host.Outcome State Fault Refusal :=
  issue (fun s => vecCmp s t d a b k fun x y => decide (x < y)) s

/-- vcmp.geu (R292). -/
def execVcmpGeu (t : VTy) (d : Fin 8) (a b : VSrc) (k : Fin 8) (s : State) : Host.Outcome State Fault Refusal :=
  issue (fun s => vecCmp s t d a b k fun x y => decide (y ≤ x)) s

/-- vsel: MK selects between VA and VB, lane by lane (R293). -/
def execVsel (t : VTy) (d : Fin 16) (a b : VSrc) (k : Fin 8) (s : State) : Host.Outcome State Fault Refusal :=
  issue (fun s => anchored s fun _ =>
    vsrc s (vtyBits t) a fun x => vsrc s (vtyBits t) b fun y =>
      vput s d (mergeVec s.my 32 k y fun j => elemOf 32 x j) fun s => .done s .seq) s

/-- A mask register as it is read. -/
def State.readM (s : State) (n : Fin 8) : BitVec 16 := s.my.m[n]

/-- mand (R294). -/
def execMand (d a b : Fin 8) (s : State) : Host.Outcome State Fault Refusal :=
  issue (fun s => anchored s fun _ => .done (s.writeM d (s.readM a &&& s.readM b)) .seq) s

/-- mor (R294). -/
def execMor (d a b : Fin 8) (s : State) : Host.Outcome State Fault Refusal :=
  issue (fun s => anchored s fun _ => .done (s.writeM d (s.readM a ||| s.readM b)) .seq) s

/-- mnot (R294). -/
def execMnot (d a : Fin 8) (s : State) : Host.Outcome State Fault Refusal :=
  issue (fun s => anchored s fun _ => .done (s.writeM d (~~~s.readM a)) .seq) s

/-- mpopc (R294). -/
def execMpopc (d : Fin 16) (a : Fin 8) (s : State) : Host.Outcome State Fault Refusal :=
  issue (fun s => anchored s fun _ =>
    put s (.g d) (BitVec.ofNat 64 (onesIn 16 (s.readM a).toNat)) fun s => .done s .seq) s

end Sys2Proof.Machine
end

