-- ==== Sys2Proof/Machine/Vmem.lean ====
section
/-! DEFINITION. Vector memory, major 0x33 (17_isa_vector R300-R306). The lanes of one instruction are performed one
after the other (log entry 13). -/

namespace Sys2Proof.Machine

open Sys2Proof

/-- Bytes of an element of VMEM modes 0-5 (R200). -/
def vszBytes : VSize → Nat | .b => 1 | .h => 2 | .w => 4

/-- Lane j of a vector replaced. -/
def setLane (x : BitVec 512) (j v : Nat) : BitVec 512 := buildVec 32 fun e => if e = j then v else elemOf 32 x e

/-- R302: the instruction stops at lane j, whose lower lanes keep their effects: LRV and LANE are set. -/
def State.stopLane (s : State) (d : Option (Fin 16)) (j : Nat) (acc : BitVec 512) : State :=
  s.updMy fun f =>
    let f := { (f.setT 36 1 1).setT 37 4 j with pend := .idle }
    match d with | some n => { f with v := f.v.set n acc } | none => f

/-- The instruction stays at lane j, with what its lower lanes have read. -/
def State.atLane (s : State) (j : Nat) (acc : BitVec 512) : State := s.updMy fun f => { f with pend := .lanes j acc }

/-- A lane waits for a store that it overlaps in part: the lanes below are kept (R68, R152). -/
def State.partlyAt (s : State) (va : Word) (n : Nat) (phys : Option Nat) : Eff :=
  match s.partly va n phys with
  | .wait => .hold s
  | e => e

/-- Where the instruction stands: the lane to go on from, and VD so far (R301, R303). -/
def State.laneStart (s : State) (old : BitVec 512) : Nat × BitVec 512 :=
  match s.my.pend with
  | .lanes j acc => (j, acc)
  | _ => (if s.my.lrv then s.my.lane else 0, old)

/-- A lane of the thread's instruction that is under way at another home: in flight, or parked there. -/
def State.laneOut (s : State) : Option Bool :=
  let mine (p : Pkt) : Bool := p.key == s.me && match p.kind with | .lane _ _ _ => true | .vldf _ _ => true | _ => false
  let parked := s.homes.any fun h => h.2.faults.any fun e => match e.item with | .request p => mine p | _ => false
  if s.net.any mine then some false else if parked then some true else none

/-- The checks of R253 on a lane's address, with the effects of the lanes below kept when one fails. -/
def laneRoute (s : State) (d : Option (Fin 16)) (j : Nat) (acc : BitVec 512) (va : Word) (size : Nat)
    (k : Home → Eff) : Eff :=
  if !vaBad va && va.toNat % size == 0 && s.homeAt s.cur.loc s.my.launch s.my.lmod va == .fetching then
    .hold ((s.askSpread va).atLane j acc)
  else
    match route s va size .ret false fun h => if spaceOf va = .host then .trap .protection va 0 else k h with
    | .trap c va _ => .trapOn (s.stopLane d j acc) c va
    | .wait => .hold (s.atLane j acc)
    | e => e

/-- The checks of R254 on a lane at the issuing core. -/
def laneOwn (s : State) (d : Option (Fin 16)) (j : Nat) (acc : BitVec 512) (va : Word) (size : Nat) (write : Bool)
    (k : State → Nat → Eff) : Eff :=
  let h : Home := .core s.cur.loc
  let stop (c : Cause) : Eff := .trapOn (s.stopLane d j acc) c va
  match s.check (s.myReq h va size write) with
  | (s, .ok p _ _ _) => k s p
  | (s, .park r b n) =>
    .hold ((s.stopLane d j acc).parkThread s.me false h r b n va { write := write, user := !s.my.priv })
  | (_, .area) => stop .protection
  | (_, .isol) => stop .remoteDenied
  | (_, .lock) => stop .rangeLocked
  | (_, .wait) => .hold (s.atLane j acc)
  | (_, _) => stop .translation

/-- The lanes of a vector load from the given ones on (R301, R302). -/
def loadLanes (s : State) (size : Nat) (d : Fin 16) (k : Fin 8) (addr : Nat → Word) : List Nat → BitVec 512 → Eff
  | [], acc =>
    match vput s d acc fun s => .done s .seq with
    | .wait => .hold (s.atLane 16 acc)
    | e => e
  | j :: r, acc =>
    if !s.my.active k 32 j then loadLanes s size d k addr r acc
    else
      let va := addr j
      laneRoute s (some d) j acc va size fun h =>
        let got (s : State) (v : Nat) : Eff := loadLanes s size d k addr r (setLane acc j v)
        let go (s : State) (own : Option Nat) : Eff :=
          match s.forwarded va size own with
          | .value v => got s v
          | .partly => (s.atLane j acc).partlyAt va size own
          | .none =>
            match own with
            | some p =>
              if !s.myTurn then .hold (s.atLane j acc)
              else if s.isBad p size then .trapOn (s.stopLane (some d) j acc) .uncorrectable va
              else got s (s.num p size)
            | none => .hold ((s.send { s.mkPkt (.lane d j size) h va with fan := [] }).atLane j acc)
        if h = .core s.cur.loc then laneOwn s (some d) j acc va size false fun s p => go s (some p) else go s none

/-- A vector load of modes 0, 2 and 4. -/
def vecLoad (s : State) (size : Nat) (d : Fin 16) (k : Fin 8) (addr : Nat → Word) : Eff :=
  match s.my.pend with
  | .got (.fail c va) => .trapOn s c va
  | _ =>
    match s.laneOut with
    | some true => .waitFor .lanes
    | some false => .wait
    | none =>
      vold s d k fun z =>
        let (j, acc) := s.laneStart z
        loadLanes s size d k addr ((List.range 16).drop j) acc

/-- The lanes of a vector store from the given ones on (R301, R302). -/
def storeLanes (s : State) (size : Nat) (x : BitVec 512) (k : Fin 8) (addr : Nat → Word) : List Nat → Eff
  | [] => .done s .seq
  | j :: r =>
    if !s.my.active k 32 j then storeLanes s size x k addr r
    else
      let va := addr j
      laneRoute s none j 0 va size fun h =>
        let e (s : State) (p : Option Nat) : SEntry :=
          { s.mkStore va size (BitVec.ofNat 64 (elemOf 32 x j)) h none with phys := p }
        let go (s : State) (p : Option Nat) : Eff :=
          match s.room 1 with
          | .free => storeLanes (s.buffer (e s p)) size x k addr r
          | .drain => .hold ((s.atLane j 0).drain s.me)
          | .full => .hold (s.atLane j 0)
        if h = .core s.cur.loc then laneOwn s none j 0 va size true fun s p => go s (some p) else go s none

/-- A vector store of modes 1, 3 and 5. -/
def vecStore (s : State) (size : Nat) (d : Fin 16) (k : Fin 8) (addr : Nat → Word) : Eff :=
  vread s d fun x =>
    let (j, _) := s.laneStart x
    storeLanes s size x k addr ((List.range 16).drop j)

/-- Modes 0 and 1: g[A] + g[B] + j × size (R300). -/
def unitAddr (a b : Word) (size j : Nat) : Word := a + b + BitVec.ofNat 64 (j * size)
/-- Modes 2 and 3: g[A] + j × g[B] (R300). -/
def strideAddr (a b : Word) (j : Nat) : Word := a + BitVec.ofNat 64 j * b
/-- Modes 4 and 5: g[A] + sext(vb[j], 32) × size (R300). -/
def indexAddr (a : Word) (x : BitVec 512) (size j : Nat) : Word :=
  a + sext 32 (BitVec.ofNat 64 (elemOf 32 x j)) * BitVec.ofNat 64 size

/-- The general base and stride of modes 0-3 and 7. -/
def vecBase (s : State) (a : Fin 16) (b : Reg) (k : Word → Word → State → Eff) : Eff :=
  anchored s fun _ => src s (.g a) false fun x s => src s b false fun y s => k x y s

/-- The general base and index vector of modes 4 and 5. -/
def vecIndex (s : State) (a b : Fin 16) (k : Word → BitVec 512 → State → Eff) : Eff :=
  anchored s fun _ => src s (.g a) false fun x s => vread s b fun y => k x y s

/-- vld (R300). -/
def execVld (sz : VSize) (d a : Fin 16) (b : Reg) (k : Fin 8) (s : State) : Host.Outcome State Fault Refusal :=
  issue (fun s => vecBase s a b fun x y s => vecLoad s (vszBytes sz) d k (unitAddr x y (vszBytes sz))) s

/-- vst (R300). -/
def execVst (sz : VSize) (d a : Fin 16) (b : Reg) (k : Fin 8) (s : State) : Host.Outcome State Fault Refusal :=
  issue (fun s => vecBase s a b fun x y s => vecStore s (vszBytes sz) d k (unitAddr x y (vszBytes sz))) s

/-- vlds (R300). -/
def execVlds (sz : VSize) (d a : Fin 16) (b : Reg) (k : Fin 8) (s : State) : Host.Outcome State Fault Refusal :=
  issue (fun s => vecBase s a b fun x y s => vecLoad s (vszBytes sz) d k (strideAddr x y)) s

/-- vsts (R300). -/
def execVsts (sz : VSize) (d a : Fin 16) (b : Reg) (k : Fin 8) (s : State) : Host.Outcome State Fault Refusal :=
  issue (fun s => vecBase s a b fun x y s => vecStore s (vszBytes sz) d k (strideAddr x y)) s

/-- vgath (R300). -/
def execVgath (sz : VSize) (d a b : Fin 16) (k : Fin 8) (s : State) : Host.Outcome State Fault Refusal :=
  issue (fun s => vecIndex s a b fun x y s => vecLoad s (vszBytes sz) d k (indexAddr x y (vszBytes sz))) s

/-- vscat (R300). -/
def execVscat (sz : VSize) (d a b : Fin 16) (k : Fin 8) (s : State) : Host.Outcome State Fault Refusal :=
  issue (fun s => vecIndex s a b fun x y s => vecStore s (vszBytes sz) d k (indexAddr x y (vszBytes sz))) s

/-! ## Tile chunks (R304) -/

/-- The 64-byte chunk that g[B] selects, as its first bank byte. -/
def Tile.chunk (t : Tile) (l : Loc) (v : Word) : Option Nat :=
  let row := fieldOf v 0 9
  let c := fieldOf v 16 6
  if fieldOf v 9 7 = 0 ∧ fieldOf v 22 42 = 0 ∧ row < t.rows.toNat ∧ 64 * c < t.pitch then
    some (bankKey l (t.base.toNat + row * t.pitch + 64 * c))
  else none

/-- The checks of R304: the handle, STATE, the chunk and the locks. The access is one to the core's own local store, which
an acquire holds back (R155). -/
def withChunk (s : State) (a : Fin 16) (b : Reg) (write : Bool) (k : State → Nat → Eff) : Eff :=
  vecBase s a b fun x y s =>
    match s.handle s.cur.loc x with
    | none => .trap .tileStale 0 0
    | some n =>
      let t := (s.core s.cur.loc).tile n
      if t.state ≠ 2 then tileWait s n
      else if s.acqHeld (.core s.cur.loc) 0 then .wait
      else match t.chunk s.cur.loc y with
        | none => .trap .protection 0 0
        | some p =>
          if s.locked (s.myReq (.core s.cur.loc) (BitVec.allOnes 64) 64 write) p then .trap .rangeLocked 0 0 else k s p

/-- vldt: all 64 bytes are read before any lane is written (R304). -/
def execVldt (d a : Fin 16) (b : Reg) (k : Fin 8) (s : State) : Host.Outcome State Fault Refusal :=
  issue (fun s => withChunk s a b false fun s p =>
    let c := s.core s.cur.loc
    let held (e : SEntry) : Bool := e.covers s.my.uid p 64
    if s.my.idem && (c.slot s.cur.slot).tsb.any held then .hold (s.drain s.me)
    else if c.buffered.any held || !s.myTurn then .wait
    else if s.isBad p 64 then .trap .uncorrectable 0 0
    else vold s d k fun z => vput s d (mergeVec s.my 32 k z fun j => s.num (p + 4 * j) 4) fun s => .done s .seq) s

/-- The stores of `vstt`, in ascending lane order. -/
def tileStores (s : State) (p : Nat) (x : BitVec 512) (k : Fin 8) : State :=
  (List.range 16).foldl (fun t j =>
    if t.my.active k 32 j then
      t.buffer { t.mkStore (BitVec.allOnes 64) 4 (BitVec.ofNat 64 (elemOf 32 x j)) (.core t.cur.loc) none with
        phys := some (p + 4 * j), tile := true }
    else t) s

/-- vstt: its lanes enter the store buffer together, as 16 stores (R304). -/
def execVstt (d a : Fin 16) (b : Reg) (k : Fin 8) (s : State) : Host.Outcome State Fault Refusal :=
  issue (fun s => withChunk s a b true fun s p => vread s d fun x =>
    match s.room 16 with
    | .free => .done (tileStores s p x k) .seq
    | .drain => .hold (s.drain s.me)
    | .full => .wait) s

/-! ## Decoded vector loads (R305) -/

/-- On whose behalf and from where a decoded vector load reads; `look` gives what the thread's buffers hold (R68, R152), and
`before` is the number before which the thread's writes come first (R150). -/
structure Reader where
  loc : Loc
  user : Bool
  launch : W32
  lmod : Nat
  uid : Nat
  before : Nat
  look : Word → Nat → Option Nat → Fwd

/-- A page as a decoded vector load needs it: its home, its leaf, its base and size, and the place of the address in
memory. -/
structure VPage where
  home : Home
  pte : Word
  base : Nat
  size : Nat
  phys : Nat
  deriving DecidableEq, Repr

/-- n bytes at an address are checked at their home (R117, R132). -/
def State.vpage (s : State) (r : Reader) (va : Word) (n : Nat) (locks : Bool) : State × Except VStop VPage :=
  match s.findHome r.loc r.user r.launch r.lmod va with
  | (s, .error e) => (s, .error e)
  | (s, .ok h) =>
    let q : Req :=
      { home := h, va := va, size := n, write := false, user := r.user, launch := r.launch, lmod := r.lmod, locks := locks }
    match s.through r.loc q maxForwards with
    | (s, h, .ok p e b z) => (s, .ok { home := h, pte := e, base := b, size := z, phys := p })
    | (s, h, x) => (s, .error (VStop.of h va x))

/-- n bytes of an element at an address, on pages of the format and geometry of `g`: together when one page holds them,
otherwise byte by byte; and whether any is uncorrectable (R136, R305). -/
def State.elemBytes (s : State) (r : Reader) (g : VPage) (a va : Word) : Nat → State × Except VStop (List Byte × Bool)
  | 0 => (s, .ok ([], false))
  | n + 1 =>
    match s.vpage r va (n + 1) true with
    | (s, .error e) => (s, .error e)
    | (s, .ok x) =>
      if pteFmt x.pte ≠ pteFmt g.pte ∨ pteGeo x.pte ≠ pteGeo g.pte then (s, .error (.cause .formatSplit a))
      else if va.toNat + (n + 1) ≤ x.base + x.size then (s, .ok (s.bytes x.phys (n + 1), s.isBad x.phys (n + 1)))
      else
        match s.elemBytes r g a (va + 1) n with
        | (t, .ok (bs, bad)) => (t, .ok (t.bytes x.phys 1 ++ bs, bad || t.isBad x.phys 1))
        | e => e

/-- How a decoded vector load ends where nothing stops it: with its lanes, or at a store of the thread that is to be
performed first. -/
inductive VRead where
  | lanes (v : BitVec 512)
  | after (va : Word) (n : Nat) (phys : Option Nat)
  deriving DecidableEq, Repr

/-- Bytes of the unit that holds an element: the element, or an L6 group (R92). -/
def vldfUnit (t : DecTy) (e : Word) : Nat := if pteFmt e = 11 then 3 else decElem (pteFmt e) (decSize t)

/-- The address of the unit of lane j (R305). -/
def vldfAddr (va : Word) (e : Word) (unit j : Nat) : Word :=
  va + BitVec.ofNat 64 (if pteFmt e = 11 then 3 * (j / 4) else unit * j)

/-- No lane may read here: bits of the address that must be zero are not, it is host space, or it lies in a core's frame
window (R115, R257, R358). -/
def laneBarred (a : Word) : Bool := vaBad a || spaceOf a == .host || (windowAt a).isSome

/-- The lanes of a decoded vector load, on pages of the format and geometry of `g` (R136, R305). -/
def vldfLanes (s : State) (t : DecTy) (mode : Nat) (r : Reader) (va : Word) (act : BitVec 16) (g : VPage) :
    List Nat → BitVec 512 → State × Except VStop VRead
  | [], acc => (s, .ok (.lanes acc))
  | j :: rest, acc =>
    if !act.getLsbD j then vldfLanes s t mode r va act g rest acc
    else
      let fmt := pteFmt g.pte
      let geo := pteGeo g.pte
      let n := vldfUnit t g.pte
      let a := vldfAddr va g.pte n j
      if laneBarred a || laneBarred (a + BitVec.ofNat 64 (n - 1)) then (s, .error (.cause .protection a))
      else match s.vpage r a 1 false with
      | (s, .error e) => (s, .error e)
      | (s, .ok x) =>
        let o := a.toNat - x.base
        if pteFmt x.pte ≠ fmt ∨ pteGeo x.pte ≠ geo then (s, .error (.cause .formatSplit a))
        else if geo ≠ 0 ∧ dataArea fmt geo x.size < o + n then (s, .error (.cause .formatSplit a))
        else
          match s.elemBytes r g a a n with
          | (s, .error e) => (s, .error e)
          | (s, .ok (bs, bad)) =>
            let s := s.fillScale x.home x.pte x.base x.size a x.phys
            let scale := scalePlace x.pte x.base x.size a x.phys
            let owed (b : Word) (k : Nat) : Bool := s.owes r.uid r.before b k
            match decFwd r.look a x.phys (x.home == .core r.loc) scale n with
            | .after b k p => (s, .ok (.after b k p))
            | w =>
              let own := match w with | .value v => some v | _ => none
              if (own.isNone && owed a n) || scale.any fun e => owed e.1 1 then (s, .error .wait)
              else if (own.isNone && bad) || scale.any fun e => s.isBad e.2 1 then (s, .error (.cause .uncorrectable a))
              else
                let y := own.getD (ofBytes bs)
                let y := if fmt = 11 then bitsOf y (6 * (j % 4)) 6 else y
                let y := if fmt = 0 then y
                  else fmtConv fmt (decFmt t) mode y (scale.map fun e => s.num e.2 1)
                vldfLanes s t mode r va act g rest (setLane acc j y)

/-- The address of a decoded vector load is no multiple of the page's element size (R305, R136). -/
def vldfOdd (t : DecTy) (va : Word) (base : Nat) (e : Word) : Bool :=
  (va.toNat - base) % (if pteFmt e = 11 then 12 else decElem (pteFmt e) (decSize t)) != 0

/-- A decoded vector load as one read at its homes (R305). With no active lane it reads nothing, and only the alignment
is looked at (log entry 39). -/
def vldfRead (s : State) (t : DecTy) (mode : Nat) (r : Reader) (va : Word) (act : BitVec 16) (old : BitVec 512) :
    State × Except VStop VRead :=
  if act = 0 then
    match s.findHome r.loc r.user r.launch r.lmod va with
    | (s, .ok h) =>
      match walk s h va with
      | .leaf b _ e _ => (s, if vldfOdd t va b e then .error (.cause .misaligned va) else .ok (.lanes old))
      | _ => (s, .ok (.lanes old))
    | (s, .error _) => (s, .ok (.lanes old))
  else
    match s.vpage r va 1 false with
    | (s, .error e) => (s, .error e)
    | (s, .ok g) =>
      if vldfOdd t va g.base g.pte then (s, .error (.cause .misaligned va))
      else vldfLanes s t mode r va act g (List.range 16) old

/-- The active lanes under MK. -/
def Frame.activeLanes (f : Frame) (k : Fin 8) : BitVec 16 := if k.val = 0 then BitVec.allOnes 16 else f.m.toList.getD k.val 0

/-- The thread of a frame as the reader of a decoded vector load that has number `before`. -/
def State.reader (s : State) (k before : Nat) : Reader :=
  let f := s.frame k
  { loc := keyLoc k, user := !f.priv, launch := f.launch, lmod := f.lmod, uid := f.uid, before := before
    look := (s.core (keyLoc k)).forwarded f.uid }

/-- vldf: at once when the issuing core homes the first byte, otherwise by a request; VD is written only when no cause
arises (R305). -/
def vldfOp (s : State) (t : DecTy) (d a : Fin 16) (b : Reg) (k : Fin 8) : Eff :=
  vecBase s a b fun x y s =>
    let va := x + y
    let act := s.my.activeLanes k
    let ask : Eff :=
      if spaceOf va = .host ∧ !vaBad va then .trap .protection va 0
      else route s va 1 .ret false fun h =>
        let last := va + 127
        if spaceOf last == .spread && s.homeAt s.cur.loc s.my.launch s.my.lmod last == .fetching then
          .hold (s.askSpread last)
        else vold s d k fun z =>
          if h = .core s.cur.loc then
            if !s.myTurn then .wait
            else
              match vldfRead s t s.my.rmode (s.reader s.me s.nextId) va act z with
              | (s, .ok (.lanes v)) => vput s d v fun s => .done s .seq
              | (s, .ok (.after b n p)) => s.partly b n p
              | (_, .error (.cause c v)) => .trap c v 0
              | (_, .error (.lost v)) => .trap .translation v 0
              | (_, .error .wait) => .wait
              | (s, .error (.park h r b n v)) => .hold (s.parkThread s.me false h r b n v { user := !s.my.priv })
          else
            .hold ((s.send { s.mkPkt (.vldf t act) h va with fan := [] }).updMy fun f => { f with pend := .sent s.nextId })
    match s.my.pend with
    | .got (.vec v) => vold s d k fun z => vput s d (mergeVec s.my 32 k z fun j => elemOf 32 v j) fun s => .done s .seq
    | .got (.fail c va) => .trap c va 0
    | .got (.again _) => if s.my.idem then .hold (s.drain s.me) else ask
    | _ =>
      match s.laneOut with
      | some true => .waitFor .lanes
      | some false => .wait
      | none => ask

/-- vldf.f32 (R305). -/
def execVldfF32 (d a : Fin 16) (b : Reg) (k : Fin 8) (s : State) : Host.Outcome State Fault Refusal :=
  issue (fun s => vldfOp s .f32 d a b k) s

/-- vldf.bf16 (R305). -/
def execVldfBf16 (d a : Fin 16) (b : Reg) (k : Fin 8) (s : State) : Host.Outcome State Fault Refusal :=
  issue (fun s => vldfOp s .bf16 d a b k) s

/-- vldf.i32 (R305). -/
def execVldfI32 (d a : Fin 16) (b : Reg) (k : Fin 8) (s : State) : Host.Outcome State Fault Refusal :=
  issue (fun s => vldfOp s .i32 d a b k) s

end Sys2Proof.Machine
end

