-- ==== Sys2Proof/Machine/Perform.lean ====
section
/-! DEFINITION. What a request does at its home, and the outcomes of those that cannot be performed (R115, R127,
R128, R132, 15_isa_threads R254, 09_ordering R149-R162). -/

namespace Sys2Proof.Machine

open Sys2Proof

/-- A step beside the instructions: it takes place where it is due, and elsewhere the machine stands. -/
def occurs (due : Bool) (t : State) (s : State) : Host.Outcome State Fault Refusal :=
  .next (if due then { t with note := .moved } else { s with note := .idle })

/-! ## Packets in flight -/

/-- The packet that an event's number names. -/
def State.pkt (s : State) (k : Nat) : Option Pkt := s.net[k]?
/-- The state with that packet taken out of the net. -/
def State.dropPkt (s : State) (k : Nat) : State := { s with net := dropAt s.net k }
/-- A packet that stays, in its place. -/
def State.keepPkt (s : State) (k : Nat) : Option Pkt → State
  | some p => { s with net := s.net.take k ++ p :: s.net.drop k }
  | none => s

/-- A thread's answer arrives: it is set when the thread still waits for this request. -/
def State.answer (s : State) (p : Pkt) (a : Ans) : State :=
  let f := s.frame p.key
  if f.used && f.uid == p.uid && f.pend == .sent p.id then s.updFrame p.key fun f => { f with pend := .got a } else s

/-- The thread still stands at the lane of this packet. -/
def State.atThisLane (s : State) (p : Pkt) (j : Nat) : Bool :=
  let f := s.frame p.key
  f.used && f.uid == p.uid && match f.pend with | .lanes i _ => i == j | _ => false

/-- A thread that waits for a vector lane at another home may go on. -/
def State.wakeLane (s : State) (p : Pkt) : State := s.wake fun k f => k == p.key && f.wait == some .lanes

/-- A value arrives at a general register of a thread, and its copies set out under `solo` (R256, R73). -/
def State.arriveG (s : State) (p : Pkt) (d : Fin 16) (v : Word) (bad : Bool) : State :=
  let f := s.frame p.key
  let s := if f.used && f.uid == p.uid then s.updFrame p.key fun f => if bad then f.poisonG d else f.setG d v else s
  p.fan.foldl (fun t k =>
    t.send { p with kind := .soloG d v bad, home := .core (keyLoc k), key := k, uid := (t.frame k).uid, fan := [] }) s

/-- A load's reply sets out (R256). -/
def State.sendReply (s : State) (p : Pkt) (d : Option (Fin 16)) (v : Word) (bad : Bool) (acq : Option Scope) : State :=
  match d with
  | some n => s.send { p with kind := .result n v bad false acq, home := .core p.src, via := [], refused := false, asked := p.id }
  | none => s

/-! ## Requests that cannot be performed (R115, R128, R143, R254) -/

/-- Why. -/
inductive Why where
  | deny (r : Reason)
  | area
  | isol
  | lock
  | bad
  | lost
  | hostFrame
  deriving DecidableEq, Repr

/-- The cause that it raises where the outcome is a trap (R128, R265). -/
def Why.cause : Why → Cause
  | .deny .notPresent => .translation | .deny .fallow => .translation | .deny _ => .protection
  | .area => .protection | .isol => .remoteDenied | .lock => .rangeLocked | .bad => .uncorrectable
  | .lost => .translation | .hostFrame => .protection

/-- The reason in its error record (R361). -/
def Why.reason : Why → RecReason
  | .deny _ => .deny | .area => .area | .isol => .isol | .lock => .lock | .bad => .uncorrectable
  | .lost => .undelivered | .hostFrame => .hostAtomic

/-- The status in its error record (R361). -/
def Why.status : Why → Nat
  | .bad => 0x05 | _ => 0x04

/-- The error record of a packet: at its home, or at the issuing core's NI when it comes back undelivered (R115). -/
def State.recordPkt (s : State) (p : Pkt) (w : Why) (va : Word) : State :=
  s.record (if w = .lost then .core p.src else p.home) w.status w.reason va p.launch p.lmod

/-- A spread-table entry that cannot be had: every access to the granule raises PROTECTION. -/
def deniedEntry : Word := 0x1FFFFFFFF

/-- The granule whose entry lies at an address of the launch's table (R117). -/
def State.granuleAt (s : State) (p : Pkt) : Nat := (p.va - s.spreadPtr p.launch p.lmod - 64).toNat / 4

/-- A vector load's lane fails: the trap is due, with the lanes below kept (R302). A lane that a closed region or a hardware
area refuses traps, REMOTE_DENIED or PROTECTION, and is neither poisoned nor recorded (R24, R40, R302; log entry 94). -/
def State.failLane (s : State) (p : Pkt) (d : Fin 16) (j : Nat) (c : Cause) (va : Word) : State :=
  if s.atThisLane p j then
    (s.updFrame p.key fun f =>
      let acc := match f.pend with | .lanes _ a => a | _ => f.v[d]
      { ((f.setT 36 1 1).setT 37 4 j) with v := f.v.set d acc, pend := .got (.fail c va) }).wakeLane p
  else s

/-- A tile returns to STATE 2 with a status, and is freed if its launch has completed (R141, R282). -/
def State.tileBack (s : State) (l : Loc) (n status : Nat) : State :=
  let t : Tile := (s.core l).tile n
  let s := s.updTile l n fun t => { t with state := 2, status := BitVec.ofNat 6 status, marked := false }
  let ended : Bool := match s.launchOf t.launch t.lmod with | some x => x.status == .done | none => false
  if ended then s.freeTile l n else s.wake fun k f => keyLoc k == l && f.wait == some (.tile n)

/-- A Flock request ends with a status: its tile returns to STATE 2 and its lock is released. -/
def State.endFlock (s : State) (l : Loc) (tile gen lock status : Nat) : State :=
  let t := (s.core l).tile tile
  let s := { s with locks := s.locks.filter fun k => k.cmd != lock }
  if t.gen.toNat = gen ∧ t.state = 1 then s.tileBack l tile status else s

/-- The outcome of a request that is denied, refused, returned undelivered or met by an uncorrectable read. A vector load's
lane and a decoded vector load trap whatever refused them, a closed region or a hardware area (log entry 94). -/
def State.failPkt (s : State) (p : Pkt) (w : Why) (va : Word) : State :=
  let s' := if w = .bad then s else s.recordPkt p w va
  match p.kind with
  | .load _ _ d acq => s'.sendReply p d 0 true acq
  | .amo _ _ _ _ => s'.answer p .poison
  | .ldf _ => s'.answer p .poison
  | .record => s'.answer p .poison
  | .taskDec true => ((s.recordPkt p w va).countDown p.launch p.lmod).answer p .poison
  | .taskDec false => (s.recordPkt p w va).countDown p.launch p.lmod
  | .joinInc => s.answer p (.fail w.cause p.va)
  | .lane d j _ => s.failLane p d j w.cause va
  | .vldf _ _ => (s.answer p (.fail w.cause va)).wakeLane p
  | .stf _ _ _ => (s.recordPkt p w va).answer p (.val 0)
  | .tlbInv n =>
    if (s.frame p.key).used && (s.frame p.key).uid == p.uid && (s.frame p.key).pend == .sent n then
      s.updFrame p.key fun f => { f with pend := .got (.fail w.cause va) }
    else s
  | .spread => (s.recordPkt p w va).spreadLoad p.src p.launch p.lmod (s.granuleAt p) deniedEntry
  | .flock _ _ _ _ t g _ => (s.recordPkt p w va).endFlock p.src t g p.id stFaulted
  | .marker _ => s
  | .store _ _ => s.recordPkt p w va
  | .word _ => s.recordPkt p w va
  | .post _ _ _ => s.recordPkt p w va
  | .joinDec => s.recordPkt p w va
  | .hot _ => s.recordPkt p w va
  | .hotTest _ _ _ _ _ _ => s.recordPkt p w va
  | .msg _ => s.recordPkt p w va
  | _ => s

/-- The request writes (R123). -/
def PKind.writes : PKind → Bool
  | .store _ _ => true | .word _ => true | .amo _ _ _ _ => true | .post _ _ _ => true | .stf _ _ _ => true
  | .taskDec _ => true | .joinInc => true | .joinDec => true
  | .hot _ => true | .hotTest _ _ _ _ _ _ => true | _ => false

/-- The task of the idempotent thread that made a load (R68). -/
def State.taskOf (s : State) (p : Pkt) : Option Task :=
  let f := s.frame p.key
  let loads := p.kind.isLoad || match p.kind with | .stf _ _ probe => probe | _ => false
  if loads && f.used && f.uid == p.uid && f.idem then f.task else none

/-- R68, R126, R127: a packet parks at a home, or is refused there and retried in 64 clk. For an idempotent task's load the
task's entry parks. -/
def State.parkPkt (s : State) (p : Pkt) (h : Home) (r : Reason) (base size : Nat) (va : Word) : State × Option Pkt :=
  let p := { p with refused := false, replay := false }
  let task := s.taskOf p
  let item : Parked := match task with | some t => .task t p.src | none => .request p
  match s.park h r base size item va { write := p.kind.writes, user := p.user } p.launch p.lmod with
  | some s => (if task.isSome then s.dropTask p.key else s, none)
  | none => (s, some { p with refused := true, retryAt := s.clk + 64 })

/-- R132: a request met by a forwarding leaf is passed to the new home; the sender's NI fetches the granule's
entry again. -/
def State.forwardPkt (s : State) (p : Pkt) (d : DieId) : State × Option Pkt :=
  (s.dropSpread p.src p.launch p.lmod p.va,
    some { p with home := .slice d (sliceOf p.va), via := p.home :: p.via, refused := false, replay := false })

/-- What the home's checks say of a packet other than that it may go on. -/
def State.stopPkt (s : State) (p : Pkt) (va : Word) : HRes → State × Option Pkt
  | .park r b n => s.parkPkt p p.home r b n va
  | .area => (s.failPkt p .area va, none)
  | .isol => (s.failPkt p .isol va, none)
  | .lock => (s.failPkt p .lock va, none)
  | .fwd d => s.forwardPkt p d
  | .ok _ _ _ _ => (s, none)
  | .wait => (s, some p)
  | .lost => (s, some p)

/-! ## Each kind of request at its home -/

/-- The packet is an engine's, which no instruction has checked at issue. -/
def PKind.isHot : PKind → Bool
  | .hot _ => true | .hotTest _ _ _ _ _ _ => true | _ => false

/-- A packet's access as its home's checks see it. A thread's at its own core met the locks at issue (R254). -/
def Pkt.req (p : Pkt) (size : Nat) (write : Bool) : Req :=
  { home := p.home, va := p.va, size := size, write := write, user := p.user, launch := p.launch, lmod := p.lmod
    locks := p.kind.isHot || p.home != .core p.src }

/-- The checks of the home, then `k` with the physical place, the leaf, the page's base and its size. -/
def State.withPlace (s : State) (p : Pkt) (r : Req) (k : State → Nat → Word → Nat → Nat → State × Option Pkt) :
    State × Option Pkt :=
  match s.check r with
  | (s, .ok a e b n) => k (s.countReq p.home p.src p.va r.write) a e b n
  | (s, x) => s.stopPkt p p.va x

/-- A load (R254, R256). -/
def State.performLoad (s : State) (p : Pkt) (size : Nat) (sgn : Bool) (d : Option (Fin 16)) (acq : Option Scope) :
    State × Option Pkt :=
  s.withPlace p (p.req size false) fun s a _ _ _ =>
    if s.isBad a size then (s.failPkt p .bad p.va, none)
    else (s.sendReply p d (extend size sgn (s.num a size)) false acq, none)

/-- A store (R254). -/
def State.performStore (s : State) (p : Pkt) (size : Nat) (v : Word) : State × Option Pkt :=
  s.withPlace p (p.req size true) fun s a _ _ _ =>
    if s.badUnder a size then (s.failPkt p .bad p.va, none) else (s.writeAt p.home p.va a (bytesOf size v.toNat), none)

/-- A returning or posted atomic (R260, R261). -/
def State.performAtomic (s : State) (p : Pkt) (op : AmoOp) (dbl : Bool) (b d : Word) : State × Option Pkt :=
  s.withPlace p (p.req (amoSize op dbl) true) fun s a e _ _ =>
    if pteKind e = 3 then (s.failPkt p .hostFrame p.va, none)
    else
      match s.atomic op dbl p.home p.va a b.toNat d.toNat with
      | some (s, old) => (s.answer p (.val (BitVec.ofNat 64 old)), none)
      | none => (s.failPkt p .bad p.va, none)

/-- The thread that sent a request holds a store over n bytes at an address in its task store buffer. -/
def State.heldFor (s : State) (p : Pkt) (va : Word) (n : Nat) (phys : Option Nat) : Bool :=
  (s.frame p.key).used && (s.frame p.key).uid == p.uid && s.taskHeld p.key va n phys

/-- A decoded load has to follow a store of its thread over bytes that it reads: the task store buffer drains before the
request is made again, and for one in the core's store buffer the request waits (R68, R152). -/
def State.after (s : State) (p : Pkt) (va : Word) (n : Nat) (phys : Option Nat) : State × Option Pkt :=
  if s.heldFor p va n phys then ((s.answer p (.again p.va)).wakeLane p, none) else (s, some p)

/-- A write that the thread issued before this request over some of these bytes is still on its way (R150). -/
def State.owedTo (s : State) (p : Pkt) (va : Word) (n : Nat) : Bool := s.owes p.uid p.id va n

/-- A decoded load from another core (R257, R258). -/
def State.performLdf (s : State) (p : Pkt) (t : DecTy) : State × Option Pkt :=
  let r := p.req (decSize t) false
  s.withPlace p r.decoded fun s a e b n =>
    let s := s.fillScale p.home e b n p.va a
    match s.decStop r t e b n a with
    | some .rangeLocked => (s.failPkt p .lock p.va, none)
    | some c => (s.answer p (.fail c p.va), none)
    | none =>
      let w := decElem (pteFmt e) (decSize t)
      let load (held : Option Nat) : State × Option Pkt :=
        match decLoad s t (s.frame p.key).rmode e n a (p.va.toNat - b) held with
        | .ok v => (s.answer p (.val v), none)
        | .poison => (s.failPkt p .bad p.va, none)
      let scale := scalePlace e b n p.va a
      match decFwd ((s.core p.src).forwarded p.uid) p.va a false scale w with
      | .value v => if scale.any fun x => s.owedTo p x.1 1 then (s, some p) else load (some v)
      | .none => if s.owedTo p p.va w || scale.any fun x => s.owedTo p x.1 1 then (s, some p) else load none
      | .after x k z => s.after p x k z

/-- A decoded store from another core, or the bytes that it would store (R68, R257, R258). A store of the thread over the
element's scale byte comes first (R150). -/
def State.performStf (s : State) (p : Pkt) (t : DecTy) (y : Word) (probe : Bool) : State × Option Pkt :=
  let r := p.req (decSize t) true
  s.withPlace p r.decoded fun s a e b n =>
    let s := s.fillScale p.home e b n p.va a
    let scale := scalePlace e b n p.va a
    let held := scale.any fun x => s.heldFor p x.1 1 none
    let owed := scale.any fun x => s.owedTo p x.1 1 || (s.core p.src).forwarded p.uid x.1 1 none != .none
    match s.decStop r t e b n a with
    | some .rangeLocked => (s.failPkt p .lock p.va, none)
    | some c => (s.answer p (.fail c p.va), none)
    | none =>
      if held then (s.answer p (.restore p.va y), none)
      else if owed then (s, some p)
      else match decStore s t (s.frame p.key).rmode e n a (p.va.toNat - b) y with
      | some bs =>
        if probe then (s.answer p (.buffer p.va bs), none)
        else if s.badUnder a bs.length then (s.failPkt p .bad p.va, none)
        else ((s.writeAt p.home p.va a bs).answer p (.val 0), none)
      | none => (s.failPkt p .bad p.va, none)

/-- A word that the device writes as a supervisor's store for a launch: the NI finds its home, and a fault there parks it
as a store (R58). -/
def State.performWord (s : State) (p : Pkt) (v : Word) : State × Option Pkt :=
  let failed (s : State) (w : Why) (va : Word) : State × Option Pkt := (s.failPkt p w va, none)
  if !p.via.isEmpty then s.performStore p 8 v
  else
    match s.findHome p.src p.user p.launch p.lmod p.va with
    | (s, .ok h) => if h = p.home then s.performStore p 8 v else (s, some { p with home := h })
    | (s, .error (.park h r b n va)) => s.parkPkt p h r b n va
    | (s, .error .wait) => (s, some p)
    | (s, .error (.lost va)) => failed s .lost va
    | (s, .error (.cause .rangeLocked va)) => failed s .lock va
    | (s, .error (.cause .uncorrectable va)) => failed s .bad va
    | (s, .error (.cause _ va)) => failed s (.deny .permission) va

/-- A dependent task's decrement from another core, or a posted one (R67, R272, R386). -/
def State.performDec (s : State) (p : Pkt) (ret : Bool) : State × Option Pkt :=
  let a : Actor := { user := p.user, launch := p.launch, lmod := p.lmod }
  match s.decrement (match p.home with | .core l => l | _ => 0) a p.va with
  | (s, .done n) =>
    let s := (s.countDown p.launch p.lmod).wakeNext p.launch p.lmod
    (if ret then s.answer p (.val (BitVec.ofNat 64 n)) else s, none)
  | (s, .underflow) =>
    if ret then ((s.countDown p.launch p.lmod).answer p (.fail .depUnderflow p.va), none)
    else ((s.record p.home 0x04 .underflow p.va p.launch p.lmod).countDown p.launch p.lmod, none)
  | (s, .bad) => (s.failPkt p .bad p.va, none)
  | (s, .check va r) => s.stopPkt p va r

/-- A join cell counts up or down (R61, R265, R267). -/
def State.performJoin (s : State) (p : Pkt) (up : Bool) : State × Option Pkt :=
  s.withPlace p (p.req 8 true) fun s a _ _ _ =>
    if s.isBad a 8 then (s.failPkt p .bad p.va, none)
    else
      let n := s.num a 8
      ((s.writeAt p.home p.va a (bytesOf 8 (if up then n + 1 else n + 2 ^ 64 - 1))).answer p (.val 0), none)

/-- A lane of a vector load at another home (R301, R302). -/
def State.performLane (s : State) (p : Pkt) (d : Fin 16) (j size : Nat) : State × Option Pkt :=
  s.withPlace p (p.req size false) fun s a _ _ _ =>
    if s.isBad a size then (s.failLane p d j .uncorrectable p.va, none)
    else
      let v := s.num a size
      let step (f : Frame) : Frame :=
        match f.pend with
        | .lanes _ acc => { f with pend := .lanes (j + 1) (setLane acc j v) }
        | _ => f
      if s.atThisLane p j then ((s.updFrame p.key step).wakeLane p, none) else (s, none)

/-- A decoded vector load whose first byte another home holds (R305). -/
def State.performVldf (s : State) (p : Pkt) (t : DecTy) (act : BitVec 16) : State × Option Pkt :=
  let r : Reader := { s.reader p.key p.id with loc := p.src, user := p.user, launch := p.launch, lmod := p.lmod }
  match vldfRead s t (s.frame p.key).rmode r p.va act 0 with
  | (s, .ok (.lanes v)) => ((s.answer p (.vec v)).wakeLane p, none)
  | (s, .ok (.after va n a)) => s.after p va n a
  | (_, .error (.cause c va)) => ((s.answer p (.fail c va)).wakeLane p, none)
  | (_, .error (.lost va)) => ((s.answer p (.fail .translation va)).wakeLane p, none)
  | (s, .error .wait) => (s, some p)
  | (s, .error (.park h r b n va)) => s.parkPkt p h r b n va

/-- A home drops every translation of an address, and a slice writes back and invalidates the page's sectors (R148, R249). -/
def State.performInv (s : State) (p : Pkt) : State :=
  (s.flushPage p.home p.va).updHome p.home fun x =>
    { x with tlb := x.tlb.filter fun e => !decide (e.base ≤ p.va.toNat ∧ p.va.toNat < e.base + e.size) }

/-- A spread-table entry is read for an NI, after the table's granule count (R117, R118). -/
def State.performSpread (s : State) (p : Pkt) : State × Option Pkt :=
  let ptr := s.spreadPtr p.launch p.lmod
  let g := s.granuleAt p
  let head := homeOf (Loc.module p.src) ptr
  let enter (s : State) (e : Word) : State × Option Pkt := (s.spreadLoad p.src p.launch p.lmod g e, none)
  match s.check { p.req 4 false with home := head, va := ptr } with
  | (s, .ok h _ _ _) =>
    if s.isBad h 4 then (s.failPkt p .bad ptr, none)
    else if s.num h 4 ≤ g then enter s deniedEntry
    else
      s.withPlace p (p.req 4 false) fun s a _ _ _ =>
        if s.isBad a 4 then (s.failPkt p .bad p.va, none) else enter s (BitVec.ofNat 64 (s.num a 4))
  | (s, .park r b n) => s.parkPkt p head r b n ptr
  | (s, x) => s.stopPkt p ptr x

/-! ## When a request's turn at its home can come -/

/-- R150: no store to the same doubleword that was issued before is still in the issuing core's buffer or on its way there. At the issuing
core the doubleword is that of the bank, however it is addressed. -/
def State.doubleClear (s : State) (p : Pkt) : Bool :=
  let place := if p.home == .core p.src then s.physOf p.home p.va else none
  (s.core p.src).queued.all fun e =>
    !(decide (e.id < p.id) && match place, e.phys with
      | some a, some b => a / 8 == b / 8
      | _, _ => !e.tile && e.va.toNat / 8 == p.va.toNat / 8)

/-- The module that a packet comes from; a merged one is made beside its home. -/
def Pkt.origin (p : Pkt) : Nat := if p.merged then homeMod p.home else Loc.module p.src
/-- The packet's home answers it. -/
def State.reaches (s : State) (p : Pkt) : Bool := s.answers p.origin (homeMod p.home)

/-- R167: a fence's marker is acknowledged only after the merged results of the steps that its module has closed. -/
def State.reduced (s : State) (p : Pkt) : Bool :=
  let m := Loc.module p.src
  (s.mods.all fun e => e.2.windows.toList.all fun w =>
    w.ops.all fun o => !(o.pkt.home == p.home && decide (o.step < w.step m))) &&
  s.net.all fun q => !(q.merged && q.home == p.home)

/-- The request may leave its core, or has left it: a posted operation follows the store to its doubleword (R150), and what
starts or counts work is a release of the thread's stores (R169). -/
def State.leaves (s : State) (p : Pkt) : Bool :=
  !p.via.isEmpty || p.refused || match p.kind with
  | .post _ _ _ => s.doubleClear p
  | .taskDec ret => s.storesDone p.src p.uid p.id .sys && (ret || s.doubleClear p)
  | .joinDec => s.storesDone p.src p.uid p.id .sys
  | .joinInc => s.storesDone p.src p.uid p.id .sys
  | .record => s.storesDone p.src p.uid p.id .sys
  | _ => true

/-- Bytes from a request's doubleword on that it may touch. -/
def PKind.reach : PKind → Nat
  | .record => 128 | .vldf _ _ => 128 | .taskDec _ => 64 | _ => 8

/-- Request p comes after q whichever of them has left the core: both are one thread's to one location, or p is a marker
(R150, R157). -/
def Pkt.follows (p q : Pkt) : Bool :=
  p.src == q.src && decide (q.id < p.id) && match p.kind with
  | .marker _ => q.home == p.home || q.via.contains p.home
  | k => q.uid == p.uid && overlaps (q.va.toNat / 8 * 8) q.kind.reach (p.va.toNat / 8 * 8) k.reach

/-- The two requests go one way: to one home, or one that it passed on, or to one CXL port (R151, R168). -/
def State.sameRoute (s : State) (q p : Pkt) : Bool :=
  q.home == p.home || q.via.contains p.home || match s.seenAt p with | .cxl m => s.seenAt q == .cxl m | _ => false

/-- Request p, a marker, does not wait for the access to a host frame, which is in no scope but `.sys` (R154, R168). -/
def State.outOfScope (s : State) (q p : Pkt) : Bool :=
  match p.kind with
  | .marker sc => sc != .sys && match s.seenAt q with | .cxl _ => true | _ => false
  | _ => false

/-- A decoded load that the thread issued after p, and that waits for p's bytes where it has to. -/
def Pkt.readsAfter (q p : Pkt) : Bool :=
  q.uid == p.uid && decide (p.id < q.id) && match q.kind with | .ldf _ => true | .vldf _ _ => true | _ => false

/-- R150, R151: no request that the same core sent earlier on this route, and that has left the core or comes first in any
case, is still under way. -/
def State.routeClear (s : State) (k : Nat) (p : Pkt) : Bool :=
  (s.net.take k).all fun q =>
    !(q.kind.isRequest && q.src == p.src && s.sameRoute q p && !s.outOfScope q p && !q.readsAfter p && (s.leaves q || p.follows q))

/-- ROUTE's updates and tests of hot counters are performed in the order in which their Barrow made them, whatever their
homes (R349). -/
def State.hotTurn (s : State) (p : Pkt) : Bool :=
  s.net.all fun q => !(q.kind.isHot && q.src == p.src && decide (q.id < p.id))

/-- The packet may leave its core and be performed (R150, R152, R156-R159, R169). -/
def State.ordered (s : State) (p : Pkt) : Bool :=
  let loads := !s.nearPkt p || s.loadsDone p.uid p.id
  s.leaves p && match p.kind with
  | .taskDec ret => !ret || loads
  | .joinInc => loads
  | .record => loads
  | .hot _ => s.hotTurn p
  | .hotTest _ _ _ _ _ _ => s.hotTurn p
  | .marker sc => !(sc == .pod || sc == .sys) || s.reduced p
  | .store _ _ => !s.nearPkt p || (s.loadsDone p.uid p.id && s.storesGone p.uid p.id)
  | .stf _ _ _ => !s.nearPkt p || (s.loadsDone p.uid p.id && s.storesGone p.uid p.id)
  | .load _ _ _ _ => loads
  | .amo _ _ _ _ => loads
  | .ldf _ => loads
  | .lane _ _ _ => loads
  | .vldf _ _ => loads
  | _ => true

/-- What is still in the core when a store leaves its buffer: requests that wait there, and those that come after them.
The first list stays ahead of the store, the second goes behind it. -/
def stayBehind (waits : Pkt → Bool) : List Pkt → List Pkt × List Pkt
  | [] => ([], [])
  | q :: r =>
    if waits q then
      let (a, b) := stayBehind (fun x => waits x || x.follows q) r
      (a, q :: b)
    else
      let (a, b) := stayBehind waits r
      (q :: a, b)

/-- A store sets out for its home: behind what has left its core, and ahead of what still waits there (R150, R151). -/
def State.setOff (s : State) (p : Pkt) : List Pkt :=
  let (a, b) := stayBehind (fun q => q.kind.isRequest && q.src == p.src && !s.leaves q) s.net
  a ++ p :: b

/-- R172: what the old home of a granule passed on is performed in its order, and before what is sent to the new home
at once. -/
def State.replayClear (s : State) (k : Nat) (p : Pkt) : Bool :=
  s.net.zipIdx.all fun e => !(e.1.passed p.home p.va && decide (e.2 ≠ k) && (decide (e.2 < k) || p.via.isEmpty))

/-- R368: the packets that a core replays come in their order, and before any new arrival. -/
def State.replayTurn (s : State) (k : Nat) (p : Pkt) : Bool :=
  (if p.replay then s.net.take k else s.net).all fun q => !(q.replay && !q.kind.isRequest && q.home == p.home)

/-- R149: released requests that wait again are performed in their order, and before a later request to their page. -/
def State.againTurn (s : State) (k : Nat) (p : Pkt) : Bool :=
  s.net.zipIdx.all fun e => !(s.resumes e.1 p.home p.va && decide (e.2 ≠ k) &&
    if p.replay then decide (e.2 < k) else !(e.1.uid == p.uid && decide (p.id < e.1.id)))

/-- R127: the NI of the packet's core holds it behind an access of the core's Gleaner that the home refused before. -/
def State.niHolds (s : State) (p : Pkt) : Bool :=
  let earlier (e : Eng) (r : Option (Home × Nat × Nat)) : Bool :=
    e == .gleaner p.src && match r with | some (h, _, n) => h == p.home && decide (n ≤ p.id) | none => false
  (s.cmds.any fun c => earlier c.eng c.refused) || s.pushes.any fun q => earlier q.eng q.refused

/-- A request's turn at its home, refused before or not (R127, R149-R151, R172). -/
def State.turnOf (s : State) (k : Nat) (p : Pkt) : Bool :=
  s.reaches p && !s.niHolds p && s.routeClear k p && s.replayClear k p && s.againTurn k p && s.ordered p && !s.moving p.home p.va

/-- The request's turn at its home has come. -/
def State.mayPerform (s : State) (k : Nat) (p : Pkt) : Bool :=
  p.kind.isRequest && !p.refused && s.turnOf k p

end Sys2Proof.Machine
end

