-- ==== Sys2Proof/Machine/Net.lean ====
section
/-! DEFINITION. The steps of single packets: requests performed at their homes, replies, results, messages, events
held at their source, and instruction fetch (95_what_each_step_holds; R68, R73, R157, R174, R216, R254, R256,
R261, R309, R360). -/

namespace Sys2Proof.Machine

open Sys2Proof

/-- Packet k is performed by f when its turn has come and it is of the right kind. -/
def performAt (k : Nat) (kind : PKind → Bool) (f : State → Pkt → State × Option Pkt) (s : State) :
    Host.Outcome State Fault Refusal :=
  match s.pkt k with
  | some p =>
    let r := f (s.dropPkt k) p
    occurs (kind p.kind && s.mayPerform k p) (r.1.keepPkt k r.2) s
  | none => occurs false s s

/-! ## Instruction words (R115, R170, R174) -/

/-- The word at pc for the thread in issue. None when it traps, parks or waits for a spread-table entry. -/
def State.front (s : State) : State × Option W32 :=
  let pc := s.my.pc
  match s.word pc with
  | (s, .word w _) => (s, some w)
  | (s, .trap c) => ({ s.trapMy c pc 0 with note := .trapped }, none)
  | (s, .park h r b n) =>
    ({ s.parkThread s.me true h r b n pc { exec := true, user := !s.my.priv } with note := .waiting }, none)
  | (s, .fetching) => ({ s with note := .waiting }, none)

/-- INSTRUCTION_FETCH: the word at pc of the thread on a slot enters the slot's buffer. -/
def execInstructionFetch (loc slot : Nat) (s : State) : Host.Outcome State Fault Refusal :=
  match ((s.core loc).slot slot).bound with
  | some f =>
    let x := s.frame (keyOf loc f)
    let t := { s with cur := { loc := loc, frame := f, slot := slot } }
    let have' := ((s.core loc).slot slot).ibuf.any fun i => i.va == x.pc
    occurs (x.wait.isNone && x.pend == .idle && !x.rfa && !have') t.front.1 s
  | none => occurs false s s

/-! ## Results and replies -/

/-- LONG_LATENCY_RESULT: a result of `div`, `fdiv` and their like, or of `vfdiv`, arrives (R216, R287). -/
def execLongLatencyResult (k : Nat) (s : State) : Host.Outcome State Fault Refusal :=
  match s.pkt k with
  | some p =>
    match p.kind with
    | .result d v bad true _ => occurs true ((s.dropPkt k).arriveG p d v bad) s
    | .vresult d v =>
      let t := s.dropPkt k
      let t := if (t.frame p.key).used && (t.frame p.key).uid == p.uid then
          t.updFrame p.key fun f => { f.setV d v with vbusy := f.vbusy &&& ~~~(BitVec.twoPow 16 d) }
        else t
      occurs true (p.fan.foldl (fun t j =>
        t.send { p with kind := .soloV d v, home := .core (keyLoc j), key := j, uid := (t.frame j).uid, fan := [] }) t) s
    | _ => occurs false s s
  | none => occurs false s s

/-- LOAD_REPLY: a load's value, or its poison, arrives at its register (R256). -/
def execLoadReply (k : Nat) (s : State) : Host.Outcome State Fault Refusal :=
  match s.pkt k with
  | some p =>
    match p.kind with
    | .result d v bad false _ => occurs true ((s.dropPkt k).arriveG p d v bad) s
    | _ => occurs false s s
  | none => occurs false s s

/-- SOLO_RESULT_ARRIVAL: a member's copy of the leader's result arrives (R73). -/
def execSoloResultArrival (k : Nat) (s : State) : Host.Outcome State Fault Refusal :=
  match s.pkt k with
  | some p =>
    let t := s.dropPkt k
    let here := (t.frame p.key).used && (t.frame p.key).uid == p.uid
    match p.kind with
    | .soloG d v bad =>
      occurs true (if here then t.updFrame p.key fun f => if bad then f.poisonG d else f.setG d v else t) s
    | .soloV d v =>
      occurs true (if here then
        t.updFrame p.key fun f => { f.setV d v with vbusy := f.vbusy &&& ~~~(BitVec.twoPow 16 d) } else t) s
    | _ => occurs false s s
  | none => occurs false s s

/-! ## Requests at their homes -/

/-- A load in one of its kinds. -/
def State.performRead (s : State) (p : Pkt) : State × Option Pkt :=
  match p.kind with
  | .load size sgn d acq => s.performLoad p size sgn d acq
  | .ldf t => s.performLdf p t
  | .lane d j size => s.performLane p d j size
  | .vldf t act => s.performVldf p t act
  | _ => (s, none)

/-- The kinds of DATA_RETURN_REQUEST. -/
def PKind.isRead : PKind → Bool
  | .load _ _ _ _ => true | .ldf _ => true | .lane _ _ _ => true | .vldf _ _ => true | _ => false

/-- DATA_RETURN_REQUEST: a load is performed at its home (R254). -/
def execDataReturnRequest (k : Nat) (s : State) : Host.Outcome State Fault Refusal :=
  performAt k PKind.isRead State.performRead s

/-- A store in one of its kinds that is in flight. -/
def State.performWrite (s : State) (p : Pkt) : State × Option Pkt :=
  match p.kind with
  | .store size v => s.performStore p size v
  | .word v => s.performWord p v
  | .stf t v probe => s.performStf p t v probe
  | _ => (s, none)

/-- The kinds of STORE_PERFORM that can be in flight. -/
def PKind.isWrite : PKind → Bool
  | .store _ _ => true | .word _ => true | .stf _ _ _ => true | _ => false

/-- A buffered store as a packet. -/
def SEntry.pkt (e : SEntry) (l : Loc) : Pkt :=
  { id := e.id, kind := .store e.size e.v, src := l, key := e.key, uid := e.uid, user := e.user, launch := e.launch
    lmod := e.lmod, home := e.home, va := e.va }

/-- A buffered store goes to its home as a packet: its access is not die-local, and nothing orders it with the stores behind
it (R152, R153, log entry 14). -/
def State.farStore (s : State) (l : Loc) (e : SEntry) : Bool := !e.tile && !s.near l e.home e.va

/-- The head of a store buffer may leave: for a release, the loads and the stores it covers are done; and a die-local
store, which is performed as it leaves, follows the thread's loads, its stores that a home has refused, and what the core
sent to its home before (R151, R152, R156). -/
def State.mayStore (s : State) (l : Loc) (e : SEntry) : Bool :=
  (match e.rel with
    | some sc => s.loadsBack e.uid e.id && s.storesDone l e.uid e.id sc
    | none => true)
  && (s.farStore l e ||
    ((s.net.all fun q => !(q.kind.isRequest && q.src == l && decide (q.id < e.id) && (q.home == e.home || q.via.contains e.home)
      && (s.leaves q || (e.pkt l).follows q)))
    && s.loadsDone e.uid e.id && s.storesGone e.uid e.id
    && (e.tile || (!s.moving e.home e.va && s.net.all fun q => !q.passed e.home e.va && !s.resumes q e.home e.va))))

/-- The head of a store buffer is performed, or sets out for its home; a task store buffer that drains has room for its
next store (R68, R152). -/
def State.storeHead (s : State) (l : Loc) (e : SEntry) (r : List SEntry) : State :=
  let p := e.pkt l
  let out := s.setOff p
  let far := s.farStore l e
  let s := s.updCore l fun c => { c with sb := r }.pour
  match e.tile, e.phys with
  | true, some a =>
    if s.badUnder a e.size then s.record e.home 0x05 .uncorrectable 0 e.launch e.lmod
    else s.poke a (bytesOf e.size e.v.toNat)
  | _, _ =>
    if far then { s with net := out }
    else
      match s.performStore p e.size e.v with
      | (s, some q) => { s with net := if q.refused then q :: s.net else s.net ++ [q] }
      | (s, none) => s

/-- STORE_PERFORM: packet k when it is a store of this core in flight, otherwise the head of the core's store buffer
(R152, R254; log entry 14). -/
def execStorePerform (loc k : Nat) (s : State) : Host.Outcome State Fault Refusal :=
  match s.pkt k with
  | some p =>
    if p.kind.isWrite && p.src == loc then performAt k PKind.isWrite State.performWrite s
    else
      match (s.core loc).sb with
      | e :: r => occurs (s.mayStore loc e) (s.storeHead loc e r) s
      | [] => occurs false s s
  | none =>
    match (s.core loc).sb with
    | e :: r => occurs (s.mayStore loc e) (s.storeHead loc e r) s
    | [] => occurs false s s

/-- A returning atomic in flight, performed. -/
def State.performAmo (s : State) (p : Pkt) : State × Option Pkt :=
  match p.kind with
  | .amo op dbl b d => s.performAtomic p op dbl b d
  | _ => (s, none)

/-- ATOMIC_PERFORM (R261). -/
def execAtomicPerform (k : Nat) (s : State) : Host.Outcome State Fault Refusal :=
  performAt k (fun x => match x with | .amo _ _ _ _ => true | _ => false) State.performAmo s

/-- The reduction window that takes a posted operation: its module and its number (R166). -/
def State.windowFor (s : State) (p : Pkt) (op : AmoOp) (dbl : Bool) : Option (Nat × Nat) :=
  if p.merged then none
  else
    (s.mods.flatMap fun e => (e.2.windows.toList.zipIdx.filter fun w =>
      w.1.combines (Loc.module p.src) op dbl p.va).map fun w => (e.1, w.2)).head?

/-- The state with a window changed. -/
def State.updWindow (s : State) (m w : Nat) (f : RWindow → RWindow) : State :=
  s.updModule m fun x => { x with windows := x.windows.mapIdx fun i y => if i = w then f y else y }

/-- A posted operation performed: at its home, or taken into its module's current step of a window (R166, R167). -/
def State.performPost (s : State) (p : Pkt) : State × Option Pkt :=
  match p.kind with
  | .post op dbl b =>
    match s.windowFor p op dbl with
    | some (m, w) =>
      (s.updWindow m w fun x =>
        { x with ops := x.ops ++ [{ step := x.step (Loc.module p.src), mod := Loc.module p.src, va := p.va, op := op
                                    dbl := dbl, v := b, pkt := p }] }, none)
    | none => s.performAtomic p op dbl b 0
  | _ => (s, none)

/-! ### ROUTE's hot counters (19_engines R349) -/

/-- A hot-counter entry updated by an amount at a stamp. -/
def hotUpdate (old x t : Nat) : Nat :=
  let d := (t + 2 ^ 32 - bitsOf old 32 32) % 2 ^ 32
  let count := if d = 0 then bitsOf old 0 31 else bitsOf old 0 31 / 2 ^ min d 31
  let posted := if d = 0 then bitsOf old 31 1 else 0
  let stamp := if d = 0 then bitsOf old 32 32 else t % 2 ^ 32
  min (count + x) (2 ^ 31 - 1) + posted * 2 ^ 31 + stamp * 2 ^ 32

/-- The stamp of now: milliseconds of a module's `clock`. -/
def State.stamp (s : State) (m : Nat) : Nat := (s.clk - (s.module m).epoch) / 2000000 % 2 ^ 32

/-- A hot-counter packet meets a lock: it waits, as an engine's write does, and is tried again in 64 clk (R143). -/
def State.hotWait (s : State) (p : Pkt) : State × Option Pkt := (s, some { p with refused := true, retryAt := s.clk + 64 })

/-- An update at the counter's home. -/
def State.performHot (s : State) (p : Pkt) (x : Nat) : State × Option Pkt :=
  match s.check (p.req 8 true) with
  | (s, .lock) => s.hotWait p
  | (s, .ok a _ _ _) =>
    if s.isBad a 8 then (s.recordPkt p .bad p.va, none)
    else
      ((s.countReq p.home p.src p.va true).writeAt p.home p.va a (bytesOf 8 (hotUpdate (s.num a 8) x (s.stamp (Loc.module p.src)))), none)
  | (s, r) => s.stopPkt p p.va r

/-- The test of an expert after the total has been updated: it posts the event once. A lock on either entry is waited for,
and a fault on either parks the test (R126, R143). -/
def State.performHotTest (s : State) (p : Pkt) (e q least : Nat) (total : Word) (th : Home) (desc : Word) :
    State × Option Pkt :=
  match s.check (p.req 8 true) with
  | (s, .lock) => s.hotWait p
  | (s, .ok a _ _ _) =>
    if s.isBad a 8 then (s.recordPkt p .bad p.va, none)
    else
      let n := s.num a 8
      match s.through p.src { p.req 8 false with home := th, va := total } maxForwards with
      | (s, _, .ok x _ _ _) =>
        let sum := bitsOf (s.num x 8) 0 31
        if s.isBad x 8 then (s.recordPkt p .bad total, none)
        else if q * sum < bitsOf n 0 31 * 256 ∧ least ≤ sum ∧ bitsOf n 31 1 = 0 then
          let s := s.writeAt p.home p.va a (bytesOf 8 (n + 2 ^ 31))
          let dest := match p.home with | .core l => l | h => s.supLoc (homeDie h)
          (s.event (homeKey p.home) dest [BitVec.ofNat 64 (0x20 + e * 2 ^ 8), desc, p.launch.setWidth 64], none)
        else (s, none)
      | (s, _, .lock) => s.hotWait p
      | (s, h, .park r b z) => s.parkPkt p h r b z total
      | (s, _, .lost) => (s.recordPkt p .lost total, none)
      | (s, _, x) => s.stopPkt p total x
  | (s, r) => s.stopPkt p p.va r

/-- A posted atomic or a hot-counter packet, performed. -/
def State.performPosted (s : State) (p : Pkt) : State × Option Pkt :=
  match p.kind with
  | .hot x => s.performHot p x
  | .hotTest e q least total th desc => s.performHotTest p e q least total th desc
  | _ => s.performPost p

/-- POSTED_OPERATION (R158, R166, R254, R261, R349). -/
def execPostedOperation (k : Nat) (s : State) : Host.Outcome State Fault Refusal :=
  performAt k
    (fun x => match x with | .post _ _ _ => true | .hot _ => true | .hotTest _ _ _ _ _ _ => true | _ => false)
    State.performPosted s

/-- A join cell's increment or decrement in flight, performed. -/
def State.performCell (s : State) (p : Pkt) : State × Option Pkt := s.performJoin p (p.kind == .joinInc)

/-- JOIN_CELL_INCREMENT (R265). -/
def execJoinCellIncrement (k : Nat) (s : State) : Host.Outcome State Fault Refusal :=
  performAt k (fun x => x == .joinInc) State.performCell s

/-- JOIN_CELL_DECREMENT (R267). -/
def execJoinCellDecrement (k : Nat) (s : State) : Host.Outcome State Fault Refusal :=
  performAt k (fun x => x == .joinDec) State.performCell s

/-- A task record's decrement in flight, performed. -/
def State.performTask (s : State) (p : Pkt) : State × Option Pkt :=
  match p.kind with
  | .taskDec ret => s.performDec p ret
  | _ => (s, none)

/-- DEPENDENT_TASK_DECREMENT (R67, R272, R386). -/
def execDependentTaskDecrement (k : Nat) (s : State) : Host.Outcome State Fault Refusal :=
  performAt k (fun x => match x with | .taskDec _ => true | _ => false) State.performTask s

/-- TLB_INVALIDATE_REQUEST: a unit drops its translations of the address and acknowledges (R148, R249). -/
def execTlbInvalidateRequest (k : Nat) (s : State) : Host.Outcome State Fault Refusal :=
  performAt k (fun x => match x with | .tlbInv _ => true | _ => false) (fun s p => (s.performInv p, none)) s

/-- SPREAD_ENTRY_FETCH (R117, R118). -/
def execSpreadEntryFetch (k : Nat) (s : State) : Host.Outcome State Fault Refusal :=
  performAt k (fun x => x == .spread) State.performSpread s

/-- FENCE_MARKER: the home acknowledges once what was sent before the marker is performed (R157, R167). -/
def execFenceMarker (k : Nat) (s : State) : Host.Outcome State Fault Refusal :=
  performAt k (fun x => match x with | .marker _ => true | _ => false) (fun s _ => (s, none)) s

/-- PAGE_WALK: a home with a request for the address walks, and a leaf enters its TLB (R120-R124). -/
def execPageWalk (h : Home) (va : Word) (s : State) : Host.Outcome State Fault Refusal :=
  occurs ((s.net.any fun p => p.kind.isRequest && p.home == h && p.va == va) && (s.tlbHit h va).isNone) (s.leaf h va).1 s

/-! ## Messages (R309) -/

/-- A message's turn: no earlier one from its core to the same destination is under way, and it is a release of its
sender's stores (R162). -/
def State.msgTurn (s : State) (k : Nat) (p : Pkt) : Bool :=
  s.reaches p && s.storesDone p.src p.uid p.id .sys &&
  (s.net.take k).all fun q => !((match q.kind with | .msg _ => true | _ => false) && q.src == p.src && q.home == p.home)

/-- A message enters the destination's queue of 64, or is refused and retried in 64 clk. -/
def State.deliverMsg (s : State) (k : Nat) (p : Pkt) (v : Word) : State :=
  match p.home with
  | .core l =>
    if (s.core l).msgs.length < 64 then
      let w := BitVec.ofNat 64 (8 * p.src + fieldOf v 32 32 * 2 ^ 32)
      ((s.dropPkt k).updCore l fun c => { c with msgs := c.msgs ++ [w] }).wake fun j f =>
        keyLoc j == l && f.wait == some (.popPort .qmsg)
    else { s with net := setAt s.net k { p with refused := true, retryAt := s.clk + 64 } }
  | _ => s

/-- A message in flight is delivered when due. -/
def messageAt (k : Nat) (due : Pkt → Bool) (s : State) : Host.Outcome State Fault Refusal :=
  match s.pkt k with
  | some p =>
    match p.kind with
    | .msg v => occurs (due p && s.msgTurn k p) (s.deliverMsg k p v) s
    | _ => occurs false s s
  | none => occurs false s s

/-- MESSAGE_DELIVERY (R309). -/
def execMessageDelivery (k : Nat) (s : State) : Host.Outcome State Fault Refusal := messageAt k (fun p => !p.refused) s

/-- MESSAGE_RETRY (R309). -/
def execMessageRetry (k : Nat) (s : State) : Host.Outcome State Fault Refusal :=
  messageAt k (fun p => p.refused && decide (p.retryAt ≤ s.clk)) s

/-! ## Events held at their source (R360) -/

/-- EVENT_RETRY: the first held event of its source enters the queue when it has room, and is tried again in 64 clk
when not. -/
def execEventRetry (k : Nat) (s : State) : Host.Outcome State Fault Refusal :=
  match s.evq[k]? with
  | some e =>
    let first := (s.evq.take k).all fun x => !(x.src == e.src && x.dest == e.dest)
    let room := decide ((s.core e.dest).qevt.length + e.words.length ≤ 1024)
    let t := { s with evq := dropAt s.evq k }
    let t := if room then
        (t.updCore e.dest fun c => { c with qevt := c.qevt ++ eventWords e.words }).wake fun j f =>
          keyLoc j == e.dest && (f.wait == some .waitev || f.wait == some (.popPort .qevt))
      else { s with evq := setAt s.evq k { e with retryAt := s.clk + 64 } }
    occurs (first && decide (e.retryAt ≤ s.clk)) t s
  | none => occurs false s s

end Sys2Proof.Machine
end

