-- ==== Sys2Proof/Machine/Moves.lean ====
section
/-! DEFINITION. What the memory side does of itself: re-homing of spread granules, the epoch, reduction steps and patrol
scrubbing (07_memory R131-R133, 09_ordering R166, R167, R172; 21_system R362). -/

namespace Sys2Proof.Machine

open Sys2Proof

/-! ## Re-homing (R131, R132) -/

/-- The address of a granule in spread space. -/
def granuleVA (g : Nat) : Word := BitVec.ofNat 64 (3 * 2 ^ 55 + g % 2 ^ 25 * 2 ^ 16)

/-- The entry of a die's own tree at one table, when it names the next table. -/
def nextTable (s : State) (a : Nat) : Option Nat :=
  let e : Word := BitVec.ofNat 64 (s.num a 8)
  if !s.isBad a 8 && pteP e && pteKind e == 0 && !pteFwd e && fieldOf e 59 5 == 0 then some (fieldOf e 24 35) else none

/-- The number under which a die's level-1 entry of a granule stands, when its spread tree holds the tables that
cover the granule (R131). -/
def State.levelOne (s : State) (d : DieId) (g : Nat) : Option Nat :=
  let root := (s.die d).ptroot
  let off := fieldOf root 6 29 * 64
  let va := granuleVA g
  if !bitOf root 0 || decide (partBytes < off + 64) || s.isBad (dramKey d (off + 16)) 8 then none
  else
    let fits (o n : Nat) : Bool := decide (o % n = 0 ∧ o + n ≤ partBytes)
    let t3 := s.num (dramKey d (off + 16)) 8
    if !fits t3 16384 then none
    else match nextTable s (dramKey d (t3 + 8 * fieldOf va 30 11)) with
      | some t2 =>
        if !fits t2 4096 then none
        else match nextTable s (dramKey d (t2 + 8 * fieldOf va 21 9)) with
          | some t1 => if fits t1 256 then some (dramKey d (t1 + 8 * fieldOf va 16 5)) else none
          | none => none
      | none => none

/-- Where a die's frame pool lies (R119, R132). -/
def State.poolOf (s : State) (d : DieId) : Option Nat :=
  let root := (s.die d).ptroot
  let off := fieldOf root 6 29 * 64
  let a := s.num (dramKey d (off + 32)) 8
  if !bitOf root 0 || decide (partBytes < off + 64) || decide (a % 8 ≠ 0 ∨ partBytes < a + 16) then none
  else some (dramKey d a)

/-- A pop: the last entry of the pool (R132). A pool with n above c is empty, and so is one whose last entry names no
frame of the partition (log entry 35). -/
def State.popFrame (s : State) (d : DieId) : Option (State × Nat) :=
  match s.poolOf d with
  | some a =>
    let n := s.num a 8
    let o := s.num (a + 8 + 8 * n) 8
    if n = 0 ∨ s.num (a + 8) 8 < n ∨ o % 65536 ≠ 0 ∨ partBytes < o + 65536 then none
    else some (s.poke a (bytesOf 8 (n - 1)), o)
  | none => none

/-- A push, and whether the pool took the frame (R132). -/
def State.pushFrame (s : State) (d : DieId) (o : Nat) : State × Bool :=
  match s.poolOf d with
  | some a =>
    let n := s.num a 8
    if n < s.num (a + 8) 8 then ((s.poke (a + 16 + 8 * n) (bytesOf 8 o)).poke a (bytesOf 8 (n + 1)), true) else (s, false)
  | none => (s, false)

/-- 64 KiB copied with the check bits of each doubleword. -/
def State.copyFrame (s : State) (a b : Nat) : State :=
  let moved := (s.bad.filter fun x => decide (a ≤ x * 8 ∧ x * 8 < a + 65536)).map fun x => x + b / 8 - a / 8
  let s := s.poke b (s.bytes a 65536)
  { s with bad := (moved.filter fun x => !s.bad.contains x) ++ s.bad }

/-- The slice's count for a granule stands at 64; the die that wrote it (R131). -/
def State.rehomeTo (s : State) (h : Home) (g : Nat) : Option DieId :=
  match s.tlbHit h (granuleVA g) with
  | some e => if 64 ≤ e.writes then e.writer else none
  | none => none

/-- The count of a granule starts again. -/
def State.resetCount (s : State) (h : Home) (g : Nat) : State :=
  s.updHome h fun x =>
    { x with tlb := mapIf (fun e => e.base == (granuleVA g).toNat) (fun e => { e with writes := 0, writer := none }) x.tlb }

/-- Every slice of the old home drops its translations of the granule. -/
def State.dropGranule (s : State) (d : DieId) (g : Nat) : State :=
  (List.range 64).foldl (fun t q => t.updHome (.slice d q) fun x =>
    { x with tlb := x.tlb.filter fun e => !decide (e.base ≤ (granuleVA g).toNat ∧ (granuleVA g).toNat < e.base + e.size) }) s

/-- Step 7: the requests that wait at the old home are passed on in their order. One that has not left its core goes there
first (R150). -/
def State.replay (s : State) (old new : DieId) (g : Nat) : State :=
  let here (p : Pkt) : Bool :=
    p.kind.isRequest && spaceOf p.va == .spread && granuleOf p.va == g && p.home == .slice old (sliceOf p.va) && s.leaves p
  { s with net := mapIf here (fun p => { p with home := .slice new (sliceOf p.va), via := p.home :: p.via, refused := false, replay := false }) s.net }

/-- The leaf as the new home gets it: the new frame, MOVES one up, and FROZEN at 3 (R132 step 4). -/
def movedLeaf (e : Word) (o : Nat) : Word :=
  let n := fieldOf e 18 2 + 1
  let e := setField (setField (setField e 6 2 1) 24 40 o) 18 2 n
  if n = 3 then setField e 20 1 1 else e

/-- The forwarding leaf that names a die (R121). -/
def fwdLeaf (d : DieId) : Word :=
  BitVec.ofNat 64 (2 ^ 21 + d / 64 * 2 ^ 24 + d / 4 % 16 * 2 ^ 32 + d % 4 * 2 ^ 36)

/-- Steps 2 to 7 of R132, for the leaf e at key a of die `old`, whose frame stands at p; the new entry is at key b. -/
def State.moveGranule (s : State) (h : Home) (old new : DieId) (g : Nat) (e : Word) (a p b : Nat) : Option State :=
  match s.popFrame new with
  | none => none
  | some (s, o) =>
    let s := (List.range 64).foldl (fun t q => t.flushPage (.slice old q) (granuleVA g)) s
    let s := s.copyFrame p (dramKey new o)
    let s := (s.poke b (bytesOf 8 (movedLeaf e o).toNat)).poke a (bytesOf 8 (fwdLeaf new).toNat)
    let frame := fieldOf e 24 35
    let (s, kept) := if pteKind e = 1 then s.pushFrame old frame else (s, false)
    let s := ((s.dropGranule old g).replay old new g).updDie old fun x => { x with moved := x.moved ++ [b] }
    some (s.eventAt h [0x11, granuleVA g, BitVec.ofNat 64 ((if pteKind e = 1 then frame else 0) + if kept then 0 else 2 ^ 63)])

/-- The granule goes to the die that wrote it, or its count starts again (R131-R133). -/
def State.rehome (s : State) (h : Home) (new : DieId) (g : Nat) : State :=
  let old := homeDie h
  match walk s h (granuleVA g) with
  | .leaf _ 65536 e a =>
    if bitOf e 20 || decide (4096 ≤ (s.die old).moved.length) then s.resetCount h g
    else
      match s.levelOne new g with
      | some b => (s.moveGranule h old new g e a (leafPhys old e 65536 (granuleVA g)) b).getD (s.resetCount h g)
      | none => s.resetCount h g
  | _ => s.resetCount h g

/-- REHOME_GRANULE (R131, R132, R172). -/
def execRehomeGranule (h : Home) (g : Nat) (s : State) : Host.Outcome State Fault Refusal :=
  match s.rehomeTo h g with
  | some d => occurs true (s.rehome h d g) s
  | none => occurs false s s

/-- MOVES and FROZEN of the leaf at key a cleared. -/
def State.unfreeze (s : State) (a : Nat) : State :=
  s.poke (a + 2) [BitVec.ofNat 8 (s.num (a + 2) 1) &&& 0xE3#8]

/-- A die's listed leaves are cleared and its list is empty. -/
def State.dieEpoch (s : State) (d : DieId) : State :=
  ((s.die d).moved.foldl State.unfreeze s).updDie d fun x => { x with moved := [] }

/-- Ticks of `clock` in an epoch of 16 ms (R133, R238). -/
def epochTicks : Nat := 32000000

/-- EPOCH_BOUNDARY: the 16 ms boundary of a module (R133). -/
def execEpochBoundary (m : Nat) (s : State) : Host.Outcome State Fault Refusal :=
  let t := s.updModule m fun x => { x with epochAt := x.epochAt + epochTicks }
  occurs (s.powered m && decide ((s.module m).epochAt ≤ s.clk)) ((List.range 64).foldl (fun t i => t.dieEpoch (m * 64 + i)) t) s

/-! ## Reduction steps (R166, R167) -/

/-- The participants of a window. -/
def RWindow.parts (w : RWindow) : List Nat := (List.range 256).filter fun i => w.mask.getLsbD i

/-- The lowest step that some module has closed and the switch has not merged. -/
def RWindow.first (w : RWindow) : Option Nat :=
  w.closed.foldl (fun b e => match b with | none => some e.1 | some x => some (min x e.1)) none

/-- The operations of a step by ascending module, each module's in the order they left its port. -/
def RWindow.opsOf (w : RWindow) (n : Nat) : List RedOp :=
  let now := w.ops.filter fun o => o.step == n
  (List.range 256).flatMap fun i => now.filter fun o => o.mod == i

/-- One value for each address, operation and width, folded from the left; the first operation's packet carries it. -/
def foldStep : List RedOp → List RedOp → List RedOp
  | acc, [] => acc
  | acc, o :: r =>
    let same (x : RedOp) : Bool := x.va == o.va && x.op == o.op && x.dbl == o.dbl
    if acc.any same then
      foldStep (mapIf same (fun x =>
        { x with v := BitVec.ofNat 64 (amoApply o.op o.dbl x.v.toNat o.v.toNat 0)
                 pkt := { x.pkt with others := x.pkt.others ++ [(o.pkt.launch, o.pkt.lmod)] } }) acc) r
    else foldStep (acc ++ [o]) r

/-- The merged operations leave for their homes in the order of their addresses' first operations. -/
def State.sendMerged (s : State) (m : Nat) (o : RedOp) : State :=
  s.send { o.pkt with va := o.va, kind := .post o.op o.dbl o.v, src := 2 ^ 22 + m, via := [.cxl m], refused := false, ticket := none }

/-- A window being switched off is off once every open step has been merged (R374). -/
def RWindow.settle (w : RWindow) : RWindow :=
  if w.closing && w.ops.isEmpty && w.closed.isEmpty then { w with enable := false, closing := false } else w

/-- Step n of a window is merged. -/
def State.mergeStep (s : State) (m w n : Nat) : State :=
  let x := (s.module m).windows.toList.getD w {}
  let s := (foldStep [] (x.opsOf n)).foldl (fun t o => t.sendMerged m o) s
  s.updWindow m w fun y =>
    { y with ops := y.ops.filter fun o => o.step != n, closed := y.closed.filter fun e => e.1 != n }.settle

/-- REDUCTION_STEP_MERGE: every participant has closed the window's first step (R167). -/
def execReductionStepMerge (m w : Nat) (s : State) : Host.Outcome State Fault Refusal :=
  let x := (s.module m).windows.toList.getD w {}
  match x.first with
  | some n => occurs (s.powered m && x.enable && x.parts.all fun i => decide (n < x.step i)) (s.mergeStep m w n) s
  | none => occurs false s s

/-- The clk of a step's first closure. -/
def RWindow.closedAt (w : RWindow) (n : Nat) : Nat := ((w.closed.find? fun e => e.1 == n).map fun e => e.2.2).getD 0

/-- REDUCTION_STEP_TIMEOUT: 64 µs after the first closure, a participant that has not closed the step is closed by
timer, with event 0x32 (R167). -/
def execReductionStepTimeout (m w part : Nat) (s : State) : Host.Outcome State Fault Refusal :=
  let x := (s.module m).windows.toList.getD w {}
  match x.first with
  | some n =>
    let t := (s.updWindow m w fun y => y.close part s.clk).event (2 ^ 35 + m * 16 + w) (s.supLoc (dmDie x.base)) [0x32, x.base]
    occurs (s.powered m && x.enable && x.parts.contains part && x.step part == n && decide (x.closedAt n + 128000 ≤ s.clk)) t s
  | none => occurs false s s

/-! ## Patrol scrubbing (R362) -/

/-- The home of a doubleword of SRAM or DRAM, by its number. -/
def scrubHome (x : Nat) : Option Home :=
  let a := x * 8
  if 2 ^ 61 ≤ a then none
  else if 2 ^ 60 ≤ a then some (.core ((a - 2 ^ 60) / 2 ^ 22))
  else if a % 2 ^ 35 < partBytes then some (.slice (a / 2 ^ 35) (a % 2 ^ 35 / 1024 % 64))
  else none

/-- PATROL_SCRUB of a doubleword: an uncorrectable one is reported and stays; a single-bit error is corrected, which
no thread sees. -/
def execPatrolScrub (dword : Nat) (s : State) : Host.Outcome State Fault Refusal :=
  match scrubHome dword with
  | some h =>
    occurs (s.powered (homeMod h)) (if s.bad.contains dword then s.eventAt h [0x13, Config.scrubPlace dword] else s) s
  | none => occurs false s s

end Sys2Proof.Machine
end

