-- ==== Sys2Proof/Machine/Gang.lean ====
section
/-! DEFINITION. Gangs, major 0x2B (03_execution R69-R74, 15_isa_threads R284). -/

namespace Sys2Proof.Machine

open Sys2Proof

/-- Width and height in cores of a gang of size code n (R69). -/
def gangShape (n : Nat) : Nat × Nat :=
  match n with | 0 => (2, 1) | 1 => (2, 2) | 2 => (4, 2) | _ => (4, 4)

/-- The rectangle of a size code that holds a core: its south-west corner (R69). -/
def gangCorner (n : Nat) (l : Loc) : Nat × Nat :=
  let (w, h) := gangShape n
  (Loc.x l / w * w, Loc.y l / h * h)

/-- Two rectangles of one die have a core in common. -/
def rectsMeet (x y n x' y' n' : Nat) : Bool :=
  let (w, h) := gangShape n
  let (w', h') := gangShape n'
  overlaps x w x' w' && overlaps y h y' h'

/-- A gang's member position of a core: row-major in its rectangle (R70). -/
def Gang.pos (g : Gang) (l : Loc) : Nat := (Loc.y l - g.y) * (gangShape g.size).1 + (Loc.x l - g.x)

/-- The rectangle is the one that this `gang.form` names. -/
def Gang.sameRect (g : Gang) (d x y n : Nat) : Bool := g.die == d && g.x == x && g.y == y && g.size == n

/-- gang.form: it reserves its rectangle whole, joins a reservation of its launch, or waits (R70, R284).
GANG_FORMATION completes it. -/
def execGangForm (n : BitVec 3) (s : State) : Host.Outcome State Fault Refusal :=
  issue (fun s => anchored s fun _ =>
    match s.my.pend with
    | .got _ => .done s .seq
    | _ =>
      if (s.gangOf s.me).isSome then .trap .gangDiverge 0 0
      else
        let d := Loc.dieId s.cur.loc
        let (x, y) := gangCorner n.toNat s.cur.loc
        let near := s.gangs.filter fun g => g.die == d && rectsMeet g.x g.y g.size x y n.toNat
        let mine (g : Gang) : Bool := !g.formed && g.launch == s.my.launch && g.lmod == s.my.lmod
        if near.any fun g => mine g && g.members.contains s.me then .waitFor (.gang 0)
        else if near.any fun g => mine g && !g.sameRect d x y n.toNat then .trap .gangDiverge 0 0
        else match near with
          | [] =>
            let g : Gang :=
              { id := s.nextId, die := d, x := x, y := y, size := n.toNat, launch := s.my.launch, lmod := s.my.lmod
                members := [s.me] }
            .hold ({ s with gangs := s.gangs ++ [g], nextId := s.nextId + 1 }.updMy fun f => f.waitFor (.gang 0) s.clk)
          | g :: _ =>
            if mine g && g.members.all (fun k => keyLoc k != s.cur.loc) then
              .hold ({ s with gangs := mapIf (fun x => x.id == g.id) (fun x => { x with members := x.members ++ [s.me] }) s.gangs
                     }.updMy fun f => f.waitFor (.gang 0) s.clk)
            else .waitFor (.gang 0)) s

/-- split: the gang is dissolved; outside a gang it does nothing (R72, R284). -/
def execSplit (s : State) : Host.Outcome State Fault Refusal :=
  issue (fun s => anchored s fun _ =>
    match s.gangOf s.me with
    | some g => .after s fun t => t.dissolve g
    | none => .done s .seq) s

end Sys2Proof.Machine
end

