-- ==== Sys2Proof/Machine/Preempt.lean ====
section
/-! DEFINITION. Pre-emption and resumption of a launch, but for what a Pavilion saves (21_system R364, R365, R368). -/

namespace Sys2Proof.Machine

open Sys2Proof

/-- The launch is pre-empted. -/
def State.preempted (s : State) (id : W32) (m : Nat) : Bool :=
  match s.launchOf id m with | some x => x.status == .preempted | none => false

/-- The frames of a launch's threads, handler frames apart. -/
def State.threadsOf (s : State) (id : W32) (m : Nat) : List Nat :=
  (s.frames.filter fun e => e.2.used && e.2.launch == id && e.2.lmod == m && e.1 % 64 != 32).map fun e => e.1

/-- Step 1 of R364 for one thread: it unbinds and keeps its wait state and its trap entry. -/
def State.putAway (s : State) (k : Nat) : State :=
  let l := keyLoc k
  let s := match s.slotOf k with | some n => s.unbind l n | none => s
  let e := (s.core l).trapq.find? fun e => e.frame == keyFrame k
  let s := s.updCore l fun c =>
    { c with fifo := c.fifo.filter (· != keyFrame k), trapq := c.trapq.filter fun e => e.frame != keyFrame k }
  s.updFrame k fun f =>
    { f with away := true, kept := match e with | some e => some e | none => f.kept }

/-- The Pavilions of a launch's region in ascending module-wide number (R366), with their stack in the pod. -/
def LRec.pavilions (r : LRec) (m : Nat) : List Nat :=
  (List.range 16).flatMap fun st =>
    if r.smask.getLsbD st then
      ((List.range 64).filter fun q => decide (r.x0 ≤ q % 8 ∧ q % 8 ≤ r.x1 ∧ r.y0 ≤ q / 8 ∧ q / 8 ≤ r.y1)).map
        fun q => (m * 16 + st) * 64 + q
    else []

/-- A thread as a save record names it (R367): frame, core, die and stack. -/
def threadCode (k : Nat) : Nat := keyFrame k % 32 + keyLoc k % 16384 * 32

/-- A command that stands on a Pavilion's cells: accepted, and neither saved nor completed. -/
def Cmd.onCells (c : Cmd) (p : Nat) : Bool := c.eng == Eng.pavilion p && c.phase != .saved

/-- The quads of a die that are skipped for heat, as of a command boundary: a reading above the threshold in force
skips, and 5 °C below it takes the slab back (R78, R242); not on a die whose sensors have all failed (R370). -/
def Die.skips (d : Die) (q : Nat) : Bool :=
  let t := d.reading.get 0 q
  let hot : Int := 8 * (d.threshold.toNat : Int)
  !d.dfix && (decide (hot < t) || (d.skipped.contains q && decide (hot - 40 < t)))

/-- A command boundary of a Pavilion: each layer's slab is skipped or taken back (R78). -/
def State.boundary (s : State) (p : Nat) : State :=
  (List.range 4).foldl (fun t k => t.updDie (p / 64 * 4 + k) fun d =>
    { d with skipped := (d.skipped.filter (· != p % 64)) ++ (if d.skips (p % 64) then [p % 64] else []) }) s

/-- The active layer mask at a command boundary (R107). -/
def State.activeMask (s : State) (p : Nat) : Nat :=
  let part := (s.module (p / 1024)).part
  let here := (List.range 4).filter fun k => !part.absentLayers.contains (p, k)
  let cool := here.filter fun k => !(s.die (p / 64 * 4 + k)).skips (p % 64)
  match cool, here with
  | [], k :: _ => 2 ^ k
  | l, _ => l.foldl (fun a k => a + 2 ^ k) 0

/-- The order mode of a Pavilion command: its block's, or the launch record's default (R321); once it has begun, that which
it began with (R325). -/
def State.exact (s : State) (c : Cmd) : Bool :=
  let f := numAt c.block 2 2
  if c.begun then c.exact
  else if f.testBit 6 then f.testBit 7
  else match s.launchOf c.launch c.lmod with
    | some x => x.lr.order == 1
    | none => false

/-- The frame key of a thread by its uid. -/
def State.keyOfUid (s : State) (uid : Nat) : Option Nat := (s.frames.find? fun e => e.2.used && e.2.uid == uid).map (·.1)

/-- The answer or the marker that the thread's instruction waits for, or its lane (R254, R301). -/
def Frame.awaits (f : Frame) (k : Nat) (p : Pkt) : Bool :=
  p.key == k && p.uid == f.uid && match f.pend, p.kind with
  | .sent n, .tlbInv m => m == n
  | .sent _, .marker _ => true
  | .sent n, _ => p.id == n
  | .lanes _ _, .lane _ _ _ => true
  | .lanes _ _, .vldf _ _ => true
  | _, _ => false

/-- The thread's slot has an instruction in issue that goes on to its end by itself: it is in no long wait, and what it waits
for is neither parked nor refused (R82, R364). -/
def State.inIssue (s : State) (k : Nat) : Bool :=
  let f := s.frame k
  f.used && (s.slotOf k).isSome && f.wait.isNone && f.pend != .idle &&
    !(s.parkedPkts.any fun p => f.awaits k p) && !(s.net.any fun p => f.awaits k p && p.refused)

/-- Step 1 of R364: the launch's threads are put away, all but one and those whose instruction completes first. -/
def State.putAllAway (s : State) (x : Launch) (keep : Nat) : State :=
  (s.threadsOf x.id x.mod).foldl (fun t k => if k = keep || (t.frame k).away || t.inIssue k then t else t.putAway k) s

/-- Step 1 of R364 is done for every thread but one. -/
def State.allAway (s : State) (x : Launch) (keep : Nat) : Bool :=
  (s.threadsOf x.id x.mod).all fun k => k == keep || (s.frame k).away

/-- Steps 1 and 2 of R364: the launch is frozen, and its threads are put away as they come to the end of an instruction. -/
def State.freeze (s : State) (x : Launch) (keep : Nat) : State :=
  (s.updLaunch x.id x.mod fun y => { y with status := .preempted }).putAllAway x keep

/-- R368 for one thread: it is resident and ready again, in the trap queue when it had trapped. One that is parked, or whose
packet is on its way to another core, is not ready (R49, R126). -/
def State.bringBack (s : State) (k : Nat) : State :=
  let f := s.frame k
  let s := s.updFrame k fun f => { f with away := false, kept := none }
  match f.kept with
  | some e => s.queueTrap (keyLoc k) e
  | none =>
    match f.wait, f.pend with
    | some (.parked _ _), _ => s
    | some (.depart _ _), .sent _ => s
    | some (.displaced _ _ _), .sent _ => s
    | _, _ => s.ready k

/-- R368: for a saved lease the recorded pusher waits ahead of its equals, and a free lease is granted. -/
def State.restoreLease (s : State) (e : Nat × Nat × Nat) : State :=
  match s.keyOfUid e.2.1 with
  | some k =>
    (s.updLease e.1 fun x =>
      { x with waiters := if x.waiters.contains k then x.waiters else x.waiters ++ [k]
               saved := x.saved ++ [(e.2.1, e.2.2)] }).grant e.1
  | none => s

/-- R368: the launch goes on. Each core replays the packets that it caught, in order and ahead of new arrivals, and a free
lease that its threads wait for is granted. -/
def State.thaw (s : State) (x : Launch) : State :=
  let s := s.updLaunch x.id x.mod fun y => { y with status := .running, saved := [] }
  let s := (s.threadsOf x.id x.mod).foldl (fun t k => if (t.frame k).away then t.bringBack k else t) s
  let mine (p : Pkt) : Bool := p.launch == x.id && p.lmod == x.mod
  let rings := (s.cores.filter fun (e : Nat × Core) => e.2.nispill.any mine).map fun e => (e.1, s.nispill e.1)
  let caught := rings.flatMap fun e => e.2.filter mine
  let s := rings.foldl (fun t e => t.setNispill e.1 (e.2.filter fun p => !mine p)) s
  let s := { s with
    net := (caught.map fun p => { p with replay := true }) ++ s.net
    pushes := mapIf (fun q => q.held && q.launch == x.id && q.lmod == x.mod) (fun q => { q with held := false }) s.pushes }
  let s := x.saved.foldl State.restoreLease s
  s.leases.foldl (fun t e => t.grant e.1) s

end Sys2Proof.Machine
end

