-- ==== Sys2Proof/Machine/Thr.lean ====
section
/-! DEFINITION. Work: spawn, exit, join, next, launch and dependent tasks, major 0x23 (15_isa_threads R264-R272,
03_execution R59-R68). -/

namespace Sys2Proof.Machine

open Sys2Proof

/-! ## spawn (R60, R65, R265) -/

/-- R65: the call in place of a spawn that finds deque and overflow full. -/
def inlineSpawn (s : State) (pc a0 a1 : Word) : Eff :=
  if 2 ^ 20 - 1 ≤ s.my.inld then .trap .protection 0 0
  else if !(s.canWriteG 1 && s.canWriteG 2 && s.canWriteG 15) then .wait
  else
    .done (s.updMy fun f =>
      (((f.setT 41 20 (f.inld + 1)).setG 15 (f.pc + 4)).setG 1 a0).setG 2 a1) (.at pc)

/-- Room in the core's deque and overflow area (R60). -/
def State.dequeRoom (s : State) : Bool := decide ((s.core s.cur.loc).deque.length < 64 + 1024)

/-- The entry of a spawn enters at the bottom of the deque and the outstanding count goes up (R60, R62). -/
def State.pushTask (s : State) (t : Task) : State :=
  let s := s.setDeque s.cur.loc (s.deque s.cur.loc ++ [t])
  (s.countUp t.launch t.lmod).wakeNext t.launch t.lmod

/-- The entry that a spawn of the thread in issue forms (R59): IDEM from the launch's flag. -/
def State.spawnTask (s : State) (anch : Bool) (pc jc a0 a1 : Word) : Task :=
  let f := s.my
  let idem := match s.launchOf f.launch f.lmod with | some l => bitsOf l.lr.flags 0 1 == 1 | none => false
  { pc := pc, idem := idem, anch := anch, jc := jc, a0 := a0, a1 := a1, launch := f.launch, lmod := f.lmod
    src := s.cur.loc, seq := s.nextId }

/-- The increment of the join cell, and the push after it (R265). -/
def spawnCounted (s : State) (t : Task) : Eff :=
  pending s
    (drained s fun s =>
      if !s.myStoresDone then .wait
      else if t.jc = 0 then .done (s.pushTask t) .seq
      else route s t.jc 8 .ret false fun h =>
        if h = .core s.cur.loc then
          if !s.myTurn then .wait else checkOwn s t.jc 8 true fun s p _ =>
            if s.isBad p 8 then .trap .uncorrectable t.jc 0
            else .done (((s.addPath h).writeAt h t.jc p (bytesOf 8 (s.num p 8 + 1))).pushTask t) .seq
        else ask (s.addPath h) .joinInc h t.jc)
    fun a s => match a with
      | .fail c va => .trap c va 0
      | _ => .done (s.pushTask t) .seq

/-- spawn and spawna (R265). The sources are read in the order of R183. -/
def spawnOp (s : State) (anch : Bool) (d a b : Reg) : Eff :=
  match b with
  | .g n =>
    src s a false fun jc s => src s b false fun a0 s => src s (.g (n + 1)) false fun a1 s => src s d false fun pc s =>
      if pc = 0 ∨ pc.toNat % 4 ≠ 0 then .trap .misaligned pc 0
      else if jc ≠ 0 ∧ spaceOf jc ≠ .ls then .trap .protection jc 0
      else if s.my.pend = .idle && !s.dequeRoom then drained s fun s => inlineSpawn s pc a0 a1
      else spawnCounted s (s.spawnTask anch pc jc a0 a1)
  | _ => .trap .reservedField 0 0

/-- spawn (R265). -/
def execSpawn (d a b : Reg) (s : State) : Host.Outcome State Fault Refusal := issue (fun s => spawnOp s false d a b) s

/-- spawna: the entry cannot be stolen (R59, R265). -/
def execSpawna (d a b : Reg) (s : State) : Host.Outcome State Fault Refusal := issue (fun s => spawnOp s true d a b) s

/-! ## next and exit (R63, R64, R267, R270) -/

/-- What a failed check of a task record does to the thread that makes the access (R254, R386). -/
def taskStop (s : State) (va : Word) (write : Bool) : HRes → Eff
  | .park r b n => .hold (s.parkThread s.me false (.core s.cur.loc) r b n va { write := write, user := !s.my.priv })
  | .area => .trap .protection va 0
  | .isol => .trap .remoteDenied va 0
  | .lock => .trap .rangeLocked va 0
  | .wait => .wait
  | _ => .trap .translation va 0

/-- One scan of `next`: the task found goes to `k`, a count of zero to `none`. -/
def takeTask (s : State) (none : State → Eff) (k : Task → State → Eff) : Eff :=
  match s.search s.cur.loc s.my.actor s.spared with
  | (s, .task t) => k t s
  | (s, .over) => none s
  | (s, .nothing) => .hold (s.updMy fun f => f.waitFor .next s.clk)
  | (s, .check va r) => taskStop s va false r
  | (_, .bad va) => .trap .uncorrectable va 0

/-- next (R63, R64, R270). An entry that NEXT_RESCAN took for the waiting thread comes as its answer. -/
def execNext (d : Reg) (s : State) : Host.Outcome State Fault Refusal :=
  issue (fun s =>
    let start (t : Task) (s : State) : Eff := put s d 1 fun s => .done (s.become s.me t) (.at t.pc)
    let zero (s : State) : Eff := put s d 0 fun s => .done s .seq
    if !(s.canLoad (Reg.num d) && s.canWriteG 1 && s.canWriteG 2) then .wait
    else pending s (takeTask s zero start) fun a s =>
      match a, s.my.task with
      | .val 1, some t => start t s
      | .fail c va, _ => .trap c va 0
      | _, _ => zero s) s

/-- Every engine command that the thread pushed has completed (R267 step 3). -/
def PortSt.quiet (p : PortSt) : Bool := p.opened == p.words.length
/-- Nothing of the thread is on its way: registers full, vector results arrived, commands completed. -/
def Frame.settled (f : Frame) : Bool :=
  f.full == BitVec.allOnes 16 && f.vbusy == 0 && f.pav.quiet && f.cpy.quiet && f.gln.quiet && f.trl.quiet

/-- Completion words left unpopped are discarded (R267 step 3). -/
def PortSt.discard (p : PortSt) : PortSt := { p with opened := p.opened - p.words.length, words := [] }
/-- The same for every engine port of a thread. -/
def Frame.discard (f : Frame) : Frame :=
  { f with pav := f.pav.discard, cpy := f.cpy.discard, gln := f.gln.discard, trl := f.trl.discard }

/-- Steps 5 to 7 of R267, with the words of step 3 discarded. An `exit` that has to wait or to park at step 7 keeps what steps
5 and 6 have done; one that traps there at once has no effect (R11; log entry 100). -/
def exitTask (s : State) : Eff :=
  let s := ((s.updMy Frame.discard).freeLease (Loc.pav s.cur.loc) s.my.uid).taskEnd s.me
  if s.my.worker then takeTask s (fun s => .gone (s.threadEnd s.me)) fun t s => .done (s.become s.me t) (.at t.pc)
  else .gone (s.threadEnd s.me)

/-- Step 6 of R267 checks the join cell as a posted operation: by R253, and at the issuing core by R254. -/
def exitChecked (s : State) : Eff :=
  let jc := s.my.jcell
  if jc = 0 then exitTask s
  else if spaceOf jc ≠ .ls then .trap .protection jc 0
  else route s jc 8 .post false fun h =>
    if h = .core s.cur.loc then checkOwn s jc 8 true fun s _ _ => exitTask s else exitTask s

/-- exit (R267). -/
def execExit (s : State) : Host.Outcome State Fault Refusal :=
  issue (fun s =>
    match s.my.pend with
    | .got (.val v) =>
      match v, s.my.task with
      | 1, some t => .done (s.become s.me t) (.at t.pc)
      | _, _ => .gone (s.threadEnd s.me)
    | .got (.fail c va) => .trap c va 0
    | _ =>
      if s.my.inld ≠ 0 then
        src s (.g 15) false fun x s =>
          if x.toNat % 4 ≠ 0 then .trap .misaligned x 0
          else .done (s.updMy fun f => f.setT 41 20 (f.inld - 1)) (.at x)
      else
        match s.gangOf s.me with
        | some g => .hold (s.dissolve g)
        | none => if s.my.settled then drained s exitChecked else .wait) s

/-! ## join (R61, R268) -/

/-- join: it polls its own core at issue, after the thread's own stores over the cell; the poll at another core is JOIN_COMPLETE's (R268). -/
def execJoin (a : Reg) (s : State) : Host.Outcome State Fault Refusal :=
  issue (fun s =>
    pending s
      (src s a false fun va s =>
        if !vaBad va && va.toNat % 8 == 0 && spaceOf va != .ls then .trap .protection va 0
        else route s va 8 .ret false fun h =>
          if h = .core s.cur.loc then
            checkOwn s va 8 false fun s p _ =>
              if s.forwarded va 8 (some p) != .none then s.partly va 8 (some p)
              else if !s.myTurn then .wait
              else if !s.isBad p 8 && s.num p 8 == 0 then .done s .seq else .hold (s.updMy fun f => f.waitFor (.join va) s.clk)
          else .waitFor (.join va))
      fun a s => match a with
        | .fail c va => .trap c va 0
        | _ => .done s .seq) s

/-! ## yield and sleep (R269) -/

/-- The trap queue's head, or the head of the frame-ready FIFO, takes an empty slot (R44, R356). -/
def State.refill (s : State) (l : Loc) (n : Nat) : State :=
  let c := s.core l
  match c.trapq, c.serving, c.fifo with
  | e :: r, none, _ => (s.updCore l fun c => { c with trapq := r }).enter l n e
  | _, _, f :: r => (s.updCore l fun c => { c with fifo := r }).bind l n f
  | _, _, [] => s

/-- R269: with a thread in the frame-ready FIFO, the slot goes to its head and the issuer to its tail. -/
def State.yieldSlot (s : State) : State :=
  let l := s.cur.loc
  if s.cur.frame = 32 ∨ (s.core l).fifo.isEmpty then s
  else ((s.unbind l s.cur.slot).ready s.me).refill l s.cur.slot

/-- yield (R269). -/
def execYield (s : State) : Host.Outcome State Fault Refusal := issue (fun s => .after s State.yieldSlot) s

/-- sleep: g[A][47:0] ticks of `clock` (R269). -/
def execSleep (a : Reg) (s : State) : Host.Outcome State Fault Refusal :=
  issue (fun s => src s a false fun x s =>
    let n := fieldOf x 0 48
    match s.my.wait with
    | some (.sleep till) => if till ≤ s.clk then .done s .seq else .wait
    | _ => if n = 0 then .after s State.yieldSlot else .waitFor (.sleep (s.clk + n))) s

/-! ## launch (R54, R271) -/

/-- launch: the record is read as one request, checked at issue when the issuing core homes it (R254), and the answer is
R54's status (R271). An idempotent task's stores drain first (log entry 93). -/
def execLaunch (d a : Reg) (s : State) : Host.Outcome State Fault Refusal :=
  issue (fun s =>
    pending s
      (src s a false fun va s =>
        if !vaBad va && va.toNat % 128 == 0 && spaceOf va == .host then .trap .protection va 0
        else route s va 128 .ret false fun h =>
          if spaceOf va == .ls && !s.myRegion (lsOwner va) then .trap .remoteDenied va 0
          else drained s fun s =>
            let go (s : State) : Eff := if !s.myStoresDone || !s.canLoad (Reg.num d) then .wait else ask s .record h va
            if h = .core s.cur.loc then checkOwn s va 128 false fun s _ _ => go s else go s)
      fun a s => deliver s d a) s

/-! ## Dependent tasks (R67, R272, R386) -/

/-- The checks of R272 on the record's address, then the routing. -/
def taskRoute (s : State) (va : Word) (how : How) (k : Home → Eff) : Eff :=
  if !vaBad va && spaceOf va != .ls then .trap .protection va 0 else route s va 64 how false k

/-- task.dec (R272): at the issuing core at once, elsewhere by a request. -/
def execTaskDec (d a : Reg) (s : State) : Host.Outcome State Fault Refusal :=
  issue (fun s =>
    pending s
      (src s a false fun va s => taskRoute s va .ret fun h =>
        drained s fun s =>
          if !s.myStoresDone || !s.canLoad (Reg.num d) then .wait
          else if h = .core s.cur.loc && !s.myTurn then .wait
          else if h = .core s.cur.loc then
            match s.decrement s.cur.loc s.my.actor va with
            | (s, .done n) => put ((s.addPath h).wakeNext s.my.launch s.my.lmod) d (BitVec.ofNat 64 n) fun s => .done s .seq
            | (_, .underflow) => .trap .depUnderflow va 0
            | (_, .bad) => .trap .uncorrectable va 0
            | (s, .check v r) => taskStop s v true r
          else ask ((s.addPath h).countUp s.my.launch s.my.lmod) (.taskDec true) h va)
      fun a s => deliver s d a) s

/-- task.decp: posted; at the issuing core it is checked at issue (R254, R272). -/
def execTaskDecp (a : Reg) (s : State) : Host.Outcome State Fault Refusal :=
  issue (fun s => src s a false fun va s => taskRoute s va .post fun h =>
    drained s fun s =>
      let go (s : State) : Eff :=
        .done (((s.addPath h).countUp s.my.launch s.my.lmod).send (s.mkPkt (.taskDec false) h va)) .seq
      if h = .core s.cur.loc then checkOwn s va 64 true fun s _ _ => go s else go s) s

end Sys2Proof.Machine
end

