-- ==== Sys2Proof/Machine/Sched.lean ====
section
/-! DEFINITION. The steps of threads, slots and frames beside their instructions: migration, binding and unbinding, the
trap queue, waits that end, gangs that form, barrier phases and lease re-arbitration (03_execution R44-R52, R63, R70,
R80; 15_isa_threads R268-R274, R279, R284; 21_system R356, R365). -/

namespace Sys2Proof.Machine

open Sys2Proof

/-! ## Arrival (R40, R48-R50, R129, R365) -/

/-- The frame that a displacement packet takes. -/
def Pkt.takes (p : Pkt) : Option Nat :=
  match p.home, p.kind with
  | .core l, .displace _ n => some (keyOf l n)
  | _, _ => none

/-- The frame that a thread which is to be displaced has reserved. -/
def Frame.takes (f : Frame) : Option Nat :=
  match f.wait with
  | some (.displaced l _ (some n)) => if f.used then some (keyOf l n) else none
  | _ => none

/-- The frames that anchored displacements have reserved (R76). -/
def State.reserved (s : State) : List Nat :=
  s.net.filterMap Pkt.takes ++ s.frames.filterMap (fun e => e.2.takes) ++
    s.cores.flatMap fun e => e.2.nispill.filterMap Pkt.takes

/-- The lowest-numbered free frame of a core, apart from those reserved. -/
def State.freeBut (s : State) (taken : List Nat) (l : Loc) : Option Nat :=
  (List.range 32).find? fun f => !(s.frame (keyOf l f)).used && !taken.contains (keyOf l f)

/-- The lowest-numbered free frame of a core (R48). -/
def State.freeFrame (s : State) (l : Loc) : Option Nat := s.freeBut s.reserved l

/-- R50: X, Y, X, Y within 64 instructions pins the thread to the pair and clears the history. -/
def Frame.autoPin (f : Frame) : Frame :=
  match f.hist with
  | [a, b, c, d] =>
    if a.1 = c.1 ∧ b.1 = d.1 ∧ a.1 ≠ b.1 ∧ d.2.toNat ≤ 64 then
      { (f.setT 5 1 1).setT 6 9 256 with hist := [], pinOther := some b.1, pinDue := false }
    else f
  | _ => f

/-- Sums that stop at the greatest value. -/
def satAdd (w : Nat) (x : BitVec w) (n : Nat) : BitVec w := BitVec.ofNat w (min (x.toNat + n) (2 ^ w - 1))

/-- The core is retired, and a packet for it is redirected to its spare (R21). -/
def State.retired (s : State) (l : Loc) : Bool := (s.module (Loc.module l)).part.failedCores.contains l

/-- The arriving thread as frame f of core l holds it; a light thread carries no vector part (R41, R46). -/
def Frame.landed (fr old : Frame) (l : Loc) (extra now : Nat) : Frame :=
  let x := { fr with hops := satAdd 16 fr.hops extra, hist := ((l, 0) :: fr.hist).take 4, used := true
                     since := now, away := false }
  (if fr.anch then x else { x with v := old.v, m := old.m, vbusy := 0 }).autoPin

/-- A frame is freed without the end of its thread (R47). -/
def Frame.vacate (f : Frame) : Frame :=
  { f.settle with used := false, wait := none, pend := .idle, task := none, kept := none, away := false, shed := false }

/-- The sender's frame still holds the travelling thread. -/
def State.heldBy (s : State) (p : Pkt) : Bool :=
  (s.frame p.key).used && (s.frame p.key).uid == p.uid && (s.frame p.key).pend == .sent p.id

/-- R47: the sender frees the frame once the owner has accepted the packet. -/
def State.freeSender (s : State) (p : Pkt) : State :=
  if s.heldBy p then s.updFrame p.key Frame.vacate else s

/-- A ticket is given back when its packet is accepted (R49). -/
def State.useTicket (s : State) (l : Loc) (p : Pkt) : State :=
  match p.ticket with
  | some t => s.updCore l fun c => { c with tickets := c.tickets.filter (· != t) }
  | none => s

/-- R129: a thread that arrives at a fallow core parks there; any other is ready (R44), unless its launch is
pre-empted (R364). -/
def State.land (s : State) (l : Loc) (f : Nat) (va : Word) : State :=
  let k := keyOf l f
  let s := s.updFrame k fun x => { x with away := s.preempted x.launch x.lmod }
  if (s.core l).fallow then
    let user := !(s.frame k).priv
    match s.park (.core l) .fallow (va.toNat / 65536 * 65536) 65536 (.thread k) va { user := user } (s.frame k).launch (s.frame k).lmod with
    | some s => s.updFrame k fun x => { x with wait := some (.parked (.core l) va) }
    | none => s
  else s.ready k

/-- The thread takes frame f. -/
def State.takeFrame (s : State) (l : Loc) (f : Nat) (p : Pkt) (fr : Frame) : State :=
  let s := (s.freeSender p).useTicket l p
  let k := keyOf l f
  (s.setFrame k (fr.landed (s.frame k) l (if s.retired l then 1 else 0) s.clk)).land l f p.va

/-- A thread packet is refused: it gets a ticket if it holds none, and is retried in 64 clk (R49). -/
def State.nack (s : State) (l : Loc) (p : Pkt) : State × Option Pkt :=
  match p.ticket with
  | some _ => (s, some { p with refused := true, retryAt := s.clk + 64, replay := false })
  | none =>
    let t := (s.core l).ticketNext
    (s.updCore l fun c => { c with ticketNext := t + 1, tickets := c.tickets ++ [t] },
      some { p with refused := true, retryAt := s.clk + 64, ticket := some t, replay := false })

/-- Only the packet with the oldest outstanding ticket enters while tickets are out (R49). -/
def State.mayEnter (s : State) (l : Loc) (p : Pkt) : Bool :=
  match p.ticket, (s.core l).tickets with
  | _, [] => true
  | some t, u :: _ => t == u
  | none, _ :: _ => false

/-- R365: a packet for a pre-empted launch is caught into the NI spill ring. -/
def State.catchPkt (s : State) (l : Loc) (p : Pkt) : State × Option Pkt :=
  let used := ((s.core l).nispill.map Pkt.room).sum
  if used + p.room ≤ 1024 && s.mayEnter l p then
    let s := (s.freeSender p).useTicket l p
    (s.setNispill l (s.nispill l ++ [{ p with refused := false, ticket := none }]), none)
  else s.nack l p

/-- R40, R115: the travelling thread is returned to its sender and traps there. -/
def State.returnThread (s : State) (p : Pkt) (c : Cause) : State :=
  if s.heldBy p then
    (s.updFrame p.key fun f => { f with wait := none, pend := .idle }.settle).raiseAt p.key c p.va 0
  else s

/-- A thread packet goes back to its sender, and its ticket to the owner (R49, R81). -/
def State.giveBack (s : State) (p : Pkt) (c : Cause) : State :=
  match p.home with
  | .core l => (s.useTicket l p).returnThread p c
  | _ => s.returnThread p c

/-- R48, R49: a migrating thread takes a free frame when the spill ring is empty, else the tail of the ring; with the
ring full, or tickets out that are older than its own, it is refused. -/
def State.takeIn (s : State) (l : Loc) (p : Pkt) (fr : Frame) : State × Option Pkt :=
  let spill := (s.core l).spill
  if !s.mayEnter l p then s.nack l p
  else
    match spill, s.freeFrame l with
    | [], some f => (s.takeFrame l f p fr, none)
    | _, _ =>
      if spill.length < 1024 then
        let s := (s.freeSender p).useTicket l p
        (s.setSpill l (s.spill l ++ [{ p with ticket := none, replay := false }]), none)
      else s.nack l p

/-- A thread's packet reaches its core. -/
def State.arrive (s : State) (p : Pkt) : State × Option Pkt :=
  match p.home with
  | .core l =>
    if s.isolRefuses p.user p.launch p.lmod l then (s.giveBack p .remoteDenied, none)
    else if s.preempted p.launch p.lmod then s.catchPkt l p
    else if (s.core l).fallow && (freeIndex (s.home (.core l)).faults).isNone then
      (s, some { p with refused := true, retryAt := s.clk + 64, replay := false })
    else
      match p.kind with
      | .displace fr f => (s.takeFrame l f p fr, none)
      | .migrate fr => s.takeIn l p fr
      | _ => (s, none)
  | _ => (s, none)

/-- The packet carries a thread. -/
def PKind.isThread : PKind → Bool
  | .migrate _ => true | .displace _ _ => true | _ => false

/-- A thread packet in flight arrives when due. -/
def arrivalAt (k : Nat) (due : Pkt → Bool) (s : State) : Host.Outcome State Fault Refusal :=
  match s.pkt k with
  | some p =>
    let r := (s.dropPkt k).arrive { p with refused := false }
    occurs (p.kind.isThread && s.reaches p && s.replayTurn k p && due p) (r.1.keepPkt k r.2) s
  | none => occurs false s s

/-- MIGRATION_ARRIVAL (R48). -/
def execMigrationArrival (k : Nat) (s : State) : Host.Outcome State Fault Refusal := arrivalAt k (fun p => !p.refused) s

/-- MIGRATION_RETRY (R49). -/
def execMigrationRetry (k : Nat) (s : State) : Host.Outcome State Fault Refusal :=
  arrivalAt k (fun p => p.refused && decide (p.retryAt ≤ s.clk)) s

/-- SPILL_RING_TAKE_FRAME: a freed frame takes the head of the ring (R48). -/
def execSpillRingTakeFrame (loc : Nat) (s : State) : Host.Outcome State Fault Refusal :=
  match s.spill loc, s.freeFrame loc with
  | p :: r, some f =>
    match p.kind with
    | .migrate fr =>
      let t := s.setSpill loc r
      occurs (!((s.core loc).fallow && (freeIndex (s.home (.core loc)).faults).isNone)) (t.takeFrame loc f p fr) s
    | _ => occurs false s s
  | _, _ => occurs false s s

/-! ## Departure (R46, R47, R263) -/

/-- The thread as it travels: a `go` retires before it leaves, and an automatic pin has ended (R51). -/
def Frame.leaving (f : Frame) (isGo : Bool) : Frame :=
  let x := if isGo then { f.tick false false with pc := f.pc + 4 } else f
  { (x.expire.setT 5 1 0).setT 6 9 0 with
    hops := satAdd 16 f.hops 1, wait := none, pend := .idle, path := [], pathDies := [], pinOther := none, shed := false }

/-- The thread is between two instructions, or waits in a `bar.sync` that has done its arrival (R76, R274). -/
def Frame.between (f : Frame) : Bool :=
  match f.pend, f.wait with
  | .idle, _ => true
  | .got _, some (.bar _ _) => true
  | .got _, some (.displaced _ _ _) => true
  | _, _ => false

/-- Every load of the thread has returned, every store is performed and every Gleaner command completed (R47, R161). -/
def State.mayLeave (s : State) (k : Nat) : Bool :=
  let f := s.frame k
  f.used && !f.away && f.full == BitVec.allOnes 16 && f.vbusy == 0 && f.gln.quiet && f.between
    && s.loadsBack f.uid s.nextId && s.storesDone (keyLoc k) f.uid s.nextId .sys

/-- A thread leaves its slot as a packet, and its frame is held until the packet is accepted (R47). -/
def State.setOut (s : State) (k : Nat) (kind : PKind) (dest : Loc) (va : Word) : State :=
  let x := s.frame k
  let l := keyLoc k
  let p : Pkt :=
    { id := s.nextId, kind := kind, src := l, key := k, uid := x.uid, user := !x.priv, launch := x.launch
      lmod := x.lmod, home := .core dest, va := va }
  let t := match s.slotOf k with | some n => s.unbind l n | none => s
  (t.send p).updFrame k fun f => { f with pend := .sent s.nextId }

/-- A displaced thread as it travels; a `sleep` goes on, and so does a `bar.sync` that has arrived (R76). -/
def Frame.displacedFrame (f : Frame) (till : Option Nat) : Frame :=
  { f.expire with hops := satAdd 16 f.hops 1, wait := till.map Wait.sleep, path := [], pathDies := [], shed := false }

/-- A displaced thread leaves: a light one as a migration, an anchored one into the frame reserved for it (R76). -/
def State.displace (s : State) (k : Nat) (dest : Loc) (till frame : Option Nat) : State :=
  let va : Word := BitVec.ofNat 64 (2 ^ 55 + dest * 2 ^ 33)
  let fr := (s.frame k).displacedFrame till
  s.setOut k (match frame with | some n => .displace fr n | none => .migrate fr) dest va

/-- DEPARTURE: a thread that waits to depart, or that R76 displaces, leaves; an idempotent task's stores drain first
(R47, R68, R76). -/
def execDeparture (loc f : Nat) (s : State) : Host.Outcome State Fault Refusal :=
  let k := keyOf loc f
  let x := s.frame k
  match x.wait with
  | some (.depart va isGo) =>
    if x.idem then occurs x.used (s.drain k) s
    else occurs (s.mayLeave k) (s.setOut k (.migrate (x.leaving isGo)) (lsOwner va) va) s
  | some (.displaced dest till frame) =>
    if x.idem then occurs x.used (s.drain k) s else occurs (s.mayLeave k) (s.displace k dest till frame) s
  | _ => occurs false s s

/-! ## Slots (R43, R44, R356) -/

/-- The lowest-numbered empty enabled slot (log entry 88); a fallow core has every slot disabled (R129). -/
def Core.emptySlot (c : Core) : Option Nat :=
  if c.fallow then none else (List.range 8).find? fun n => (c.slot n).enabled && (c.slot n).bound.isNone

/-- The head of the trap queue waits for a slot (R356). -/
def State.trapWaits (s : State) (l : Loc) : Bool :=
  !(s.core l).trapq.isEmpty && (s.core l).serving.isNone && !(s.frame (keyOf l 32)).used

/-- FRAME_READY_BIND: an empty enabled slot binds the head of the frame-ready FIFO (R44). -/
def execFrameReadyBind (loc : Nat) (s : State) : Host.Outcome State Fault Refusal :=
  match (s.core loc).emptySlot, (s.core loc).fifo with
  | some n, f :: r => occurs (!s.trapWaits loc) ((s.updCore loc fun c => { c with fifo := r }).bind loc n f) s
  | _, _ => occurs false s s

/-- TRAP_QUEUE_ENTRY: the head of the trap queue enters the free handler frame on an empty enabled slot (R356). -/
def execTrapQueueEntry (loc slot : Nat) (s : State) : Host.Outcome State Fault Refusal :=
  match (s.core loc).trapq with
  | e :: r =>
    let x := (s.core loc).slot slot
    let ok := x.enabled && x.bound.isNone && decide (slot < 8) && !(s.core loc).fallow
    occurs (s.trapWaits loc && ok) ((s.updCore loc fun c => { c with trapq := r }).enter loc slot e) s
  | [] => occurs false s s

/-- The wait of a `sleep` has run out (R269). -/
def Frame.slept (f : Frame) (now : Nat) : Bool :=
  match f.wait with | some (.sleep t) => decide (t ≤ now) | _ => false

/-- LONG_WAIT_UNBIND: a slot whose thread has been in a long wait for 64 clk is unbound (R44). -/
def execLongWaitUnbind (loc slot : Nat) (s : State) : Host.Outcome State Fault Refusal :=
  match ((s.core loc).slot slot).bound with
  | some f =>
    let x := s.frame (keyOf loc f)
    occurs (x.wait.isSome && decide (x.since + 64 ≤ s.clk) && !x.slept s.clk) (s.unbind loc slot) s
  | none => occurs false s s

/-- PIN_EXPIRY: PINLEFT has reached 0 from 1, so PIN clears (R50). -/
def execPinExpiry (loc f : Nat) (s : State) : Host.Outcome State Fault Refusal :=
  let k := keyOf loc f
  occurs ((s.frame k).used && (s.frame k).pinDue) (s.updFrame k Frame.pinExpire) s

/-- A repeat frame ends in a thread, and its captured words go from the slot (R234). -/
def State.endRepeat (s : State) (k : Nat) : State :=
  let t := s.updFrame k Frame.frameEnd
  match s.slotOf k with
  | some n => t.updSlot (keyLoc k) n fun x => { x with rf := none }
  | none => t

/-- REPEAT_FRAME_END (R234). -/
def execRepeatFrameEnd (loc f : Nat) (s : State) : Host.Outcome State Fault Refusal :=
  let k := keyOf loc f
  occurs ((s.frame k).used && (s.frame k).rfDue) (s.endRepeat k) s

/-! ## Waits that end -/

/-- SLEEP_EXPIRY (R269). -/
def execSleepExpiry (loc f : Nat) (s : State) : Host.Outcome State Fault Refusal :=
  let k := keyOf loc f
  let x := s.frame k
  occurs (x.used && x.slept s.clk && !(s.core loc).fifo.contains f && (s.slotOf k).isNone) (s.ready k) s

/-- The thread's wait ends with an answer. -/
def State.endWait (s : State) (k : Nat) (a : Ans) : State :=
  (s.updFrame k fun f => { f with wait := none, pend := .got a }).ready k

/-- A read that a waiting `join` makes at another core (R268). -/
def State.pollPkt (s : State) (k : Nat) (va : Word) : Pkt :=
  let f := s.frame k
  { id := s.nextId, kind := .load 8 false none none, src := keyLoc k, key := k, uid := f.uid, user := !f.priv
    launch := f.launch, lmod := f.lmod, home := .core (lsOwner va), va := va }

/-- A poll of this thread is parked at the home (R126). -/
def State.pollParked (s : State) (k : Nat) (va : Word) : Bool :=
  (s.home (.core (lsOwner va))).faults.any fun e => match e.item with
    | .request p => p.key == k && p.va == va && match p.kind with | .load _ _ none _ => true | _ => false
    | _ => false

/-- One poll of a join cell: what it leaves, and whether anything came about. -/
def State.poll (s : State) (k : Nat) (va : Word) : State × Bool :=
  let p := s.pollPkt k va
  if lsOwner va = keyLoc k then
    match s.check (p.req 8 false) with
    | (t, .ok a _ _ _) =>
      if !t.isBad a 8 && t.num a 8 == 0 then ((t.updFrame k Frame.awake).ready k, true) else (s, false)
    | (_, _) => ((s.updFrame k Frame.awake).ready k, true)
  else if !s.reaches p then (s.failPkt p .lost va, true)
  else
    match s.check (p.req 8 false) with
    | (t, .ok a _ _ _) => if !t.isBad a 8 && t.num a 8 == 0 then (t.endWait k (.val 0), true) else (s, false)
    | (t, r) =>
      match t.stopPkt p va r with
      | (u, none) => ({ u with nextId := u.nextId + 1 }, true)
      | (_, some _) => (s, false)

/-- JOIN_COMPLETE: the cell is read at its home, after the thread's own stores over it; at zero the wait is over (R61, R150,
R268). A poll that faults parks
as a data-return request, and the join goes on waiting. -/
def execJoinComplete (loc f : Nat) (s : State) : Host.Outcome State Fault Refusal :=
  let k := keyOf loc f
  let x := s.frame k
  match x.wait with
  | some (.join va) =>
    let (t, moved) := s.poll k va
    let mine := s.net.all fun q => !(q.kind.isRequest && q.uid == x.uid && q.home == .core (lsOwner va))
    let own := if lsOwner va = loc then s.physOf (.core loc) va else none
    let stored := (s.core loc).forwarded x.uid va 8 own != .none
    occurs (x.used && x.pend == .idle && mine && !stored && !s.pollParked k va && moved) t s
  | _ => occurs false s s

/-- A rescan of `next` or of a worker's `exit` for the waiting thread of frame k (R63, R386). One that traps leaves nothing
of the search, while steps 5 and 6 of an `exit` stay done (R11, R64, R267; log entry 100). -/
def State.rescan (s : State) (k : Nat) : State × Bool :=
  let l := keyLoc k
  let f := s.frame k
  match s.search l f.actor [] with
  | (t, .task x) => ((t.updFrame k fun f => { f with task := some x }).endWait k (.val 1), true)
  | (t, .over) => ((t.updFrame k fun f => { f with task := none }).endWait k (.val 0), true)
  | (_, .nothing) => (s, false)
  | (t, .check va (.park r b n)) => (t.parkThread k false (.core l) r b n va { user := !f.priv }, true)
  | (_, .check va .area) => (s.raiseAt k .protection va 0, true)
  | (_, .check va .isol) => (s.raiseAt k .remoteDenied va 0, true)
  | (_, .check va .lock) => (s.raiseAt k .rangeLocked va 0, true)
  | (_, .check va _) => (s.raiseAt k .translation va 0, true)
  | (_, .bad va) => (s.raiseAt k .uncorrectable va 0, true)

/-- NEXT_RESCAN (R63, R270). -/
def execNextRescan (loc f : Nat) (s : State) : Host.Outcome State Fault Refusal :=
  let k := keyOf loc f
  let x := s.frame k
  let (t, moved) := s.rescan k
  occurs (x.used && !x.away && x.wait == some .next && x.pend == .idle && moved) t s

/-! ## Gangs, barriers, leases -/

/-- A member of a formed gang: GANG, LEAD, GSIZE and GPOS are set, and its `gang.form` completes (R70, R284). -/
def Frame.joined (f : Frame) (size pos : Nat) : Frame :=
  { (((f.setT 17 1 1).setT 18 1 (if pos = 0 then 1 else 0)).setT 19 2 size).setT 21 4 pos with
    wait := none, pend := .got (.val 0) }

/-- The members of a gang in the order of their positions. -/
def Gang.ordered (g : Gang) : List Nat :=
  let (w, h) := gangShape g.size
  (List.range (w * h)).filterMap fun i => g.members.find? fun k => g.pos (keyLoc k) == i

/-- GANG_FORMATION: each core of the reserved rectangle holds a thread that has executed `gang.form` (R70, R284). -/
def execGangFormation (n : Nat) (s : State) : Host.Outcome State Fault Refusal :=
  match s.gangs.find? fun g => g.id == n with
  | some g =>
    let (w, h) := gangShape g.size
    let ms := g.ordered
    let t := { s with gangs := mapIf (fun x => x.id == n) (fun x => { x with formed := true, members := ms }) s.gangs }
    let join (t : State) (k : Nat) : State :=
      (t.updFrame k fun f => f.joined g.size (g.pos (keyLoc k))).ready k
    occurs (!g.formed && ms.length == w * h && !s.preempted g.launch g.lmod) (ms.foldl join t) s
  | none => occurs false s s

/-- A barrier arrival's release is satisfied: the member's loads are back and its stores within the scope
performed (R156, R160). -/
def State.released (s : State) (uid before : Nat) (sc : Scope) : Bool :=
  let mine (l : Loc) (u i : Nat) (h : Home) (va : Word) : Bool := u == uid && decide (i < before) && s.within sc l h va
  (s.cores.all fun c => c.2.buffered.all fun e => !mine c.1 e.uid e.id e.home e.va) &&
  (s.net.all fun p => !(p.kind.isStore && mine p.src p.uid p.id p.named p.va)) && s.loadsBack uid before

/-- R274: the phase ends: the phase number moves on, arrive bits clear and the members that dropped out go. -/
def Barrier.next (b : Barrier) : Barrier :=
  { b with phase := b.phase + 1, arrived := [], ards := [], joining := []
           members := (b.members.filter fun u => !b.ards.contains u) ++ b.joining }

/-- The phase may end: every member has arrived and every release is satisfied (R160, R274). -/
def State.phaseDue (s : State) (b : Barrier) : Bool :=
  !b.members.isEmpty && (b.members.all fun u => b.arrived.any fun e => e.1 == u) &&
  (b.arrived.all fun e => s.released e.1 e.2 b.sc) && !s.preempted b.launch b.lmod

/-- BARRIER_PHASE_COMPLETE for the barrier at place n of State.barriers (R274). -/
def execBarrierPhaseComplete (n : Nat) (s : State) : Host.Outcome State Fault Refusal :=
  match s.barriers[n]? with
  | some b =>
    let t := { s with barriers := setAt s.barriers n b.next }
    occurs (s.phaseDue b) (t.wake fun _ f => f.wait == some (.bar b.sc b.id)) s
  | none => occurs false s s

/-- LEASE_REARBITRATION: the holder's 65th push waits, so it joins the waiters and the lease is granted again (R79,
R80). -/
def execLeaseRearbitration (pav : Nat) (s : State) : Host.Outcome State Fault Refusal :=
  let x := s.lease pav
  match x.holder.bind fun u => s.keyOfUid u with
  | some k =>
    let t := s.updLease pav fun x => { x with holder := none, waiters := x.waiters.filter (· != k) ++ [k] }
    occurs (x.left == 0 && (s.frame k).wait == some (.pushPort .qpav)) (t.grant pav) s
  | none => occurs false s s

end Sys2Proof.Machine
end

