-- ==== Sys2Proof/Machine/Flock.lean ====
section
/-! DEFINITION. Flock group loads at their home: holds, deliveries, timers and late windows (07_memory R144-R147,
R165, 21_system R365). -/

namespace Sys2Proof.Machine

open Sys2Proof

/-- 250 ns in clk (R144; log entry 2). -/
def flockTick : Nat := 500

/-- The group's timer in clk. -/
def State.flockPeriod (s : State) (id : W32) (m : Nat) (d : DieId) (g : Nat) : Nat :=
  match s.fgroups.find? fun x => x.isAt id m d g with
  | some x => x.timer * flockTick
  | none => 8 * flockTick

/-- Distinct members that have asked. -/
def Hold.asked (h : Hold) : Nat := (h.members.map fun m => m.mem).eraseDups.length

/-- The hold's one read, as its home checks it; a locked range holds it back. -/
def Hold.req (h : Hold) : Req :=
  { home := h.home, va := h.va, size := h.len, write := false, user := h.members.any fun m => m.user
    launch := h.launch, lmod := h.lmod, locks := false }

/-- The core for which the hold reads: its first member's. -/
def Hold.loc (h : Hold) : Loc := (h.members.head?.map fun m => m.loc).getD 0

/-- R365, R146: a member's fill has ended. For a tile of a pre-empted launch the ready notice is caught, and STATE 2
comes with its replay. -/
def State.fillDone (s : State) (h : Hold) (m : FReq) (status : Nat) : State :=
  let t := (s.core m.loc).tile m.tile
  let s := { s with locks := s.locks.filter fun k => k.cmd != m.lock }
  if t.gen.toNat = m.gen ∧ t.state = 1 ∧ s.preempted t.launch t.lmod then
    let p : Pkt :=
      { id := s.nextId, kind := .ready m.tile m.gen status, src := m.loc, key := keyOf m.loc 0, uid := 0, launch := t.launch
        lmod := t.lmod, home := .core m.loc, va := BitVec.ofNat 64 h.va.toNat }
    match { s with nextId := s.nextId + 1 }.catchPkt m.loc p with
    | (s, some q) => { s with net := s.net ++ [q] }
    | (s, none) => s
  else s.endFlock m.loc m.tile m.gen m.lock status

/-- The bytes go into a member's tile, unless it has been freed since. -/
def State.fillTile (s : State) (h : Hold) (bs : List Byte) (status : Nat) (m : FReq) : State :=
  let t := (s.core m.loc).tile m.tile
  let s := if t.gen.toNat = m.gen ∧ t.state = 1 then s.poke (bankKey m.loc t.base.toNat) bs else s
  s.fillDone h m status

/-- The hold leaves the home. -/
def State.dropHold (s : State) (id : Nat) : State := { s with holds := s.holds.filter fun x => x.id != id }

/-- A hold that its timer has served stays as a window for late members, which hold no tile (R146). -/
def Hold.served (h : Hold) (now : Nat) : Hold :=
  { h with late := true, ends := now + 64 * h.period, left := none
           members := h.members.map fun m => { m with tile := 64, gen := 1024 } }

/-- How a delivery goes. -/
inductive Delivery where
  | done (s : State)
  | parked (s : State)
  | refused (s : State)
  | held

/-- One read, and the same bytes into each member's tile. An uncorrectable read leaves the tiles' bytes and gives
STATUS POISONED. -/
def State.deliver (s : State) (h : Hold) (left : Nat) : Delivery :=
  match s.through h.loc h.req maxForwards with
  | (s, _, .ok p _ _ _) =>
    if s.locked { h.req with locks := true } p then .held
    else if s.isBad p h.len then .done (h.members.foldl (fun t m => t.fillDone h m stPoisoned) s)
    else .done (h.members.foldl (fun t m => t.fillTile h (s.bytes p h.len) h.status m) s)
  | (s, at', .park r b n) =>
    match s.park at' r b n (.flock h.id) h.va { user := h.req.user } h.launch h.lmod with
    | some s =>
      .parked { s with holds := mapIf (fun x => x.id == h.id) (fun x => { x with left := some left }) s.holds }
    | none => .refused { s with holds := mapIf (fun x => x.id == h.id) (fun x => { x with retryAt := s.clk + 64 }) s.holds }
  | (_, _, .wait) => .held
  | _ => .done (h.members.foldl (fun t m => t.fillDone h m stFaulted) s)

/-- A request served alone with a status: a hold of its own that is delivered at once. -/
def State.serveAlone (s : State) (h : Hold) : State × Bool :=
  let s := { s with holds := s.holds ++ [h], nextId := s.nextId + 1 }
  match s.deliver h 0 with
  | .done s => (s.dropHold h.id, true)
  | .parked s => (s, true)
  | .refused s => (s, false)
  | .held => (s, false)

/-- A delivery that ends the hold, or parks it; false when it must wait. -/
def State.close (s : State) (h : Hold) : State × Bool :=
  match s.deliver h 0 with
  | .done s => (s.dropHold h.id, true)
  | .parked s => (s, true)
  | .refused s => (s, false)
  | .held => (s, false)

/-- A request opens a hold: the home translates at once, and a fault parks the hold with its whole time left. -/
def State.openHold (s : State) (h : Hold) : State × Bool :=
  let s1 := { s with holds := s.holds ++ [h], nextId := s.nextId + 1 }
  if h.cnt ≤ 1 then s1.close h
  else
    match s1.through h.loc h.req maxForwards with
    | (t, at', .park r b n) =>
      match t.park at' r b n (.flock h.id) h.va { user := h.req.user } h.launch h.lmod with
      | some t =>
        ({ t with holds := mapIf (fun x => x.id == h.id) (fun x => { x with left := some h.period }) t.holds }, true)
      | none => (s, false)
    | (t, _, _) => (t, true)

/-- R146: a group's request reaches its home. False when it has to wait there. -/
def State.flockArrive (s : State) (p : Pkt) (g cnt len : Nat) (d : DieId) (r : FReq) : State × Bool :=
  let period := s.flockPeriod p.launch p.lmod d g
  let new : Hold :=
    { id := s.nextId, home := p.home, launch := p.launch, lmod := p.lmod, die := d, grp := g, va := p.va, len := len
      cnt := cnt, members := [r], ends := s.clk + period, period := period }
  let group (h : Hold) : Bool :=
    h.home == p.home && h.launch == p.launch && h.lmod == p.lmod && h.die == d && h.grp == g && h.status == 0
  let same (h : Hold) : Bool := h.va == p.va && h.len == len && h.cnt == cnt
  match s.holds.find? fun h => group h && !h.late with
  | some h =>
    if same h then
      let h := { h with members := h.members ++ [r] }
      let t := { s with holds := mapIf (fun x => x.id == h.id) (fun _ => h) s.holds }
      if h.left.isNone && decide (h.cnt ≤ h.asked) then t.close h else (t, true)
    else s.serveAlone { new with status := stMismatch }
  | none =>
    match s.holds.find? fun h => group h && h.late && same h with
    | some h =>
      let h := { h with members := h.members ++ [{ r with tile := 64, gen := 1024 }] }
      let t := { s with holds := if h.cnt ≤ h.asked then s.holds.filter fun x => x.id != h.id
                                 else mapIf (fun x => x.id == h.id) (fun _ => h) s.holds }
      t.serveAlone { new with status := stLate }
    | none =>
      if 32 ≤ (s.holds.filter fun h => h.home == p.home && !h.late && h.status == 0).length then
        s.serveAlone { new with status := stLate }
      else s.openHold new

/-- A Flock request performed at its home. -/
def State.performFlock (s : State) (p : Pkt) : State × Option Pkt :=
  match p.kind with
  | .flock g mem cnt len tile gen d =>
    let r : FReq := { mem := mem, loc := p.src, tile := tile, gen := gen, lock := p.id, user := p.user }
    match s.check { p.req len false with locks := false } with
    | (_, .fwd d) => s.forwardPkt p d
    | _ =>
      let (t, ok) := (s.countReq p.home p.src p.va false).flockArrive p g cnt len d r
      if ok then (t, none) else (s, some { p with refused := true, retryAt := s.clk + 64 })
  | _ => (s, none)

/-- FLOCK_REQUEST: a group's request reaches its home (R146, R147); or the ready notice of a fill, caught for a
pre-empted launch and replayed, reaches its core (R365). -/
def execFlockRequest (k : Nat) (s : State) : Host.Outcome State Fault Refusal :=
  match s.pkt k with
  | some p =>
    match p.kind with
    | .ready tile gen status =>
      let r := (s.dropPkt k).catchPkt p.src p
      let t := if s.preempted p.launch p.lmod then r.1.keepPkt k r.2
        else (s.dropPkt k).endFlock p.src tile gen p.id status
      occurs ((!p.refused || decide (p.retryAt ≤ s.clk)) && s.replayTurn k p) t s
    | _ => performAt k (fun x => match x with | .flock _ _ _ _ _ _ _ => true | _ => false) State.performFlock s
  | none => occurs false s s

/-- FLOCK_TIMER_EXPIRY for hold n of a home (R146). A delivery that a full fault queue turns away is tried again in 64 clk
(R127). One that had to wait after a RETRY ends its hold. -/
def execFlockTimerExpiry (h : Home) (n : Nat) (s : State) : Host.Outcome State Fault Refusal :=
  match s.holds.find? fun x => x.id == n && x.home == h with
  | some x =>
    let due := !x.late && x.left.isNone && decide (x.ends ≤ s.clk ∧ x.retryAt ≤ s.clk)
    match s.deliver x 0 with
    | .done t =>
      let whole := x.status != 0 || decide (x.cnt ≤ x.asked)
      occurs due (if whole then t.dropHold n
        else { t with holds := mapIf (fun y => y.id == n) (fun y => y.served s.clk) t.holds }) s
    | .parked t => occurs due t s
    | .refused t => occurs due t s
    | .held => occurs false s s
  | none => occurs false s s

/-- FLOCK_LATE_WINDOW_END: 64 periods have passed (R146). -/
def execFlockLateWindowEnd (h : Home) (n : Nat) (s : State) : Host.Outcome State Fault Refusal :=
  match s.holds.find? fun x => x.id == n && x.home == h with
  | some x => occurs (x.late && decide (x.ends ≤ s.clk)) (s.dropHold n) s
  | none => occurs false s s

/-- RETRY of a parked hold: delivered at once when it is complete, otherwise it goes on with its time left (R147). -/
def State.retryHold (s : State) (n : Nat) : State :=
  match s.holds.find? fun x => x.id == n with
  | some h =>
    let left := h.left.getD 0
    let h := { h with left := none, ends := s.clk + left }
    let s := { s with holds := mapIf (fun x => x.id == n) (fun _ => h) s.holds }
    if h.status ≠ 0 ∨ h.cnt ≤ h.asked then (s.close h).1
    else
      match s.through h.loc h.req maxForwards with
      | (t, at', .park r b k) =>
        match t.park at' r b k (.flock n) h.va { user := h.req.user } h.launch h.lmod with
        | some t => { t with holds := mapIf (fun x => x.id == n) (fun x => { x with left := some left }) t.holds }
        | none => t
      | (t, _, _) => t
  | none => s

/-- DENY of a parked hold: every member present gets FAULTED, and the hold closes (R147). -/
def State.denyHold (s : State) (n : Nat) : State :=
  match s.holds.find? fun x => x.id == n with
  | some h => (h.members.foldl (fun t m => t.fillDone h m stFaulted) s).dropHold n
  | none => s

end Sys2Proof.Machine
end

