-- ==== Sys2Proof/Machine/Launch.lean ====
section
/-! DEFINITION. Launches: reading and accepting a record, starting, completing, and BOOT (03_execution R53-R58,
R31, R40; 15_isa_threads R271, R282; 21_system R363, R381). -/

namespace Sys2Proof.Machine

open Sys2Proof

/-! ## The record (R53) -/

/-- A launch record from its 128 bytes. -/
def LRec.ofBytes (b : List Byte) : LRec :=
  let n (o k : Nat) : Nat := numAt b o k
  { entry := BitVec.ofNat 64 (n 0 8), count := n 8 4, kind := n 12 1, prio := n 13 1, topo := n 14 1, order := n 15 1
    smask := BitVec.ofNat 16 (n 16 2), dmask := BitVec.ofNat 8 (n 18 1), x0 := n 20 1, y0 := n 21 1, x1 := n 22 1
    y1 := n 23 1, argp := BitVec.ofNat 64 (n 24 8), args := (List.range 4).map fun i => BitVec.ofNat 64 (n (32 + 8 * i) 8)
    caddr := BitVec.ofNat 64 (n 64 8), flags := n 72 4, cap := n 76 1, spread := BitVec.ofNat 64 (n 80 8)
    save := BitVec.ofNat 64 (n 88 8), sbase := BitVec.ofNat 64 (n 96 8), sbytes := n 104 4
    zeros := n 19 1 == 0 && n 77 3 == 0 && n 108 20 == 0 }

/-- The number of cores of a region. -/
def LRec.width (r : LRec) : Nat :=
  ((List.range 16).filter fun i => r.smask.getLsbD i).length * ((List.range 4).filter fun i => r.dmask.getLsbD i).length *
    (4 * (r.x1 + 1 - r.x0) * (r.y1 + 1 - r.y0))

/-- The per-core cap; 0 means 8. -/
def LRec.capOf (r : LRec) : Nat := if r.cap = 0 then 8 else r.cap

/-- The record keeps every limit of R53. -/
def LRec.ok (r : LRec) : Bool :=
  r.entry != 0 && r.entry.toNat % 4 == 0 && decide (r.kind ≤ 1 ∧ r.prio ≤ 3 ∧ r.topo ≤ 3 ∧ r.order ≤ 1) &&
  r.smask != 0 && r.dmask != 0 && decide (r.dmask.toNat < 16) &&
  decide (r.x0 ≤ r.x1 ∧ r.x1 ≤ 7 ∧ r.y0 ≤ r.y1 ∧ r.y1 ≤ 7) &&
  r.caddr.toNat % 8 == 0 && decide (r.flags < 8 ∧ r.cap ≤ 24) && r.save.toNat % 1024 == 0 && r.sbytes % 16 == 0 &&
  r.zeros && decide (1 ≤ r.count ∧ r.count ≤ r.capOf * r.width)

/-- The flag SUPER (R381). -/
def LRec.isSuper (r : LRec) : Bool := bitsOf r.flags 2 1 == 1
/-- The flag ISOL (R40). -/
def LRec.isol (r : LRec) : Bool := bitsOf r.flags 1 1 == 1

/-- The stack whose pool is concerned: the lowest of the mask, or the issuer's own (R54). -/
def LRec.pool (r : LRec) (own : Nat) : Nat := ((List.range 16).find? fun i => r.smask.getLsbD i).getD own

/-! ## Completion words (R54, R58) -/

/-- A completion word's address that can be written: not 0, aligned, and a virtual address. -/
def wordOk (va : Word) : Bool := va != 0 && va.toNat % 8 == 0 && !vaBad va

/-- The completion word of a launch (R58). -/
def completionWord (id : W32) (status errs : Nat) : Word :=
  BitVec.ofNat 64 (id.toNat + status * 2 ^ 32 + min errs 0xFFFF * 2 ^ 40)

/-- The completion word is written as a supervisor's store on behalf of the launch, from core l: a fault parks it (R58). -/
def State.writeWord (s : State) (l : Loc) (id : W32) (m : Nat) (va v : Word) : State :=
  if !wordOk va then s
  else
    let h := match s.homeAt l id m va with
      | .home h => h
      | .fetching => homeOf (Loc.module l) (s.spreadPtr id m)
      | .denied => .core l
    let p : Pkt :=
      { id := s.nextId, kind := .word v, src := l, key := keyOf l 0, uid := 0, user := false, launch := id, lmod := m
        home := h, va := va }
    let s := { s with nextId := s.nextId + 1 }
    if !s.answers (Loc.module l) (homeMod h) then { s with net := s.net ++ [p] }
    else match s.performWord p v with
      | (s, some q) => { s with net := s.net ++ [q] }
      | (s, none) => s

/-! ## Acceptance (R54, R55, R381) -/

/-- The id still names a launch that has not completed (R55). -/
def State.idTaken (s : State) (m : Nat) (id : W32) : Bool :=
  s.launches.any fun x => x.id == id && x.mod == m && x.status != .done

/-- A launch id of stack st with counter n. -/
def launchId (st n : Nat) : W32 := BitVec.ofNat 32 (st * 2 ^ 28 + n)

/-- The counter after n, which runs from 1 to 2^28 - 1. -/
def counterNext (n : Nat) : Nat := if n + 1 < 2 ^ 28 then n + 1 else 1

/-- The first counter value from n on whose id is free; more than `fuel` values are never taken. -/
def State.freeCounter (s : State) (m st : Nat) : Nat → Nat → Nat
  | 0, n => n
  | fuel + 1, n => if s.idTaken m (launchId st n) then s.freeCounter m st fuel (counterNext n) else n

/-- R55: the next id of a stack's pool, and the counter moved past it. -/
def State.takeId (s : State) (m st : Nat) : State × W32 :=
  let c := (s.module m).counters
  let n := s.freeCounter m st (s.launches.length + 1) (c.toList.getD st 1).toNat
  (s.updModule m fun x =>
      { x with counters := x.counters.mapIdx fun i y => if i = st then BitVec.ofNat 28 (counterNext n) else y },
    launchId st n)

/-- Entries of a stack's pool in use; one is held from acceptance until the launch starts (R54). -/
def State.poolUse (s : State) (m st : Nat) : Nat :=
  (s.launches.filter fun x => x.mod == m && x.lr.pool 0 == st && (x.status == .pending || x.status == .held)).length

/-- A record taken into its pool: the new launch, issued by a core or by BOOT. -/
def State.poolIn (s : State) (m : Nat) (r : LRec) (super : Bool) (src : Option Loc) : State × W32 :=
  let (s, id) := s.takeId m (r.pool 0)
  let x : Launch := { id := id, mod := m, order := s.nextId, lr := r, super := super, src := src }
  let keep (y : Launch) : Bool := !(y.id == id && y.mod == m)
  ({ s with launches := s.launches.filter keep ++ [x], nextId := s.nextId + 1 }, id)

/-- R54: acceptance of a record that `launch` has read at core l. -/
def State.accept (s : State) (l : Loc) (r : LRec) (super : Bool) : State × Nat :=
  let m := Loc.module l
  let st := r.pool (Loc.stack l)
  if !r.ok || (r.isSuper && !super) then
    let (s, id) := s.takeId m st
    (s.writeWord l id m r.caddr (completionWord id 0x07 0), 0)
  else if 64 ≤ s.poolUse m st then (s, 1)
  else ((s.poolIn m r super (some l)).1, 0)

/-- A `launch` record's read at its home, and the acceptance (R271). -/
def State.performRecord (s : State) (p : Pkt) : State × Option Pkt :=
  s.withPlace p (p.req 128 false) fun s a _ _ _ =>
    if s.isBad a 128 then (s.failPkt p .bad p.va, none)
    else
      let (s, n) := s.accept p.src (LRec.ofBytes (s.bytes a 128)) (!p.user)
      (s.answer p (.val (BitVec.ofNat 64 n)), none)

/-- LAUNCH_ACCEPT (R54, R271). -/
def execLaunchAccept (k : Nat) (s : State) : Host.Outcome State Fault Refusal :=
  performAt k (fun x => x == .record) State.performRecord s

/-! ## Start (R31, R40, R56, R57, R118, R129) -/

/-- A launch occupies its region from its start until it completes. -/
def Launch.occupies (x : Launch) : Bool := x.status == .running || x.status == .preempted

/-- The regions have a core in common. -/
def Launch.meets (x y : Launch) : Bool :=
  x.mod == y.mod && (x.lr.smask &&& y.lr.smask) != 0 && (x.lr.dmask &&& y.lr.dmask) != 0 &&
  decide (x.lr.x0 ≤ y.lr.x1 ∧ y.lr.x0 ≤ x.lr.x1 ∧ x.lr.y0 ≤ y.lr.y1 ∧ y.lr.y0 ≤ x.lr.y1)

/-- Frames of a core that a start may take, apart from those reserved. -/
def State.freeFrames (s : State) (taken : List Nat) (l : Loc) : List Nat :=
  (List.range 32).filter fun f => !(s.frame (keyOf l f)).used && !taken.contains (keyOf l f)

/-- R56: y stands before x in their pool: it has a higher priority, or the same and was accepted earlier. -/
def Launch.before (y x : Launch) : Bool :=
  y.mod == x.mod && (y.status == .pending || y.status == .held) && y.lr.pool 0 == x.lr.pool 0 &&
  decide (x.lr.prio < y.lr.prio ∨ (x.lr.prio = y.lr.prio ∧ y.order < x.order))

/-- R56: y stands before x in the pool and holds it back. -/
def Launch.holdsBack (y x : Launch) : Bool := y.before x && y.meets x

/-- The current topology of a core's links (R30, R31). -/
def State.topoOf (s : State) (l : Loc) : Nat := (s.die (Loc.dieId l)).topo.get 0 (Loc.core l)

/-- R31: every part of the region has the topology, or no launch occupies any core of it. -/
def State.stitched (s : State) (x : Launch) (cs : List Loc) : Bool :=
  (cs.all fun l => s.topoOf l == x.lr.topo) || !(s.launches.any fun y => y.occupies && y.meets x)

/-- The launch can start where no other holds it back: frames, topology, no fallow core, isolation, the issuer's earlier
stores to its cores (R169), and no earlier launch of its pool over its region. -/
def State.canStart (s : State) (x : Launch) : Bool :=
  let cs := x.lr.cores x.mod
  let n := cs.length
  let taken := s.reserved
  let need (i : Nat) : Nat := (x.lr.count + n - 1 - i) / n
  let others := s.frames.filter fun e => e.2.used && decide (e.1 % 64 < 32) && !(e.2.launch == x.id && e.2.lmod == x.mod)
  x.status == .pending && s.powered x.mod && (s.module x.mod).ready &&
  (cs.zipIdx.all fun e => decide (need e.2 ≤ (s.freeFrames taken e.1).length) && !(s.core e.1).fallow) &&
  (match x.src with | some l => cs.all fun c => s.storesTo l c x.order | none => true) &&
  s.stitched x cs &&
  !(s.launches.any fun y => y.occupies && y.lr.isol && y.meets x) &&
  !(x.lr.isol && others.any fun e => x.lr.holds x.mod (keyLoc e.1)) &&
  !(s.launches.any fun y => y.holdsBack x)

/-- R56: the pool starts the first of its launches that can start. -/
def State.mayStart (s : State) (x : Launch) : Bool :=
  s.canStart x && !(s.launches.any fun y => y.before x && s.canStart y)

/-- The frame of thread i as it starts (R42, R57). -/
def Launch.thread (x : Launch) (i uid : Nat) (l : Loc) (now : Nat) : Frame :=
  let a (n : Nat) : Word := x.lr.args.getD n 0
  let g : Vector Word 16 := (Vector.replicate 16 0).set 1 (BitVec.ofNat 64 i)
  let g := (((g.set 2 (a 0)).set 3 (a 1)).set 4 (a 2)).set 5 (a 3)
  let g := (g.set 6 x.lr.argp).set 14 (x.lr.sbase + BitVec.ofNat 64 ((i + 1) * x.lr.sbytes))
  { used := true, uid := uid, g := g, launch := x.id, lmod := x.mod, pc := x.lr.entry
    tstat := BitVec.ofNat 64 ((if x.lr.isSuper then 1 else 0) + 2 * x.lr.kind), since := now, origin := l, index := i }

/-- Thread i of a launch takes the lowest free frame of its core and is ready; the threads of a core enter its frame-ready FIFO
in their order (log entry 103). -/
def State.place (s : State) (x : Launch) (i : Nat) (l : Loc) : State :=
  match (s.freeFrames s.reserved l).head? with
  | some f =>
    let uid := s.nextId
    let s := { s with nextId := uid + 1 }.setFrame (keyOf l f) (x.thread i uid l s.clk)
    (s.updLaunch x.id x.mod fun y => { y with placed := y.placed ++ [(uid, l)], live := y.live + 1 }).ready (keyOf l f)
  | none => s

/-- All threads of a launch become resident at once (R57). -/
def State.startLaunch (s : State) (x : Launch) : State :=
  let cs := x.lr.cores x.mod
  let n := cs.length
  let s := s.updLaunch x.id x.mod fun y => { y with status := .running }
  let s := cs.foldl (fun t l => (t.updCore l fun c => { c with spread := [] }).updDie (Loc.dieId l) fun d =>
    { d with topo := if d.topo.get 0 (Loc.core l) = x.lr.topo then d.topo else d.topo.put (Loc.core l) x.lr.topo }) s
  (List.range x.lr.count).foldl (fun t i => t.place x i (cs.getD (i % n) 0)) s

/-- LAUNCH_START (R56, R57). -/
def execLaunchStart (m : Nat) (id : W32) (s : State) : Host.Outcome State Fault Refusal :=
  match s.launchOf id m with
  | some x => occurs (s.mayStart x) (s.startLaunch x) s
  | none => occurs false s s

/-! ## Completion (R58, R282, R363) -/

/-- The kinds whose application a launch's completion waits for (R58). -/
def PKind.isPosted : PKind → Bool
  | .post _ _ _ => true | .taskDec false => true | .joinDec => true | .store _ _ => true | _ => false

/-- Nothing of the launch is on its way: its posted operations are applied or dropped, parked ones included, and
its stores are performed. -/
def State.launchQuiet (s : State) (id : W32) (m : Nat) : Bool :=
  let mine (p : Pkt) : Bool :=
    ((p.launch == id && p.lmod == m) || p.others.contains (id, m)) && p.kind.isPosted
  (s.net.all fun p => !mine p) &&
  (s.homes.all fun h => h.2.faults.all fun e => match e.item with
    | .request p => !(mine p && match p.kind with | .store _ _ => false | _ => true)
    | _ => true) &&
  (s.cores.all fun c => c.2.buffered.all fun e => !(e.launch == id && e.lmod == m)) &&
  s.mods.all fun e => e.2.windows.toList.all fun w => w.ops.all fun o => !(o.pkt.launch == id && o.pkt.lmod == m)

/-- The tiles that a completed launch allocated are freed; one that an operation still holds is freed when that
ends (R282). -/
def State.freeTiles (s : State) (id : W32) (m : Nat) : State :=
  s.cores.foldl (fun t c => c.2.tiles.foldl (fun t e =>
    let x := e.2
    if x.state != 0 && x.launch == id && x.lmod == m && !x.busy then t.freeTile c.1 e.1 else t) t) s

/-- The launch has completed: its barriers, groups and tiles go, and its completion word is written (R58). -/
def State.completeLaunch (s : State) (x : Launch) : State :=
  let mine (id : W32) (m : Nat) : Bool := id == x.id && m == x.mod
  let s := s.updLaunch x.id x.mod fun y => { y with status := .done }
  let s := { s with
    barriers := s.barriers.filter fun b => !mine b.launch b.lmod
    fgroups := s.fgroups.filter fun g => !mine g.launch g.lmod }
  let s := s.freeTiles x.id x.mod
  let l := ((x.lr.cores x.mod).head?).getD 0
  s.writeWord l x.id x.mod x.lr.caddr (completionWord x.id (x.first.getD 0) x.errs)

/-- LAUNCH_COMPLETION (R58). -/
def execLaunchCompletion (m : Nat) (id : W32) (s : State) : Host.Outcome State Fault Refusal :=
  match s.launchOf id m with
  | some x => occurs (x.status == .running && x.live == 0 && s.launchQuiet id m) (s.completeLaunch x) s
  | none => occurs false s s

/-! ## BOOT (R381) -/

/-- BOOT's answer. -/
def State.bootState (s : State) (m st : Nat) (id : W32) : State :=
  s.updModule m fun x => { x with bootState := st, bootId := if st = 1 then id else x.bootId }

/-- A record read for BOOT with supervisor rights, which neither parks nor posts an event. -/
def State.bootRead (s : State) (m : Nat) (v : Word) : State × Option LRec :=
  let h := homeOf m v
  if !s.powered (homeMod h) then (s, none)
  else
    match s.check { home := h, va := v, size := 128, write := false, user := false, launch := 0, lmod := m } with
    | (s, .ok a _ _ _) => (s, if s.isBad a 128 then none else some (LRec.ofBytes (s.bytes a 128)))
    | (s, _) => (s, none)

/-- A DM address of module m that is aligned to a record. -/
def bootPlace (m : Nat) (v : Word) : Bool :=
  v.toNat % 128 == 0 && !vaBad v && spaceOf v == .dm && dmDie v / 64 == m

/-- A value written to BOOT: the record is accepted into its pool, or the value is refused (R381). -/
def State.writeBoot (s : State) (m : Nat) (v : Word) : State :=
  if !(s.module m).ready || !bootPlace m v then s.bootState m 2 0
  else
    match s.bootRead m v with
    | (s, some r) =>
      if !r.ok || decide (64 ≤ s.poolUse m (r.pool 0)) then s.bootState m 2 0
      else let (s, id) := s.poolIn m r true none; s.bootState m 1 id
    | (s, none) => s.bootState m 2 0

/-- BOOT (R374, R381). -/
def execBoot (m : Nat) (v : Word) (s : State) : Host.Outcome State Fault Refusal :=
  occurs (s.powered m) (s.writeBoot m v) s

end Sys2Proof.Machine
end

