-- ==== Sys2Proof/Machine/Engine.lean ====
section
/-! DEFINITION. What the engines share: reads and writes at their homes, the stopping rule, permitted addresses,
regions, tiles and element formats (19_engines R310-R320, 07_memory R137, R141-R143). -/

namespace Sys2Proof.Machine

open Sys2Proof

/-! ## Work that can stop -/

/-- How an engine's work stops: a fault to park at, a lock to wait for, a status with its detail bits, a walker
past its step limit or between two words, a Pavilion between two k-chunks, or an index at a FAULT policy with the index
entry that failed. -/
inductive EStop where
  | park (h : Home) (r : Reason) (base size : Nat) (va : Word) (write : Bool)
  | lock
  | ends (status detail : Nat)
  | limit (detail : Nat)
  | pause (w : WalkAt)
  | rest
  | fault (detail : Nat) (va : Word)
  deriving DecidableEq, Repr

/-- Work of an engine over the machine's state. -/
abbrev EM (α : Type) := ExceptT EStop (StateM State) α

namespace EM

/-- The command ends with a status unless b holds. -/
def demand (b : Bool) (status : Nat) : EM Unit := if b then pure () else throw (.ends status 0)

/-- One piece of work for each element, in order. -/
def each {α : Type} (f : α → EM Unit) : List α → EM Unit
  | [] => pure ()
  | x :: r => do f x; each f r

/-- The results of one piece of work for each element, in order. -/
def collect {α β : Type} (f : α → EM β) : List α → EM (List β)
  | [] => pure []
  | x :: r => do
    let y ← f x
    let ys ← collect f r
    pure (y :: ys)

/-- A value carried through one piece of work for each element, in order. -/
def carry {α β : Type} (f : β → α → EM β) : β → List α → EM β
  | b, [] => pure b
  | b, x :: r => do
    let c ← f b x
    carry f c r

/-- A change of the state that cannot fail. -/
def change (f : State → State) : EM Unit := modify f

end EM

/-- On whose behalf an engine works: the command, the pushing core and the rights of its thread. `deny` is the
access that a DENY resolution refuses (R128), and `eng` the engine, whose requests to one home keep their order. -/
structure Actr where
  cmd : Nat
  eng : Option Eng := none
  loc : Loc
  key : Nat
  user : Bool
  launch : W32
  lmod : Nat
  deny : Option Word := none
  deriving DecidableEq, Repr

/-! ## Accesses at homes -/

/-- A place: a virtual address, or a byte of a core's banks (a tile). -/
inductive Spot where
  | mem (va : Word)
  | bank (l : Loc) (o : Nat)
  deriving DecidableEq, Repr

/-- The place n bytes on. -/
def Spot.step (n : Nat) : Spot → Spot
  | .mem va => .mem (va + BitVec.ofNat 64 n)
  | .bank l o => .bank l (o + n)

/-- The bytes from here to the end of the line, within which there is one home and one page. -/
def Spot.room : Spot → Nat
  | .mem va => 1024 - va.toNat % 1024
  | .bank _ o => 1024 - o % 1024

/-- n bytes as pieces that each lie in one line; more than `fuel` are never made. -/
def Spot.pieces (n : Nat) (p : Spot) : Nat → List (Spot × Nat)
  | 0 => []
  | fuel + 1 =>
    if n = 0 then []
    else if n ≤ p.room then [(p, n)]
    else (p, p.room) :: Spot.pieces (n - p.room) (p.step p.room) fuel

/-- The pieces of n bytes. -/
def Spot.parts (p : Spot) (n : Nat) : List (Spot × Nat) := p.pieces n (n / 1024 + 2)

/-- What stops an engine access with this outcome (R24, R40, R115, R128, R132). -/
def EStop.of (h : Home) (va : Word) (write : Bool) : HRes → EStop
  | .park r b n => .park h r b n va write
  | .lock => .lock
  | .wait => .lock
  | .lost => .ends stFaulted 0
  | _ => .ends stBounds 0

/-- What stops a spread-table read that an engine needs. -/
def EStop.ofV : VStop → EStop
  | .park h r b n va => .park h r b n va false
  | .wait => .lock
  | .cause .rangeLocked _ => .lock
  | .cause .uncorrectable _ => .ends stPoisoned 0
  | .cause _ _ => .ends stBounds 0
  | .lost _ => .ends stFaulted 0

/-- A refused access stands at this home. -/
def refusedAt (r : Option (Home × Nat × Nat)) (h : Home) : Bool := match r with | some (x, _, _) => x == h | none => false

/-- R127: an engine's request waits behind one of its engine's that the home has refused, and a Gleaner's behind one of its
core's, whose NI sends both. -/
def Actr.behind (c : Actr) (s : State) (h : Home) : Bool :=
  match c.eng with
  | none => false
  | some e =>
    (s.cmds.any fun k => k.eng == e && k.id != c.cmd && refusedAt k.refused h) ||
    (s.pushes.any fun k => k.eng == e && refusedAt k.refused h) ||
    match e with
    | .gleaner l => s.net.any fun q => q.kind.isRequest && q.refused && q.src == l && q.home == h
    | _ => false

/-- An engine's request at its home and at those that pass it on: the home that answers, and its answer. -/
def Actr.look (c : Actr) (va : Word) (n : Nat) (write locks : Bool) : EM (Home × HRes) := fun s =>
  if c.deny == some va then (.error (.ends stFaulted 0), s)
  else if vaBad va || (windowAt va).isSome then (.error (.ends stBounds 0), s)
  else
    match s.findHome c.loc c.user c.launch c.lmod va with
    | (s, .error e) => (.error (.ofV e), s)
    | (s, .ok h) =>
      let r : Req :=
        { home := h, va := va, size := n, write := write, user := c.user, launch := c.launch, lmod := c.lmod
          eng := some c.cmd, locks := locks }
      if c.behind s h then (.ok (h, .wait), s)
      else
      let (s, x) := s.through c.loc r maxForwards
      (.ok x, s)

/-- Where the bytes of an engine's access lie: the memory number of the first, and for a virtual address the home and the
address through which they are reached. -/
structure Reached where
  a : Nat
  via : Option (Home × Word) := none
  deriving DecidableEq, Repr

/-- Bytes written where they were found (R124). -/
def State.pokeAt (s : State) (x : Reached) (b : List Byte) : State :=
  match x.via with
  | some (h, va) => s.writeAt h va x.a b
  | none => s.poke x.a b

/-- One access at its home. None is a write that a closed region refused: it is dropped, with an error record, and the
command will not be DONE (R40, R313). -/
def Actr.place (c : Actr) (va : Word) (n : Nat) (write : Bool) : EM (Option Reached) := do
  match ← c.look va n write c.deny.isNone with
  | (h, .ok p _ _ _) => pure (some { a := p, via := some (h, va) })
  | (h, .isol) =>
    if write then do
      EM.change fun s => (s.record h 0x04 .isol va c.launch c.lmod).updCmd c.cmd fun k => { k with dropped := true }
      pure none
    else throw (.ends stBounds 0)
  | (h, x) => throw (.of h va write x)

/-- One piece at its place in the machine's memory; a tile's bytes meet the locks of other commands too (R143). -/
def Actr.at (c : Actr) (p : Spot) (n : Nat) (write : Bool) : EM (Option Reached) := do
  match p with
  | .mem va => c.place va n write
  | .bank l o => do
    let r : Req :=
      { home := .core l, va := BitVec.allOnes 64, size := n, write := write, user := c.user, launch := c.launch, lmod := c.lmod
        eng := some c.cmd, locks := c.deny.isNone }
    if (← get).locked r (bankKey l o) then throw .lock
    pure (some { a := bankKey l o })

/-- n bytes from a place; an uncorrectable read ends the command (R318). -/
def Actr.read (c : Actr) (p : Spot) (n : Nat) : EM (List Byte) := do
  let bs ← EM.collect (fun x : Spot × Nat => do
    match ← c.at x.1 x.2 false with
    | some f =>
      let s ← get
      EM.demand (!s.isBad f.a x.2) stPoisoned
      pure (s.bytes f.a x.2)
    | none => pure (List.replicate x.2 0)) (p.parts n)
  pure bs.flatten

/-- The little-endian number in n bytes from a place. -/
def Actr.num (c : Actr) (p : Spot) (n : Nat) : EM Nat := do pure (ofBytes (← c.read p n))

/-- An uncorrectable doubleword is covered only in part (R318). -/
def State.badPart (s : State) (a n : Nat) : Bool :=
  s.bad.any fun d => decide (d * 8 < a + n ∧ a < d * 8 + 8) && !decide (a ≤ d * 8 ∧ d * 8 + 8 ≤ a + n)

/-- A piece of a row made ready for writing: where its bytes go, or what stops it. -/
abbrev Piece := Except EStop (Option Reached) × List Byte

/-- The pieces of a row, each with its own outcome. -/
def Actr.aim (c : Actr) : List (Spot × Nat) → List Byte → EM (List Piece)
  | [], _ => pure []
  | (p, n) :: r, bs => do
    let s ← get
    let (x, t) := (c.at p n true : EM (Option Reached)) s
    set t
    let x : Except EStop (Option Reached) := match x with
      | .ok (some f) => if t.badPart f.a n then .error (.ends stPoisoned 0) else x
      | _ => x
    let ys ← c.aim r (bs.drop n)
    pure ((x, bs.take n) :: ys)

/-- A piece is written. -/
def Piece.poke (s : State) : Piece → State
  | (.ok (some f), bs) => s.pokeAt f bs
  | _ => s

/-- The byte that stands at place a after a row was ended in progress. -/
def State.mixByte (s : State) (n a : Nat) (new : Byte) : Byte := if Config.keepsOld n a then Memory.get s.mem a else new

/-- A piece of a row that was ended in progress holds old or new bytes (R318). -/
def Piece.mix (n : Nat) (s : State) : Piece → State
  | (.ok (some f), bs) => s.pokeAt f (bs.mapIdx fun i b => s.mixByte n (f.a + i) b)
  | _ => s

/-- The engine waits where this stopped it and goes on later, so that nothing of the row in progress is given up. -/
def EStop.waits : EStop → Bool
  | .park _ _ _ _ _ _ => true
  | .lock => true
  | _ => false

/-- The first piece that cannot be written. -/
def firstStop : List Piece → Option EStop
  | [] => none
  | (.error e, _) :: _ => some e
  | _ :: r => firstStop r

/-- The bytes written as one row or block: all of them, or none where the engine waits, or none at the access that fails
and a mixture elsewhere (R318). -/
def Actr.write (c : Actr) (p : List (Spot × List Byte)) : EM Unit := do
  let ps ← EM.collect (fun x : Spot × List Byte => c.aim (x.1.parts x.2.length) x.2) p
  match firstStop ps.flatten with
  | none => EM.change fun s => ps.flatten.foldl Piece.poke s
  | some e => do
    if !e.waits then EM.change fun s => { ps.flatten.foldl (Piece.mix s.nextId) s with nextId := s.nextId + 1 }
    throw e

/-- A row of n bytes is made by `make` and written; where making it is ended, its bytes are free (R318). -/
def Actr.row (c : Actr) (p : Spot) (n : Nat) (make : EM (List Byte)) : EM Unit := do
  let s ← get
  match (make : EM (List Byte)) s with
  | (.ok bs, t) => do set t; c.write [(p, bs)]
  | (.error e, t) => do
    set t
    if !e.waits then do
      let ps ← c.aim (p.parts n) (List.replicate n 0)
      let free (s : State) : Piece → State
        | (.ok (some f), bs) => s.pokeAt f (bs.mapIdx fun i _ => s.mixByte t.nextId (f.a + i) (Config.rowByte t.nextId (f.a + i)))
        | _ => s
      EM.change fun s => { ps.foldl free s with nextId := s.nextId + 1 }
    throw e

/-! ## Progress (R318) -/

/-- Detail bits of the command are due. -/
def Actr.note (c : Actr) (d : Nat) : EM Unit :=
  EM.change fun s => s.updCmd c.cmd fun k => { k with det := k.det ||| d }

/-- A detail bit is due when something was seen. -/
def Actr.noteIf (c : Actr) (d : Nat) (b : Bool) : EM Unit := if b then c.note d else pure ()

/-- The command as it stands; one that is gone does no more. -/
def Actr.self (c : Actr) : EM Cmd := do
  match (← get).cmd c.cmd with
  | some k => pure k
  | none => throw .lock

/-- Row or block number k of a command, in the order in which it writes them. One that it wrote before it waited is not
written again. -/
def Actr.unit (c : Actr) (k : Nat) (w : EM Unit) : EM Unit := do
  if (← c.self).wrote ≤ k then do
    w
    EM.change fun s => s.updCmd c.cmd fun x => { x with wrote := k + 1 }

/-- Rows or blocks by their numbers, from number `first` on. -/
def Actr.units {α : Type} (c : Actr) (first : Nat) (f : α → EM Unit) (l : List α) : EM Unit :=
  EM.each (fun x : α × Nat => c.unit (first + x.2) (f x.1)) l.zipIdx

/-- What a command resolves before it writes anything is resolved once (R340). -/
def Actr.planned (c : Actr) (w : EM (List (Option Nat))) : EM (List (Option Nat)) := do
  match (← c.self).plan with
  | some p => pure p
  | none => do
    let p ← w
    EM.change fun s => s.updCmd c.cmd fun x => { x with plan := some p }
    pure p

/-! ## Addresses that a block may name (R316) -/

/-- The core lies in the pusher's placement region; the handler's is its module (R355). -/
def Actr.holds (c : Actr) (s : State) (l : Loc) : Bool :=
  if keyFrame c.key = 32 then Loc.module l == Loc.module c.loc else s.inRegion c.launch c.lmod l

/-- An address that the block may name; host space only where `host` says. -/
def Actr.permits (c : Actr) (s : State) (host : Bool) (va : Word) : Bool :=
  !vaBad va && match spaceOf va with
    | .ls => c.holds s (lsOwner va)
    | .host => host
    | _ => true

/-- The first and the last of n bytes are permitted, and lie in one space. -/
def Actr.allows (c : Actr) (s : State) (host : Bool) (va : Word) (n : Nat) : Bool :=
  c.permits s host va &&
  (n == 0 || (c.permits s host (va + BitVec.ofNat 64 (n - 1)) &&
    spaceOf (va + BitVec.ofNat 64 (n - 1)) == spaceOf va && decide (va.toNat + n ≤ 2 ^ 64)))

/-- Step 6 for n bytes from an address. -/
def Actr.permit (c : Actr) (va : Word) (n : Nat) : EM Unit := do
  EM.demand (c.allows (← get) false va n) stBounds

/-! ## Tiles (R141, R319, R320) -/

/-- A tile as a command names it: the core of its table and its handle. -/
structure TName where
  loc : Loc
  hnd : Nat
  deriving DecidableEq, Repr

/-- Step 7: the handle is current. -/
def TName.find (t : TName) (dst : Bool) : EM (TileRef × Tile) := do
  let s ← get
  match s.handle t.loc (BitVec.ofNat 64 t.hnd) with
  | some n => pure ({ loc := t.loc, slot := n, gen := t.hnd / 64, dst := dst }, (s.core t.loc).tile n)
  | none => throw (.ends stStale 0)

/-- A tile's entry by its reference. -/
def State.tileOf (s : State) (r : TileRef) : Tile := (s.core r.loc).tile r.slot

/-- The reference is still current (R283). -/
def State.refOk (s : State) (r : TileRef) : Bool := (s.tileOf r).state != 0 && (s.tileOf r).gen.toNat == r.gen

/-- The bank bytes of a tile as a range to lock. -/
def tileRng (l : Loc) (t : Tile) : Rng := .bank l t.base.toNat t.bytes

/-- The place of a tile's row. -/
def tileRow (l : Loc) (t : Tile) (r : Nat) : Spot := .bank l (t.base.toNat + r * t.pitch)

/-- Bytes of a row of n elements of a format. -/
def rowLen (fmt n : Nat) : Nat := ceilDiv (n * fmtBits fmt) 8

/-- The rows of a tile, each as the little-endian number of its bytes. -/
def Actr.tile (c : Actr) (l : Loc) (t : Tile) : EM (List Nat) :=
  EM.collect (fun r => c.num (tileRow l t r) (rowLen t.fmt.toNat t.cols.toNat)) (List.range t.rows.toNat)

/-- Element e of a row in a format. -/
def rowElem (fmt row e : Nat) : Nat := bitsOf row (e * fmtBits fmt) (fmtBits fmt)

/-- A row of elements as one number. -/
def packRow (w : Nat) : List Nat → Nat
  | [] => 0
  | x :: r => x % 2 ^ w + 2 ^ w * packRow w r

/-- The bytes of a row of element codes. -/
def rowBytes (fmt : Nat) (xs : List Nat) : List Byte := bytesOf (rowLen fmt xs.length) (packRow (fmtBits fmt) xs)

/-! ## Region descriptors (R319) -/

/-- A region descriptor as it stands in a block. -/
structure Desc where
  va : Word
  rows : Nat
  len : Nat
  pitch : Nat
  hnd : Nat
  kind : Nat
  owner : Nat
  rest : Nat
  deriving DecidableEq, Repr

/-- The 32 bytes from offset o of a block. -/
def Desc.ofBytes (b : List Byte) (o : Nat) : Desc :=
  { va := BitVec.ofNat 64 (numAt b o 8), rows := numAt b (o + 8) 4, len := numAt b (o + 12) 4, pitch := numAt b (o + 16) 8
    hnd := numAt b (o + 24) 2, kind := numAt b (o + 26) 1, owner := numAt b (o + 27) 1, rest := numAt b (o + 28) 4 }

/-- Step 5 of R312 for a descriptor. -/
def Desc.ok (d : Desc) : Bool :=
  d.rest == 0 &&
  match d.kind with
  | 0 => decide (1 ≤ d.rows ∧ d.rows ≤ 65536 ∧ 1 ≤ d.len ∧ d.len ≤ 2 ^ 20 ∧ d.len ≤ d.pitch) && d.hnd == 0 && d.owner == 0
  | 1 => d.va == 0 && d.rows == 0 && d.len == 0 && d.pitch == 0 && (decide (d.owner ≤ 3) || d.owner == 0xFF)
  | _ => false

/-- Bytes from a memory region's first byte to its last (R142). -/
def Desc.span (d : Desc) : Nat := (d.rows - 1) * d.pitch + d.len

/-- The core of a tile owner: a position of the pushing core's quad, or 0xFF for the core itself. -/
def quadOwner (l : Loc) (o : Nat) : Loc := if o = 0xFF then l else Loc.dieId l * 256 + coreOf (Loc.quad l) o

/-- Step 6 for a descriptor. -/
def Desc.permit (d : Desc) (c : Actr) (host : Bool) : EM Unit := do
  let s ← get
  EM.demand (if d.kind = 1 then c.holds s (quadOwner c.loc d.owner) else c.allows s host d.va d.span) stBounds

/-- A region that has been looked up. -/
structure Region where
  rows : Nat
  len : Nat
  pitch : Nat
  start : Spot
  tile : Option (TileRef × Tile) := none
  deriving DecidableEq, Repr

/-- The region that a descriptor names, with the tile as it stands now (step 7). -/
def Desc.region (d : Desc) (c : Actr) (dst : Bool) : EM Region := do
  if d.kind = 1 then do
    let l := quadOwner c.loc d.owner
    let (r, t) ← ({ loc := l, hnd := d.hnd } : TName).find dst
    pure { rows := t.rows.toNat, len := rowLen t.fmt.toNat t.cols.toNat, pitch := t.pitch
           start := .bank l t.base.toNat, tile := some (r, t) }
  else pure { rows := d.rows, len := d.len, pitch := d.pitch, start := .mem d.va }

/-- The place of a region's row. -/
def Region.row (r : Region) (i : Nat) : Spot := r.start.step (i * r.pitch)

/-- The range that a region locks. -/
def Region.rng (r : Region) : Rng :=
  match r.start, r.tile with
  | .mem va, _ => .va va.toNat ((r.rows - 1) * r.pitch + r.len)
  | .bank l _, some (_, t) => tileRng l t
  | .bank l o, none => .bank l o (r.rows * r.pitch)

/-- The tile references of regions. -/
def Region.refs (rs : List Region) : List TileRef := rs.filterMap fun r => r.tile.map fun t => t.1

/-- Two ranges overlap (step 9), by their addresses or by their bytes in the banks of cores. -/
def Rng.meets (s : State) (x y : Rng) : Bool :=
  (match x, y with
    | .va a n, .va b m => overlaps a n b m
    | _, _ => false) ||
  (x.pieces s).any fun p => (y.pieces s).any fun q => overlaps p.1 p.2 q.1 q.2

/-- Step 9 for ranges of which some are written. -/
def EM.apart (srcs dsts : List Rng) : EM Unit := do
  let s ← get
  EM.demand (srcs.all fun x => dsts.all fun y => !x.meets s y) stLocked

/-! ## What a command's checks find (R312) -/

/-- What is known of a command at its acceptance: its tiles, the ranges that it locks, and bytes kept beside its
block (a walker's program). -/
structure Prep where
  tiles : List TileRef := []
  srcs : List Rng := []
  dsts : List Rng := []
  extra : List Byte := []
  deriving DecidableEq, Repr

/-- Bytes [lo, hi) of a block are zero. -/
def zeros (b : List Byte) (lo hi : Nat) : Bool := (sliceBytes b lo (hi - lo)).all (· == 0)

/-- A 64-bit field of a block. -/
def wordAt (b : List Byte) (o : Nat) : Word := BitVec.ofNat 64 (numAt b o 8)

/-- The flags of a block. -/
def flagsOf (b : List Byte) : Nat := numAt b 2 2

/-- Flag i of a block. -/
def flagOf (b : List Byte) (i : Nat) : Bool := (flagsOf b).testBit i

/-- An address is aligned. -/
def aligned (va : Word) (n : Nat) : Bool := va.toNat % n == 0

/-! ## Locks (R142) -/

/-- The homes that a range touches: the lines of device memory cycle through the 64 slices of a die, and a span of local store
runs from the core of its first byte to that of its last. -/
def Actr.homesOf (c : Actr) (s : State) : Rng → List Home
  | .bank l _ _ => [.core l]
  | .va lo n =>
    let va : Word := BitVec.ofNat 64 lo
    let step (k : Nat) : Home :=
      match s.findHome c.loc c.user c.launch c.lmod (va + BitVec.ofNat 64 (1024 * k)) with
      | (_, .ok h) => h
      | _ => homeOf (Loc.module c.loc) va
    let lines := (lo % 1024 + n + 1023) / 1024
    if n = 0 then []
    else
      match spaceOf va with
      | .spread => ((List.range lines).map step).eraseDups
      | .dm => ((List.range (min lines 64)).flatMap fun i => [step i, step (lines - 1 - i)]).eraseDups
      | .ls => (List.range ((lo + n - 1) / 2 ^ 33 - lo / 2 ^ 33 + 1)).map fun i => .core (lsOwner va + i)
      | .host => [step 0]

/-- The lock of a range of a command. -/
def Actr.lockOf (c : Actr) (s : State) (dst : Bool) (r : Rng) : Lock :=
  { cmd := c.cmd, dst := dst, rng := r, homes := c.homesOf s r, bank := r.pieces s }

/-- The locks that an accepted command registers. -/
def Actr.locksOf (c : Actr) (s : State) (x : Prep) : List Lock :=
  x.srcs.map (c.lockOf s false) ++ x.dsts.map (c.lockOf s true)

/-- Lock entries in use at a home, with more locks added. -/
def State.lockRoomFor (s : State) (ls : List Lock) : Bool :=
  (ls.flatMap fun k => k.homes).eraseDups.all fun h =>
    decide (((s.locks ++ ls).filter fun k => k.homes.contains h).length ≤ lockRoom)

/-- A source range that the command does not hold yet is locked, when there is room for it. -/
def Actr.lockSource (c : Actr) (r : Rng) : EM Unit := do
  let s ← get
  if !(s.locks.any fun k => k.cmd == c.cmd && k.rng == r) then do
    let k := c.lockOf s false r
    if !s.lockRoomFor [k] then throw .lock
    EM.change fun s => { s with locks := s.locks ++ [k] }

/-! ## Page attributes (R137) -/

/-- The leaf of an address as an engine obtains it from the home: its entry, the page's base and size. -/
def Actr.attrs (c : Actr) (va : Word) : EM (Word × Nat × Nat) := do
  match ← c.look va 1 false false with
  | (_, .ok _ e b n) => pure (e, b, n)
  | (h, x) => throw (.of h va false x)

/-- The pages that n bytes from an address touch, with their attributes, from the first to the last; more than
`fuel` are never asked. -/
def Actr.pages (c : Actr) (va : Word) (n : Nat) : Nat → EM (List (Word × Nat × Nat))
  | 0 => pure []
  | fuel + 1 =>
    if n = 0 then pure []
    else do
      let (e, b, z) ← c.attrs va
      let used := b + z - va.toNat
      let r ← c.pages (va + BitVec.ofNat 64 used) (n - used) fuel
      pure ((e, b, z) :: r)

/-- Rows of memory with the pages that each touches. -/
abbrev Paged := List (Word × Nat × List (Word × Nat × Nat))

/-- The pages of rows of memory, each an address and its bytes. -/
def Actr.paged (c : Actr) (rows : List (Word × Nat)) : EM Paged :=
  EM.collect (fun r : Word × Nat => do
    let ps ← c.pages r.1 r.2 (r.2 / 65536 + 2)
    pure (r.1, r.2, ps)) rows

/-- The rows keep within pages of one format and geometry. -/
def Paged.same (p : Paged) : Bool :=
  match p.flatMap fun r => r.2.2 with
  | [] => true
  | x :: l => l.all fun y => pteFmt y.1 == pteFmt x.1 && pteGeo y.1 == pteGeo x.1

/-- The rows keep to the data areas of their pages (R135). -/
def Paged.inside (p : Paged) : Bool :=
  p.all fun r => r.2.2.all fun (e, b, z) =>
    pteGeo e == 0 || decide (min (r.1.toNat + r.2.1) (b + z) - b ≤ dataArea (pteFmt e) (pteGeo e) z)

/-- Step 11 for rows of memory whose elements a command reads or writes (R137). -/
def Actr.uniform (c : Actr) (rows : List (Word × Nat)) : EM Unit := do
  let p ← c.paged rows
  EM.demand (p.same && p.inside) stSplit

/-- The rows of a descriptor that lie in memory. -/
def Desc.lines (d : Desc) : List (Word × Nat) :=
  if d.kind = 1 then [] else (List.range d.rows).map fun r => (d.va + BitVec.ofNat 64 (r * d.pitch), d.len)

/-- A tile holds elements of this format (step 8); memory rows have none. -/
def Region.holdsFmt (r : Region) (fmt : Nat) : Bool :=
  match r.tile with
  | some t => t.2.fmt.toNat == fmt
  | none => true

/-- A number that can be read now without stopping; otherwise 0. -/
def Actr.peek (c : Actr) (s : State) (va : Word) (n : Nat) : Nat :=
  match (c.num (.mem va) n : EM Nat) s with
  | (.ok x, _) => x
  | _ => 0

end Sys2Proof.Machine
end

