-- ==== Sys2Proof/Machine/Pavilion.lean ====
section
/-! DEFINITION. The Pavilion: MMA and the Sheaf commands, with the order in which sums are formed and the drain
(19_engines R321-R332, 05_numbers R101-R114). -/

namespace Sys2Proof.Machine

open Sys2Proof

/-! ## Accumulators (R94, R95, R101, R102, R105, R110) -/

/-- The value of an accumulator: an I48 value, the I48 NaN, or an A48 or F64 value. -/
inductive Acc where
  | int (v : Int)
  | inan
  | flt (v : FVal)
  deriving DecidableEq, Repr

/-- The largest value of I48's normal range (R95). -/
def i48Max : Int := 2 ^ 47 - 1

/-- A sum clamped to I48, and whether it was (R95). -/
def clamp48 (v : Int) : Int × Bool :=
  if i48Max < v then (i48Max, true) else if v < -i48Max then (-i48Max, true) else (v, false)

/-- A value rounded to a format under RNE. -/
def roundTo (f : Fmt) (v : FVal) : FVal := f.value (f.code 0 v)

/-- The Pavilion NaN of partial p and chunk j (R110). -/
def pavNaN (p j : Nat) : FVal := .nan false (2 ^ 51 + p % 4 * 2 ^ 49 + j % 2 ^ 16 * 2 ^ 33)

/-- The value is a NaN. -/
def FVal.isNaN : FVal → Bool
  | .nan _ _ => true
  | _ => false

/-- The accumulator is a NaN. -/
def Acc.isNaN : Acc → Bool
  | .inan => true
  | .flt v => v.isNaN
  | .int _ => false

/-- A later addition of a command, which gives `bad` where it is invalid (R105, R109, R110); and whether it clamped. -/
def Acc.add (f : Fmt) (bad : FVal) (a b : Acc) : Acc × Bool :=
  match a, b with
  | .int x, .int y => let (v, c) := clamp48 (x + y); (.int v, c)
  | .flt (.nan _ x), .flt (.nan _ y) => (.flt (.nan false (min x y)), false)
  | .flt (.nan s x), _ => (.flt (.nan s x), false)
  | _, .flt (.nan s y) => (.flt (.nan s y), false)
  | .flt x, .flt y =>
    match x.add 0 y with
    | some v => (.flt (roundTo f v), false)
    | none => (.flt bad, false)
  | _, _ => (.inan, false)

/-- How a command forms its products (R101-R103). -/
inductive Prod where
  | int8
  | log6
  | flt
  deriving DecidableEq, Repr

/-- An operand element: its code and its block's scale. -/
abbrev Elem := Nat × Option Nat

/-- The value of an operand element (R93). -/
def elemValue (fmt : Nat) (x : Elem) : FVal :=
  match x.2 with
  | some e => applyScale e (fmtValue fmt x.1)
  | none => fmtValue fmt x.1

/-- An unscaled L6 product in 24-bit fixed point; none for a NaN operand (R101). -/
def log6 (a b : Nat) : Option Int :=
  if a % 64 = 32 ∨ b % 64 = 32 then none
  else if a % 32 = 0 ∨ b % 32 = 0 then some 0
  else
    let p := a % 32 + b % 32
    let v : Int := (l6T p * 2 ^ (p / 4 + 2) : Nat)
    some (if a % 64 / 32 = b % 64 / 32 then v else -v)

/-- The exact sum of integer products; none when one is a NaN. -/
def sumInt (mul : Nat → Nat → Option Int) : List Elem → List Elem → Option Int
  | a :: r, b :: t =>
    match mul a.1 b.1, sumInt mul r t with
    | some x, some y => some (x + y)
    | _, _ => none
  | _, _ => some 0

/-- The exact sum of float products; none when a product is a NaN or the sum is invalid. -/
def sumFlt (fa fb : Nat) : Option FVal → List Elem → List Elem → Option FVal
  | acc, a :: r, b :: t =>
    match (elemValue fa a).mul (elemValue fb b) with
    | some (.nan _ _) => none
    | none => none
    | some x =>
      match acc with
      | none => sumFlt fa fb (some x) r t
      | some y =>
        match y.add 0 x with
        | some z => sumFlt fa fb (some z) r t
        | none => none
  | acc, _, _ => acc

/-- How a command multiplies and accumulates. -/
structure Arith where
  kind : Prod
  fa : Nat
  fb : Nat
  acc : Fmt
  deriving DecidableEq, Repr

/-- A chunk sum, rounded or clamped once (R105). -/
def Arith.chunk (t : Arith) (p j : Nat) (a b : List Elem) : Acc × Bool :=
  match t.kind with
  | .int8 =>
    match sumInt (fun x y => some (toSigned 8 x * toSigned 8 y)) a b with
    | some v => let (v, c) := clamp48 v; (.int v, c)
    | none => (.inan, false)
  | .log6 =>
    match sumInt log6 a b with
    | some v => let (v, c) := clamp48 v; (.int v, c)
    | none => (.inan, false)
  | .flt =>
    match sumFlt t.fa t.fb none a b with
    | some v => (.flt (roundTo t.acc v), false)
    | none => (.flt (pavNaN p j), false)

/-- κ of a format (R104). -/
def kappaOf (f : Nat) : Nat := match f with | 8 => 8 | 7 => 16 | 5 => 32 | 6 => 32 | 11 => 128 | _ => 64

/-- A list in chunks of k; more than `fuel` are never made. -/
def chunksOf {α : Type} (k : Nat) : Nat → List α → List (List α)
  | 0, _ => []
  | _, [] => []
  | n + 1, l => l.take k :: chunksOf k n (l.drop k)

/-- What the partials of one output element hold, none being EMPTY, and whether anything clamped so far. -/
structure Partials where
  accs : List (Option Acc)
  sat : Bool := false
  deriving DecidableEq, Repr

/-- The partials of an element before its first chunk: C_in stands in partial 0 (R106). -/
def Partials.start (n : Nat) (cin : Option (Acc × Bool)) : Partials :=
  match cin with
  | some (a, c) => { accs := (List.range n).map fun p => if p = 0 then some a else none, sat := c }
  | none => { accs := List.replicate n none }

/-- Products in a k-chunk (R104). -/
def Arith.kappa (t : Arith) : Nat := min (kappaOf t.fa) (kappaOf t.fb)

/-- Chunk j of n partials goes to its partial (R106). -/
def Arith.into (t : Arith) (n : Nat) (x : Partials) (j : Nat) (a b : List Elem) : Partials :=
  let p := j % n
  let (s, c) := t.chunk p j a b
  match x.accs.getD p none with
  | none => { accs := setAt x.accs p (some s), sat := x.sat || c }
  | some y =>
    let (z, d) := Acc.add t.acc (pavNaN p j) y s
    { accs := setAt x.accs p (some z), sat := x.sat || c || d }

/-- The chunks of an element's operand lines from number j on. -/
def Arith.chunks (t : Arith) (n : Nat) : Nat → List (List Elem) → List (List Elem) → Partials → Partials
  | j, a :: r, b :: u, x => t.chunks n (j + 1) r u (t.into n x j a b)
  | _, _, _, x => x

/-- The highest of `count` chunks that went to partial p of n; 0 where none did. -/
def lastChunk (count n p : Nat) : Nat := if p < count then p + (count - 1 - p) / n * n else 0

/-- The partials combined from bottom to top after `count` chunks, and whether anything clamped (R106). -/
def Arith.combine (t : Arith) (count : Nat) (x : Partials) : Option Acc × Bool :=
  (x.accs.zipIdx).foldl (fun (r : Option Acc × Bool) y =>
    match r.1, y.1 with
    | none, b => (b, r.2)
    | some a, none => (some a, r.2)
    | some a, some b =>
      let (z, d) := Acc.add t.acc (pavNaN y.2 (lastChunk count x.accs.length y.2)) a b
      (some z, r.2 || d)) (none, x.sat)

/-- One output element's accumulator from its operand lines over k (R106). -/
def Arith.element (t : Arith) (n : Nat) (cin : Option (Acc × Bool)) (a b : List Elem) : Option Acc × Bool :=
  let ca := chunksOf t.kappa a.length a
  t.combine ca.length (t.chunks n 0 ca (chunksOf t.kappa b.length b) (Partials.start n cin))

/-- An accumulator as the six bytes of a save area hold it (R94, R95). -/
def Acc.bits : Acc → BitVec 48
  | .int v => BitVec.ofInt 48 v
  | .inan => BitVec.ofNat 48 (2 ^ 47)
  | .flt v => BitVec.ofNat 48 (Fmt.a48.code 0 v)

/-- The accumulator that six stored bytes hold. -/
def Arith.ofBits (t : Arith) (x : BitVec 48) : Acc :=
  if t.kind = .flt then .flt (Fmt.a48.value x.toNat)
  else if x = BitVec.ofNat 48 (2 ^ 47) then .inan
  else .int x.toInt

/-- A C_in element enters the accumulator, and whether it was clamped (R102, R110, R322). -/
def Arith.enter (t : Arith) (fmt x : Nat) : Acc × Bool :=
  let v := fmtValue fmt x
  match t.kind with
  | .int8 => (.int (toSigned 32 x), false)
  | .log6 =>
    match v with
    | .nan _ _ => (.inan, false)
    | .inf s => (.int (if s then -i48Max else i48Max), true)
    | .fin s m e => let (y, c) := clamp48 (intRound 0 s m (e + 24)); (.int y, c)
  | .flt => if v.isNaN then (.flt (pavNaN 0 0), false) else (.flt (roundTo t.acc v), false)

/-! ## The drain (R111, R112) -/

/-- The value that an accumulator drains as. -/
def Arith.value (t : Arith) : Option Acc → FVal
  | none => .fin false 0 0
  | some (.int v) => .fin (decide (v < 0)) v.natAbs (if t.kind = .log6 then -24 else 0)
  | some .inan => .nan false 0
  | some (.flt v) => v

/-- ReLU: a value below zero, and −0, becomes +0. -/
def FVal.relu : FVal → FVal
  | .inf true => .fin false 0 0
  | .fin true _ _ => .fin false 0 0
  | v => v

/-- How a command drains. -/
structure Drain where
  fmt : Nat
  mode : Nat
  relu : Bool
  scale : Option Nat
  deriving DecidableEq, Repr

/-- The scaled value, after ReLU; it is not rounded before the output format. A zero under an infinite or NaN scale is NaN, also
that of an EMPTY accumulator (log entry 97). -/
def Drain.scaled (d : Drain) (v : FVal) : FVal :=
  let v := match d.scale with
    | some x => (v.mul (Fmt.f32.value x)).getD (.nan false 0)
    | none => v
  if d.relu then v.relu else v

/-- The magnitude of a value. -/
def FVal.abs : FVal → FVal
  | .nan _ p => .nan false p
  | .inf _ => .inf false
  | .fin _ m e => .fin false m e

/-- The largest magnitude of F8A, F8B or L6. -/
def fmtMax (f : Nat) : FVal := match f with | 9 => .fin false 240 0 | 10 => .fin false 57344 0 | _ => l6Value 31

/-- A value is saturated on its way into F8A, F8B or L6, or a finite one into an integer (R98, R113). For the former its
magnitude before rounding counts (log entry 53). -/
def saturates (f mode : Nat) (v : FVal) : Bool :=
  if 9 ≤ f then !v.isNaN && v.abs.cmp (fmtMax f) == .gt
  else if 1 ≤ f ∧ f ≤ 4 then
    match v with
    | .fin s m e =>
      let x := intRound mode s m e
      decide (x < -(2 ^ (fmtBits f - 1) : Nat) ∨ ((2 ^ (fmtBits f - 1) : Nat) : Int) ≤ x)
    | _ => false
  else false

/-- The abs-max pattern of an output element: its magnitude as an F32, rounded up (R112 step 4). -/
def absPattern (f x : Nat) : Nat := Fmt.f32.code 2 (fmtValue f x).abs

/-- What one output element comes to. -/
structure OutEl where
  code : Nat
  sat : Bool
  nan : Bool
  deriving DecidableEq, Repr

/-- An EMPTY accumulator and an I48 zero drain as +0, whatever the sign of a finite output scale (R106, R109; log
entry 97). -/
def FVal.plusZero (a : Option Acc) (v : FVal) : FVal :=
  match a, v with
  | none, .fin _ 0 _ => .fin false 0 0
  | some (.int _), .fin _ 0 _ => .fin false 0 0
  | _, _ => v

/-- An accumulator drained. -/
def Drain.out (d : Drain) (t : Arith) (a : Option Acc × Bool) : OutEl :=
  let v := FVal.plusZero a.1 (d.scaled (t.value a.1))
  let isNaN := match a.1 with | some x => x.isNaN | none => false
  { code := fmtCode d.fmt d.mode v, sat := a.2 || saturates d.fmt d.mode v, nan := isNaN || (v.isNaN && 5 ≤ d.fmt) }

/-! ## The MMA block (R321, R322) -/

/-- K of a block. -/
def mmaK (b : List Byte) : Nat := numAt b 20 4
/-- Tiles of an operand. -/
def mmaTiles (b : List Byte) (isB : Bool) : Nat := numAt b (if isB then 25 else 24) 1
/-- The place of an operand's scale fields. -/
def scaleOff (isB : Bool) : Nat := if isB then 64 else 48
/-- An operand's scale mode. -/
def scaleMode (b : List Byte) (isB : Bool) : Nat := numAt b (scaleOff isB + 8) 1
/-- The explicit block size (R321). -/
def scaleBlock (b : List Byte) (isB : Bool) : Nat := 16 * 2 ^ numAt b (scaleOff isB + 9) 1
/-- An operand's scale address. -/
def opScaleVA (b : List Byte) (isB : Bool) : Word := wordAt b (scaleOff isB)
/-- Lines of an operand: M for A, N for B. -/
def linesOf (b : List Byte) (isB : Bool) : Nat := numAt b (if isB then 18 else 16) 2

/-- A Pavilion tile entry is within its limits (R320). -/
def entryOk (b : List Byte) (o : Nat) : Bool :=
  numAt b (o + 3) 1 == 0 && (decide (numAt b (o + 2) 1 ≤ 15) || numAt b (o + 2) 1 == 0xFF)

/-- The tile that a Pavilion tile entry names. -/
def entryTile (pav : Nat) (l : Loc) (b : List Byte) (o : Nat) : TName :=
  let i := numAt b (o + 2) 1
  { loc := if i = 0xFF then l else (pav / 64 * 4 + i / 4) * 256 + coreOf (pav % 64) (i % 4), hnd := numAt b o 2 }

/-- The entries of an operand's tile list. -/
def listOffs (b : List Byte) (isB : Bool) : List Nat :=
  (List.range (mmaTiles b isB)).map fun i => (if isB then 144 else 80) + 4 * i

/-- Step 5 for an operand's tile list and scale fields. -/
def operandOk (b : List Byte) (isB : Bool) : Bool :=
  let n := mmaTiles b isB
  let o := if isB then 144 else 80
  (if mmaK b = 0 then n == 0 else decide (1 ≤ n ∧ n ≤ 16)) && zeros b (o + 4 * min n 16) (o + 64) &&
  ((listOffs b isB).all fun x => entryOk b x) &&
  decide (scaleMode b isB ≤ 2) && (scaleMode b isB != 0 || opScaleVA b isB == 0) &&
  (if scaleMode b isB = 1 then decide (numAt b (scaleOff isB + 9) 1 ≤ 2) else numAt b (scaleOff isB + 9) 1 == 0)

/-- Step 5 for the fields that MMA and SHEAF.FWD share. -/
def mmaFields (b : List Byte) : Bool :=
  let m := linesOf b false
  let n := linesOf b true
  decide (flagsOf b < 2 ^ 10 ∧ 1 ≤ m ∧ m ≤ 256 ∧ 1 ≤ n ∧ n ≤ 256 ∧ mmaK b ≤ 4096) && zeros b 26 28 && zeros b 58 64 &&
  zeros b 74 80 && operandOk b false && operandOk b true && entryOk b 28 &&
  (if flagOf b 2 then entryOk b 32 else zeros b 32 36) && (flagOf b 4 || zeros b 36 40) &&
  (if flagOf b 5 then aligned (wordAt b 40) 4 else zeros b 40 48)

/-- Bytes of an operand's explicit scales (R323). -/
def scaleBytes (b : List Byte) (isB : Bool) : Nat := linesOf b isB * ceilDiv (mmaK b) (scaleBlock b isB)

/-- Step 6 for the fields that MMA and SHEAF.FWD share. -/
def mmaPermit (c : Actr) (pav : Nat) (b : List Byte) : EM Unit := do
  let s ← get
  let own (o : Nat) : Bool := c.holds s (entryTile pav c.loc b o).loc
  let scale (isB : Bool) : Bool := match scaleMode b isB with
    | 0 => true
    | 1 => c.allows s false (opScaleVA b isB) (scaleBytes b isB)
    | _ => c.allows s false (opScaleVA b isB) 1
  EM.demand (own 28 && (!flagOf b 2 || own 32) && (listOffs b false).all own && (listOffs b true).all own &&
    scale false && scale true && (!flagOf b 5 || c.allows s false (wordAt b 40) 4)) stBounds

/-- The tiles of a command as they stand. -/
structure MmaTiles where
  out : TileRef × Tile
  cin : Option (TileRef × Tile)
  a : List (TileRef × Tile)
  b : List (TileRef × Tile)
  deriving DecidableEq, Repr

/-- Step 7. -/
def mmaFind (c : Actr) (pav : Nat) (b : List Byte) : EM MmaTiles := do
  let find (dst : Bool) (o : Nat) : EM (TileRef × Tile) := (entryTile pav c.loc b o).find dst
  let out ← find true 28
  let cin ← if flagOf b 2 then do let t ← find false 32; pure (some t) else pure none
  let a ← EM.collect (find false) (listOffs b false)
  let bb ← EM.collect (find false) (listOffs b true)
  pure { out := out, cin := cin, a := a, b := bb }

/-- The format of an operand; 0 when it has no tile. -/
def fmtOfTiles (ts : List (TileRef × Tile)) : Nat := match ts with | t :: _ => t.2.fmt.toNat | [] => 0

/-- An operand is scaled. -/
def isScaled (b : List Byte) : Bool := scaleMode b false != 0 || scaleMode b true != 0

/-- How a command computes; without operands the accumulator is that of C_in (R103, R322). -/
def MmaTiles.arith (t : MmaTiles) (b : List Byte) : Arith :=
  let fa := fmtOfTiles t.a
  let fb := fmtOfTiles t.b
  let cf := match t.cin with | some x => x.2.fmt.toNat | none => 0
  if mmaK b = 0 then
    { kind := if cf = 3 then .int8 else .flt, fa := 7, fb := 7, acc := if cf = 8 then Fmt.f64 else Fmt.a48 }
  else if fa = 8 then { kind := .flt, fa := 8, fb := 8, acc := Fmt.f64 }
  else
    { kind := if isScaled b then .flt else if fa = 1 then .int8 else if fa = 11 then .log6 else .flt, fa := fa, fb := fb
      acc := Fmt.a48 }

/-- The pair of operand formats is one of R322. -/
def pairOk (fa fb : Nat) : Bool :=
  let mid (f : Nat) : Bool := f == 5 || f == 6 || f == 7 || f == 9 || f == 10
  (fa == 8 && fb == 8) || (mid fa && mid fb) || (fa == 1 && fb == 1) || (fa == 11 && fb == 11)

/-- Step 8 (R322). -/
def MmaTiles.ok (t : MmaTiles) (b : List Byte) : Bool :=
  let m := linesOf b false
  let n := linesOf b true
  let shape (x : TileRef × Tile) : Bool := x.2.rows.toNat == m && x.2.cols.toNat == n
  let side (flag : Bool) (x : TileRef × Tile) : Nat := if flag then x.2.cols.toNat else x.2.rows.toNat
  let extent (flag : Bool) (x : TileRef × Tile) : Nat := if flag then x.2.rows.toNat else x.2.cols.toNat
  let total (flag : Bool) (ts : List (TileRef × Tile)) : Nat := ts.foldl (fun a x => a + extent flag x) 0
  let fa := fmtOfTiles t.a
  let fb := fmtOfTiles t.b
  let cf := match t.cin with | some x => x.2.fmt.toNat | none => 0
  (t.a.all fun x => side (flagOf b 0) x == m && x.2.fmt.toNat == fa) &&
  (t.b.all fun x => side (!flagOf b 1) x == n && x.2.fmt.toNat == fb) &&
  total (flagOf b 0) t.a == mmaK b && total (!flagOf b 1) t.b == mmaK b &&
  shape t.out && (match t.cin with | some x => shape x | none => true) &&
  (t.out.2.fmt.toNat == 3 || decide (5 ≤ t.out.2.fmt.toNat ∧ t.out.2.fmt.toNat ≤ 11)) &&
  (if mmaK b = 0 then t.cin.isNone || cf == 3 || decide (5 ≤ cf ∧ cf ≤ 11)
   else pairOk fa fb && !(fa == 8 && isScaled b) &&
     (t.cin.isNone || (if (t.arith b).kind = .int8 then cf == 3 else decide (5 ≤ cf ∧ cf ≤ 11))))

/-- The same tile and owner. -/
def sameTile (x y : TileRef × Tile) : Bool := x.1.loc == y.1.loc && x.1.slot == y.1.slot

/-! ## Scales (R323) -/

/-- Where the scales of a page lie: the page's base, its block count, block bytes and block elements, and e0. -/
structure PageScale where
  base : Nat
  blocks : Nat
  bytes : Nat
  elems : Nat
  first : Nat
  deriving DecidableEq, Repr

/-- The element index of byte o of a page's data area, for L6 that of the first element of its group (R92). -/
def elemIndex (fmt o : Nat) : Nat := if fmt = 11 then o / 3 * 4 else o * 8 / fmtBits fmt

/-- A page's attributes as an operand's scales, or FORMAT_SPLIT (step 11). -/
def pageScale (fmt count : Nat) (e : Word) (base size : Nat) (va : Word) : Option PageScale :=
  let geo := pteGeo e
  let x : PageScale :=
    { base := base, blocks := pageBlocks fmt geo size, bytes := blockBytes fmt geo, elems := geoBlock geo
      first := elemIndex fmt (va.toNat - base) }
  if pteFmt e = fmt ∧ 1 ≤ geo ∧ geo ≤ 3 ∧ va.toNat - base < x.blocks * x.bytes ∧ x.first + count ≤ x.blocks * x.elems then
    some x
  else none

/-- The address of the scale of block k, and the blocks that count elements take. -/
def PageScale.at (x : PageScale) (k : Nat) : Word := BitVec.ofNat 64 (x.base + x.blocks * x.bytes + k)

/-- Step 11 for an operand: its page's scale places, when its scales are the page's. -/
def operandPage (c : Actr) (b : List Byte) (isB : Bool) (fmt : Nat) : EM (Option PageScale) := do
  if scaleMode b isB = 2 ∧ mmaK b ≠ 0 then do
    let (e, base, n) ← c.attrs (opScaleVA b isB)
    match pageScale fmt (linesOf b isB * mmaK b) e base n (opScaleVA b isB) with
    | some x => pure (some x)
    | none => throw (.ends stSplit 0)
  else pure none

/-- The blocks of a page from that of its first element on that `count` elements take. -/
def PageScale.span (x : PageScale) (count : Nat) : Nat :=
  if count = 0 then 0 else (x.first + count - 1) / x.elems + 1 - x.first / x.elems

/-- The ranges of the scale bytes that a command reads (R317), as far as its pages can be read now. -/
def scaleRngs (c : Actr) (b : List Byte) (t : MmaTiles) (s : State) : List Rng :=
  let one (isB : Bool) (fmt : Nat) : List Rng :=
    if scaleMode b isB = 1 then [.va (opScaleVA b isB).toNat (scaleBytes b isB)]
    else match (operandPage c b isB fmt : EM (Option PageScale)) s with
      | (.ok (some x), _) => [.va (x.at (x.first / x.elems)).toNat (x.span (linesOf b isB * mmaK b))]
      | _ => []
  one false (fmtOfTiles t.a) ++ one true (fmtOfTiles t.b)

/-- The scale of each element of an operand, line by line. -/
def operandScales (c : Actr) (b : List Byte) (isB : Bool) (pg : Option PageScale) : EM (Nat → Nat → Option Nat) := do
  let k := mmaK b
  match pg with
  | some x => do
    let lo := x.first / x.elems
    let v ← c.num (.mem (x.at lo)) (x.span (linesOf b isB * k))
    pure fun i j => some (bitsOf v (8 * ((x.first + i * k + j) / x.elems - lo)) 8)
  | none =>
    if scaleMode b isB = 1 then do
      let v ← c.num (.mem (opScaleVA b isB)) (scaleBytes b isB)
      let w := ceilDiv k (scaleBlock b isB)
      pure fun i j => some (bitsOf v (8 * (i * w + j / scaleBlock b isB)) 8)
    else pure fun _ _ => none

/-! ## Operands and outputs -/

/-- The lines of an operand over k: `byRow` when its tiles' rows run along k. -/
def linesOver (byRow : Bool) (count : Nat) (ts : List (Tile × List Nat)) : List (List Nat) :=
  (List.range count).map fun i => ts.flatMap fun t =>
    let f := t.1.fmt.toNat
    if byRow then t.2.map fun row => rowElem f row i
    else (List.range t.1.cols.toNat).map fun j => rowElem f (t.2.getD i 0) j

/-- An operand as it enters the products. -/
def operandLines (c : Actr) (b : List Byte) (isB : Bool) (ts : List (TileRef × Tile)) (pg : Option PageScale) :
    EM (List (List Elem)) := do
  let rows ← EM.collect (fun t : TileRef × Tile => do let r ← c.tile t.1.loc t.2; pure (t.2, r)) ts
  let sc ← operandScales c b isB pg
  let byRow := if isB then !flagOf b 1 else flagOf b 0
  pure ((linesOver byRow (linesOf b isB) rows).mapIdx fun i l => l.mapIdx fun j x => (x, sc i j))

/-- The blocks of an M × N output in ascending block row, then column (R324). -/
def blocksOf (m n : Nat) : List (Nat × Nat) :=
  (List.range (ceilDiv m 32)).flatMap fun r => (List.range (ceilDiv n 32)).map fun c => (r, c)

/-- The greatest abs-max pattern merged into the word, as one step at its home (R324). -/
def absMerge (c : Actr) (va : Word) (x : Nat) : EM Unit := do
  match ← c.place va 4 true with
  | some f => do
    let s ← get
    EM.demand (!s.isBad f.a 4) stPoisoned
    EM.change fun s => s.pokeAt f (bytesOf 4 (max (s.num f.a 4) x))
  | none => pure ()

/-- How a command's rows come to be drained. -/
def drainOf (b : List Byte) (fmt : Nat) : Drain :=
  { fmt := fmt, mode := flagsOf b / 2 ^ 8 % 4, relu := flagOf b 3, scale := if flagOf b 4 then some (numAt b 36 4) else none }

/-- Active layers of a mask. -/
def layersOf (mask : Nat) : Nat := ((List.range 4).filter fun k => mask.testBit k).length

/-- Partials of a command (R106). -/
def partialsOf (mask : Nat) (exact : Bool) : Nat := if exact then 4 else layersOf mask

/-- What the product phase of a command works on: how it multiplies, accumulates and drains, its number of partials, the
lines of its operands, its C_in and C_out tiles, the number of its first block among its writes, and its abs-max word. -/
structure Product where
  ar : Arith
  d : Drain
  n : Nat
  as : List (List Elem)
  bs : List (List Elem)
  cin : Option (TileRef × Tile)
  out : TileRef × Tile
  first : Nat
  amax : Option Word

/-- Chunks of the product (R104). -/
def Product.count (x : Product) : Nat := ceilDiv (match x.as with | a :: _ => a.length | [] => 0) x.ar.kappa

/-- The partials of a block before its first chunk: its elements of C_in are read (R106, R324). -/
def Product.cinBlock (x : Product) (c : Actr) (br bc m n : Nat) : EM (List Partials) :=
  match x.cin with
  | some t => do
    let f := t.2.fmt.toNat
    let rows ← EM.collect (fun i => c.num (tileRow t.1.loc t.2 (32 * br + i)) (rowLen f t.2.cols.toNat)) (List.range m)
    pure (rows.flatMap fun r => (List.range n).map fun j =>
      Partials.start x.n (some (x.ar.enter f (rowElem f r (32 * bc + j)))))
  | none => pure (List.replicate (m * n) (Partials.start x.n none))

/-- The partials of a block as they were kept when it was stopped. -/
def Product.kept (x : Product) (k : BlockAt) (count : Nat) : List Partials :=
  (List.range count).map fun i =>
    { accs := (List.range x.n).map fun p => (k.parts.getD p none).map fun l => x.ar.ofBits (l.getD i 0) }

/-- A block is stopped before chunk j: what its partials hold is kept (R367). -/
def Product.keep (x : Product) (c : Actr) (j : Nat) (ps : List Partials) : EM Unit := do
  let part (p : Nat) : Option (List (BitVec 48)) :=
    if ps.all fun e => (e.accs.getD p none).isNone then none
    else some (ps.map fun e => match e.accs.getD p none with | some a => a.bits | none => 0)
  c.noteIf 32 (ps.any fun e => e.sat)
  c.noteIf 64 (ps.any fun e => e.accs.any fun a => match a with | some v => v.isNaN | none => false)
  EM.change fun s => s.updCmd c.cmd fun k => { k with cells := some { chunk := j, parts := (List.range x.n).map part } }

/-- The chunks of a stage of a block, each element of it in its row and column. -/
def Product.advance (x : Product) (as bs : List (List Elem)) (lo hi : Nat) (ps : List Partials) : List Partials :=
  let cut (l : List Elem) : List (List Elem) := ((chunksOf x.ar.kappa l.length l).drop lo).take (hi - lo)
  let ca := as.map cut
  let cb := bs.map cut
  ((ca.flatMap fun a => cb.map fun b => (a, b)).zip ps).map fun e => x.ar.chunks x.n lo e.1.1 e.1.2 e.2

/-- A block of a product (R324), which goes at most `left` chunks on, in F64 to the end of the block (R367): how many of
them are left after it. The block in progress is kept where it stops. -/
def Product.block (x : Product) (c : Actr) (u br bc : Nat) (left : Option Nat) : EM (Option Nat) := do
  let k ← c.self
  if u < k.wrote then pure left
  else do
    let at' := k.cells.getD {}
    if at'.chunk = 0 && left == some 0 then throw .rest
    let as := (x.as.drop (32 * br)).take 32
    let bs := (x.bs.drop (32 * bc)).take 32
    let ps ← if at'.chunk = 0 then x.cinBlock c br bc as.length bs.length else pure (x.kept at' (as.length * bs.length))
    let n := x.count
    let hi := match left with
      | some j => if x.ar.acc = Fmt.f64 then n else min n (at'.chunk + j)
      | none => n
    let qs := x.advance as bs at'.chunk hi ps
    if hi < n then do
      x.keep c hi qs
      throw .rest
    let els := qs.map fun q => x.d.out x.ar (x.ar.combine n q)
    let rows := (List.range as.length).map fun i => ((els.drop (i * bs.length)).take bs.length)
    let f := x.out.2.fmt.toNat
    c.noteIf 32 (els.any fun (o : OutEl) => o.sat)
    c.noteIf 64 (els.any fun (o : OutEl) => o.nan)
    c.write ((rows.mapIdx fun i r => ((tileRow x.out.1.loc x.out.2 (32 * br + i)).step (rowLen f (32 * bc)),
      rowBytes f (r.map fun (o : OutEl) => o.code))))
    let top := (els.map fun (o : OutEl) => absPattern f o.code).foldl max 0
    EM.change fun s => s.updCmd c.cmd fun k => { k with wrote := u + 1, cells := none, amax := max k.amax top }
    pure (left.map fun j => j - (hi - at'.chunk))

/-- The product phase: the blocks in order, then the merge of the abs-max word (R324). -/
def Product.run (x : Product) (c : Actr) (left : Option Nat) : EM Unit := do
  let bl := blocksOf x.as.length x.bs.length
  let _ ← EM.carry (fun l (e : (Nat × Nat) × Nat) => x.block c (x.first + e.2) e.1.1 e.1.2 l) left bl.zipIdx
  match x.amax with
  | some va => c.unit (x.first + bl.length) (do absMerge c va (← c.self).amax)
  | none => pure ()

/-! ## MMA -/

/-- Steps 5 to 9 for MMA; the ranges of R317. -/
def prepMma (c : Actr) (pav : Nat) (b : List Byte) : EM Prep := do
  EM.demand (mmaFields b && zeros b 208 256) stMalformed
  mmaPermit c pav b
  let t ← mmaFind c pav b
  EM.demand (t.ok b) stMalformed
  EM.demand (!((t.a ++ t.b).any fun x => sameTile x t.out)) stLocked
  let ins := t.a ++ t.b ++ t.cin.toList
  pure { tiles := t.out.1 :: ins.map fun x => x.1
         srcs := (ins.map fun x => tileRng x.1.loc x.2) ++ scaleRngs c b t (← get)
         dsts := [tileRng t.out.1.loc t.out.2] }

/-- Step 11 for MMA and SHEAF.FWD; the scale bytes of a page that could not be read at acceptance are locked now. -/
def splitMma (c : Actr) (pav : Nat) (b : List Byte) : EM Unit := do
  let t ← mmaFind c pav b
  let _ ← operandPage c b false (fmtOfTiles t.a)
  let _ ← operandPage c b true (fmtOfTiles t.b)
  EM.each c.lockSource (scaleRngs c b t (← get))

/-- How a command computes and drains, with its operands read. -/
def Product.ofBlock (c : Actr) (pav : Nat) (b : List Byte) (mask : Nat) (exact : Bool) (first : Nat) : EM Product := do
  let t ← mmaFind c pav b
  let pa ← operandPage c b false (fmtOfTiles t.a)
  let pb ← operandPage c b true (fmtOfTiles t.b)
  let as ← operandLines c b false t.a pa
  let bs ← operandLines c b true t.b pb
  pure { ar := t.arith b, d := drainOf b t.out.2.fmt.toNat, n := partialsOf mask exact, as := as, bs := bs, cin := t.cin
         out := t.out, first := first, amax := if flagOf b 5 then some (wordAt b 40) else none }

/-- MMA on the cells (R324). -/
def runMma (c : Actr) (pav : Nat) (b : List Byte) (mask : Nat) (exact : Bool) (left : Option Nat) : EM Unit := do
  let x ← Product.ofBlock c pav b mask exact 0
  x.run c left

/-! ## SHEAF.FWD (R327-R330) -/

/-- Step 5 for the fields of SHEAF.FWD alone. -/
def fwdFields (b : List Byte) : Bool :=
  !flagOf b 2 && decide (1 ≤ numAt b 216 1 ∧ numAt b 216 1 ≤ 16 ∧ numAt b 217 1 ≤ 1) &&
  !(numAt b 217 1 == 1 && scaleMode b false != 0) && zeros b 218 224 && zeros b 240 256 &&
  aligned (wordAt b 208) 4 && aligned (wordAt b 224) 4 && aligned (wordAt b 232) 8

/-- Steps 5 to 9 for SHEAF.FWD. -/
def prepFwd (c : Actr) (pav : Nat) (b : List Byte) : EM Prep := do
  EM.demand (mmaFields b && fwdFields b) stMalformed
  let m := linesOf b false
  let planes := 4 * mmaK b * numAt b 216 1
  mmaPermit c pav b
  c.permit (wordAt b 208) planes
  c.permit (wordAt b 224) (4 * m)
  c.permit (wordAt b 232) (8 + 8 * m)
  let t ← mmaFind c pav b
  EM.demand (t.ok b) stMalformed
  EM.demand (!((t.a ++ t.b).any fun x => sameTile x t.out)) stLocked
  let ins := t.a ++ t.b
  pure { tiles := t.out.1 :: ins.map fun x => x.1
         srcs := (ins.map fun x => tileRng x.1.loc x.2) ++ scaleRngs c b t (← get) ++ [.va (wordAt b 208).toNat planes]
         dsts := [tileRng t.out.1.loc t.out.2, .va (wordAt b 224).toNat (4 * m), .va (wordAt b 232).toNat (8 + 8 * m)] }

/-- The exact sum of a row with one plane: true when it is above zero; none makes the row a NaN row (R328). -/
def signBit (row plane : List FVal) : Option Bool :=
  let step (acc : Option FVal) (x : FVal × FVal) : Option FVal :=
    match acc, x.1.mul x.2 with
    | some a, some p => if p.isNaN then none else a.add 0 p
    | _, _ => none
  match (row.zip plane).foldl step (some (.fin false 0 0)) with
  | some v => if v.isNaN then none else some (v.cmp (.fin false 0 0) == .gt)
  | none => none

/-- A product of a row with a plane is a NaN (R113; log entry 96). -/
def nanProduct (row plane : List FVal) : Bool :=
  (row.zip plane).any fun x => match x.1.mul x.2 with | some p => p.isNaN | none => true

/-- A row's signature, or none for a NaN row. -/
def signature (row : List FVal) (planes : List (List FVal)) : Option Nat :=
  if row.any FVal.isNaN then none
  else
    (planes.zipIdx).foldl (fun acc p =>
      match acc, signBit row p.1 with
      | some a, some b => some (a + b.toNat * 2 ^ p.2)
      | _, _ => none) (some 0)

/-- The representative row of row m: the lowest with its signature; a NaN row's is itself (R329). -/
def repOf (sigs : List (Option Nat)) (m : Nat) : Nat :=
  match sigs.getD m none with
  | none => m
  | some x => (findAt (fun y => y == some x) sigs).getD m

/-- A value divided by a count, rounded once to a format under RNE. -/
def Fmt.divNat (f : Fmt) (v : FVal) (n : Nat) : Nat :=
  match v with
  | .fin s m e =>
    if m = 0 then f.sgn s
    else
      let k := f.fw + 4 + Nat.log2 n
      f.round 0 s (m * 2 ^ k / n) (e - k) (decide (m * 2 ^ k % n ≠ 0))
  | v => f.code 0 v

/-- MEAN at one k: the members' values in ascending row order, in A48 (R329). -/
def meanOf : List FVal → FVal
  | [] => .fin false 0 0
  | x :: r =>
    let s := r.foldl (fun a y => match a.add 0 y with | some v => roundTo Fmt.a48 v | none => Fmt.a48.value Fmt.a48.defNaN) x
    Fmt.a48.value (Fmt.a48.divNat s (r.length + 1))

/-- The representative vector of a bucket (R329). -/
def repVector (fa : Nat) (isMean : Bool) (rows : List (List Elem)) (sigs : List (Option Nat)) (rep : Nat) : List Elem :=
  let own := rows.getD rep []
  if !isMean || (sigs.getD rep none).isNone then own
  else
    let members := ((List.range rows.length).filter fun m => repOf sigs m == rep).map fun m => rows.getD m []
    (List.range own.length).map fun k =>
      (fmtCode fa 0 (meanOf (members.map fun r => elemValue fa (r.getD k (0, none)))), none)

/-- The map word of a row (R330). -/
def mapWord (sig : Option Nat) (rep : Nat) : Nat := sig.getD 0 + rep * 2 ^ 16 + (if sig.isNone then 2 ^ 31 else 0)

/-- The bucket table of R330. -/
def bucketTable (sigs : List (Option Nat)) : List Byte :=
  let reps := (List.range sigs.length).filter fun m => repOf sigs m == m
  let count (r : Nat) : Nat := ((List.range sigs.length).filter fun m => repOf sigs m == r).length
  let entry (r : Nat) : List Byte :=
    let g := sigs.getD r none
    bytesOf 8 (g.getD 0 + r * 2 ^ 16 + count r * 2 ^ 32 + (if g.isNone then 2 ^ 48 else 0))
  bytesOf 4 reps.length ++ bytesOf 4 0 ++ reps.flatMap entry

/-- Step 11 for SHEAF.FWD: its planes are read as F32 (R137). -/
def splitFwd (c : Actr) (pav : Nat) (b : List Byte) : EM Unit := do
  splitMma c pav b
  c.uniform [(wordAt b 208, 4 * mmaK b * numAt b 216 1)]

/-- SHEAF.FWD (R327-R330): the map, the bucket table, then the product of each row's representative vector. -/
def runFwd (c : Actr) (pav : Nat) (b : List Byte) (mask : Nat) (exact : Bool) (left : Option Nat) : EM Unit := do
  let x ← Product.ofBlock c pav b mask exact 2
  let as := x.as
  let k := mmaK b
  let pl ← EM.collect (fun j => c.num (.mem (wordAt b 208 + BitVec.ofNat 64 (4 * k * j))) (4 * k)) (List.range (numAt b 216 1))
  let planes := pl.map fun x => (List.range k).map fun i => Fmt.f32.value (bitsOf x (32 * i) 32)
  let vals := as.map fun r => r.map (elemValue x.ar.fa)
  let sigs := vals.map fun r => signature r planes
  let reps := (List.range as.length).map fun m => repOf sigs m
  c.noteIf 64 (vals.any (fun r => r.any FVal.isNaN) || planes.any (fun r => r.any FVal.isNaN) ||
    vals.any fun r => planes.any fun p => nanProduct r p)
  c.unit 0 (c.write [(.mem (wordAt b 224), (sigs.zip reps).flatMap fun x => bytesOf 4 (mapWord x.1 x.2))])
  c.unit 1 (c.write [(.mem (wordAt b 232), bucketTable sigs)])
  let rep := reps.map fun m => repVector x.ar.fa (numAt b 217 1 == 1) as sigs m
  ({ x with as := rep } : Product).run c left

/-! ## SHEAF.BWD (R331) -/

/-- Steps 5 to 9 for SHEAF.BWD. -/
def prepBwd (c : Actr) (pav : Nat) (b : List Byte) : EM Prep := do
  let m := linesOf b false
  let n := linesOf b true
  EM.demand (flagsOf b == 0 && decide (1 ≤ m ∧ m ≤ 256 ∧ 1 ≤ n ∧ n ≤ 256) && zeros b 20 24 && zeros b 40 128 &&
    entryOk b 24 && entryOk b 28 && aligned (wordAt b 32) 4) stMalformed
  let s ← get
  EM.demand (c.holds s (entryTile pav c.loc b 24).loc && c.holds s (entryTile pav c.loc b 28).loc &&
    c.allows s false (wordAt b 32) (4 * m)) stBounds
  let g ← (entryTile pav c.loc b 24).find false
  let o ← (entryTile pav c.loc b 28).find true
  let shape (x : TileRef × Tile) : Bool := x.2.rows.toNat == m && x.2.cols.toNat == n
  EM.demand (shape g && shape o && decide (5 ≤ g.2.fmt.toNat ∧ g.2.fmt.toNat ≤ 7) && o.2.fmt.toNat == 7) stMalformed
  pure { tiles := [o.1, g.1], srcs := [tileRng g.1.loc g.2, .va (wordAt b 32).toNat (4 * m)]
         dsts := [tileRng o.1.loc o.2] }

/-- The map is one that SHEAF.FWD can have written (R331). -/
def mapOk (ws : List Nat) : Bool :=
  (ws.zipIdx).all fun x =>
    let rep := bitsOf x.1 16 8
    decide (rep < ws.length ∧ rep ≤ x.2) && bitsOf (ws.getD rep 0) 16 8 == rep && bitsOf x.1 24 7 == 0 &&
    !(x.1.testBit 31 && bitsOf x.1 0 16 != 0)

/-- The members' values added in ascending row order in F32; +0 where there is none. -/
def sumF32 : List Nat → Nat
  | [] => 0
  | x :: r => r.foldl (Fmt.f32.add 0) x

/-- SHEAF.BWD (R331). -/
def runBwd (c : Actr) (pav : Nat) (b : List Byte) : EM Unit := do
  let m := linesOf b false
  let g ← (entryTile pav c.loc b 24).find false
  let o ← (entryTile pav c.loc b 28).find true
  let w ← c.num (.mem (wordAt b 32)) (4 * m)
  let ws := (List.range m).map fun i => bitsOf w (32 * i) 32
  EM.demand (mapOk ws) stMalformed
  let rows ← c.tile g.1.loc g.2
  let f := g.2.fmt.toNat
  let wide := rows.map fun r => (List.range g.2.cols.toNat).map fun j => Fmt.f32.code 0 (fmtValue f (rowElem f r j))
  let sum (r : Nat) : List Nat :=
    let ms := (List.range m).filter fun i => bitsOf (ws.getD i 0) 16 8 == r
    (List.range g.2.cols.toNat).map fun j => sumF32 (ms.map fun i => (wide.getD i []).getD j 0)
  let sums := (List.range m).map sum
  let isNaN (x : List Nat) : Bool := x.any Fmt.f32.isNaN
  c.noteIf 64 (wide.any isNaN || sums.any isNaN)
  c.units 0 (fun r => c.row (tileRow o.1.loc o.2 r) (rowLen 7 g.2.cols.toNat) (pure (rowBytes 7 (sums.getD r [])))) (List.range m)

end Sys2Proof.Machine
end

