-- ==== Sys2Proof/Machine/Save.lean ====
section
/-! DEFINITION. What a Pavilion saves when a launch is pre-empted, and how a stopped command goes on from its record
(21_system R364 step 3, R366-R368; 05_numbers R94, R95, R107). -/

namespace Sys2Proof.Machine

open Sys2Proof

/-! ## Where a stop falls (R367) -/

/-- The number of the first output block among a command's writes: SHEAF.FWD writes its map and its table before. -/
def Cmd.firstBlock (c : Cmd) : Nat := if c.code = 0x0102 then 2 else 0

/-- The command has a product phase: MMA or SHEAF.FWD. -/
def Cmd.multiplies (c : Cmd) : Bool := c.code == 0x0101 || c.code == 0x0102

/-- A stopped command runs again from its start: SHEAF.BWD, and SHEAF.FWD until its map and table are written (log entry
30). -/
def Cmd.restarts (c : Cmd) : Bool := c.code == 0x0103 || (c.code == 0x0102 && decide (c.wrote < 2))

/-- The block row and column that a command is at. -/
def Cmd.blockNow (c : Cmd) : Nat × Nat :=
  let cols := ceilDiv (linesOf c.block true) 32
  ((c.wrote - c.firstBlock) / cols, (c.wrote - c.firstBlock) % cols)

/-- Every block of a command is drained: what is left is its abs-max merge, which no record can say (log entry 30). -/
def Cmd.drained (c : Cmd) : Bool :=
  c.multiplies && decide (c.firstBlock + ceilDiv (linesOf c.block false) 32 * ceilDiv (linesOf c.block true) 32 ≤ c.wrote)

/-- The command cannot be stopped any more: it has ended, or only its abs-max merge is left. -/
def Cmd.stands (c : Cmd) : Bool := (match c.phase with | .done _ _ => true | _ => false) || c.drained

/-! ## The save area (R366, R367) -/

/-- The address of record j of a launch. -/
def Launch.recordVA (x : Launch) (j : Nat) : Word := x.lr.save + BitVec.ofNat 64 (256 * j)

/-- The address of row r of partial p in slot j of a launch. -/
def Launch.slotVA (x : Launch) (j p r : Nat) : Word :=
  x.lr.save + BitVec.ofNat 64 (1024 * ceilDiv (256 * (x.lr.pavilions x.mod).length) 1024 + 24576 * j + 6144 * p + 192 * r)

/-- Bytes 0 to 31 of the record of a command that stands on the cells. -/
def Cmd.recordHead (c : Cmd) (exact : Bool) : List Byte :=
  let (br, bc) := if c.restarts then (0, 0) else c.blockNow
  let k : BlockAt := c.cells.getD {}
  let live := (k.parts.zipIdx).foldl (fun a x => if x.1.isSome then a + 2 ^ x.2 else a) 0
  let atBlock := c.begun && c.multiplies && !c.restarts && c.cells.isNone
  bytesOf 8 c.va.toNat ++ bytesOf 4 (threadCode c.key) ++ bytesOf 4 c.seq.toNat ++ bytesOf 1 br ++ bytesOf 1 bc ++
  bytesOf 2 k.chunk ++ bytesOf 1 (c.mask + 16 * exact.toNat + (c.det &&& 96)) ++ bytesOf 1 live ++
  bytesOf 2 (atBlock.toNat + 2 * c.restarts.toNat) ++ bytesOf 4 c.amax ++ bytesOf 4 0

/-- The 256 bytes of a save record: the command on the cells, or the holder of the lease alone, and the pushes removed. -/
def saveRecord (c : Option Cmd) (exact : Bool) (holder : Nat) (rm : List Push) : List Byte :=
  let head := match c with
    | some c => c.recordHead exact
    | none => bytesOf 8 0 ++ bytesOf 4 holder ++ bytesOf 20 0
  let push (p : Push) : List Byte := bytesOf 8 p.v.toNat ++ bytesOf 4 (threadCode p.key) ++ bytesOf 4 p.seq.toNat
  sliceBytes (head ++ (rm.take 14).flatMap push) 0 256

/-- The bytes of the partials of a block in progress, row by row, where they are saved. -/
def Launch.partRows (x : Launch) (j : Nat) (c : Cmd) : List (Word × List Byte) :=
  let w := min 32 (linesOf c.block true - 32 * c.blockNow.2)
  match c.cells with
  | none => []
  | some k => (k.parts.zipIdx).flatMap fun e =>
    match e.1 with
    | none => []
    | some l => (chunksOf w l.length l).mapIdx fun r row => (x.slotVA j e.2 r, row.flatMap fun v => bytesOf 6 v.toNat)

/-! ## Saving -/

/-- The Pavilion as it saves and reads back for a launch: with a supervisor's rights. -/
def Launch.saver (x : Launch) (p id : Nat) (deny : Option Word) : Actr :=
  let l := p / 64 * 4 * 256 + coreOf (p % 64) 0
  { cmd := id, loc := l, key := keyOf l 0, user := false, launch := x.id, lmod := x.mod, deny := deny }

/-- How a save goes. -/
inductive SaveRes where
  | done
  | parked
  | standing
  deriving DecidableEq, Repr

/-- A Pavilion that has been saved lets go: its stopped command and its intake are set aside, and its lease is freed. -/
def State.letGo (s : State) (x : Launch) (p : Nat) (cmd : Option Cmd) (holder : Option Nat) : State :=
  let mine (id : W32) (m : Nat) : Bool := id == x.id && m == x.mod
  let uid := (s.lease p).holder.getD 0
  let pusher := match cmd with | some c => c.uid | none => if holder.isSome then uid else 0
  let rest (c : Cmd) : Cmd :=
    if c.restarts then { c with phase := .saved, restore := true, wrote := 0, cells := none }
    else { c with phase := .saved, restore := true }
  let s := { s with
    pushes := mapIf (fun q => q.eng == Eng.pavilion p && mine q.launch q.lmod) (fun q => { q with held := true }) s.pushes
    cmds := match cmd with | some k => mapIf (fun c => c.id == k.id) rest s.cmds | none => s.cmds }
  let s := s.updLaunch x.id x.mod fun y => { y with saved := y.saved ++ [(p, pusher, (cmd.map (fun c : Cmd => c.id)).getD 0)] }
  let s := s.updLease p fun l => { l with saving := none }
  match holder with
  | some k => if mine (s.frame k).launch (s.frame k).lmod then s.freeLease p uid else s
  | none => s

/-- Step 3 of R364 for one Pavilion, number j of the launch: the command on the cells is saved and its intake listed, and the
lease is freed. With a save area of 0 a command on the cells runs to completion first. A save write that faults is
parked; a DENY of it ends the command FAULTED and lets the lease go without a record. -/
def State.savePav (s : State) (x : Launch) (j p : Nat) : State × SaveRes :=
  let here (c : Cmd) : Bool := c.onCells p && c.launch == x.id && c.lmod == x.mod
  let cmd := s.cmds.find? here
  let holder := (s.lease p).holder.bind fun u => s.keyOfUid u
  let ours := match holder with | some k => (s.frame k).launch == x.id && (s.frame k).lmod == x.mod | none => false
  let rm := (s.intake (Eng.pavilion p)).filter fun q => q.launch == x.id && q.lmod == x.mod
  if cmd.isNone && !ours then (s, .done)
  else
    match (s.lease p).saving with
    | some (_, false) => (s, .parked)
    | some (_, true) => if cmd.isSome then (s, .standing) else (s.letGo x p none holder, .done)
    | none =>
      if (match cmd with | some c => c.stands || x.lr.save == 0 | none => false) then (s, .standing)
      else if x.lr.save = 0 then (s.letGo x p cmd holder, .done)
      else
        let id := match cmd with | some c => c.id | none => s.nextId
        let exact := match cmd with | some c => s.exact c | none => false
        let c := x.saver p id none
        let record := (x.recordVA j, saveRecord cmd exact ((holder.map threadCode).getD 0) rm)
        let parts := match cmd with | some c => x.partRows j c | none => []
        match (c.write ((record :: parts).map fun e => (.mem e.1, e.2)) : EM Unit) s with
        | (.ok _, t) => (t.letGo x p cmd holder, .done)
        | (.error (.park h r b n va w), t) =>
          match t.park h r b n (.engine id) va { write := w, user := false } x.id x.mod with
          | some t => ({ t.updLease p (fun l => { l with saving := some (id, false) }) with nextId := t.nextId + 1 }, .parked)
          | none => (t, .parked)
        | (.error .lock, t) => (t, .standing)
        | (.error _, t) =>
          match cmd with
          | some c => (t.updCmd c.id fun c => { c with phase := .done stFaulted c.endDetail }, .standing)
          | none => (t.letGo x p none holder, .done)

/-- Step 3 of R364 on every Pavilion of the region; true when each has been let go. -/
def State.savePavs (s : State) (x : Launch) : State × Bool :=
  let rec go (s : State) (j : Nat) : List Nat → State × Bool
    | [] => (s, true)
    | p :: r =>
      match s.savePav x j p with
      | (s, .done) => go s (j + 1) r
      | (s, _) => let (s, _) := go s (j + 1) r; (s, false)
  go s 0 (x.lr.pavilions x.mod)

/-- The Pavilion whose parked save write has this number (R367). -/
def State.savedAt (s : State) (id : Nat) : Option Nat :=
  (s.leases.find? fun e => e.2.saving == some (id, false)).map fun e => e.1

/-! ## Going on (R368) -/

/-- The partials of the block that a record names, as its slot holds them. -/
def Launch.readParts (x : Launch) (c : Actr) (j live n h w : Nat) : EM (List (Option (List (BitVec 48)))) :=
  EM.collect (fun p =>
    if live.testBit p then do
      let rows ← EM.collect (fun r => c.read (.mem (x.slotVA j p r)) (6 * w)) (List.range h)
      pure (some (rows.flatMap fun bs => (List.range w).map fun i => BitVec.ofNat 48 (numAt bs (6 * i) 6)))
    else pure none) (List.range n)

/-- A stopped command reads its record back: its mask, mode and flags, and where it goes on. Which command it is and which
pushes were removed the device itself knows (log entry 95). -/
def Launch.readBack (x : Launch) (c : Actr) (j : Nat) (k : Cmd) : EM Unit := do
  let r ← c.read (.mem (x.recordVA j)) 256
  let f := numAt r 20 1
  let mask := f % 16
  let exact := f.testBit 4
  let flags := numAt r 22 1
  let back (k : Cmd) : Cmd :=
    { k with mask := mask, exact := exact, det := f &&& 96, amax := numAt r 24 4, restore := false }
  if !k.begun then EM.change fun s => s.updCmd c.cmd fun k => { k with restore := false }
  else if flags.testBit 1 || !k.multiplies then
    EM.change fun s => s.updCmd c.cmd fun k => { back k with wrote := 0, cells := none }
  else do
    let br := numAt r 16 1
    let bc := numAt r 17 1
    let u := k.firstBlock + br * ceilDiv (linesOf k.block true) 32 + bc
    let h := min 32 (linesOf k.block false - 32 * br)
    let w := min 32 (linesOf k.block true - 32 * bc)
    if flags.testBit 0 then EM.change fun s => s.updCmd c.cmd fun k => { back k with wrote := u, cells := none }
    else do
      let ps ← x.readParts c j (numAt r 21 1) (partialsOf mask exact) h w
      EM.change fun s => s.updCmd c.cmd fun k =>
        { back k with wrote := u, cells := some { chunk := numAt r 18 2, parts := ps } }

/-- A stopped command of a Pavilion reads its record back, once; every other command has none. -/
def Cmd.goOn (k : Cmd) (deny : Option Word) : EM Unit := do
  let s ← get
  match k.restore, k.eng, s.launchOf k.launch k.lmod with
  | true, .pavilion p, some x => x.readBack (x.saver p k.id deny) ((findAt (· == p) (x.lr.pavilions x.mod)).getD 0) k
  | _, _, _ => pure ()

end Sys2Proof.Machine
end

