-- ==== Sys2Proof/Machine/Sys.lean ====
section
/-! DEFINITION. System registers, traps and their return, context switching, translation control and pre-emption,
major 0x3C (13_isa_scalar R236-R252). -/

namespace Sys2Proof.Machine

open Sys2Proof

/-! ## System registers (R195, R236-R244) -/

/-- `units` of a module (R33). -/
def unitsWord (p : Part) : Word :=
  let st (pav : Nat) : Nat := pav / 64 % 16
  let bit (s : Nat) : Nat :=
    (p.absentLayers.all fun e => st e.1 != s).toNat + 2 * (p.absentSheaf.all fun q => st q != s).toNat +
      4 * (p.absentTrellis.all fun q => q / 64 / 4 % 16 != s).toNat + 8 * (p.absentChain.all fun l => Loc.stack l != s).toNat
  BitVec.ofNat 64 ((List.range 16).foldl (fun a s => a + bit s * 2 ^ (4 * s)) 0)

/-- The reading in force of a quad, in units of 1/8 °C (R75). -/
def Die.temp (d : Die) (q : Nat) : Int := d.reading.get 0 q

/-- The rank of a core in the Shade table: 0 coolest, ties to the lower index; by index alone on a die at fixed
clock (R75, R242, R370). -/
def Die.rank (d : Die) (c : Nat) : Nat :=
  if d.dfix then c
  else
    let t (c : Nat) : Int := d.temp (Loc.quad c)
    ((List.range 256).filter fun x => decide (t x < t c ∨ (t x = t c ∧ x < c))).length

/-- `shadesel` as a core of the die reads it (R242). -/
def Die.shadesel (d : Die) (sel : Nat) : Word :=
  let q := Loc.quad sel
  BitVec.ofNat 64 (sel + d.rank sel * 2 ^ 8 + ofInt 12 (d.temp q) * 2 ^ 16 + (d.failed.getLsbD q).toNat * 2 ^ 28 +
    d.dfix.toNat * 2 ^ 29 + d.hot.toNat * 2 ^ 32)

/-- `clock` on a module (R238; log entry 2). -/
def State.clock (s : State) (m : Nat) : Word :=
  if (s.module m).ready then BitVec.ofNat 64 (s.clk - (s.module m).epoch) else 0

/-- A system register as the thread in issue reads it. -/
def State.readS (s : State) (n : SReg) : Word :=
  let l := s.cur.loc
  let c := s.core l
  match n with
  | .tstat => s.my.tstat
  | .tid => BitVec.ofNat 64 (s.cur.slot + 8 * l)
  | .kid => s.my.launch.setWidth 64
  | .clock => s.clock (Loc.module l)
  | .units => unitsWord (s.module (Loc.module l)).part
  | .trapcause => c.trapcause
  | .trapva => c.trapva
  | .trappc => c.trappc
  | .ctxbase => c.ctxbase
  | .evtmask => c.evtmask
  | .shadesel => (s.die (Loc.dieId l)).shadesel c.sel.toNat
  | .ptroot => (s.die (Loc.dieId l)).ptroot

/-- `ptroot` of a die written (R119, R244). -/
def State.writePtroot (s : State) (d : DieId) (v : Word) : State :=
  s.updDie d fun x => { x with ptroot := v &&& (BitVec.ofNat 64 (2 ^ 35 - 64) ||| 1) }

/-- The registers that only supervisor code reads (R195). -/
def SReg.secret : SReg → Bool
  | .tstat => false | .tid => false | .kid => false | .clock => false | .units => false | _ => true

/-- A supervisor's write of a system register (R195, R236). `tid`, `kid`, `clock` and `units` are not written. -/
def State.writeS (s : State) (n : SReg) (v : Word) : State :=
  let l := s.cur.loc
  match n with
  | .tstat => s.updMy fun f => f.writeTstat v
  | .trapcause => s.updCore l fun c => { c with trapcause := zext 19 v }
  | .trapva => s.updCore l fun c => { c with trapva := v }
  | .trappc => s.updCore l fun c => { c with trappc := v }
  | .ctxbase => s.updCore l fun c => { c with ctxbase := zext 57 v &&& ~~~3#64 }
  | .evtmask => s.updCore l fun c => { c with evtmask := zext 16 v }
  | .shadesel =>
    let t := fieldOf v 32 7
    (s.updCore l fun c => { c with sel := v.setWidth 8 }).updDie (Loc.dieId l) fun d =>
      { d with hot := BitVec.ofNat 7 (if t < 60 then 60 else if 125 < t then 125 else t) }
  | .ptroot => s.writePtroot (Loc.dieId l) v
  | _ => s

/-- movs (R195, R236, R243). A supervisor's write of `tstat` keeps the SOLO, LRV and LANE it wrote. -/
def execMovs (n : SReg) (a : Reg) (s : State) : Host.Outcome State Fault Refusal :=
  issue (fun s =>
    let fixed := n == .tid || n == .kid || n == .clock || n == .units
    if s.my.priv then
      if fixed then .trap .reservedField 0 0
      else src s a false fun v s =>
        if n = .tstat then .keep (s.writeS n v) true true
        else
          let woken (s : State) : State :=
            if n = .evtmask then s.wake fun k f => keyLoc k == s.cur.loc && f.wait == some .waitev && (s.core s.cur.loc).evtReady else s
          .done (woken (s.writeS n v)) .seq
    else if n = .tstat then
      src s a false fun v s =>
        .done (s.updMy fun f => (f.setT 2 2 (fieldOf v 2 2)).setT 4 1 (fieldOf v 4 1)) .seq
    else .trap .privilege 0 0) s

/-- movfs (R195, R236). -/
def execMovfs (d : Reg) (n : SReg) (s : State) : Host.Outcome State Fault Refusal :=
  issue (fun s =>
    if SReg.secret n && !s.my.priv then .trap .privilege 0 0
    else put s d (s.readS n) fun s => .done s .seq) s

/-! ## Traps and return (R245-R247) -/

/-- trap: TCODE is n (R245). -/
def execTrap (n : BitVec 3) (s : State) : Host.Outcome State Fault Refusal :=
  issue (fun _ => .trap .trap 0 n.toNat) s

/-- brk (R245). -/
def execBrk (s : State) : Host.Outcome State Fault Refusal := issue (fun _ => .trap .break 0 0) s

/-- rfe: in the handler frame only (R246). -/
def execRfe (s : State) : Host.Outcome State Fault Refusal :=
  issue (fun s => supervisor s fun _ =>
    if s.cur.frame ≠ 32 then .trap .privilege 0 0
    else .gone ((s.updMy fun f => f.tick false false).rfe s.cur.loc s.cur.slot)) s

/-- waitev (R247). -/
def execWaitev (d : Reg) (s : State) : Host.Outcome State Fault Refusal :=
  issue (fun s => supervisor s fun _ =>
    let c := s.core s.cur.loc
    if c.evtReady then put s d (BitVec.ofNat 64 c.qevt.length) fun s => .done s .seq else .waitFor .waitev) s

/-! ## Context switching (R248) -/

/-- ctx.sw: in the handler frame it names the return frame; elsewhere the slot is rebound at once. -/
def execCtxSw (a : Reg) (s : State) : Host.Outcome State Fault Refusal :=
  issue (fun s => supervisor s fun _ => src s a false fun v s =>
    let l := s.cur.loc
    let f := fieldOf v 0 5
    if s.cur.frame = 32 then .done (s.updCore l fun c => { c with retFrame := some f }) .seq
    else if s.canSwitch l f then
      let k := s.me
      let n := s.cur.slot
      .after s fun t =>
        let t := (t.unbind l n).ready k
        (t.updCore l fun c => { c with fifo := c.fifo.filter (· != f) }).bind l n f
    else .done s .seq) s

/-! ## Translation control (R249, R250) -/

/-- The units that may translate an address (R148, R249). -/
def invTargets (h : Home) : List Home :=
  match h with
  | .slice d _ => (List.range 64).map fun q => .slice d q
  | h => [h]

/-- tlb.inv: a request to each unit, and the slot held until all have acknowledged (R249). -/
def execTlbInv (a : Reg) (s : State) : Host.Outcome State Fault Refusal :=
  issue (fun s => supervisor s fun _ =>
    match s.my.pend with
    | .got (.fail c va) => .trap c va 0
    | .sent n => if s.net.any fun p => p.uid == s.my.uid && p.kind == .tlbInv n then .wait else .done s .seq
    | _ => src s a false fun va s =>
      if vaBad va then .trap .protection va 0
      else if !s.myStoresDone then .wait
      else match s.homeAt s.cur.loc s.my.launch s.my.lmod va with
        | .denied => .trap .protection va 0
        | .fetching => .hold (s.askSpread va)
        | .home h =>
          let n := s.nextId
          let s := (invTargets h).foldl (fun t h => t.send { t.mkPkt (.tlbInv n) h va with fan := [] }) s
          .hold (s.updMy fun f => { f with pend := .sent n })) s

/-- Bytes [lo, lo + n) as memory that nothing has written. -/
def State.blank (s : State) (lo n : Nat) : State :=
  { s with mem := s.mem.filter fun c => !decide (lo ≤ c.1 ∧ c.1 < lo + n)
           bad := s.bad.filter fun d => !decide (lo ≤ d * 8 ∧ d * 8 + 8 ≤ lo + n) }

/-- sec.flush (R250). -/
def execSecFlush (s : State) : Host.Outcome State Fault Refusal :=
  issue (fun s => supervisor s fun _ =>
    let l := s.cur.loc
    let c := s.core l
    if !c.sb.isEmpty || c.slots.toList.any fun x => !x.tsb.isEmpty then .wait
    else
      let s := s.updCore l fun c => { c with slots := c.slots.map (fun x => { x with ibuf := [] }), spread := [] }
      let s := s.updHome (.core l) fun h => { h with tlb := [] }
      let wipe (t : State) (f : Nat) : State :=
        if (t.frame (keyOf l f)).used then t else t.setFrame (keyOf l f) { full := 0 }
      let s := (List.range 32).foldl wipe s
      let used := 256 * c.spill.length
      .done (s.blank (spillAt l + used) (0x40000 - used)) .seq) s

/-! ## Pre-emption (R251, R252) -/

/-- preempt goes on until the launch's threads have been put away and every Pavilion of the launch has been let go; then an
issuer of the launch is put away itself, after the instruction (R251, R364). -/
def preemptGoOn (s : State) (x : Launch) : Eff :=
  let s := s.putAllAway x s.me
  match if s.allAway x s.me then s.savePavs x else (s, false) with
  | (s, false) => .hold (s.updMy fun f => { f with pend := .got (.val 0) })
  | (s, true) =>
    let k := s.me
    if s.my.launch = x.id ∧ s.my.lmod = x.mod ∧ s.cur.frame ≠ 32 then .after s fun t => t.putAway k else .done s .seq

/-- preempt (R251). -/
def execPreempt (a : Reg) (s : State) : Host.Outcome State Fault Refusal :=
  issue (fun s => supervisor s fun _ => src s a false fun v s =>
    let m := Loc.module s.cur.loc
    match s.launchOf (v.setWidth 32) m with
    | none => .done s .seq
    | some x =>
      match x.status, s.my.pend with
      | .pending, _ => .done (s.updLaunch x.id m fun y => { y with status := .held }) .seq
      | .running, _ => preemptGoOn (s.freeze x s.me) x
      | .preempted, .got _ => preemptGoOn s x
      | _, _ => .done s .seq) s

/-- resume (R252, R368). -/
def execResume (a : Reg) (s : State) : Host.Outcome State Fault Refusal :=
  issue (fun s => supervisor s fun _ => src s a false fun v s =>
    let m := Loc.module s.cur.loc
    match s.launchOf (v.setWidth 32) m with
    | none => .done s .seq
    | some x =>
      match x.status with
      | .preempted => .done (s.thaw x) .seq
      | .held => .done (s.updLaunch x.id m fun y => { y with status := .pending }) .seq
      | _ => .done s .seq) s

end Sys2Proof.Machine
end

