-- ==== Sys2Proof/Machine/Bringup.lean ====
section
/-! DEFINITION. Power, firmware, bring-up and Hedgerow (21_system R375, R377, R380, R383; 01_module R18-R21, R34). -/

namespace Sys2Proof.Machine

open Sys2Proof

/-! ## STATUS and its in-band interrupt (R375, R383) -/

/-- STATUS of a module. -/
def Module.status (x : Module) : Word :=
  BitVec.ofNat 64 (x.ready.toNat + x.step % 16 * 2 + x.fail.toNat * 2 ^ 5 + x.failStack % 16 * 2 ^ 6 + x.failDie % 4 * 2 ^ 10 +
    x.failKind % 16 * 2 ^ 12 + x.fwwait.toNat * 2 ^ 16)

/-- A module's record changed; the I3C port raises its interrupt when READY or FAIL changes. Without an address of its
own the port holds the interrupt (R383). -/
def State.setStatus (s : State) (m : Nat) (f : Module → Module) : State :=
  let x := s.module m
  let y := f x
  if x.ready = y.ready ∧ x.fail = y.fail then s.updModule m fun _ => y
  else if y.i3cAddr.isSome then { s.updModule m (fun _ => y) with outs := s.outs ++ [.ibi m] }
  else s.updModule m fun _ => { y with ibi := true }

/-! ## What a module loses with its power -/

/-- The module of a memory key of DRAM or local store; host memory belongs to none. -/
def keyModule (a : Nat) : Option Nat :=
  let a := a % 2 ^ 62
  if 2 ^ 61 ≤ a then none else if 2 ^ 60 ≤ a then some ((a - 2 ^ 60) / 2 ^ 36) else some (a / 2 ^ 41)

/-- The module of a home, by the number under which State.homes keeps it. -/
def homeKeyMod (k : Nat) : Nat :=
  if 2 ^ 33 ≤ k then k - 2 ^ 33 else if 2 ^ 32 ≤ k then Loc.module (k - 2 ^ 32) else k / 4096

/-- A lock that goes with a module: held by one of its commands, or on its cores' banks. -/
def Lock.lost (k : Lock) (m : Nat) (cmds : List Nat) : Bool :=
  cmds.contains k.cmd || match k.rng with | .bank l _ _ => Loc.module l == m | .va _ _ => false

/-- Everything that a module holds goes: its frames, cores, dies, homes, leases, launches, barriers, gangs, engine
commands, Flock groups and holds, its memory, and what is on its way inside it. -/
def State.wipe (s : State) (m : Nat) : State :=
  let gone := (s.cmds.filter fun c => Loc.module c.src == m).map fun c => c.id
  let homeLeft (h : Home) : Bool := homeMod h != m
  { s with
    mem := s.mem.filter fun c => keyModule c.1 != some m
    bad := s.bad.filter fun x => keyModule (x * 8) != some m
    frames := s.frames.filter fun e => Loc.module (keyLoc e.1) != m
    cores := s.cores.filter fun e => Loc.module e.1 != m
    homes := s.homes.filter fun e => homeKeyMod e.1 != m
    dies := s.dies.filter fun e => e.1 / 64 != m
    launches := s.launches.filter fun x => x.mod != m
    barriers := s.barriers.filter fun b => b.lmod != m
    gangs := s.gangs.filter fun g => g.die / 64 != m
    leases := s.leases.filter fun e => e.1 / 1024 != m
    pushes := s.pushes.filter fun p => Loc.module p.src != m
    cmds := s.cmds.filter fun c => Loc.module c.src != m
    locks := s.locks.filter fun k => !k.lost m gone
    fgroups := s.fgroups.filter fun g => g.lmod != m
    holds := s.holds.filter fun h => homeLeft h.home
    net := s.net.filter fun p => !(Loc.module p.src == m && homeMod p.home == m)
    words := s.words.filter fun w => homeLeft w.1
    evq := s.evq.filter fun e => Loc.module e.dest != m }

/-- POWER_LOSS: the module stops until the next power-good; its image slot keeps the image (R380). -/
def execPowerLoss (m : Nat) (s : State) : Host.Outcome State Fault Refusal :=
  let off (x : Module) : Module :=
    { power := false, ready := false, step := 0, part := x.part, ibi := false, silent := some s.clk, lost := x.lost
      trained := x.trained }
  occurs (s.powered m) ((s.wipe m).updModule m off) s

/-! ## Bring-up (R19, R20, R34, R380) -/

/-- The failed cores of a die. -/
def retiredOn (p : Part) (d : DieId) : List Loc := p.failedCores.filter fun l => Loc.dieId l == d

/-- Where bring-up stops on a part: the step that fails, its KIND and its place. A die with more than 16 failed cores
has no retirement map, and a failed router counts at the same step (R20). -/
def partStop (p : Part) (m : Nat) : Option (Nat × Nat × Nat × Nat) :=
  let early := match p.failedStep with | some (k, st, d) => if k < 5 then some (k, k, st, d) else none | none => none
  let late := p.failedStep.map fun (k, st, d) => (k, k, st, d)
  let full := (List.range 64).find? fun i => decide (16 < (retiredOn p (m * 64 + i)).length)
  match early, p.failedRouter, full with
  | some x, _, _ => some x
  | none, some d, _ => some (5, 10, d / 4 % 16, d % 4)
  | none, none, some i => some (5, 5, i / 4, i % 4)
  | none, none, none => late

/-- The 16-bit forwarding-table entries of a die: each failed core with the lowest free spare (R19, R34). -/
def forwardTable (p : Part) (d : DieId) : List Byte :=
  let es := (((retiredOn p d).take 16).zipIdx).map fun e => Loc.core e.1 + e.2 * 2 ^ 8 + 2 ^ 15
  (es ++ List.replicate (16 - es.length) 0).flatMap fun x => bytesOf 2 x

/-- The bytes 0-575 of a stack's presence map (R34); `st` counts stacks in the pod. -/
def presenceMap (p : Part) (st : Nat) : List Byte :=
  let pav (q : Nat) : Nat :=
    (List.range 4).foldl (fun a k => a + (if p.absentLayers.contains (st * 64 + q, k) then 0 else 2 ^ k)) 0 +
      (if p.absentSheaf.contains (st * 64 + q) then 0 else 16)
  let trl (i : Nat) : Nat := if p.absentTrellis.contains (st * 256 + i) then 0 else 1
  let chn (b : Nat) : Nat :=
    (List.range 8).foldl (fun a k => a + (if p.absentChain.contains (st * 1024 + 8 * b + k) then 0 else 2 ^ k)) 0
  ((List.range 64).map fun q => BitVec.ofNat 8 (pav q)) ++ ((List.range 256).map fun i => BitVec.ofNat 8 (trl i)) ++
    ((List.range 128).map fun b => BitVec.ofNat 8 (chn b)) ++ ((List.range 4).flatMap fun d => forwardTable p (st * 4 + d))

/-- Step 7: the presence maps stand in the last frame of each die C0, the rest of which is zero (R34). -/
def State.writeMaps (s : State) (m : Nat) (p : Part) : State :=
  (List.range 16).foldl (fun t i =>
    let a := dramKey ((m * 16 + i) * 4) (partBytes - 65536)
    (t.blank a 65536).poke a (presenceMap p (m * 16 + i))) s

/-- The bring-up steps 1-8 after the image has been verified (R380). `clock` and the epochs count from READY (R238). -/
def State.runSteps (s : State) (m : Nat) : State :=
  let p := (s.module m).part
  match partStop p m with
  | some (k, kind, st, d) =>
    s.setStatus m fun x =>
      { x with fail := true, failKind := kind, failStack := st, failDie := d, step := k - 1, fwwait := false }
  | none =>
    (s.writeMaps m p).setStatus m fun x =>
      { x with ready := true, epoch := s.clk, epochAt := s.clk + epochTicks, step := 8, fail := false, failKind := 0, failStack := 0, failDie := 0, fwwait := false }

/-- The Bothy verifies the image at a place, and the steps run, or bring-up stops and waits for an image (R380; log
entry 16). -/
def State.verify (s : State) (m : Nat) : State :=
  let place := (s.module m).part.imagePlace
  let n := s.nextId
  let s := { s with nextId := n + 1 }
  if Config.imageGood place n then s.runSteps m
  else s.setStatus m fun x => { x with fail := true, failKind := 9, fwwait := true, step := 0 }

/-- POWER_GOOD on a part. A module keeps the image in its slot (R380). -/
def execPowerGood (m : Nat) (part : Part) (s : State) : Host.Outcome State Fault Refusal :=
  let image := if s.mods.has m then (s.module m).part.imagePlace else part.imagePlace
  let on : Module := { ready := false, step := 0, ibi := false, part := { part with imagePlace := image }, epoch := s.clk }
  occurs (decide (m < 256) && !s.powered m) (((s.wipe m).updModule m fun _ => on).verify m) s

/-- A firmware image arrives in the module's one slot. A Bothy that waits for it verifies it and goes on with bring-up; any
other verifies it at the next power-good, before it is used (R380, R383). -/
def State.loadImage (s : State) (m image : Nat) : State :=
  let wait := (s.module m).fwwait
  let s := s.updModule m fun x => { x with part := { x.part with imagePlace := image } }
  if wait then s.verify m else s

/-- FWLOAD: the image at a partition offset of die 0, stack 0 (R374, R380). -/
def execFwload (m : Nat) (v : Word) (s : State) : Host.Outcome State Fault Refusal :=
  occurs (s.powered m) (s.loadImage m v.toNat) s

/-- MGMT_FIRMWARE_LOAD (R383). -/
def execMgmtFirmwareLoad (m image len : Nat) (s : State) : Host.Outcome State Fault Refusal :=
  occurs (s.powered m) (s.loadImage m (2 ^ 64 + image * 2 ^ 32 + len)) s

/-! ## The management ports (R383) -/

/-- What a management port reads. -/
def State.reading (s : State) (m : Nat) : Reading → Word
  | .status => (s.module m).status
  | .units => unitsWord (s.module m).part
  | .temp die q => BitVec.ofNat 64 (ofInt 12 ((s.die (m * 64 + die % 64)).temp q))

/-- I3C_ENTDAA: the port gets its dynamic address, and an interrupt that was held goes out. -/
def execI3cEntdaa (m : Nat) (addr : BitVec 7) (s : State) : Host.Outcome State Fault Refusal :=
  let x := s.module m
  let t := s.updModule m fun x => { x with i3cAddr := some addr, ibi := false }
  occurs (s.powered m) (if x.ibi then { t with outs := t.outs ++ [.ibi m] } else t) s

/-- I3C_READ, once the port has its address. -/
def execI3cRead (m : Nat) (what : Reading) (s : State) : Host.Outcome State Fault Refusal :=
  occurs (s.powered m && (s.module m).i3cAddr.isSome) { s with outs := s.outs ++ [.reading (s.reading m what)] } s

/-- MGMT_READ. -/
def execMgmtRead (m : Nat) (what : Reading) (s : State) : Host.Outcome State Fault Refusal :=
  occurs (s.powered m) { s with outs := s.outs ++ [.reading (s.reading m what)] } s

/-! ## Hedgerow (R18, R377) -/

/-- The requests that a module has outstanding to another. -/
def State.outstanding (s : State) (own m : Nat) : Bool :=
  s.net.any fun p => (p.kind.isRequest || (match p.kind with | .msg _ => true | .migrate _ => true | .displace _ _ => true | _ => false)) &&
    p.origin == own && homeMod p.home == m

/-- MODULE_LOST: a module that has been silent for 1 ms is declared lost, with event 0x41 on every peer that has requests
outstanding to it (R377; log entry 36). -/
def execModuleLost (m : Nat) (s : State) : Host.Outcome State Fault Refusal :=
  let silent := match (s.module m).silent with | some t => decide (t + 2000000 ≤ s.clk) | none => false
  let peers := (s.mods.filter fun e => e.1 != m && e.2.power && e.2.trained && s.outstanding e.1 m).map fun e => e.1
  let t := s.updModule m fun x => { x with lost := true }
  let t := peers.foldl (fun t i => t.event (2 ^ 36 + i * 256 + m) (t.supLoc (i * 64)) [BitVec.ofNat 64 (0x41 + m * 2 ^ 8), Config.lostWord t.nextId]) t
  occurs (s.mods.has m && (s.module m).trained && !(s.module m).lost && silent) t s

/-- HEDGEROW_PORT_FAILURE: the port's bandwidth goes, and no flit is lost. A module without any port is silent (R377). -/
def execHedgerowPortFailure (m p : Nat) (s : State) : Host.Outcome State Fault Refusal :=
  let down (x : Module) : Module :=
    let d := x.portsDown ||| BitVec.twoPow 32 p
    { x with portsDown := d, silent := if d = BitVec.allOnes 32 ∧ x.silent = none then some s.clk else x.silent }
  occurs (s.powered m && decide (p < 32)) (s.updModule m down) s

/-- LINK_LEVEL_RETRY: a flit is sent again, and the path is in the link-retry state that R35 excludes from its bounds. -/
def execLinkLevelRetry (m p : Nat) (s : State) : Host.Outcome State Fault Refusal :=
  occurs (s.powered m && decide (p < 32) && !(s.module m).portsDown.getLsbD p)
    (s.updModule m fun x => { x with inRetry := x.inRetry ||| BitVec.twoPow 32 p }) s

/-- The entries of one module in a table, under the numbers that they get in another. -/
def SMap.move {α : Type} (t : SMap α) (mine : Nat → Bool) (f : Nat → Nat) : SMap α :=
  (t.filter fun e => mine e.1).foldl (fun u e => SMap.put u (f e.1) e.2) (t.filter fun e => !mine e.1)

/-- What bring-up found, under the numbers of module n. -/
def movePart (p : Part) (m n : Nat) : Part :=
  let core (l : Nat) : Nat := l - m * 2 ^ 14 + n * 2 ^ 14
  let pav (q : Nat) : Nat := q - m * 2 ^ 10 + n * 2 ^ 10
  { p with
    failedCores := p.failedCores.map core, absentChain := p.absentChain.map core
    failedRouter := p.failedRouter.map fun d => d - m * 64 + n * 64
    absentLayers := p.absentLayers.map fun e => (pav e.1, e.2), absentSheaf := p.absentSheaf.map pav
    absentTrellis := p.absentTrellis.map fun q => q - m * 2 ^ 12 + n * 2 ^ 12 }

/-- Module m as module n of the pod: its memory and its registers go with it. -/
def State.renumber (s : State) (m n : Nat) : State :=
  let mine (a : Nat) : Bool := keyModule a == some m
  let key (a : Nat) : Nat := if 2 ^ 60 ≤ a then a - m * 2 ^ 36 + n * 2 ^ 36 else a - m * 2 ^ 41 + n * 2 ^ 41
  let word (x : Nat) : Nat := if mine (x * 8) then key (x * 8) / 8 else x
  let cells := s.mem.filter fun c => mine c.1
  let rest := s.mem.filter fun c => !mine c.1
  let x := s.module m
  let x := { x with part := movePart x.part m n }
  { s with
    mem := cells.foldl (fun t c => Memory.set t (key c.1) c.2) rest
    bad := s.bad.map word
    frames := SMap.move s.frames (fun k => Loc.module (keyLoc k) == m) fun k => k - m * 2 ^ 20 + n * 2 ^ 20
    cores := SMap.move s.cores (fun l => Loc.module l == m) fun l => l - m * 2 ^ 14 + n * 2 ^ 14
    dies := SMap.move s.dies (fun d => d / 64 == m) fun d => d - m * 64 + n * 64
    mods := SMap.put (s.mods.filter fun e => e.1 != m) n x }

/-- The module is quiet: no launch is accepted, and nothing is on its way from it or to it. -/
def State.quiet (s : State) (m : Nat) : Bool :=
  (s.launches.all fun x => x.mod != m || x.status == .done) && (s.frames.all fun e => Loc.module (keyLoc e.1) != m || !e.2.used) &&
  (s.homes.all fun e => homeKeyMod e.1 != m || e.2.faults.isEmpty) &&
  (s.net.all fun p => Loc.module p.src != m && homeMod p.home != m) && (s.words.all fun w => homeMod w.1 != m) &&
  s.evq.all fun e => Loc.module e.dest != m

/-- What a module keeps beside its memory and its registers is empty, as after power-good. -/
def State.fresh (s : State) (m : Nat) : State :=
  { s with
    mem := s.mem.filter fun c => !(decide (2 ^ 62 ≤ c.1) && keyModule c.1 == some m)
    homes := s.homes.filter fun e => homeKeyMod e.1 != m
    leases := s.leases.filter fun e => e.1 / 1024 != m
    barriers := s.barriers.filter fun b => b.lmod != m
    launches := s.launches.filter fun x => x.mod != m }

/-- HEDGEROW_LINK_TRAINING: the switches give the module its number in the pod, before anything runs on it (R18; log
entry 37). -/
def execHedgerowLinkTraining (m number : Nat) (s : State) : Host.Outcome State Fault Refusal :=
  let ok := s.powered m && !(s.module m).trained && decide (number < 256) && (number == m || !s.mods.has number) && s.quiet m
  let t := if number = m then s else (s.fresh m).renumber m number
  occurs ok (t.updModule number fun x => { x with trained := true }) s

end Sys2Proof.Machine
end

