-- ==== Sys2Proof/Machine/Barrow.lean ====
section
/-! DEFINITION. The Barrow's commands: COPY2D, COPY.IDX, EXPAND24, COMPACT24, CONVERT and FILL (19_engines R333-R337,
R318, 07_memory R135-R137). -/

namespace Sys2Proof.Machine

open Sys2Proof

/-- A row's bytes go from one place to another. -/
def Actr.copyRow (c : Actr) (src dst : Spot) (n : Nat) : EM Unit := c.row dst n (c.read src n)

/-! ## COPY2D (R333) -/

/-- Steps 5 to 9 for COPY2D. -/
def prepCopy2d (c : Actr) (b : List Byte) : EM Prep := do
  let ds := Desc.ofBytes b 16
  let dd := Desc.ofBytes b 48
  EM.demand (flagsOf b == 0 && ds.ok && dd.ok && zeros b 80 128) stMalformed
  ds.permit c true
  dd.permit c true
  let x ← ds.region c false
  let y ← dd.region c true
  EM.demand (x.rows == y.rows && x.len == y.len) stMalformed
  EM.apart [x.rng] [y.rng]
  pure { tiles := Region.refs [x, y], srcs := [x.rng], dsts := [y.rng] }

/-- COPY2D: rows in ascending order. -/
def runCopy2d (c : Actr) (b : List Byte) : EM Unit := do
  let x ← (Desc.ofBytes b 16).region c false
  let y ← (Desc.ofBytes b 48).region c true
  c.units 0 (fun r => c.copyRow (x.row r) (y.row r) x.len) (List.range x.rows)

/-! ## COPY.IDX (R334) -/

/-- Bytes of an index. -/
def idxSize (wide : Bool) : Nat := if wide then 8 else 4

/-- The list of indices at an address. -/
def Actr.indices (c : Actr) (va : Word) (n size : Nat) : EM (List Nat) := do
  let v ← c.num (.mem va) (n * size)
  pure ((List.range n).map fun i => bitsOf v (8 * size * i) (8 * size))

/-- Steps 5 to 9 for COPY.IDX. No two of its three ranges may overlap (R334). -/
def prepCopyIdx (c : Actr) (b : List Byte) : EM Prep := do
  let dt := Desc.ofBytes b 16
  let dd := Desc.ofBytes b 48
  let n := numAt b 88 4
  let k := idxSize (flagOf b 1)
  let scatter := flagOf b 0
  EM.demand (decide (flagsOf b < 4 ∧ 1 ≤ n ∧ n ≤ 65536) && dt.ok && dd.ok && zeros b 92 128 && aligned (wordAt b 80) k)
    stMalformed
  dt.permit c false
  dd.permit c false
  c.permit (wordAt b 80) (n * k)
  let t ← dt.region c scatter
  let d ← dd.region c !scatter
  EM.demand (t.len == d.len && d.rows == n) stMalformed
  let list : Rng := .va (wordAt b 80).toNat (n * k)
  let (src, dst) := if scatter then (d, t) else (t, d)
  EM.apart [src.rng] [list]
  EM.apart [src.rng, list] [dst.rng]
  pure { tiles := Region.refs [t, d], srcs := [src.rng, list], dsts := [dst.rng] }

/-- COPY.IDX: the whole index list first, then rows in ascending position. -/
def runCopyIdx (c : Actr) (b : List Byte) : EM Unit := do
  let scatter := flagOf b 0
  let t ← (Desc.ofBytes b 16).region c scatter
  let d ← (Desc.ofBytes b 48).region c !scatter
  let ix ← c.indices (wordAt b 80) (numAt b 88 4) (idxSize (flagOf b 1))
  EM.demand (ix.all fun i => decide (i < t.rows)) stBounds
  c.units 0 (fun x : Nat × Nat =>
    if scatter then c.copyRow (d.row x.2) (t.row x.1) d.len else c.copyRow (t.row x.1) (d.row x.2) d.len) ix.zipIdx

/-! ## EXPAND24 and COMPACT24 (R335) -/

/-- The fields of a 2:4 command: its format, N and the dense region. -/
structure Sparse where
  fmt : Nat
  n : Nat
  vals : Word
  nibs : Word
  desc : Desc
  deriving DecidableEq, Repr

/-- The fields of a block. -/
def Sparse.ofBytes (b : List Byte) : Sparse :=
  { fmt := numAt b 64 1, n := numAt b 68 4, vals := wordAt b 16, nibs := wordAt b 24, desc := Desc.ofBytes b 32 }

/-- Element bytes. -/
def Sparse.size (x : Sparse) : Nat := fmtBits x.fmt / 8

/-- Steps 5 to 9 for EXPAND24 (`out` false) and COMPACT24. -/
def prepSparse (c : Actr) (b : List Byte) (pack : Bool) : EM Prep := do
  let x := Sparse.ofBytes b
  EM.demand (flagsOf b == 0 && x.desc.ok && decide (1 ≤ x.fmt ∧ x.fmt ≤ 10 ∧ 4 ≤ x.n) && x.n % 4 == 0 &&
    zeros b 65 68 && zeros b 72 128 && aligned x.vals x.size && (x.desc.kind == 1 || aligned x.desc.va x.size)) stMalformed
  x.desc.permit c false
  let s ← get
  EM.demand (c.permits s false x.vals && c.permits s false x.nibs) stBounds
  let d ← x.desc.region c !pack
  EM.demand (d.len == x.n * x.size && d.holdsFmt x.fmt) stMalformed
  let groups := d.rows * (x.n / 4)
  let vlen := d.rows * (x.n / 2) * x.size
  c.permit x.vals vlen
  c.permit x.nibs (ceilDiv groups 2)
  let arrays : List Rng := [.va x.vals.toNat vlen, .va x.nibs.toNat (ceilDiv groups 2)]
  pure (if pack then { tiles := Region.refs [d], srcs := [d.rng], dsts := arrays }
    else { tiles := Region.refs [d], srcs := arrays, dsts := [d.rng] })

/-- Step 11 for EXPAND24 and COMPACT24: their dense rows and their values are read or written as elements (R137). -/
def splitSparse (c : Actr) (b : List Byte) (pack : Bool) : EM Unit := do
  let x := Sparse.ofBytes b
  let d ← x.desc.region c !pack
  c.uniform x.desc.lines
  c.uniform [(x.vals, d.rows * (x.n / 2) * x.size)]

/-- A group of four from its two kept values and its nibble; zero bits for a nibble that names no pair, which the
flag reports. -/
def expandGroup (lo hi nib : Nat) : List Nat × Bool :=
  let p := nib % 4
  let q := nib / 4 % 4
  if p < q then ((List.range 4).map fun i => if i = p then lo else if i = q then hi else 0, false)
  else ([0, 0, 0, 0], true)

/-- EXPAND24. Detail [40] is due with the row that holds the group. -/
def runExpand (c : Actr) (b : List Byte) : EM Unit := do
  let x := Sparse.ofBytes b
  let w := fmtBits x.fmt
  let per := x.n / 4
  let d ← x.desc.region c true
  let nibs ← c.num (.mem x.nibs) (ceilDiv (d.rows * per) 2)
  let group (r v g : Nat) : List Nat × Bool :=
    expandGroup (bitsOf v (2 * w * g) w) (bitsOf v (2 * w * g + w) w) (bitsOf nibs (4 * (r * per + g)) 4)
  c.units 0 (fun r => c.row (d.row r) d.len (do
    let v ← c.num (.mem (x.vals + BitVec.ofNat 64 (r * (x.n / 2) * x.size))) (x.n / 2 * x.size)
    let gs := (List.range per).map fun g => group r v g
    c.noteIf 1 (gs.any fun g => g.2)
    pure (rowBytes x.fmt (gs.flatMap fun g => g.1)))) (List.range d.rows)

/-- Whether an element ranks above another: NaN above every number, then by magnitude (R335). -/
def ranksAbove (fmt a b : Nat) : Bool :=
  let x := (fmtValue fmt a).abs
  let y := (fmtValue fmt b).abs
  if x.isNaN then !y.isNaN else if y.isNaN then false else x.cmp y == .gt

/-- The position of the largest magnitude, passing over one position; ties to the lower. -/
def topOf (fmt : Nat) (xs : List Nat) (skip : Nat) : Nat :=
  let best (b : Option Nat) (i : Nat) : Option Nat :=
    if i = skip then b
    else match b with
      | none => some i
      | some j => if ranksAbove fmt (xs.getD i 0) (xs.getD j 0) then some i else some j
  ((List.range 4).foldl best none).getD 0

/-- A group's two kept values, lower position first, and its nibble. -/
def compactGroup (fmt : Nat) (xs : List Nat) : List Nat × Nat :=
  let i := topOf fmt xs 4
  let j := topOf fmt xs i
  let (p, q) := if i < j then (i, j) else (j, i)
  ([xs.getD p 0, xs.getD q 0], p + 4 * q)

/-- COMPACT24. -/
def runCompact (c : Actr) (b : List Byte) : EM Unit := do
  let x := Sparse.ofBytes b
  let per := x.n / 4
  let d ← x.desc.region c false
  let rows ← EM.collect (fun r => do
    let v ← c.num (d.row r) d.len
    let gs := (List.range per).map fun g => compactGroup x.fmt ((List.range 4).map fun i => rowElem x.fmt v (4 * g + i))
    c.unit r (c.row (.mem (x.vals + BitVec.ofNat 64 (r * (x.n / 2) * x.size))) (x.n / 2 * x.size)
      (pure (rowBytes x.fmt (gs.flatMap fun g => g.1))))
    pure (gs.map fun g => g.2)) (List.range d.rows)
  c.unit d.rows (c.write [(.mem x.nibs, bytesOf (ceilDiv (d.rows * per) 2) (packRow 4 rows.flatten))])

/-! ## CONVERT (R336) -/

/-- One side of CONVERT: its region, whether it is decoded by its pages, and the format when it is not. -/
structure Side where
  desc : Desc
  byPage : Bool
  fmt : Nat
  deriving DecidableEq, Repr

/-- The source side of a block. -/
def srcSide (b : List Byte) : Side := { desc := Desc.ofBytes b 16, byPage := flagOf b 0, fmt := numAt b 80 1 }
/-- The destination side. -/
def dstSide (b : List Byte) : Side := { desc := Desc.ofBytes b 48, byPage := flagOf b 1, fmt := numAt b 81 1 }
/-- Elements per row. -/
def convElems (b : List Byte) : Nat := numAt b 84 4

/-- Bytes that start an element, for alignment; L6 starts at any byte. -/
def elemAlign (fmt : Nat) : Nat := if fmt = 11 then 1 else max 1 (fmtBits fmt / 8)

/-- Step 5 for a side. -/
def Side.ok (x : Side) (elems : Nat) : Bool :=
  x.desc.ok && (if x.byPage then x.fmt == 0 && x.desc.kind == 0
    else decide (1 ≤ x.fmt ∧ x.fmt ≤ 11) && (x.fmt != 11 || elems % 4 == 0) &&
      (x.desc.kind == 1 || aligned x.desc.va (elemAlign x.fmt)))

/-- Steps 5 to 9 for CONVERT. -/
def prepConvert (c : Actr) (b : List Byte) : EM Prep := do
  let x := srcSide b
  let y := dstSide b
  let n := convElems b
  EM.demand (decide (flagsOf b < 4 ∧ numAt b 82 1 ≤ 3 ∧ 1 ≤ n) && zeros b 83 84 && zeros b 88 128 && x.ok n && y.ok n)
    stMalformed
  x.desc.permit c true
  y.desc.permit c true
  let p ← x.desc.region c false
  let q ← y.desc.region c true
  EM.demand (p.rows == q.rows && (x.byPage || (p.len == rowLen x.fmt n && p.holdsFmt x.fmt)) &&
    (y.byPage || (q.len == rowLen y.fmt n && q.holdsFmt y.fmt))) stMalformed
  EM.apart [p.rng] [q.rng]
  pure { tiles := Region.refs [p, q], srcs := [p.rng], dsts := [q.rng] }

/-- Step 11 for a side: its pages are of one format and geometry, no GEO 4 is written, and a side that is decoded by its
pages has elements of a format whose rows and row addresses fit it (R136, R137, R316). The result is the format and
geometry that its elements are read or written by. -/
def Side.attrs (x : Side) (c : Actr) (elems : Nat) (store : Bool) : EM (Nat × Nat) := do
  let p ← c.paged x.desc.lines
  match p.flatMap fun r => r.2.2 with
  | [] => pure (x.fmt, 0)
  | (e, _, _) :: _ => do
    let f := pteFmt e
    let g := pteGeo e
    EM.demand (p.same && !(store && g == 4) && (!x.byPage || decide (1 ≤ f ∧ f ≤ 10))) stSplit
    EM.demand (!x.byPage || (x.desc.len == rowLen f elems && p.all fun r => r.1.toNat % (fmtBits f / 8) == 0)) stMalformed
    EM.demand p.inside stSplit
    pure (if x.byPage then (f, g) else (x.fmt, 0))

/-- Step 11 for CONVERT. -/
def splitConvert (c : Actr) (b : List Byte) : EM Unit := do
  let _ ← (srcSide b).attrs c (convElems b) false
  let _ ← (dstSide b).attrs c (convElems b) true

/-- The block scale of the element at an address on a scaled page; none on another. -/
def Actr.scaleOf (c : Actr) (geo fmt : Nat) (va : Word) : EM (Option Nat) := do
  if 1 ≤ geo ∧ geo ≤ 3 then do
    let (_, b, n) ← c.attrs va
    let x ← c.num (.mem (BitVec.ofNat 64 (b + scaleAt fmt geo n (va.toNat - b)))) 1
    pure (some x)
  else pure none

/-- The scales of a row's elements. -/
def Side.scales (x : Side) (c : Actr) (fmt geo : Nat) (va : Word) (elems : Nat) : EM (List (Option Nat)) :=
  if x.byPage then
    EM.collect (fun i => c.scaleOf geo fmt (va + BitVec.ofNat 64 (i * (fmtBits fmt / 8)))) (List.range elems)
  else pure (List.replicate elems none)

/-- One converted element: its code, whether it saturated, and whether a NaN was read. -/
def convElem (f g mode x : Nat) (ss ds : Option Nat) : OutEl :=
  let v := match ss with | some e => applyScale e (fmtValue f x) | none => fmtValue f x
  let v' := match ds with | some e => unscale e v | none => v
  let whole := decide (1 ≤ f ∧ f ≤ 4 ∧ 1 ≤ g ∧ g ≤ 4) && ss.isNone && ds.isNone
  let sat := saturates g mode v' || (1 ≤ g && g ≤ 4 && match v' with | .inf _ => true | _ => false)
  { code := if ss.isNone && ds.isNone then fmtConv f g mode x none else fmtCode g mode v', sat := !whole && sat, nan := v.isNaN }

/-- CONVERT: element by element, row by row (R336). -/
def runConvert (c : Actr) (b : List Byte) : EM Unit := do
  let x := srcSide b
  let y := dstSide b
  let n := convElems b
  let mode := numAt b 82 1
  let p ← x.desc.region c false
  let q ← y.desc.region c true
  let (f, fg) ← x.attrs c n false
  let (g, gg) ← y.attrs c n true
  c.units 0 (fun r => c.row (q.row r) q.len (do
    let row ← c.num (p.row r) p.len
    let ss ← x.scales c f fg (x.desc.va + BitVec.ofNat 64 (r * p.pitch)) n
    let ds ← y.scales c g gg (y.desc.va + BitVec.ofNat 64 (r * q.pitch)) n
    let es := (List.range n).map fun i => convElem f g mode (rowElem f row i) (ss.getD i none) (ds.getD i none)
    c.noteIf 2 (es.any fun (o : OutEl) => o.sat)
    c.noteIf 4 (es.any fun (o : OutEl) => o.nan)
    pure (rowBytes g (es.map fun (o : OutEl) => o.code)))) (List.range p.rows)

/-! ## FILL (R337) -/

/-- Steps 5 to 9 for FILL. -/
def prepFill (c : Actr) (b : List Byte) : EM Prep := do
  let d := Desc.ofBytes b 16
  let w := numAt b 56 1
  EM.demand (flagsOf b == 0 && d.ok && (w == 1 || w == 2 || w == 4 || w == 8) && zeros b 57 64 &&
    (d.kind == 1 || (aligned d.va w && d.len % w == 0))) stMalformed
  d.permit c true
  let x ← d.region c true
  EM.demand (x.len % w == 0) stMalformed
  pure { tiles := Region.refs [x], dsts := [x.rng] }

/-- FILL: the pattern's low bytes, repeated. -/
def runFill (c : Actr) (b : List Byte) : EM Unit := do
  let w := numAt b 56 1
  let x ← (Desc.ofBytes b 16).region c true
  let row := (List.range (x.len / w)).flatMap fun _ => bytesOf w (numAt b 48 8)
  c.units 0 (fun r => c.row (x.row r) x.len (pure row)) (List.range x.rows)

end Sys2Proof.Machine
end

