-- ==== Sys2Proof/Machine/Gleaner.lean ====
section
/-! DEFINITION. The Gleaner's tables and commands: GATHER, GATHER.POOL, SCATTER.ADD, CHAIN and ROUTE (19_engines
R338-R349). -/

namespace Sys2Proof.Machine

open Sys2Proof

/-! ## Table descriptors (R338, R339) -/

/-- A table descriptor's fields. -/
structure Table where
  version : Nat
  base0 : Word
  base1 : Word
  rows : Nat
  len : Nat
  pitch : Nat
  fmt : Nat
  sharded : Bool
  shards : Nat
  ok : Bool
  deriving DecidableEq, Repr

/-- The 64 bytes of a descriptor, with whether they keep R338. -/
def Table.ofBytes (d : List Byte) : Table :=
  let rows := numAt d 32 4
  let len := numAt d 36 4
  let pitch := numAt d 40 4
  let fmt := numAt d 44 1
  let map := numAt d 45 1
  let sh := numAt d 46 2
  { version := numAt d 0 4, base0 := wordAt d 8, base1 := wordAt d 16, rows := rows, len := len, pitch := pitch, fmt := fmt
    sharded := map == 1, shards := sh
    ok := zeros d 4 8 && zeros d 48 64 && (map != 1 || spaceOf (wordAt d (8 + 8 * (numAt d 0 4 % 2))) == .ls) &&
      decide (1 ≤ rows ∧ rows ≤ 2 ^ 31 ∧ 1 ≤ len ∧ len ≤ 65536 ∧ len ≤ pitch ∧ fmt ≤ 11 ∧ map ≤ 1 ∧ 1 ≤ sh ∧ sh ≤ 256) &&
      (map == 1 || sh == 1) }

/-- The slot of the version that was read. -/
def Table.slot (t : Table) : Nat := t.version % 2

/-- The base that the command reads through. -/
def Table.base (t : Table) : Word := if t.slot = 0 then t.base0 else t.base1

/-- The address of a row (R338). -/
def Table.row (t : Table) (r : Nat) : Word :=
  if t.sharded then t.base + BitVec.ofNat 64 (r % t.shards * 2 ^ 33 + r / t.shards * t.pitch)
  else t.base + BitVec.ofNat 64 (r * t.pitch)

/-- A sharded table's cores lie in the region, and none is above 255 (R339). -/
def Table.placed (t : Table) (c : Actr) (s : State) : Bool :=
  !t.sharded ||
    (decide (fieldOf t.base 33 8 + t.shards ≤ 256) && (List.range t.shards).all fun i => c.permits s false (t.row i))

/-- R339: the descriptor is sampled in one step: 64 bytes are read, and the count of the version's slot goes up. The
bytes stay with the command. -/
def Actr.sample (c : Actr) (va : Word) : EM (List Byte) := do
  match ← c.place va 64 true with
  | some f => do
    let s ← get
    EM.demand (!s.isBad f.a 64) stPoisoned
    let d := s.bytes f.a 64
    let n := { f with a := f.a + 24 + 4 * (numAt d 0 4 % 2) }
    EM.change fun s => s.pokeAt n (bytesOf 4 (s.num n.a 4 + 1))
    pure d
  | none => throw (.ends stBounds 0)

/-- At completion the count of the sampled slot goes down (R339). -/
def Actr.unsample (c : Actr) (va : Word) (slot : Nat) : EM Unit := do
  match ← c.place (va + BitVec.ofNat 64 (24 + 4 * slot)) 4 true with
  | some f => do
    EM.demand (!(← get).isBad f.a 4) stPoisoned
    EM.change fun s => s.pokeAt f (bytesOf 4 (s.num f.a 4 + 2 ^ 32 - 1))
  | none => pure ()

/-- A row of the sampled version; its address is checked as it is computed (R316). -/
def Actr.tableRow (c : Actr) (t : Table) (r : Nat) : EM (List Byte) := do
  c.permit (t.row r) t.len
  c.read (.mem (t.row r)) t.len

/-! ## Policies (R340, R342) -/

/-- What a position comes to: an index, or a zeroed position; and whether it was zeroed or clamped. -/
abbrev Pos := Option Nat × Bool

/-- An index at a level, by its policy: none where FAULT ends the command. Under CLAMP a bound of 0 has no last index: a
free value (log entry 31). -/
def policyOf (code bound ix : Nat) : Option Pos :=
  if ix < bound then some (some ix, false)
  else match code with
    | 0 => some (none, true)
    | 1 => some (some (if bound = 0 then Config.clampEmpty ix else bound - 1), true)
    | _ => none

/-- The detail of a FAULT at a level: the level and the slot (R342). -/
def faultDetail (level slot : Nat) : Nat := 4 * level + 16 * slot

/-- The first position whose index FAULTs. -/
def firstFault (code bound : Nat) (ix : List Nat) : Option Nat := findAt (fun i => (policyOf code bound i).isNone) ix

/-- Every position resolved against the table's rows, or the command's end; `va` is the address of an index entry
(R340). -/
def resolveAll (c : Actr) (code : Nat) (t : Table) (va : Nat → Word) (ix : List Nat) : EM (List (Option Nat)) := do
  match firstFault code t.rows ix with
  | some i => throw (.fault (faultDetail 0 t.slot) (va i))
  | none => do
    let ps := ix.map fun i => (policyOf code t.rows i).getD (none, true)
    c.noteIf 1 (ps.any fun p => p.2)
    pure (ps.map fun p => p.1)

/-- The address of entry i of a list. -/
def entryVA (va : Word) (size i : Nat) : Word := va + BitVec.ofNat 64 (i * size)

/-- A table row, or zero bits for a zeroed position. -/
def Actr.posRow (c : Actr) (t : Table) (p : Option Nat) : EM (List Byte) :=
  match p with
  | some r => c.tableRow t r
  | none => pure (List.replicate t.len 0)

/-- Step 5 for the fields that the table commands share: flags below n, a descriptor address. -/
def gleanFields (b : List Byte) (flags : Nat) : Bool := decide (flagsOf b < 2 ^ flags) && aligned (wordAt b 16) 64

/-- The output or source region must fit the table once it is known. -/
def fitRows (r : Region) (n len : Nat) : EM Unit := EM.demand (r.rows == n && r.len == len) stMalformed

/-! ## GATHER (R343) -/

/-- Steps 5 to 9 for GATHER and SCATTER.ADD; the region is written by GATHER only. -/
def prepGather (c : Actr) (b : List Byte) (dst : Bool) : EM Prep := do
  let n := numAt b 32 4
  let k := idxSize (flagOf b 0)
  let d := Desc.ofBytes b 40
  EM.demand (gleanFields b 3 && decide (1 ≤ n ∧ n ≤ 65536 ∧ numAt b 36 1 ≤ 2) && zeros b 37 40 && zeros b 72 128 && d.ok &&
    aligned (wordAt b 24) k) stMalformed
  c.permit (wordAt b 16) 64
  c.permit (wordAt b 24) (n * k)
  d.permit c false
  let r ← d.region c dst
  EM.demand (r.rows == n) stMalformed
  let list : Rng := .va (wordAt b 24).toNat (n * k)
  pure (if dst then { tiles := Region.refs [r], srcs := [list], dsts := [r.rng] }
    else { tiles := Region.refs [r], srcs := [list, r.rng] })

/-- GATHER. -/
def runGather (c : Actr) (b : List Byte) (t : Table) : EM Unit := do
  let n := numAt b 32 4
  let r ← (Desc.ofBytes b 40).region c true
  fitRows r n t.len
  let ps ← c.planned do
    let ix ← c.indices (wordAt b 24) n (idxSize (flagOf b 0))
    resolveAll c (numAt b 36 1) t (entryVA (wordAt b 24) (idxSize (flagOf b 0))) ix
  c.units 0 (fun x : Option Nat × Nat => c.row (r.row x.2) r.len (c.posRow t x.1)) ps.zipIdx

/-! ## GATHER.POOL (R344) -/

/-- Elements of a pooled row. -/
def poolElems (t : Table) : Nat := t.len * 8 / fmtBits t.fmt

/-- A table format that POOL takes. -/
def poolFmt (f : Nat) : Bool := decide (1 ≤ f ∧ f ≤ 11) && f != 4 && f != 8

/-- Steps 5 to 9 for GATHER.POOL. The index list ends where the last offset says. -/
def prepPool (c : Actr) (b : List Byte) : EM Prep := do
  let k := idxSize (flagOf b 0)
  let bags := numAt b 40 4
  let d := Desc.ofBytes b 56
  let wts := flagOf b 4
  EM.demand (gleanFields b 5 && decide (1 ≤ bags ∧ bags ≤ 65536 ∧ numAt b 44 1 ≤ 2) && zeros b 45 48 && zeros b 88 128 &&
    d.ok && aligned (wordAt b 24) k && aligned (wordAt b 32) 4 && (if wts then aligned (wordAt b 48) 4 else wordAt b 48 == 0) &&
    (d.kind == 1 || aligned d.va 4)) stMalformed
  c.permit (wordAt b 16) 64
  c.permit (wordAt b 32) (4 * (bags + 1))
  d.permit c false
  let s ← get
  let n := c.peek s (wordAt b 32 + BitVec.ofNat 64 (4 * bags)) 4
  EM.demand (c.permits s false (wordAt b 24) && (!wts || c.permits s false (wordAt b 48))) stBounds
  let r ← d.region c true
  EM.demand (r.rows == bags && r.holdsFmt 7) stMalformed
  pure { tiles := Region.refs [r]
         srcs := [.va (wordAt b 24).toNat (n * k), .va (wordAt b 32).toNat (4 * (bags + 1))] ++
           (if wts then [.va (wordAt b 48).toNat (4 * n)] else [])
         dsts := [r.rng] }

/-- Step 11 for GATHER.POOL: its output and its weights are F32 elements (R137); the table's rows are not looked at (log
entry 98). -/
def splitPool (c : Actr) (b : List Byte) : EM Unit := do
  c.uniform (Desc.ofBytes b 56).lines
  if flagOf b 4 then do
    let n ← c.num (.mem (wordAt b 32 + BitVec.ofNat 64 (4 * numAt b 40 4))) 4
    c.uniform [(wordAt b 48, 4 * n)]

/-- One element of a bag while it is summed. -/
def poolAdd (acc : Option Nat) (x : Nat) : Option Nat :=
  match acc with
  | none => some x
  | some a => some (Fmt.f32.add 0 a x)

/-- One element of an output row from its positions' elements; a zeroed position contributes +0 (R344). -/
def poolElem (fmt : Nat) (mean : Bool) (xs : List (Option Nat × Option Nat)) : Nat :=
  let value (x : Option Nat × Option Nat) : Nat :=
    match x.1 with
    | none => 0
    | some e =>
      let v := Fmt.f32.code 0 (fmtValue fmt e)
      match x.2 with
      | some w => Fmt.f32.mul 0 w v
      | none => v
  match xs.foldl (fun a x => poolAdd a (value x)) none with
  | none => 0
  | some a => if mean then (if Fmt.f32.isNaN a then Fmt.f32.quieten a else Fmt.f32.divNat (Fmt.f32.value a) xs.length) else a

/-- The offsets do not decrease. -/
def ascending : List Nat → Bool
  | a :: b :: r => decide (a ≤ b) && ascending (b :: r)
  | _ => true

/-- GATHER.POOL. Its index list and its weights are known once the offsets are read; where they could not be looked at
before, their ranges are locked now (R317). -/
def runPool (c : Actr) (b : List Byte) (t : Table) : EM Unit := do
  EM.demand (poolFmt t.fmt) stMalformed
  let k := idxSize (flagOf b 0)
  let bags := numAt b 40 4
  let r ← (Desc.ofBytes b 56).region c true
  fitRows r bags (4 * poolElems t)
  let offs ← c.indices (wordAt b 32) (bags + 1) 4
  EM.demand (ascending offs) stBounds
  let lo := offs.headD 0
  let hi := offs.getLastD 0
  c.permit (wordAt b 24) (hi * k)
  c.lockSource (.va (wordAt b 24).toNat (hi * k))
  if flagOf b 4 then do
    c.permit (wordAt b 48) (4 * hi)
    c.lockSource (.va (wordAt b 48).toNat (4 * hi))
  let ps ← c.planned do
    let ix ← c.indices (wordAt b 24 + BitVec.ofNat 64 (lo * k)) (hi - lo) k
    resolveAll c (numAt b 44 1) t (entryVA (wordAt b 24 + BitVec.ofNat 64 (lo * k)) k) ix
  let ws ← if flagOf b 4 then c.indices (wordAt b 48 + BitVec.ofNat 64 (4 * lo)) (hi - lo) 4 else pure []
  c.units 0 (fun i => c.row (r.row i) r.len (do
    let a := offs.getD i 0 - lo
    let n := offs.getD (i + 1) 0 - offs.getD i 0
    let rows ← EM.collect (fun p : Option Nat => match p with
      | some x => do let bs ← c.tableRow t x; pure (some (ofBytes bs))
      | none => pure none) ((ps.drop a).take n)
    let w (j : Nat) : Option Nat := if flagOf b 4 then some (ws.getD (a + j) 0) else none
    let elem (e : Nat) : List (Option Nat × Option Nat) := rows.mapIdx fun j x => (x.map fun v => rowElem t.fmt v e, w j)
    let out := (List.range (poolElems t)).map fun e => poolElem t.fmt (flagOf b 3) (elem e)
    let read := rows.any fun x => match x with
      | some v => (List.range (poolElems t)).any fun e => (fmtValue t.fmt (rowElem t.fmt v e)).isNaN
      | none => false
    c.noteIf 2 (n == 0)
    c.noteIf 64 (read || out.any Fmt.f32.isNaN || (flagOf b 4 && ((ws.drop a).take n).any Fmt.f32.isNaN))
    pure (rowBytes 7 out))) (List.range bags)

/-! ## SCATTER.ADD (R345) -/

/-- A table format that SCATTER.ADD takes. -/
def scatterFmt (f : Nat) : Bool := f == 3 || f == 4 || f == 6 || f == 7

/-- A sum in the table's format (R345). -/
def scatterAdd (fmt a b : Nat) : Nat :=
  match fmt with
  | 6 => Fmt.bf16.add 0 a b
  | 7 => Fmt.f32.add 0 a b
  | f => (a + b) % 2 ^ fmtBits f

/-- An element code is a NaN of the table's format. -/
def scatterNaN (fmt a : Nat) : Bool :=
  match fmt with
  | 6 => Fmt.bf16.isNaN a
  | 7 => Fmt.f32.isNaN a
  | _ => false

/-- The source rows that name one table row, combined in ascending position. -/
def combineRows (fmt : Nat) : List (List Nat) → List Nat
  | [] => []
  | x :: r => r.foldl (fun a y => a.zipWith (scatterAdd fmt) y) x

/-- The table rows named, ascending, each once. -/
def distinctRows (ps : List (Option Nat)) : List Nat :=
  ((ps.filterMap id).mergeSort (fun a b => decide (a ≤ b))).eraseDups

/-- Step 11 for SCATTER.ADD: its source rows are read as elements (R137); the table's rows are not looked at (log entry
98). -/
def splitScatter (c : Actr) (b : List Byte) : EM Unit := c.uniform (Desc.ofBytes b 40).lines

/-- SCATTER.ADD. Its source is of the table's format, and in memory aligned for an element of it (R316, R345). -/
def runScatter (c : Actr) (b : List Byte) (t : Table) : EM Unit := do
  EM.demand (scatterFmt t.fmt && t.len % (fmtBits t.fmt / 8) == 0) stMalformed
  let n := numAt b 32 4
  let d := Desc.ofBytes b 40
  let r ← d.region c false
  fitRows r n t.len
  EM.demand (r.holdsFmt t.fmt && (d.kind == 1 || aligned d.va (fmtBits t.fmt / 8))) stMalformed
  let ps ← c.planned do
    let ix ← c.indices (wordAt b 24) n (idxSize (flagOf b 0))
    resolveAll c (numAt b 36 1) t (entryVA (wordAt b 24) (idxSize (flagOf b 0))) ix
  let e := t.len * 8 / fmtBits t.fmt
  let elems (x : Nat) : List Nat := (List.range e).map (rowElem t.fmt x)
  let src ← EM.collect (fun i => do let x ← c.num (r.row i) r.len; pure (elems x)) (List.range n)
  let seen (x : List Nat) : Bool := x.any (scatterNaN t.fmt)
  c.noteIf 64 ((ps.zip src).any fun x => x.1.isSome && seen x.2)
  c.units 0 (fun row => do
    c.permit (t.row row) t.len
    c.row (.mem (t.row row)) t.len (do
      let old ← c.tableRow t row
      let s := combineRows t.fmt (((ps.zip src).filter fun x => x.1 == some row).map fun x => x.2)
      let sum := (elems (ofBytes old)).zipWith (scatterAdd t.fmt) s
      c.noteIf 64 (seen (elems (ofBytes old)) || seen s || seen sum)
      pure (rowBytes t.fmt sum))) (distinctRows ps)

/-! ## CHAIN (R346) -/

/-- A level entry of CHAIN. -/
structure Level where
  va : Word
  bound : Nat
  width : Nat
  policy : Nat
  deriving DecidableEq, Repr

/-- Level l (from 0) of a block. -/
def levelAt (b : List Byte) (l : Nat) : Level :=
  let o := 32 + 16 * l
  { va := wordAt b o, bound := numAt b (o + 8) 4, width := numAt b (o + 12) 1, policy := numAt b (o + 13) 1 }

/-- Step 5 for a level. Only level 1's bound has a limit, which its array's length sets (R346). -/
def levelOk (b : List Byte) (l : Nat) : Bool :=
  let x := levelAt b l
  (x.width == 4 || x.width == 8) && decide (x.policy ≤ 2) && zeros b (32 + 16 * l + 14) (32 + 16 * l + 16) &&
  aligned x.va x.width

/-- Steps 5 to 9 for CHAIN. A level without entries names the address of its array only. -/
def prepChain (c : Actr) (b : List Byte) : EM Prep := do
  let n := numAt b 24 4
  let lv := numAt b 28 1
  let d := Desc.ofBytes b 88
  EM.demand (gleanFields b 2 && decide (1 ≤ n ∧ n ≤ 65536 ∧ 1 ≤ lv ∧ lv ≤ 3 ∧ numAt b 80 1 ≤ 2) && zeros b 29 32 &&
    zeros b 81 88 && zeros b 120 192 && d.ok && ((List.range lv).all (levelOk b)) && zeros b (32 + 16 * lv) 80 &&
    decide (n ≤ (levelAt b 0).bound)) stMalformed
  c.permit (wordAt b 16) 64
  c.permit (levelAt b 0).va ((levelAt b 0).bound * (levelAt b 0).width)
  EM.each (fun l => c.permit (levelAt b l).va (if (levelAt b l).bound = 0 then 0 else (levelAt b l).width)) (List.range lv)
  d.permit c false
  let r ← d.region c true
  EM.demand (r.rows == n) stMalformed
  pure { tiles := Region.refs [r], srcs := [.va (levelAt b 0).va.toNat ((levelAt b 0).bound * (levelAt b 0).width)]
         dsts := [r.rng] }

/-- A position's index met a bound: it goes on by the policy, or FAULTs at a level with the address of the entry that held
it. -/
def Actr.bounded (c : Actr) (policy bound level slot : Nat) (p : Nat × Word) : EM (Option Nat) :=
  match policyOf policy bound p.1 with
  | none => throw (.fault (faultDetail level slot) p.2)
  | some (i, hit) => do
    c.noteIf 1 hit
    pure i

/-- One position through a level: it is checked against the bound and then read; an entry of a deeper level is checked as its
address is computed (R316). The address is that of the entry that held the index. -/
def chainLevel (c : Actr) (b : List Byte) (slot : Nat) (p : Option (Nat × Word)) (l : Nat) : EM (Option (Nat × Word)) := do
  let x := levelAt b l
  match p with
  | none => pure none
  | some v =>
    match ← c.bounded x.policy x.bound (l + 1) slot v with
    | none => pure none
    | some i => do
      let a := entryVA x.va x.width i
      if l ≠ 0 then c.permit a x.width
      let y ← c.num (.mem a) x.width
      pure (some (y, a))

/-- One position of CHAIN, down to the table. -/
def chainPos (c : Actr) (b : List Byte) (t : Table) (i : Nat) : EM (Option Nat) := do
  let start := entryVA (levelAt b 0).va (levelAt b 0).width i
  match ← EM.carry (chainLevel c b t.slot) (some (i, start)) (List.range (numAt b 28 1)) with
  | none => pure none
  | some v => c.bounded (numAt b 80 1) t.rows 0 t.slot v

/-- CHAIN. -/
def runChain (c : Actr) (b : List Byte) (t : Table) : EM Unit := do
  let n := numAt b 24 4
  let r ← (Desc.ofBytes b 88).region c true
  fitRows r n t.len
  let ps ← c.planned (EM.collect (chainPos c b t) (List.range n))
  c.units 0 (fun x : Option Nat × Nat => c.row (r.row x.2) r.len (c.posRow t x.1)) ps.zipIdx

/-! ## ROUTE (R347-R349) -/

/-- Entries of a routing command: n × k. -/
def routeCount (b : List Byte) : Nat := numAt b 32 4 * numAt b 36 1

/-- Steps 5 to 9 for ROUTE. -/
def prepRoute (c : Actr) (b : List Byte) : EM Prep := do
  let n := numAt b 32 4
  let k := numAt b 36 1
  let e := numAt b 40 4
  let sl := numAt b 44 4
  let w := if flagOf b 0 then 4 else 2
  let hot := flagOf b 1
  EM.demand (gleanFields b 2 && decide (1 ≤ n ∧ n ≤ 65536 ∧ 1 ≤ k ∧ k ≤ 8 ∧ 1 ≤ e ∧ e ≤ 4096 ∧ 1 ≤ sl ∧ sl ≤ 4096) &&
    zeros b 37 40 && zeros b 89 92 && zeros b 96 192 && aligned (wordAt b 24) w && aligned (wordAt b 48) 4 &&
    aligned (wordAt b 56) 4 && aligned (wordAt b 64) 4 && aligned (wordAt b 72) 4 && decide (1 ≤ numAt b 88 1) &&
    (if hot then aligned (wordAt b 80) 8 else wordAt b 80 == 0)) stMalformed
  c.permit (wordAt b 16) 64
  c.permit (wordAt b 24) (n * k * w)
  c.permit (wordAt b 48) (4 * sl)
  c.permit (wordAt b 56) (4 * sl)
  c.permit (wordAt b 64) (4 * n * k)
  if wordAt b 72 != 0 then c.permit (wordAt b 72) (4 * n * k)
  if hot then c.permit (wordAt b 80) (8 * (e + 1))
  pure { srcs := [.va (wordAt b 24).toNat (n * k * w)]
         dsts := [.va (wordAt b 48).toNat (4 * sl), .va (wordAt b 56).toNat (4 * sl), .va (wordAt b 64).toNat (4 * n * k)] ++
           (if wordAt b 72 != 0 then [.va (wordAt b 72).toNat (4 * n * k)] else []) }

/-- A routing row keeps R347 and R348 for S slots. -/
def routeRowOk (row slots : Nat) : Bool :=
  let c := bitsOf row 0 16
  decide (1 ≤ c ∧ c ≤ 7) && (List.range 7).all fun i =>
    let h := bitsOf row (16 * (i + 1)) 16
    if i < c then decide (h < slots) else h == 0

/-- How far the assignments have gone: how often each expert was seen, and the slots so far in reverse. -/
structure Routed where
  seen : SMap Nat := []
  slots : List Nat := []
  deriving DecidableEq, Repr

/-- One assignment (R348). -/
def routeOne (row : Nat → Nat) (x : Routed) (e : Nat) : Routed :=
  let r := row e
  let n := x.seen.get 0 e
  { seen := x.seen.put e (n + 1), slots := bitsOf r (16 * (1 + n % bitsOf r 0 16)) 16 :: x.slots }

/-- The place of each assignment among those of its slot and the slots below: inv of R348. -/
def routeInv (offs : List Nat) : SMap Nat → List Nat → List Nat
  | _, [] => []
  | taken, s :: r => (offs.getD s 0 + taken.get 0 s) :: routeInv offs (taken.put s (taken.get 0 s + 1)) r

/-- The running sums of a list, from 0. -/
def sumsBefore : Nat → List Nat → List Nat
  | _, [] => []
  | a, x :: r => a :: sumsBefore (a + x) r

/-- Words as bytes. -/
def wordsOf (xs : List Nat) : List Byte := xs.flatMap (bytesOf 4)

/-- The home of a posted part of the command. Where it is known only through a spread-table entry whose read waits, the
engine waits too; none is a part that is dropped, with an error record (R349). -/
def Actr.postHome (c : Actr) (va : Word) : EM (Option Home) := fun s =>
  let drop (s : State) : Except EStop (Option Home) × State := (.ok none, s.record (.core c.loc) 0x04 .deny va c.launch c.lmod)
  match s.findHome c.loc c.user c.launch c.lmod va with
  | (s, .ok h) => (.ok (some h), s)
  | (s, .error e) =>
    match EStop.ofV e with
    | .lock => (.error .lock, s)
    | .park h r b n va w => if c.deny.isSome then drop s else (.error (.park h r b n va w), s)
    | _ => drop s

/-- A packet of the command to a home. -/
def Actr.send (c : Actr) (k : Home → PKind) (last va : Word) : EM Unit := do
  match ← c.postHome va with
  | none => pure ()
  | some h =>
    match ← c.postHome last with
    | none => pure ()
    | some th =>
      EM.change fun s => s.send { id := 0, kind := k th, src := c.loc, key := c.key, uid := 0, user := c.user
                                  launch := c.launch, lmod := c.lmod, home := h, va := va }

/-- The first of ROUTE's posted parts, which come after its four arrays. -/
def routePosts : Nat := 4

/-- The hot-counter updates in ascending expert, then the total, then the tests (R349). They are not waited for. -/
def routeHot (c : Actr) (b : List Byte) (seen : SMap Nat) : EM Unit := do
  let e := numAt b 40 4
  let base := wordAt b 80
  let at' (i : Nat) : Word := base + BitVec.ofNat 64 (8 * i)
  let adds := seen ++ [(e, routeCount b)]
  c.units routePosts (fun x : Nat × Nat => c.send (fun _ => .hot x.2) (at' x.1) (at' x.1)) adds
  c.units (routePosts + adds.length) (fun x : Nat × Nat =>
    c.send (fun h => .hotTest x.1 (numAt b 88 1) (numAt b 92 4) (at' e) h (wordAt b 16)) (at' e) (at' x.1)) seen

/-- How often each expert is named. -/
def seenOf (ids : List Nat) : SMap Nat := ids.foldl (fun m e => m.put e (m.get 0 e + 1)) []

/-- ROUTE. Its ids and its slots are read and checked once, before anything is written (R348): both stand in the plan. Then
it writes the counts, the offsets, the permutation and the inverse. -/
def runRoute (c : Actr) (b : List Byte) (t : Table) : EM Unit := do
  let e := numAt b 40 4
  let sl := numAt b 44 4
  EM.demand (t.fmt == 0 && t.len == 16 && t.rows == e) stMalformed
  let ps ← c.planned do
    let ids ← c.indices (wordAt b 24) (routeCount b) (if flagOf b 0 then 4 else 2)
    EM.demand (ids.all fun i => decide (i < e)) stBounds
    let named := (ids.mergeSort (fun a b => decide (a ≤ b))).eraseDups
    let rows ← EM.collect (fun i => do let bs ← c.tableRow t i; pure (i, ofBytes bs)) named
    EM.demand (rows.all fun r => routeRowOk r.2 sl) stBounds
    pure ((ids ++ (ids.foldl (routeOne (SMap.get rows 0)) {}).slots.reverse).map some)
  let ids := (ps.filterMap id).take (routeCount b)
  let slots := (ps.filterMap id).drop (routeCount b)
  let cnt := (List.range sl).map fun s => (slots.filter (· == s)).length
  let offs := sumsBefore 0 cnt
  let inv := routeInv offs [] slots
  let perm := (inv.zipIdx.mergeSort (fun a b => decide (a.1 ≤ b.1))).map fun p => p.2
  c.unit 0 (c.write [(.mem (wordAt b 48), wordsOf cnt)])
  c.unit 1 (c.write [(.mem (wordAt b 56), wordsOf offs)])
  c.unit 2 (c.write [(.mem (wordAt b 64), wordsOf perm)])
  c.unit 3 (if wordAt b 72 != 0 then c.write [(.mem (wordAt b 72), wordsOf inv)] else pure ())
  if flagOf b 1 then routeHot c b (seenOf ids)

end Sys2Proof.Machine
end

