-- ==== Sys2Proof/Machine/Trellis.lean ====
section
/-! DEFINITION. The Trellis walker: its words, their checks, and a run (11_encoding R175, R201; 19_engines R350-R354). -/

namespace Sys2Proof.Machine

open Sys2Proof

/-! ## Words (R175, R201, R351) -/

/-- WOP of a word. -/
def wOp (w : Nat) : Nat := bitsOf w 27 5
/-- WD. -/
def wD (w : Nat) : Nat := bitsOf w 24 3
/-- WA. -/
def wA (w : Nat) : Nat := bitsOf w 21 3
/-- WB. -/
def wB (w : Nat) : Nat := bitsOf w 18 3
/-- IMM18. -/
def wImm (w : Nat) : Nat := bitsOf w 0 18

/-- The tile that a word names, if it names one. -/
def wTile (w : Nat) : Option Nat :=
  match wOp w with
  | 13 => some (wImm w % 4)
  | 14 => some (wImm w % 4)
  | 15 => some (wImm w % 4)
  | 16 => some (wImm w / 4 % 4)
  | _ => none

/-- The size code of a word, if it has one. -/
def wSize (w : Nat) : Option Nat :=
  match wOp w with
  | 0 => some (wImm w % 4)
  | 1 => some (wImm w % 4)
  | 16 => some (wImm w % 4)
  | _ => none

/-- Which of WD, WA and WB an operation uses, and how many low bits of IMM18; none is an unassigned WOP. -/
def wUse (op : Nat) : Option (Bool × Bool × Bool × Nat) :=
  match op with
  | 0 => some (true, false, false, 3)
  | 1 => some (true, true, false, 3)
  | 2 => some (true, true, true, 0)
  | 3 => some (true, true, false, 18)
  | 4 => some (true, true, true, 0)
  | 5 => some (true, true, true, 0)
  | 6 => some (true, true, true, 0)
  | 7 => some (true, true, true, 0)
  | 8 => some (true, true, true, 0)
  | 9 => some (false, true, true, 8)
  | 10 => some (false, true, true, 8)
  | 11 => some (false, true, true, 8)
  | 12 => some (false, false, false, 8)
  | 13 => some (true, true, true, 2)
  | 14 => some (true, true, true, 2)
  | 15 => some (false, false, false, 3)
  | 16 => some (true, true, true, 4)
  | 17 => some (false, false, false, 0)
  | _ => none

/-- The word branches. -/
def wBranch (op : Nat) : Bool := decide (9 ≤ op ∧ op ≤ 12)

/-- R201, R350: a word of an n-word program with these valid tiles may be run. -/
def wordOkW (n valid w : Nat) : Bool :=
  match wUse (wOp w) with
  | none => false
  | some (d, a, b, k) =>
    (d || wD w == 0) && (a || wA w == 0) && (b || wB w == 0) && decide (wImm w < 2 ^ k) &&
    (!wBranch (wOp w) || decide (wImm w < n)) && wSize w != some 3 &&
    (match wTile w with | some t => valid.testBit t | none => true)

/-! ## The block (R350) -/

/-- Valid tile entries. -/
def walkValid (b : List Byte) : List Nat := (List.range 4).filter fun t => flagOf b t
/-- Program words. -/
def walkWords (b : List Byte) : Nat := numAt b 24 2
/-- Stream x: its address and length. -/
def walkStream (b : List Byte) (x : Nat) : Word × Nat := (wordAt b (32 + 16 * x), numAt b (40 + 16 * x) 4)
/-- The step limit. -/
def walkLimit (b : List Byte) : Nat := if numAt b 28 4 = 0 then Config.walkerLimit else numAt b 28 4

/-- The tile that entry t names. -/
def walkName (l : Loc) (b : List Byte) (t : Nat) : TName :=
  { loc := quadOwner l (numAt b (66 + 4 * t) 1), hnd := numAt b (64 + 4 * t) 2 }

/-- Step 5 for a tile entry. The limits are those of valid entries only (R350). -/
def walkEntryOk (b : List Byte) (t : Nat) : Bool :=
  !flagOf b t || (numAt b (67 + 4 * t) 1 == 0 && (decide (numAt b (66 + 4 * t) 1 ≤ 3) || numAt b (66 + 4 * t) 1 == 0xFF))

/-- A tile format that a walker writes. -/
def walkFmt (f : Nat) : Bool := f != 4 && f != 8 && f != 11

/-- Steps 5 to 9 for WALK; the program's words are kept. -/
def prepWalk (c : Actr) (b : List Byte) : EM Prep := do
  let n := walkWords b
  EM.demand (decide (flagsOf b < 16 ∧ 1 ≤ n ∧ n ≤ 256) && zeros b 26 28 && zeros b 44 48 && zeros b 60 64 &&
    zeros b 112 128 && ((List.range 4).all (walkEntryOk b)) && aligned (wordAt b 16) 4) stMalformed
  c.permit (wordAt b 16) (4 * n)
  c.permit (walkStream b 0).1 (walkStream b 0).2
  c.permit (walkStream b 1).1 (walkStream b 1).2
  let s ← get
  EM.demand ((walkValid b).all fun t => c.holds s (walkName c.loc b t).loc) stBounds
  let ts ← EM.collect (fun t => (walkName c.loc b t).find true) (walkValid b)
  EM.demand (ts.all fun t => walkFmt t.2.fmt.toNat) stMalformed
  let ws ← c.read (.mem (wordAt b 16)) (4 * n)
  EM.demand ((List.range n).all fun i => wordOkW n (flagsOf b) (numAt ws (4 * i) 4)) stMalformed
  pure { tiles := ts.map fun t => t.1
         srcs := [.va (wordAt b 16).toNat (4 * n), .va (walkStream b 0).1.toNat (walkStream b 0).2,
           .va (walkStream b 1).1.toNat (walkStream b 1).2]
         dsts := ts.map fun t => tileRng t.1.loc t.2
         extra := ws }

/-! ## A run (R351-R354) -/

/-- A register. -/
def Walker.reg (w : Walker) (n : Nat) : Nat := w.regs.getD n 0
/-- A register written. -/
def Walker.put (w : Walker) (n v : Nat) : Walker := { w with regs := setAt w.regs n (v % 2 ^ 32) }
/-- The cursor of a stream. -/
def Walker.cursor (w : Walker) (x : Nat) : Nat := if x = 0 then w.x0 else w.x1
/-- The cursor of a stream moved on. -/
def Walker.move (w : Walker) (x n : Nat) : Walker := if x = 0 then { w with x0 := w.x0 + n } else { w with x1 := w.x1 + n }
/-- The next word. -/
def Walker.next (w : Walker) : Walker := { w with idx := w.idx + 1 }

/-- What a walker works on: its command, block, program, and tiles by number as they stand. -/
structure WalkEnv where
  c : Actr
  b : List Byte
  prog : List Byte
  tiles : List (Nat × TileRef × Tile)

/-- A tile by its number. -/
def WalkEnv.tile (v : WalkEnv) (t : Nat) : TileRef × Tile :=
  match v.tiles.find? fun x => x.1 == t with
  | some x => x.2
  | none => ({ loc := 0, slot := 0, gen := 0, dst := true }, {})

/-- The walk has a tile open. Two entries that name one tile have it open together. -/
def WalkEnv.isOpen (v : WalkEnv) (w : Walker) (t : Nat) : Bool := w.opened.any fun k => (v.tile k).1 == (v.tile t).1

/-- The command ends BOUNDS at a word: its open tiles close with STATUS BOUNDS as it completes (R318, R352). -/
def WalkEnv.bounds {α : Type} (w : Walker) : EM α := throw (.ends stBounds w.idx)

/-- n bytes of a stream from an offset; outside its length the command ends. -/
def WalkEnv.stream (v : WalkEnv) (w : Walker) (x o n : Nat) : EM Nat := do
  let (va, len) := walkStream v.b x
  if o + n ≤ len then v.c.num (.mem (va + BitVec.ofNat 64 o)) n else WalkEnv.bounds w

/-- n elements written into an open tile from a row and column on. -/
def WalkEnv.emit (v : WalkEnv) (w : Walker) (t row col n : Nat) (f : Nat → Nat) : EM Unit := do
  if n = 0 then pure ()
  else
    let (r, e) := v.tile t
    if !v.isOpen w t ∨ e.rows.toNat ≤ row ∨ e.cols.toNat < col + n then WalkEnv.bounds w
    else
      let k := fmtBits e.fmt.toNat / 8
      v.c.write [((tileRow r.loc e row).step (col * k), (List.range n).flatMap fun i => bytesOf k (f i))]

/-- The bytes of a stream 1 element for a tile. -/
def WalkEnv.elem (v : WalkEnv) (t : Nat) : Nat := fmtBits (v.tile t).2.fmt.toNat / 8

/-- wtile open (R354): the tile is zero-filled and its STATE is 1, whatever its STATE was. The tile must still be the one that
the walk named; its bytes are waited for where another operation's lock meets the fill (R143). -/
def WalkEnv.openTile (v : WalkEnv) (w : Walker) (t : Nat) : EM Walker := do
  let (r, e) := v.tile t
  let s ← get
  EM.demand (s.refOk r) stStale
  v.c.write [(.bank r.loc e.base.toNat, List.replicate e.bytes 0)]
  EM.change fun s =>
    (s.updTile r.loc r.slot fun x => { x with state := 1, marked := false }).updCmd v.c.cmd fun k =>
      { k with tiles := (k.tiles.filter (· != r)) ++ [r] }
  pure (if v.isOpen w t then w.next else ({ w with opened := w.opened ++ [t] }).next)

/-- wtile close: STATE 2 with DONE, and the tile's lock is released (R354). The walk's hold on it is over. -/
def WalkEnv.closeTile (v : WalkEnv) (w : Walker) (t : Nat) : EM Walker := do
  if v.isOpen w t then do
    let (r, e) := v.tile t
    EM.change fun s =>
      let s := (s.tileBack r.loc r.slot 0).updCmd v.c.cmd fun k => { k with tiles := k.tiles.filter (· != r) }
      { s with locks := s.locks.filter fun k => !(k.cmd == v.c.cmd && k.dst && k.rng == tileRng r.loc e) }
    pure ({ w with opened := w.opened.filter fun k => (v.tile k).1 != r }).next
  else pure w.next

/-- A branch (R351). -/
def Walker.branch (w : Walker) (b : Bool) (target : Nat) : Walker := if b then { w with idx := target } else w.next

/-- One word. None is `whalt`. -/
def WalkEnv.word (v : WalkEnv) (w : Walker) (x : Nat) : EM (Option Walker) := do
  let a := w.reg (wA x)
  let b := w.reg (wB x)
  let imm := wImm x
  let alu (r : Nat) : EM (Option Walker) := pure (some (w.put (wD x) r).next)
  match wOp x with
  | 0 => do
    let n := 2 ^ (imm % 4)
    let st := imm / 4 % 2
    let y ← v.stream w st (w.cursor st) n
    pure (some ((w.move st n).put (wD x) y).next)
  | 1 => do
    let n := 2 ^ (imm % 4)
    let y ← v.stream w (imm / 4 % 2) (a * n) n
    alu y
  | 2 => alu (a + b)
  | 3 => alu (a + ofInt 32 (toSigned 18 imm))
  | 4 => alu (a + 2 ^ 32 - b)
  | 5 => alu (a &&& b)
  | 6 => alu (a * 2 ^ (b % 32))
  | 7 => alu (a / 2 ^ (b % 32))
  | 8 => alu (a / 2 ^ (b % 32) % 2)
  | 9 => pure (some (w.branch (decide (a < b)) imm))
  | 10 => pure (some (w.branch (a == b) imm))
  | 11 => pure (some (w.branch (a != b) imm))
  | 12 => pure (some (w.branch true imm))
  | 13 => do
    v.emit w (imm % 4) a b 1 fun _ => w.reg (wD x)
    pure (some w.next)
  | 14 => do
    let k := v.elem (imm % 4)
    let n := w.reg (wD x)
    if n = 0 then pure (some w.next)
    else do
      let y ← v.stream w 1 w.x1 (n * k)
      v.emit w (imm % 4) a b n fun i => bitsOf y (8 * k * i) (8 * k)
      pure (some (w.move 1 (n * k)).next)
  | 15 => do
    let r ← if imm / 4 % 2 = 1 then v.openTile w (imm % 4) else v.closeTile w (imm % 4)
    pure (some r)
  | 16 => do
    let t := imm / 4 % 4
    let k := v.elem t
    let sz := 2 ^ (imm % 4)
    let n ← v.stream w 0 w.x0 sz
    let y ← v.stream w 1 w.x1 k
    v.emit w t a b n fun _ => y
    pure (some (((w.move 0 sz).move 1 k).put (wD x) (b + n)).next)
  | _ => pure none

/-- A word is done by a walker that stands at `p`. Where the engine waits at it, the walk goes on from this word. -/
def WalkEnv.wordAt (v : WalkEnv) (p : WalkAt) (x : Nat) : EM (Option Walker) := fun s =>
  match (v.word p.walker x : EM (Option Walker)) s with
  | (.error e, t) => (.error e, if e.waits then t.updCmd v.c.cmd fun k => { k with walk := some p } else t)
  | r => r

/-- The program from a walker's word on, with so many steps left (R352). The index of `whalt` is its detail (R353); its open
tiles close as the command completes. It pauses after a `wtile`, so that others meet the tile open or closed (R354, log
entry 45). -/
def WalkEnv.go (v : WalkEnv) : Nat → Nat → Walker → EM Unit
  | 0, last, w => throw (if walkWords v.b ≤ w.idx then .ends stBounds last else .limit w.idx)
  | n + 1, last, w => do
    if walkWords v.b ≤ w.idx then throw (.ends stBounds last)
    else
      let x := numAt v.prog (4 * w.idx) 4
      match ← v.wordAt { walker := w, left := n + 1, last := last } x with
      | some y => if wOp x = 15 then throw (.pause { walker := y, left := n, last := w.idx }) else v.go n w.idx y
      | none => v.c.note w.idx

/-- The walker's start. -/
def walkStart (b : List Byte) : Walker := { regs := (List.range 8).map fun i => numAt b (80 + 4 * i) 4 }

/-- The reference of a tile that a walk names, whether or not it is current. -/
def TName.ref (t : TName) : TileRef := { loc := t.loc, slot := t.hnd % 64, gen := t.hnd / 64, dst := true }

/-- WALK, from its start or from where it paused (R351-R354). `x` is the block with the program's words behind it. -/
def runWalk (c : Actr) (x : List Byte) (from? : Option WalkAt) : EM Unit := do
  let b := x.take 128
  let s ← get
  let ts := (walkValid b).map fun t =>
    let r := (walkName c.loc b t).ref
    (t, r, s.tileOf r)
  let v : WalkEnv := { c := c, b := b, prog := x.drop 128, tiles := ts }
  match from? with
  | none => v.go (walkLimit b) 0 (walkStart b)
  | some p => v.go p.left p.last p.walker

end Sys2Proof.Machine
end

