-- ==== Sys2Proof/Machine/Command.lean ====
section
/-! DEFINITION. The life of an engine command: taking a pushed value, acceptance, start, running, completion, and the
resolution of its faults (19_engines R307, R310-R318, R339, R340; 07_memory R141-R143). -/

namespace Sys2Proof.Machine

open Sys2Proof

/-! ## Engines and codes (R28, R311, R315) -/

/-- Places of an engine (R315). -/
def Eng.places : Eng → Nat
  | .pavilion _ => 1 | .barrow _ => 4 | .gleaner _ => 8 | .trellis _ => 1

/-- The port that an engine serves. -/
def Eng.port : Eng → EPort
  | .pavilion _ => .pav | .barrow _ => .cpy | .gleaner _ => .gln | .trellis _ => .trl

/-- The port as an operand names it. -/
def EPort.name : EPort → Port
  | .pav => .qpav | .cpy => .qcpy | .gln => .qgln | .trl => .qtrl

/-- The block length of a command (R311); none for a code that is not assigned. -/
def codeLen : Nat → Option Nat
  | 0x0101 => some 256 | 0x0102 => some 256 | 0x0103 => some 128
  | 0x0201 => some 128 | 0x0202 => some 128 | 0x0203 => some 128 | 0x0204 => some 128 | 0x0205 => some 128 | 0x0206 => some 64
  | 0x0301 => some 128 | 0x0302 => some 128 | 0x0303 => some 128 | 0x0304 => some 192 | 0x0305 => some 192
  | 0x0401 => some 128
  | _ => none

/-- The code belongs to this engine. -/
def Eng.takes (e : Eng) (code : Nat) : Bool :=
  (codeLen code).isSome && code / 256 == match e with
    | .pavilion _ => 1 | .barrow _ => 2 | .gleaner _ => 3 | .trellis _ => 4

/-- The module that an engine stands on. -/
def Eng.module : Eng → Nat
  | .pavilion p => p / 1024 | .barrow q => q / 4096 | .gleaner l => Loc.module l | .trellis q => q / 4096

/-- The unit itself is absent: a Trellis walker can be (R32). -/
def State.unitAbsent (s : State) (e : Eng) : Bool :=
  match e with
  | .trellis q => (s.module e.module).part.absentTrellis.contains q
  | _ => false

/-- The part of the unit that a code needs is absent: chained-gather logic or a Sheaf stage (R32). -/
def State.stageAbsent (s : State) (e : Eng) (code : Nat) : Bool :=
  let part := (s.module e.module).part
  match e with
  | .gleaner l => code == 0x0304 && part.absentChain.contains l
  | .pavilion p => (code == 0x0102 || code == 0x0103) && part.absentSheaf.contains p
  | _ => false

/-! ## Checks of R312 -/

/-- The number of an engine's Pavilion. -/
def Eng.pav : Eng → Nat | .pavilion p => p | _ => 0

/-- Steps 5 to 9, by code. -/
def prepOf (e : Eng) (c : Actr) (code : Nat) (b : List Byte) : EM Prep :=
  match code with
  | 0x0101 => prepMma c e.pav b
  | 0x0102 => prepFwd c e.pav b
  | 0x0103 => prepBwd c e.pav b
  | 0x0201 => prepCopy2d c b
  | 0x0202 => prepCopyIdx c b
  | 0x0203 => prepSparse c b false
  | 0x0204 => prepSparse c b true
  | 0x0205 => prepConvert c b
  | 0x0206 => prepFill c b
  | 0x0301 => prepGather c b true
  | 0x0302 => prepPool c b
  | 0x0303 => prepGather c b false
  | 0x0304 => prepChain c b
  | 0x0305 => prepRoute c b
  | _ => prepWalk c b

/-- Step 11, by code. -/
def splitOf (e : Eng) (c : Actr) (code : Nat) (b : List Byte) : EM Unit :=
  match code with
  | 0x0101 => splitMma c e.pav b
  | 0x0102 => splitFwd c e.pav b
  | 0x0203 => splitSparse c b false
  | 0x0204 => splitSparse c b true
  | 0x0205 => splitConvert c b
  | 0x0302 => splitPool c b
  | 0x0303 => splitScatter c b
  | _ => pure ()

/-- The work of step 12, by code. A Gleaner's block has the sampled descriptor behind it, and a walker's its program. A
product goes at most `left` chunks on. -/
def runOf (e : Eng) (c : Actr) (k : Cmd) (left : Option Nat) : EM Unit :=
  let n := (codeLen k.code).getD 0
  let t := Table.ofBytes (k.block.drop n)
  let b' := k.block.take n
  match k.code with
  | 0x0101 => runMma c e.pav b' k.mask k.exact left
  | 0x0102 => runFwd c e.pav b' k.mask k.exact left
  | 0x0103 => runBwd c e.pav b'
  | 0x0201 => runCopy2d c b'
  | 0x0202 => runCopyIdx c b'
  | 0x0203 => runExpand c b'
  | 0x0204 => runCompact c b'
  | 0x0205 => runConvert c b'
  | 0x0206 => runFill c b'
  | 0x0301 => runGather c b' t
  | 0x0302 => runPool c b' t
  | 0x0303 => runScatter c b' t
  | 0x0304 => runChain c b' t
  | 0x0305 => runRoute c b' t
  | _ => runWalk c k.block k.walk

/-- Whose rights a pushed value is taken with. -/
def Push.actr (p : Push) (cmd : Nat) (deny : Option Word) : Actr :=
  { cmd := cmd, eng := some p.eng, loc := p.src, key := p.key, user := p.user, launch := p.launch, lmod := p.lmod, deny := deny }

/-- Steps 1 to 4 as far as the header. -/
def Push.header (p : Push) (c : Actr) : EM (List Byte) := do
  let s ← get
  EM.demand (!s.unitAbsent p.eng) stAbsent
  EM.demand (aligned p.v 64) stMalformed
  EM.demand (c.permits s false p.v) stBounds
  c.read (.mem p.v) 64

/-- The rest of step 4, then steps 5 to 9. -/
def Push.checks (p : Push) (c : Actr) (h : List Byte) : EM (List Byte × Prep) := do
  let code := numAt h 0 2
  let s ← get
  EM.demand (p.eng.takes code) stMalformed
  EM.demand (!s.stageAbsent p.eng code) stAbsent
  let n := (codeLen code).getD 64
  let r ← c.read (.mem (p.v + 64)) (n - 64)
  let b := h ++ r
  EM.demand (numAt b 4 4 == n) stMalformed
  let x ← prepOf p.eng c code b
  pure (b, x)

/-! ## Running (R312 steps 11 and 12, R318) -/

/-- How a step of a command goes: it stands where it stood, or the machine moves on. -/
inductive Took where
  | stands
  | moved (s : State)

/-- A command's rights. -/
def Cmd.actr (c : Cmd) (deny : Option Word) : Actr :=
  { cmd := c.id, eng := some c.eng, loc := c.src, key := c.key, user := c.user, launch := c.launch, lmod := c.lmod, deny := deny }

/-- A command has ended; its completion follows (R318). A write that was dropped makes it FAULTED where it would be DONE
(R313). `va` is the index entry of R340. -/
def State.ended (s : State) (id status detail : Nat) (va : Option Word) : State :=
  s.updCmd id fun c =>
    let st := if status = 0 ∧ c.dropped then stFaulted else status
    { c with phase := .done st (detail ||| c.endDetail), failVA := va, since := s.clk }

/-- Only counter updates are left of a ROUTE, which its status does not tell of (R349). -/
def Cmd.posting (c : Cmd) : Bool := c.code == 0x0305 && decide (routePosts ≤ c.wrote)

/-- What follows when the work of a command stops: `t` is the state that it left, with every row and block written before
the stop. A command under DENY ends at any fault. -/
def State.stopCmd (s t : State) (id : Nat) (c : Cmd) (deny : Bool) : EStop → Took
  | .ends st d => .moved (t.ended id st d none)
  | .limit d => .moved (t.ended id stBounds d none)
  | .pause w =>
    if deny then .moved (s.ended id stFaulted 0 none)
    else .moved (t.updCmd id fun c => { c with walk := some w, since := t.clk })
  | .rest => if deny then .moved (s.ended id stFaulted 0 none) else .moved (t.updCmd id fun c => { c with since := t.clk })
  | .fault d va => .moved (t.ended id stBounds d (some va))
  | .lock => if s.cmds == t.cmds then .stands else .moved t
  | .park h r b n va w =>
    if deny then .moved (t.ended id stFaulted 0 none)
    else
      match t.park h r b n (.engine id) va { write := w, user := c.user } c.launch c.lmod with
      | some t => .moved (t.updCmd id fun c => { c with phase := .parked, failVA := some va })
      | none => .moved (t.updCmd id fun c => { c with refused := some (h, t.clk + 64, t.nextId) })

/-- The code is a Gleaner's, which works on a sampled table. -/
def Cmd.samples (c : Cmd) : Bool := c.code / 256 == 3 && c.version.isNone

/-- A sampled descriptor is one that R338 and R339 allow. -/
def Cmd.tableOk (c : Cmd) (a : Actr) : EM Unit := do
  if c.code / 256 = 3 then do
    let t := Table.ofBytes (c.block.drop ((codeLen c.code).getD 0))
    EM.demand t.ok stMalformed
    EM.demand (t.placed a (← get)) stBounds
  else pure ()

/-- R339: the table is sampled, once; the descriptor stands behind the block. -/
def Cmd.sample (c : Cmd) (a : Actr) : EM Unit := do
  if c.samples then do
    let va := wordAt c.block 16
    let d ← a.sample va
    EM.change fun s => s.updCmd c.id fun k => { k with block := k.block ++ d, version := some (va, numAt d 0 4 % 2) }

/-- A command's tiles go to STATE 1 and 3; a walker's start changes nothing (R141, R354). -/
def State.seize (s : State) (c : Cmd) : State :=
  if c.code = 0x0401 then s
  else c.tiles.foldl (fun t r => t.updTile r.loc r.slot fun x =>
    { x with state := if r.dst || x.state == 1 then 1 else 3, marked := false }) s

/-- Every tile of the command is in STATE 2, and no command accepted earlier waits for one of them (R141). -/
def State.tilesReady (s : State) (c : Cmd) : Bool :=
  (c.tiles.all fun r => (s.tileOf r).state == 2) &&
  s.cmds.all fun k =>
    !(decide (k.id < c.id) && !k.begun && (match k.phase with | .done _ _ => false | _ => true) &&
      k.tiles.any fun x => c.tiles.any fun y => x.loc == y.loc && x.slot == y.slot)

/-- A command starts: its mask and its order mode are fixed and its tiles are taken; a walk has none yet (R107, R354). -/
def State.begin (s : State) (c : Cmd) : State :=
  if c.begun then s
  else
    let s := match c.eng with | .pavilion p => s.boundary p | _ => s
    let mask := match c.eng with | .pavilion p => s.activeMask p | _ => 0
    (s.updCmd c.id fun k =>
      { k with begun := true, mask := mask, exact := s.exact c, phase := .waiting
               tiles := if c.code = 0x0401 then [] else c.tiles }).seize c

/-- A command that waits for tiles starts once they are ready; one whose tiles are gone ends (R141, R283). -/
def Cmd.start (c : Cmd) : EM Unit := do
  let s ← get
  EM.demand (c.tiles.all s.refOk) stStale
  if !c.begun && !s.tilesReady c then throw .lock
  set (s.begin c)

/-- What an accepted command does when it may: a stopped one reads its record back, a Gleaner samples its table, the pages
are checked, the command starts, and it runs, a Pavilion's product for at most `left` chunks (R312 steps 11 and 12). -/
def Cmd.work (a : Actr) (left : Option Nat) : EM Unit := do
  (← a.self).goOn a.deny
  (← a.self).sample a
  let c ← a.self
  c.tableOk a
  splitOf c.eng a c.code (c.block.take ((codeLen c.code).getD 0))
  c.start
  let c ← a.self
  runOf c.eng a c left

/-- Steps 11 and 12 for an accepted command. Under DENY a run that no fault stops has done nothing: the command ends FAULTED
with what it had written before, but for counter updates, which are dropped. -/
def State.runCmd (s : State) (id : Nat) (deny : Option Word) (left : Option Nat) : Took :=
  match s.cmd id with
  | none => .stands
  | some c =>
    match (Cmd.work (c.actr deny) left : EM Unit) s with
    | (.ok _, t) => .moved (if deny.isSome && !c.posting then s.ended id stFaulted 0 none else t.ended id 0 0 none)
    | (.error e, t) => s.stopCmd t id c deny.isSome e

/-! ## Taking a pushed value (R312) -/

/-- An engine's places that are taken (R315). -/
def State.placesTaken (s : State) (e : Eng) : Nat := (s.cmds.filter fun c => c.eng == e && c.phase != .saved).length

/-- A stopped command of this Pavilion comes before the pushes in its intake once its lease is back (R368). -/
def State.savedFirst (s : State) (e : Eng) : Bool :=
  match e with
  | .pavilion p => s.cmds.any fun c => c.eng == e && c.phase == .saved && (s.lease p).holder == some c.uid
  | _ => false

/-- A pushed value leaves the intake as a command; a push that waited for room may go on. -/
def State.admitCmd (s : State) (p : Push) (c : Cmd) : State :=
  let s := { s with pushes := s.pushes.filter fun x => x.id != p.id, cmds := s.cmds ++ [c], nextId := s.nextId + 1 }
  s.wake fun _ f => f.wait == some (.pushPort p.eng.port.name)

/-- The command that a pushed value becomes. -/
def Push.cmd (p : Push) (id : Nat) (b : List Byte) (x : Prep) (ph : CPhase) : Cmd :=
  { id := id, eng := p.eng, code := numAt b 0 2, va := p.v, block := b ++ x.extra, src := p.src, key := p.key, uid := p.uid
    user := p.user, seq := p.seq, launch := p.launch, lmod := p.lmod, phase := ph, tiles := x.tiles }

/-- A pushed value's checks have stopped. -/
def State.stopPush (s t : State) (p : Push) (h : List Byte) (deny : Bool) : EStop → Took
  | .ends st d => .moved (t.admitCmd p (p.cmd t.nextId h {} (.done st d)))
  | .limit d => .moved (t.admitCmd p (p.cmd t.nextId h {} (.done stBounds d)))
  | .pause _ => .stands
  | .rest => .stands
  | .fault d _ => .moved (t.admitCmd p (p.cmd t.nextId h {} (.done stBounds d)))
  | .lock => .stands
  | .park hm r b n va w =>
    if deny then .moved (t.admitCmd p (p.cmd t.nextId h {} (.done stFaulted 0)))
    else
      match s.park hm r b n (.engine p.id) va { write := w, user := p.user } p.launch p.lmod with
      | some s =>
        .moved { s with pushes := mapIf (fun x => x.id == p.id) (fun x => { x with parked := true, failVA := some va }) s.pushes }
      | none =>
        .moved { s with pushes := mapIf (fun x => x.id == p.id) (fun x => { x with refused := some (hm, s.clk + 64, s.nextId) }) s.pushes }

/-- An engine takes a pushed value: it is accepted and run as far as it goes, or ends (R312). -/
def State.take (s : State) (p : Push) (deny : Option Word) (left : Option Nat) : Took :=
  let c := p.actr s.nextId deny
  match (p.header c : EM (List Byte)) s with
  | (.error e, t) => s.stopPush t p [] deny.isSome e
  | (.ok h, s1) =>
    match (p.checks c h : EM (List Byte × Prep)) s1 with
    | (.error e, t) => s.stopPush t p h deny.isSome e
    | (.ok (b, x), s2) =>
      let ls := c.locksOf s2 x
      if deny.isSome then .moved (s1.admitCmd p (p.cmd s1.nextId h {} (.done stFaulted 0)))
      else if !s2.lockRoomFor ls then .stands
      else
        let k := p.cmd s2.nextId b x .waiting
        let s3 := { s2.admitCmd p k with locks := s2.locks ++ ls }
        match s3.runCmd k.id none left with
        | .moved t => .moved t
        | .stands => .moved s3

/-- The code at the head of an engine's intake, when the header can be read. -/
def State.headCode (s : State) (p : Push) : Option Nat :=
  match (p.header (p.actr s.nextId none) : EM (List Byte)) s with
  | (.ok h, _) => some (numAt h 0 2)
  | _ => none

/-- The head of an intake is a command of this code, or a value that no row names and any row of the engine takes. -/
def State.headIs (s : State) (p : Push) (code : Nat) : Bool :=
  match s.headCode p with
  | some c => c == code || !p.eng.takes c
  | none => true

/-- Pushes that a save removed are offered once the lease is back with the pusher that the save named and its stopped command
goes on (R368). -/
def State.restoring (s : State) (q : Push) : Bool :=
  match q.eng with
  | .pavilion p =>
    ((s.lease p).saved.any fun e => match s.keyOfUid e.1 with
      | some k => (s.frame k).launch == q.launch && (s.frame k).lmod == q.lmod
      | none => false) ||
    s.cmds.any fun c => c.eng == q.eng && c.launch == q.launch && c.lmod == q.lmod && c.phase == .saved
  | _ => false

/-- The push that an engine takes next: the first that has reached it. A push is a release: it reaches its engine after
the stores that its thread made before it (R162, R315). At a Pavilion none passes the one ahead of it, so that the commands
of an earlier holder of the lease come before those of the next (R80). -/
def State.nextPush (s : State) (e : Eng) : Option Push :=
  let here (p : Push) : Bool := s.storesDone p.src p.uid p.id .sys
  let l := (s.intake e).filter fun p => !s.restoring p
  match e with
  | .pavilion _ => l.head?.filter here
  | _ => l.find? here

/-- The clk of a refused access's next try has come (R127). -/
def dueAgain (r : Option (Home × Nat × Nat)) (now : Nat) : Bool := match r with | some (_, t, _) => decide (t ≤ now) | none => true

/-- A step that tries a refused access again: where it stands still it is refused no more. -/
def tryAgain (may refused : Bool) (s : State) (t : Took) (u : State) : Host.Outcome State Fault Refusal :=
  match t with
  | .moved t => occurs may t u
  | .stands => occurs (may && refused) s u

/-- An engine command's row: the engine takes the head of its intake. -/
def takeRow (e : Eng) (code : Nat) (left : Option Nat) (s : State) : Host.Outcome State Fault Refusal :=
  match s.nextPush e with
  | some p =>
    let t := { s with pushes := mapIf (fun x => x.id == p.id) (fun x => { x with refused := none }) s.pushes }
    let may := !p.parked && dueAgain p.refused s.clk && decide (s.placesTaken e < e.places) && !s.savedFirst e && t.headIs p code
    tryAgain may p.refused.isSome t (t.take p none left) s
  | none => occurs false s s

/-! ## The commands -/

/-- MMA (R321-R325). -/
def execMma (r : PavRun) (s : State) : Host.Outcome State Fault Refusal := takeRow (.pavilion r.pav) 0x0101 r.left s
/-- SHEAF.FWD (R326-R330). -/
def execSheafFwd (r : PavRun) (s : State) : Host.Outcome State Fault Refusal := takeRow (.pavilion r.pav) 0x0102 r.left s
/-- SHEAF.BWD (R331). -/
def execSheafBwd (pav : Nat) (s : State) : Host.Outcome State Fault Refusal := takeRow (.pavilion pav) 0x0103 none s
/-- COPY2D (R333). -/
def execCopy2d (quad : Nat) (s : State) : Host.Outcome State Fault Refusal := takeRow (.barrow quad) 0x0201 none s
/-- COPY.IDX (R334). -/
def execCopyIdx (quad : Nat) (s : State) : Host.Outcome State Fault Refusal := takeRow (.barrow quad) 0x0202 none s
/-- EXPAND24 (R335). -/
def execExpand24 (quad : Nat) (s : State) : Host.Outcome State Fault Refusal := takeRow (.barrow quad) 0x0203 none s
/-- COMPACT24 (R335). -/
def execCompact24 (quad : Nat) (s : State) : Host.Outcome State Fault Refusal := takeRow (.barrow quad) 0x0204 none s
/-- CONVERT (R336). -/
def execConvert (quad : Nat) (s : State) : Host.Outcome State Fault Refusal := takeRow (.barrow quad) 0x0205 none s
/-- FILL (R337). -/
def execFill (quad : Nat) (s : State) : Host.Outcome State Fault Refusal := takeRow (.barrow quad) 0x0206 none s
/-- GATHER (R343). -/
def execGather (loc : Nat) (s : State) : Host.Outcome State Fault Refusal := takeRow (.gleaner loc) 0x0301 none s
/-- GATHER.POOL (R344). -/
def execGatherPool (loc : Nat) (s : State) : Host.Outcome State Fault Refusal := takeRow (.gleaner loc) 0x0302 none s
/-- SCATTER.ADD (R345). -/
def execScatterAdd (loc : Nat) (s : State) : Host.Outcome State Fault Refusal := takeRow (.gleaner loc) 0x0303 none s
/-- CHAIN (R346). -/
def execChain (loc : Nat) (s : State) : Host.Outcome State Fault Refusal := takeRow (.gleaner loc) 0x0304 none s
/-- ROUTE (R347-R349). -/
def execRoute (loc : Nat) (s : State) : Host.Outcome State Fault Refusal := takeRow (.gleaner loc) 0x0305 none s
/-- WALK (R350-R354). -/
def execWalk (quad : Nat) (s : State) : Host.Outcome State Fault Refusal := takeRow (.trellis quad) 0x0401 none s

/-! ## Start and completion -/

/-- A Pavilion's command whose launch is pre-empted goes no further, but where it has no save area (R364). -/
def State.stopping (s : State) (c : Cmd) : Bool :=
  match c.eng, s.launchOf c.launch c.lmod with
  | .pavilion _, some x => s.preempted c.launch c.lmod && x.lr.save != 0
  | _, _ => false

/-- A command that was accepted may run: it waits, or its stop is over (R141, R368). -/
def State.mayStartCmd (s : State) (c : Cmd) : Bool :=
  dueAgain c.refused s.clk && match c.phase with
  | .waiting => !s.stopping c
  | .saved => (match c.eng with | .pavilion p => (s.lease p).holder == some c.uid | _ => true) && c.failVA.isNone &&
      decide (s.placesTaken c.eng < c.eng.places) && !s.preempted c.launch c.lmod
  | _ => false

/-- ENGINE_COMMAND_START: a waiting command's tiles and locks let it run, a walk goes on, or a product goes on
(R141, R312 step 12). -/
def execEngineCommandStart (r : CmdRun) (s : State) : Host.Outcome State Fault Refusal :=
  match s.cmd r.id with
  | some c =>
    let t := s.updCmd r.id fun c => { c with phase := .waiting, refused := none }
    tryAgain (s.mayStartCmd c) c.refused.isSome (s.updCmd r.id fun c => { c with refused := none }) (t.runCmd r.id none r.left) s
  | none => occurs false s s

/-- A walk stops because its step count exceeds the limit. -/
def State.overLimit (s : State) (c : Cmd) : Bool :=
  c.code == 0x0401 && !(c.tiles.any fun r => !s.refOk r) &&
  match (runWalk (c.actr none) c.block c.walk : EM Unit) s with
  | (.error (.limit _), _) => true
  | _ => false

/-- WALKER_STEP_LIMIT: the step count of the quad's walker exceeds its limit, and the command ends BOUNDS (R352). -/
def execWalkerStepLimit (quad : Nat) (s : State) : Host.Outcome State Fault Refusal :=
  match s.cmds.find? fun c => c.eng == .trellis quad && c.phase == .waiting with
  | some c =>
    match s.runCmd c.id none none with
    | .moved t => occurs ((c.begun || s.tilesReady c) && s.overLimit c) t s
    | .stands => occurs false s s
  | none => occurs false s s

/-- A word enters the queue of a thread's port, wherever the thread is (R47, R307). -/
def Frame.giveWord (f : Frame) (uid : Nat) (p : EPort) (w : Word × Option Word) : Frame :=
  if f.uid == uid then f.setPort p { f.port p with words := (f.port p).words ++ [w] } else f

/-- The same for a packet that carries a thread. -/
def Pkt.giveWord (uid : Nat) (q : EPort) (w : Word × Option Word) (p : Pkt) : Pkt :=
  match p.kind with
  | .migrate f => { p with kind := .migrate (f.giveWord uid q w) }
  | .displace f n => { p with kind := .displace (f.giveWord uid q w) n }
  | _ => p

/-- A completion word reaches the pushing thread. -/
def State.giveWord (s : State) (uid : Nat) (p : EPort) (w : Word × Option Word) : State :=
  let s := { s with
    frames := s.frames.map fun (e : Nat × Frame) => (e.1, if e.2.used then e.2.giveWord uid p w else e.2)
    net := s.net.map (Pkt.giveWord uid p w) }
  let rings := (s.cores.filter fun (e : Nat × Core) => !(e.2.spill ++ e.2.nispill).isEmpty).map fun e => e.1
  let s := rings.foldl (fun t l =>
    (t.setSpill l ((t.spill l).map (Pkt.giveWord uid p w))).setNispill l ((t.nispill l).map (Pkt.giveWord uid p w))) s
  s.wake fun _ f => f.uid == uid && f.wait == some (.popPort p.name)

/-- The completion word of R314. -/
def Cmd.word (c : Cmd) (status detail : Nat) : Word :=
  BitVec.ofNat 64 (c.seq.toNat + status * 2 ^ 32 + detail % 256 * 2 ^ 40 + numAt c.block 8 2 * 2 ^ 48)

/-- The trap that follows the pop of this word, when the block asks for it (R340). -/
def Cmd.trapVA (c : Cmd) : Option Word :=
  let bit := if c.code = 0x0304 ∨ c.code = 0x0305 then 1 else 2
  if c.code / 256 = 3 ∧ c.code ≠ 0x0305 ∧ (numAt c.block 2 2).testBit bit then c.failVA else none

/-- Locks are released, tiles return to STATE 2, and the completion word goes to its thread (R163, R318). -/
def State.finishCmd (s : State) (c : Cmd) (status detail : Nat) : State :=
  let s := { s with locks := s.locks.filter fun k => k.cmd != c.id, cmds := s.cmds.filter fun k => k.id != c.id }
  let back (t : State) (r : TileRef) : State :=
    if t.refOk r && (t.tileOf r).busy then t.tileBack r.loc r.slot (status % 64) else t
  let s := if c.begun then c.tiles.foldl back s else s
  s.giveWord c.uid c.eng.port (c.word status detail, c.trapVA)

/-- Something of the command is parked at a home. -/
def State.engineParked (s : State) (id : Nat) : Bool :=
  s.homes.any fun h => h.2.faults.any fun e => match e.item with | .engine n => n == id | _ => false

/-- The completion of a command that has ended: a Gleaner's in-flight count goes down first (R339). -/
def State.completeCmd (s : State) (c : Cmd) (status detail : Nat) : Took :=
  match c.version with
  | none => .moved (s.finishCmd c status detail)
  | some (va, slot) =>
    match ((c.actr none).unsample va slot : EM Unit) s with
    | (.ok _, t) =>
      let lost : Bool := match t.cmd c.id with | some k => k.dropped | none => false
      .moved (t.finishCmd c (if status = 0 ∧ lost then stFaulted else status) detail)
    | (.error .lock, _) => .stands
    | (.error (.park h r b n a w), _) =>
      match s.park h r b n (.engine c.id) a { write := w, user := c.user } c.launch c.lmod with
      | some t => .moved t
      | none => .moved (s.updCmd c.id fun k => { k with refused := some (h, s.clk + 64, s.nextId) })
    | (.error (.ends st _), t) => .moved (t.finishCmd c (if status = 0 then st else status) detail)
    | (.error _, t) => .moved (t.finishCmd c (if status = 0 then stFaulted else status) detail)

/-- ENGINE_COMMAND_COMPLETE (R163, R314, R318). -/
def execEngineCommandComplete (id : Nat) (s : State) : Host.Outcome State Fault Refusal :=
  match s.cmd id with
  | some c =>
    match c.phase with
    | .done st d =>
      let t := s.updCmd id fun k => { k with refused := none }
      tryAgain (!s.engineParked id && dueAgain c.refused s.clk) c.refused.isSome t (t.completeCmd c st d) s
    | _ => occurs false s s
  | none => occurs false s s

/-! ## RETRY and DENY (R128) -/

/-- RETRY of a parked engine access: the command goes on from it; a save write is tried again. -/
def State.retryEngine (s : State) (id : Nat) : State :=
  let go (c : Cmd) : Cmd :=
    match c.phase with
    | .parked => { c with phase := .waiting, failVA := none }
    | .saved => { c with failVA := none }
    | _ => c
  let s := match s.savedAt id with | some p => s.updLease p fun l => { l with saving := none } | none => s
  { s with
    pushes := mapIf (fun p => p.id == id) (fun p => { p with parked := false, failVA := none }) s.pushes
    cmds := mapIf (fun c => c.id == id) go s.cmds }

/-- DENY of a parked engine access: the command ends FAULTED with what it wrote before it; a count that could not be
lowered is given up. -/
def State.denyEngine (s : State) (id : Nat) : State :=
  match s.pushes.find? fun p => p.id == id with
  | some p => match s.take p p.failVA none with | .moved t => t | .stands => s.retryEngine id
  | none =>
    let saving := s.savedAt id
    let s := match saving with | some p => s.updLease p fun l => { l with saving := some (id, true) } | none => s
    match s.cmd id with
    | some c =>
      if saving.isSome then s.ended id stFaulted 0 none
      else
      match c.phase with
      | .done st d =>
        s.updCmd id fun c => { c with version := none, phase := .done (if st = 0 then stFaulted else st) d }
      | .saved => s.ended id stFaulted 0 none
      | _ =>
        match (s.updCmd id fun c => { c with phase := .waiting }).runCmd id (some (c.failVA.getD 0)) none with
        | .moved t => t
        | .stands => s.ended id stFaulted 0 none
    | none => s

end Sys2Proof.Machine
end

