-- ==== Sys2Proof/Machine/Control.lean ====
section
/-! DEFINITION. Control transfer, repeat frames and `solo`, majors 0x28-0x2C and 0x3F (13_isa_scalar R228-R235,
11_encoding R198). -/

namespace Sys2Proof.Machine

open Sys2Proof

/-- The address n words from the instruction in issue. -/
def State.wordsOn (s : State) (n : Word) : Word := s.my.pc + 4 * n

/-- jl: the link, then the jump (R228). -/
def execJl (d : Reg) (disp : BitVec 21) (s : State) : Host.Outcome State Fault Refusal :=
  issue (fun s => put s d (s.my.pc + 4) fun t => .done t (.at (s.wordsOn (disp.signExtend 64)))) s

/-- bc (R229). -/
def execBc (c : BrCond) (a : Reg) (ta : Bool) (disp : BitVec 16) (s : State) : Host.Outcome State Fault Refusal :=
  issue (fun s => src s a ta fun x t => .branch t (brHolds c x) (s.wordsOn (disp.signExtend 64))) s

/-- jr: D is written after A is read (R230). -/
def execJr (d a : Reg) (ta : Bool) (imm : BitVec 15) (s : State) : Host.Outcome State Fault Refusal :=
  issue (fun s => src s a ta fun x s =>
    let t := x + imm.signExtend 64
    if t.toNat % 4 ≠ 0 then .trap .misaligned t 0
    else put s d (s.my.pc + 4) fun s => .done s (.at t)) s

/-- What stops a capture stops the REPF word (R232). -/
def captureStop (s : State) : CapErr → Eff
  | .refused va => .trap .frameIllegal va 0
  | .fetch va (.trap c) => .trap c va 0
  | .fetch va (.park h r b n) =>
    .hold (s.parkThread s.me true h r b n va { exec := true, user := !s.my.priv })
  | .fetch _ _ => .hold s

/-- repf: the words that follow are captured and the frame begins (R232, R234). -/
def execRepf (count : BitVec 5) (len : BitVec 4) (sd sa sb : BitVec 2) (s : State) : Host.Outcome State Fault Refusal :=
  issue (fun s =>
    if s.my.solo then .trap .frameIllegal 0 0
    else
      match capture s (s.my.pc + 4) (len.toNat + 1) with
      | (s, .error e) => captureStop s e
      | (s, .ok ws) =>
        let w : W32 := BitVec.ofNat 32 ((encodeNat (.repf count len sd sa sb)).getD 0)
        let s := s.updSlot s.cur.loc s.cur.slot fun x => { x with rf := some (w :: ws) }
        .done (s.updMy fun f => ((f.setT 26 1 1).setT 27 4 0).setT 31 5 0) (.at (s.my.pc + 4))) s

/-- solo: the prefix is set, or is itself under `solo` and illegal (R198). -/
def execSolo (s : State) : Host.Outcome State Fault Refusal :=
  issue (fun s =>
    if s.my.solo then .trap .illegalOpcode 0 0
    else .keep (s.updMy fun f => f.setT 25 1 1) true false) s

end Sys2Proof.Machine
end

