-- ==== Sys2Proof/Machine/Imm.lean ====
section
/-! DEFINITION. The immediate instructions and constants, majors 0x02-0x0A (13_isa_scalar R219, R220). -/

namespace Sys2Proof.Machine

open Sys2Proof

/-- addi, with sext(IMM15, 15) (R219). -/
def execAddi (d a : Reg) (ta : Bool) (imm : BitVec 15) (s : State) : Host.Outcome State Fault Refusal :=
  issue (fun s => aluOne s d a ta fun x => x + imm.signExtend 64) s

/-- andi, with sext(IMM15, 15) (R219). -/
def execAndi (d a : Reg) (ta : Bool) (imm : BitVec 15) (s : State) : Host.Outcome State Fault Refusal :=
  issue (fun s => aluOne s d a ta fun x => x &&& imm.signExtend 64) s

/-- ori, with sext(IMM15, 15) (R219). -/
def execOri (d a : Reg) (ta : Bool) (imm : BitVec 15) (s : State) : Host.Outcome State Fault Refusal :=
  issue (fun s => aluOne s d a ta fun x => x ||| imm.signExtend 64) s

/-- xori, with sext(IMM15, 15) (R219). -/
def execXori (d a : Reg) (ta : Bool) (imm : BitVec 15) (s : State) : Host.Outcome State Fault Refusal :=
  issue (fun s => aluOne s d a ta fun x => x ^^^ imm.signExtend 64) s

/-- muli, with sext(IMM15, 15) (R219). -/
def execMuli (d a : Reg) (ta : Bool) (imm : BitVec 15) (s : State) : Host.Outcome State Fault Refusal :=
  issue (fun s => aluOne s d a ta fun x => x * imm.signExtend 64) s

/-- slli, by IMM[5:0] (R219). -/
def execSlli (d a : Reg) (ta : Bool) (n : BitVec 6) (s : State) : Host.Outcome State Fault Refusal :=
  issue (fun s => aluOne s d a ta fun x => x <<< n.toNat) s

/-- srli, by IMM[5:0] (R219). -/
def execSrli (d a : Reg) (ta : Bool) (n : BitVec 6) (s : State) : Host.Outcome State Fault Refusal :=
  issue (fun s => aluOne s d a ta fun x => x >>> n.toNat) s

/-- srai, by IMM[5:0] (R219). -/
def execSrai (d a : Reg) (ta : Bool) (n : BitVec 6) (s : State) : Host.Outcome State Fault Refusal :=
  issue (fun s => aluOne s d a ta fun x => x.sshiftRight n.toNat) s

/-- rori, by IMM[5:0] (R219). -/
def execRori (d a : Reg) (ta : Bool) (n : BitVec 6) (s : State) : Host.Outcome State Fault Refusal :=
  issue (fun s => aluOne s d a ta fun x => x.rotateRight n.toNat) s

/-- cmpi: compares with sext(IMM[11:0], 12) (R219). -/
def execCmpi (c : CmpCond) (d a : Reg) (ta : Bool) (imm : BitVec 12) (s : State) : Host.Outcome State Fault Refusal :=
  issue (fun s => aluOne s d a ta fun x => ofBool (cmpHolds c x (imm.signExtend 64))) s

/-- movi: sext(IMM21, 21) (R219). -/
def execMovi (d : Reg) (imm : BitVec 21) (s : State) : Host.Outcome State Fault Refusal :=
  issue (fun s => guardPorts s [d] fun _ => put s d (imm.signExtend 64) fun s => .done s .seq) s

/-- movk: one halfword of D replaced (R220). -/
def execMovk (d : Reg) (hw : BitVec 2) (imm : BitVec 16) (s : State) : Host.Outcome State Fault Refusal :=
  issue (fun s => src s d false fun x s =>
    put s d (setField x (16 * hw.toNat) 16 imm.toNat) fun s => .done s .seq) s

end Sys2Proof.Machine
end

