-- ==== Sys2Proof/Machine/Mig.lean ====
section
/-! DEFINITION. Migration control, major 0x22 (15_isa_threads R263). -/

namespace Sys2Proof.Machine

open Sys2Proof

/-- go: a light thread waits to depart for the owner of the address; DEPARTURE sends it (R263, R47). -/
def execGo (a : Reg) (s : State) : Host.Outcome State Fault Refusal :=
  issue (fun s =>
    if s.my.anch then .trap .privilege 0 0
    else src s a false fun va s =>
      if vaBad va ∨ spaceOf va ≠ .ls then .trap .protection va 0
      else if lsOwner va = s.cur.loc then .done s .seq
      else .hold (s.waitDepart va true)) s

/-- pin: PIN := 1, PINLEFT := 0 (R263, R51). -/
def execPin (s : State) : Host.Outcome State Fault Refusal :=
  issue (fun s => .done (s.updMy fun f => { (f.setT 5 1 1).setT 6 9 0 with pinOther := none }) .seq) s

/-- unpin: PIN := 0, PINLEFT := 0 (R263). -/
def execUnpin (s : State) : Host.Outcome State Fault Refusal :=
  issue (fun s => .done (s.updMy fun f => { (f.setT 5 1 0).setT 6 9 0 with pinOther := none }) .seq) s

/-- where: the location, with a zero slot field (R263). -/
def execWhereI (d : Reg) (s : State) : Host.Outcome State Fault Refusal :=
  issue (fun s => put s d (BitVec.ofNat 64 (8 * s.cur.loc)) fun s => .done s .seq) s

/-- hops: the hop count (R263). -/
def execHops (d : Reg) (s : State) : Host.Outcome State Fault Refusal :=
  issue (fun s => put s d (s.my.hops.setWidth 64) fun s => .done s .seq) s

end Sys2Proof.Machine
end

