-- ==== Sys2Proof/Machine/Outside.lean ====
section
/-! DEFINITION. The host link, the register window and Ethernet (21_system R372-R378, R381; 07_memory R129; 09_ordering
R166-R168; 15_isa_threads R273). -/

namespace Sys2Proof.Machine

open Sys2Proof

/-! ## CXL.mem (R168, R372, R376) -/

/-- Bytes of one stack in the HDM range. -/
def stackBytes : Nat := 4 * partBytes
/-- The die that a host offset addresses. -/
def hdmDie (m off : Nat) : DieId := m * 64 + off / stackBytes * 4 + off % stackBytes / partBytes
/-- The memory number of a host offset. -/
def hdmKey (m off : Nat) : Nat := dramKey (hdmDie m off) (off % partBytes)

/-- A host access of 1 to 8 bytes within one doubleword of the HDM range. -/
def hdmOk (off size : Nat) : Bool := decide (1 ≤ size ∧ off % 8 + size ≤ 8 ∧ off + size ≤ 16 * stackBytes)

/-- The Bothy refuses CXL.mem traffic: the host has asked for IDE and no keys are programmed (R372). -/
def Module.refusesMem (x : Module) : Bool := x.part.ideWanted && !x.ideKeyed

/-- The number of the bell doubleword's first byte (R376). -/
def bellKey (m : Nat) (mbox : Word) : Nat :=
  dramKey (m * 64 + fieldOf mbox 0 4 * 4 + fieldOf mbox 4 2) (fieldOf mbox 16 25 * 65536 + fieldOf mbox 41 13 * 8)
/-- The mailbox frame lies in the die's partition; elsewhere there is no bell doubleword (R376). -/
def bellIn (mbox : Word) : Bool := decide (fieldOf mbox 16 25 * 65536 + 65536 ≤ partBytes)
/-- The core whose `qevt` gets the bell (R376). -/
def bellCore (m : Nat) (mbox : Word) : Loc :=
  (m * 64 + fieldOf mbox 0 4 * 4 + fieldOf mbox 4 2) * 256 + fieldOf mbox 54 8

/-- A host write performed: a partly written uncorrectable doubleword stays so, and a write to the bell doubleword posts
event 0x40 after it (R168, R254, R376). -/
def State.hostWrite (s : State) (m off size : Nat) (v : Word) : State :=
  let a := hdmKey m off
  let mbox := (s.module m).mbox
  let t := if s.badUnder a size then s else s.poke a (bytesOf size v.toNat)
  if bellIn mbox ∧ a / 8 = bellKey m mbox / 8 then t.event (homeKey (.cxl m)) (bellCore m mbox) [0x40, v.setWidth (8 * size) |>.setWidth 64]
  else t

/-- CXL_MEM_WRITE. -/
def execCxlMemWrite (m : Nat) (off : Word) (size : Nat) (v : Word) (s : State) : Host.Outcome State Fault Refusal :=
  let t := if (s.module m).refusesMem then { s with outs := s.outs ++ [.refused] } else s.hostWrite m off.toNat size v
  occurs (s.powered m && hdmOk off.toNat size) t s

/-- What the host reads. -/
def State.hostRead (s : State) (m off size : Nat) : Out :=
  let a := hdmKey m off
  if s.isBad a size then .hostPoison else .hostRead (BitVec.ofNat 64 (s.num a size))

/-- CXL_MEM_READ. -/
def execCxlMemRead (m : Nat) (off : Word) (size : Nat) (s : State) : Host.Outcome State Fault Refusal :=
  let x := if (s.module m).refusesMem then Out.refused else s.hostRead m off.toNat size
  occurs (s.powered m && hdmOk off.toNat size) { s with outs := s.outs ++ [x] } s

/-- IDE_KEY_PROGRAMMING (R372). -/
def execIdeKeyProgramming (m : Nat) (s : State) : Host.Outcome State Fault Refusal :=
  occurs (s.powered m) (s.updModule m fun x => { x with ideKeyed := true }) s

/-! ## FALLOW (R129, R374) -/

/-- The core that a FALLOW value names. -/
def fallowLoc (m : Nat) (v : Word) : Loc := (m * 64 + fieldOf v 0 4 * 4 + fieldOf v 4 2) * 256 + fieldOf v 6 8

/-- FALLOW's answer: 0 done, 1 refused. -/
def State.fallowSays (s : State) (m n : Nat) : State := s.updModule m fun x => { x with fallowState := n }

/-- A core becomes fallow unless a launch occupies it; every slot of it is disabled, and what it held stays resident. -/
def State.makeFallow (s : State) (m : Nat) (l : Loc) : State :=
  if s.launches.any fun x => x.occupies && x.lr.holds x.mod l then s.fallowSays m 1
  else
    let off (t : State) (n : Nat) : State :=
      match ((t.core l).slot n).bound with
      | some f =>
        let u := t.unbind l n
        if (u.frame (keyOf l f)).wait.isNone then u.ready (keyOf l f) else u
      | none => t
    (((List.range 8).foldl off s).updCore l fun c => { c with fallow := true }).fallowSays m 0

/-- A core's fallow state is cleared. -/
def State.clearFallow (s : State) (m : Nat) (l : Loc) : State :=
  (s.updCore l fun c => { c with fallow := false }).fallowSays m 0

/-- A value written to FALLOW. -/
def State.writeFallow (s : State) (m : Nat) (v : Word) : State :=
  if bitOf v 14 then s.makeFallow m (fallowLoc m v) else s.clearFallow m (fallowLoc m v)

/-- FALLOW_SET: a write with bit 14 set. -/
def execFallowSet (m : Nat) (v : Word) (s : State) : Host.Outcome State Fault Refusal :=
  occurs (s.powered m && bitOf v 14) (s.writeFallow m v) s

/-- FALLOW_CLEAR: a write with bit 14 clear. -/
def execFallowClear (m : Nat) (v : Word) (s : State) : Host.Outcome State Fault Refusal :=
  occurs (s.powered m && !bitOf v 14) (s.writeFallow m v) s

/-! ## BARADD (R273, R374) -/

/-- The scope that a BARADD value names. -/
def baraddScope (n : Nat) : Option Scope := match n with | 4 => some .mod | 5 => some .pod | _ => none

/-- The anchored threads of a launch that R57 placed in an instance and that have not ended. -/
def Launch.membersIn (x : Launch) (sc : Scope) (inst : Nat) : List Nat :=
  if x.lr.kind = 1 then
    ((x.placed.filter fun e => instanceOf sc e.2 == inst && !x.exited.contains e.1).map fun e => e.1)
  else []

/-- A barrier that has members takes new ones at its next phase; an empty one at once. -/
def Barrier.welcome (b : Barrier) (us : List Nat) : Barrier :=
  let us := us.filter fun u => !b.members.contains u && !b.joining.contains u
  if b.members.isEmpty then { b with members := us } else { b with joining := b.joining ++ us }

/-- The barrier that BARADD names gets the anchored threads of launch `id` placed in its instance. -/
def State.addToBarrier (s : State) (m : Nat) (id : W32) : State :=
  let r := (s.module m).baradd
  match baraddScope (fieldOf r 32 3), s.launchOf (r.setWidth 32) m, s.launchOf id m with
  | some sc, some x, some y =>
    let inst := if sc = .mod then m else 0
    let n := fieldOf r 35 3
    if x.status = .done then s
    else
      let b := (s.barriers.find? fun b => b.isAt x.id x.mod sc inst n).getD (x.freshBarrier sc inst n)
      s.putBarrier (b.welcome (y.membersIn sc inst))
  | _, _, _ => s

/-- BARADD: a write of a launch id to 0x1008. -/
def execBaradd (m : Nat) (v : Word) (s : State) : Host.Outcome State Fault Refusal :=
  occurs (s.powered m) (s.addToBarrier m (v.setWidth 32)) s

/-! ## Reduction windows (R166, R374) -/

/-- The window's 8 bytes at an offset written while it is disabled. -/
def RWindow.put (w : RWindow) (off : Nat) (v : Word) : RWindow :=
  if off = 0 then { w with base := v }
  else if off = 8 then
    { w with pages := v.setWidth 32, ty := BitVec.ofNat 8 (fieldOf v 32 8), enable := bitOf v 40, steps := [], ops := []
             closed := [] }
  else if 32 ≤ off ∧ off < 64 then
    let i := (off - 32) / 8
    { w with mask := (w.mask &&& ~~~(BitVec.ofNat 256 ((2 ^ 64 - 1) * 2 ^ (64 * i)))) ||| BitVec.ofNat 256 (v.toNat * 2 ^ (64 * i)) }
  else w

/-- A write to a window: an enabled one only takes the clearing of enable, once every open step is merged. -/
def RWindow.write (w : RWindow) (off : Nat) (v : Word) : RWindow :=
  if w.enable then (if off = 8 ∧ bitOf v 40 = false then { w with closing := true }.settle else w) else w.put off v

/-- REDUCTION_WINDOW_WRITE. -/
def execReductionWindowWrite (m w off : Nat) (v : Word) (s : State) : Host.Outcome State Fault Refusal :=
  occurs (s.powered m && decide (w < 16 ∧ off < 64 ∧ off % 8 = 0)) (s.updWindow m w fun x => x.write off v) s

/-! ## The register window (R374) -/

/-- PTROOT_WRITE: `ptroot` of stack s, die d, with n = 4s + d (R119, R374). -/
def execPtrootWrite (m n : Nat) (v : Word) (s : State) : Host.Outcome State Fault Refusal :=
  occurs (s.powered m && decide (n < 64)) (s.writePtroot (m * 64 + n) v) s

/-- SUPCORE of a die written. -/
def State.writeSupcore (s : State) (d : DieId) (v : Word) : State := s.updDie d fun x => { x with supcore := v.setWidth 8 }

/-- MBOX written; its reserved bits stay zero (R8, R376). -/
def State.writeMbox (s : State) (m : Nat) (v : Word) : State :=
  s.updModule m fun x => { x with mbox := v &&& BitVec.ofNat 64 (2 ^ 62 - 2 ^ 16 + 63) }

/-- A register of the window written. Offsets not listed discard the write. -/
def State.writeReg (s : State) (m off : Nat) (v : Word) : State :=
  if off = 0x10 then s.writeMbox m v
  else if off = 0x18 then s.writeBoot m v
  else if 0x100 ≤ off ∧ off < 0x300 then s.writeSupcore (m * 64 + (off - 0x100) / 8) v
  else if off = 0x400 then s.writeFallow m v
  else if 0x500 ≤ off ∧ off < 0x700 then s.writePtroot (m * 64 + (off - 0x500) / 8) v
  else if 0x800 ≤ off ∧ off < 0xC00 then s.updWindow m ((off - 0x800) / 64) fun x => x.write ((off - 0x800) % 64) v
  else if off = 0x1000 then s.updModule m fun x => { x with baradd := zext 38 v }
  else if off = 0x1008 then s.addToBarrier m (v.setWidth 32)
  else if off = 0x2000 then s.loadImage m v.toNat
  else s

/-- REGISTER_WINDOW_WRITE of an 8-byte register. -/
def execRegisterWindowWrite (m off : Nat) (v : Word) (s : State) : Host.Outcome State Fault Refusal :=
  occurs (s.powered m && decide (off < 65536 ∧ off % 8 = 0)) (s.writeReg m off v) s

/-- A reduction window as the host reads it. -/
def RWindow.read (w : RWindow) (off : Nat) : Word :=
  if off = 0 then w.base
  else if off = 8 then BitVec.ofNat 64 (w.pages.toNat + w.ty.toNat * 2 ^ 32 + w.enable.toNat * 2 ^ 40)
  else if 32 ≤ off ∧ off < 64 then BitVec.ofNat 64 (bitsOf w.mask.toNat (8 * (off - 32)) 64)
  else 0

/-- A register of the window as the host reads it; offsets not listed read zero. -/
def State.readReg (s : State) (m off : Nat) : Word :=
  let x := s.module m
  if off = 0 then x.status
  else if off = 8 then unitsWord x.part
  else if off = 0x10 then x.mbox
  else if off = 0x18 then BitVec.ofNat 64 (x.bootState + x.bootId.toNat * 2 ^ 32)
  else if 0x100 ≤ off ∧ off < 0x300 then (s.die (m * 64 + (off - 0x100) / 8)).supcore.setWidth 64
  else if off = 0x400 then BitVec.ofNat 64 x.fallowState
  else if 0x500 ≤ off ∧ off < 0x700 then (s.die (m * 64 + (off - 0x500) / 8)).ptroot
  else if 0x800 ≤ off ∧ off < 0xC00 then (x.windows.toList.getD ((off - 0x800) / 64) {}).read ((off - 0x800) % 64)
  else if off = 0x1000 then x.baradd
  else 0

/-! ## Ethernet (R378; log entry 38) -/

/-- Queue pairs of a module. -/
def queuePairs : Nat := 4096

/-- Where len bytes at an offset of a registered region stand. -/
def State.regionKey (s : State) (m region off len : Nat) : Option Nat :=
  match (s.module m).regions[region]? with
  | some (d, o, n) =>
    if off + len ≤ n ∧ o + n ≤ partBytes ∧ d < 64 then some (dramKey (m * 64 + d) (o + off)) else none
  | none => none

/-- Incoming data is written: doublewords that it covers in part and that are uncorrectable keep their state. -/
def State.ethWrite (s : State) (a : Nat) (data : List Byte) : State := s.poke a data

/-- A request is refused with a NAK. -/
def State.nak (s : State) (qp : Nat) : State := { s with outs := s.outs ++ [.nak qp] }

/-- The module takes Ethernet requests on this queue pair. -/
def State.ethOn (s : State) (m qp : Nat) : Bool := s.powered m && (s.module m).ready && decide (qp < queuePairs)

/-- A SEND goes to the queue pair's first posted receive, and its completion entry follows the data (R378). -/
def State.ethSend (s : State) (m qp : Nat) (data : List Byte) : State :=
  match (s.module m).recvs.find? fun e => e.1 == qp with
  | some e =>
    match s.regionKey m e.2 0 data.length with
    | some a =>
      (s.ethWrite a data).updModule m fun x => { x with recvs := x.recvs.erase e, cq := x.cq ++ [(qp, data.length)] }
    | none => s.nak qp
  | none => s.nak qp

/-- ROCE_SEND. -/
def execRoceSend (m qp : Nat) (data : List Byte) (s : State) : Host.Outcome State Fault Refusal :=
  occurs (s.ethOn m qp) (s.ethSend m qp data) s

/-- ROCE_RDMA_WRITE. -/
def execRoceRdmaWrite (m qp region off : Nat) (data : List Byte) (s : State) : Host.Outcome State Fault Refusal :=
  let t := match s.regionKey m region off data.length with | some a => s.ethWrite a data | none => s.nak qp
  occurs (s.ethOn m qp) t s

/-- ROCE_RDMA_READ: the data, or a NAK where it lies outside the region or is uncorrectable. -/
def execRoceRdmaRead (m qp region off len : Nat) (s : State) : Host.Outcome State Fault Refusal :=
  let t := match s.regionKey m region off len with
    | some a => if s.isBad a len then s.nak qp else { s with outs := s.outs ++ [.roce qp (s.bytes a len)] }
    | none => s.nak qp
  occurs (s.ethOn m qp) t s

/-- ROCE_ATOMIC_NAK: RDMA atomics are refused. -/
def execRoceAtomicNak (m qp : Nat) (s : State) : Host.Outcome State Fault Refusal := occurs (s.ethOn m qp) (s.nak qp) s

end Sys2Proof.Machine
end

