-- ==== Sys2Proof/Machine/Resolve.lean ====
section
/-! DEFINITION. Fault resolution, requests refused by a full fault queue, and packets that come back undelivered
(07_memory R115, R126-R128; 03_execution R68). -/

namespace Sys2Proof.Machine

open Sys2Proof

/-- A request of any kind, performed at its home. -/
def State.perform (s : State) (p : Pkt) : State × Option Pkt :=
  if p.kind.isRead then s.performRead p
  else if p.kind.isWrite then s.performWrite p
  else
    match p.kind with
    | .amo _ _ _ _ => s.performAmo p
    | .post _ _ _ => s.performPosted p
    | .hot _ => s.performPosted p
    | .hotTest _ _ _ _ _ _ => s.performPosted p
    | .record => s.performRecord p
    | .taskDec _ => s.performTask p
    | .joinInc => s.performCell p
    | .joinDec => s.performCell p
    | .tlbInv _ => (s.performInv p, none)
    | .spread => s.performSpread p
    | .flock _ _ _ _ _ _ _ => s.performFlock p
    | _ => (s, none)

/-- A released request is performed at once. One that has to wait again, and each that follows it on its page, stays in its
order ahead of what was sent later; n of them wait already (R149). -/
def State.performAgain (x : State × Nat) (p : Pkt) : State × Nat :=
  let (s, n) := x
  let back (s : State) (q : Pkt) : State × Nat :=
    ({ s with net := s.net.take n ++ { q with replay := true } :: s.net.drop n }, n + 1)
  if n ≠ 0 then back s p
  else
    match s.perform p with
    | (s, some q) => if q.home = p.home then back s q else ({ s with net := q :: s.net }, 1)
    | (s, none) => (s, n)

/-- An idempotent task's entry is linked into the ready queue of its core, at priority 0 (R68). -/
def State.linkTask (s : State) (l : Loc) (t : Task) : State :=
  (s.updQueue l 0 fun q => { q with tags := q.tags ++ [{ launch := t.launch, lmod := t.lmod, task := some t }] }).wakeNext t.launch t.lmod

/-- RETRY of one parked item (R128), with the number of released requests that wait again. -/
def State.retryItem (x : State × Nat) (e : FEntry) : State × Nat :=
  let (s, n) := x
  match e.item with
  | .thread k => ((s.updFrame k fun f => { f with wait := none }).ready k, n)
  | .fetch k => ((s.updFrame k fun f => { f with wait := none }).ready k, n)
  | .request p => State.performAgain (s, n) p
  | .engine id => (s.retryEngine id, n)
  | .flock i => (s.retryHold i, n)
  | .task t l => (s.linkTask l t, n)

/-- DENY of one parked item at a home (R128). -/
def State.denyItem (s : State) (h : Home) (e : FEntry) : State :=
  match e.item with
  | .thread k => s.raiseAt k (Why.deny e.reason).cause e.va 0
  | .fetch k => s.raiseAt k .translation e.va 0
  | .request p => s.failPkt p (.deny e.reason) e.va
  | .engine id => s.denyEngine id
  | .flock n => s.denyHold n
  | .task t _ => (s.record h 0x04 .deny e.va t.launch t.lmod).countDown t.launch t.lmod

/-- A resolution word for entry q of a home acts on every entry of that entry's fault page, in arrival order. A word
that names an empty entry is discarded (R128). -/
def State.resolve (s : State) (h : Home) (q : Nat) (deny : Bool) : State :=
  match (s.home h).faults.find? fun e => e.idx == q with
  | none => s
  | some x =>
    let here (e : FEntry) : Bool := e.base == x.base && e.size == x.size
    let es := (s.home h).faults.filter here
    let s := s.updHome h fun y => { y with faults := y.faults.filter fun e => !here e }
    if deny then es.foldl (fun t e => t.denyItem h e) s else (es.foldl State.retryItem (s, 0)).1

/-- A resolution word reaches its home. -/
def resolveRow (h : Home) (q : Nat) (deny : Bool) (s : State) : Host.Outcome State Fault Refusal :=
  match findAt (fun w => w == (h, q, deny)) s.words with
  | some i => occurs true ({ s with words := dropAt s.words i }.resolve h q deny) s
  | none => occurs false s s

/-- RETRY (R128). -/
def execRetry (h : Home) (q : Nat) (s : State) : Host.Outcome State Fault Refusal := resolveRow h q false s

/-- DENY (R128). -/
def execDeny (h : Home) (q : Nat) (s : State) : Host.Outcome State Fault Refusal := resolveRow h q true s

/-- A request that a home refused is tried again after 64 clk. -/
def retryPkt (k : Nat) (s : State) : Host.Outcome State Fault Refusal :=
  match s.pkt k with
  | some p =>
    let r := (s.dropPkt k).perform { p with refused := false }
    let due := p.kind.isRequest && p.refused && decide (p.retryAt ≤ s.clk) && s.turnOf k p
    occurs due (r.1.keepPkt k r.2) s
  | none => occurs false s s

/-- A thread that found the fault queue of its home full looks again after 64 clk. -/
def retryThread (loc f : Nat) (s : State) : Host.Outcome State Fault Refusal :=
  let k := keyOf loc f
  match (s.frame k).wait with
  | some (.queued t) => occurs ((s.frame k).used && decide (t ≤ s.clk)) ((s.updFrame k Frame.awake).ready k) s
  | _ => occurs false s s

/-- FAULT_QUEUE_RETRY (R127). -/
def execFaultQueueRetry (r : Retrier) (s : State) : Host.Outcome State Fault Refusal :=
  match r with
  | .packet k => retryPkt k s
  | .thread loc f => retryThread loc f s

/-- What becomes of a packet that the Hedgerow switch returns (R115). -/
def State.returnPkt (s : State) (p : Pkt) : State :=
  if p.kind.isThread then s.giveBack p .translation
  else if p.kind.isRequest then s.failPkt p .lost p.va
  else match p.kind with
    | .msg _ => s.recordPkt p .lost 0
    | _ => s

/-- UNDELIVERED_RETURN: the module that a packet is bound for does not answer (R115, R377). -/
def execUndeliveredReturn (k : Nat) (s : State) : Host.Outcome State Fault Refusal :=
  match s.pkt k with
  | some p => occurs (s.goneFrom p.origin (homeMod p.home)) ((s.dropPkt k).returnPkt p) s
  | none => occurs false s s

end Sys2Proof.Machine
end

