-- ==== Sys2Proof/Machine/Thermal.lean ====
section
/-! DEFINITION. Temperature: the Shade table, sensors that fail, and the 50 µs steps (03_execution R75-R78, R83;
21_system R369, R370; 22_system_notes R385; 19_engines R308). Temperatures are in units of 1/8 °C (R242). -/

namespace Sys2Proof.Machine

open Sys2Proof

/-! ## Sensors and readings (R75, R369, R370) -/

/-- A sample as a temperature. -/
def tempOf (x : BitVec 12) : Int := toSigned 12 x.toNat

/-- The last n samples of a quad, newest first. -/
def Die.last (d : Die) (q n : Nat) : List Int := (d.samples.take n).map fun l => tempOf (l.getD q 0)

/-- The greatest of some numbers, and the least. -/
def maxOf (l : List Int) : Int := l.foldl max (l.headD 0)
/-- The least of some numbers. -/
def minOf (l : List Int) : Int := l.foldl min (l.headD 0)

/-- The die's power over the last 400 samples moved by more than 5 % of its mean. -/
def Die.powerMoved (d : Die) : Bool :=
  let p := d.powers.take 400
  let hi := p.foldl max 0
  let lo := p.foldl min (p.headD 0)
  decide (p.sum < (hi - lo) * 20 * p.length)

/-- R369: the quad's latest sample is out of range, or its last 400 samples are stuck while the power moves. -/
def Die.failsNow (d : Die) (q : Nat) : Bool :=
  let out := match d.last q 1 with | [t] => decide (t < -320 ∨ 1200 < t) | _ => false
  let w := d.last q 400
  out || (w.length == 400 && decide (maxOf w - minOf w ≤ 2) && d.powerMoved)

/-- The quad's sensor has failed at some refresh, whatever it read later (R369). -/
def Die.failing (d : Die) (q : Nat) : Bool := d.broken.getLsbD q

/-- The quad's sensor counts for readings: it is neither declared failed nor about to be. -/
def Die.works (d : Die) (q : Nat) : Bool := !d.failed.getLsbD q && !d.failing q

/-- The sensors that fail at this refresh join those that have failed. -/
def Die.judged (d : Die) : Die :=
  { d with broken := (List.range 64).foldl (fun b q => if d.failsNow q then b ||| BitVec.twoPow 64 q else b) d.broken }

/-- The x and y neighbours of a quad. -/
def quadNeighbours (q : Nat) : List Nat :=
  (if q % 8 = 0 then [] else [q - 1]) ++ (if q % 8 = 7 then [] else [q + 1]) ++ (if q < 8 then [] else [q - 8]) ++
    (if q < 56 then [q + 8] else [])

/-- The reading in force of a quad at a refresh (R369). With no working sensor on the die it stays what it was. -/
def Die.inForce (d : Die) (q : Nat) : Int :=
  let now (i : Nat) : Int := maxOf (d.last i 1)
  if d.works q then now q
  else
    match (quadNeighbours q).filter d.works, (List.range 64).filter d.works with
    | [], [] => d.temp q
    | [], l => maxOf (l.map now) + 40
    | l, _ => maxOf (l.map now) + 40

/-- The readings of all quads. -/
def Die.refreshed (d : Die) : Die := { d with reading := (List.range 64).map fun q => (q, d.inForce q) }

/-- The source number of a die's sensor events. -/
def heatSource (d : DieId) : Nat := 2 ^ 34 + d

/-- An event 0x30 or 0x31 of a die with its quad and reading (R360, R385). -/
def State.heatEvent (s : State) (d : DieId) (code q : Nat) (t : Int) : State :=
  s.event (heatSource d) (s.supLoc d) [BitVec.ofNat 64 (code + q * 2 ^ 8), BitVec.ofNat 64 (ofInt 12 t)]

/-- The hottest quad, the lowest of equals. -/
def Die.hottest (d : Die) : Nat :=
  (List.range 64).foldl (fun b q => if d.temp b < d.temp q then q else b) 0

/-- 1.2 GHz from 125 °C on, until every reading has fallen to 115 °C (R370). -/
def State.overTemp (s : State) (d : DieId) : State :=
  let x := s.die d
  let t := x.temp x.hottest
  if 1000 ≤ t ∧ !x.slow then (s.updDie d fun x => { x with slow := true }).heatEvent d 0x31 x.hottest t
  else if t ≤ 920 then s.updDie d fun x => { x with slow := false }
  else s

/-- SHADE_TABLE_REFRESH with the samples of 64 sensors and the die's power (R75, R369, R370). -/
def execShadeTableRefresh (die : Nat) (samples : List (BitVec 12)) (power : Nat) (s : State) :
    Host.Outcome State Fault Refusal :=
  let add (x : Die) : Die :=
    { x with samples := (samples :: x.samples).take 400, powers := (power :: x.powers).take 400 }.judged
  let t := s.updDie die fun x => (add x).refreshed
  occurs (s.powered (die / 64)) (t.overTemp die) s

/-- No slot of a core is disabled for heat any more (R370). -/
def Core.cooled (c : Core) : Core :=
  { c with slots := c.slots.map (fun x => { x with enabled := true })
           heat := c.heat.filter fun h => match h with | .slot _ => false | .gang _ => true }

/-- No slot of a die is disabled for heat any more, and no thread there is still to leave one. -/
def State.coolAll (s : State) (d : DieId) : State :=
  { s with cores := s.cores.map fun e => if Loc.dieId e.1 = d then (e.1, e.2.cooled) else e
           frames := s.frames.map fun e => if Loc.dieId (keyLoc e.1) = d then (e.1, { e.2 with shed := false }) else e }

/-- SENSOR_FAILURE: a sensor is declared failed, with event 0x30; when it was the last one, the die goes to a fixed
clock, with event 0x31 (R369, R370, R385). -/
def execSensorFailure (die q : Nat) (s : State) : Host.Outcome State Fault Refusal :=
  let x := s.die die
  let failed := x.failed ||| BitVec.twoPow 64 q
  let t := (s.updDie die fun x => { x with failed := failed }).heatEvent die 0x30 q (maxOf (x.last q 1))
  let t := if failed = BitVec.allOnes 64 then
      ((t.updDie die fun x => { x with dfix := true }).coolAll die).heatEvent die 0x31 q 0
    else t
  occurs (s.powered (die / 64) && decide (q < 64) && !x.failed.getLsbD q && x.failing q) t s

/-! ## The 50 µs steps (R76, R77, R83, R308) -/

/-- The thread may be displaced: it holds no lease, is no gang member, has no command out at `qpav`, `qcpy` or
`qtrl`, and is not a handler (R76, R308). -/
def State.mayDisplace (s : State) (k : Nat) : Bool :=
  let f := s.frame k
  keyFrame k != 32 && (s.gangOf k).isNone && (s.lease (Loc.pav (keyLoc k))).holder != some f.uid &&
  f.pav.opened == 0 && f.cpy.opened == 0 && f.trl.opened == 0

/-- The coolest other core of the thread's region with a free frame, ties to the lower location, and that frame (R76). The
readings in force are compared whatever die they are of (log entry 89). -/
def State.coolest (s : State) (k : Nat) : Option (Loc × Nat) :=
  let f := s.frame k
  let t (l : Loc) : Int := (s.die (Loc.dieId l)).temp (Loc.quad l)
  match s.launchOf f.launch f.lmod with
  | some x =>
    let taken := s.reserved
    ((x.lr.cores f.lmod).filter (· != keyLoc k)).foldl (fun b l => match s.freeBut taken l, b with
      | none, b => b
      | some n, none => some (l, n)
      | some n, some m => if t l < t m.1 then some (l, n) else some m) none
  | none => none

/-- A displaced thread no longer waits here: for the Pavilion's lease, or for a gang to form, whose other threads look
again when its reservation is gone (R79, R284). -/
def State.withdraw (s : State) (k : Nat) : State :=
  let s := s.updLease (Loc.pav (keyLoc k)) fun x => { x with waiters := x.waiters.filter (· != k) }
  if s.gangs.any fun g => !g.formed && g.members.contains k then
    let out (g : Gang) : Gang := if g.formed then g else { g with members := g.members.filter (· != k) }
    { s with gangs := (s.gangs.map out).filter fun g => !g.members.isEmpty }.wake fun j f =>
      j != k && match f.wait with | some (.gang _) => true | _ => false
  else s

/-- The thread of a slot that is disabled: it sets out for the coolest core, where an anchored thread reserves the frame
found free, or stays resident and unbound (R76; log entry 33). One that waits to depart goes on departing. -/
def State.shed (s : State) (k : Nat) : State :=
  let f := s.frame k
  let till := match f.wait with | some (.sleep t) => some t | _ => none
  let leaves := match f.wait with | some (.depart _ _) => true | _ => false
  let s := s.updFrame k fun x => { x with shed := false }
  match s.coolest k with
  | some (dest, n) =>
    if !f.used || leaves then s
    else
      (s.withdraw k).updFrame k fun x =>
        { x with wait := some (.displaced dest till (if f.anch then some n else none)), since := s.clk }
  | none => if f.wait.isNone then s.ready k else s

/-- The slot that R76 disables on a core: the highest-numbered enabled empty one, else the highest-numbered whose
thread may be displaced; the last enabled slot stays. -/
def State.slotToShed (s : State) (l : Loc) : Option Nat :=
  let c := s.core l
  let on := (List.range 8).reverse.filter fun n => (c.slot n).enabled
  let idle (n : Nat) : Bool := (c.slot n).bound.isNone
  let may (n : Nat) : Bool := match (c.slot n).bound with | some f => s.mayDisplace (keyOf l f) | none => false
  if on.length ≤ 1 then none else (on.find? idle).orElse fun _ => on.find? may

/-- A gang's interval moves at most once a tick; `moved` lists the gangs that have (R83). -/
def State.pace (s : State) (id : Nat) (f : Nat → Nat) : State :=
  { s with gangs := mapIf (fun g => g.id == id) (fun g => { g with interval := f g.interval }) s.gangs }

/-- What a tick has done so far: the state, the gangs doubled and the gangs halved. -/
abbrev Tick := State × List Nat × List Nat

/-- A hot core's step (R76, R77). A thread in the middle of an instruction leaves its slot at the end of it; one that waits
in `bar.sync` leaves at once (log entry 33). -/
def heatUp (x : Tick) (l : Loc) : Tick :=
  let (s, up, down) := x
  match s.slotToShed l with
  | some n =>
    let off (s : State) : State := s.updCore l fun c =>
      { c.updSlot n (fun y => { y with enabled := false }) with heat := .slot n :: c.heat }
    match ((s.core l).slot n).bound with
    | some f =>
      let k := keyOf l f
      if (s.frame k).between then ((off (s.unbind l n)).shed k, up, down)
      else ((off s).updFrame k fun x => { x with shed := true }, up, down)
    | none => (off s, up, down)
  | none =>
    match s.gangs.find? fun g => g.formed && g.members.any fun k => keyLoc k == l with
    | some g =>
      let s := s.updCore l fun c => { c with heat := .gang g.id :: c.heat }
      if up.contains g.id then (s, up, down) else (s.pace g.id fun i => min (2 * i) 64, g.id :: up, down)
    | none => (s, up, down)

/-- A cool core's step: the most recent one is undone (R77). A doubling whose gang is no more is undone without effect (log
entry 90). -/
def coolDown (x : Tick) (l : Loc) : Tick :=
  let (s, up, down) := x
  match (s.core l).heat with
  | [] => x
  | .gang id :: r =>
    let s := s.updCore l fun c => { c with heat := r }
    if down.contains id then (s, up, down) else (s.pace id fun i => max (i / 2) 4, up, id :: down)
  | .slot _ :: r =>
    let s := s.updCore l fun c =>
      let c := { c with heat := r }
      match (List.range 8).find? fun n => !(c.slot n).enabled with
      | some n => c.updSlot n fun y => { y with enabled := true }
      | none => c
    (s, up, down)

/-- One core's step at a tick. -/
def heatStep (d : Die) (x : Tick) (l : Loc) : Tick :=
  let t := d.temp (Loc.quad l)
  let hot : Int := 8 * (d.hot.toNat : Int)
  if hot < t then heatUp x l else if t ≤ hot - 40 then coolDown x l else x

/-- THERMAL_STEP: the 50 µs tick of a die, from which HOT as written is in force; a die at fixed clock takes no step
(R76, R77, R83, R242, R370). The cores take their steps by ascending index (log entry 99). -/
def execThermalStep (die : Nat) (s : State) : Host.Outcome State Fault Refusal :=
  let d := s.die die
  let t := (((List.range 256).foldl (fun x c => heatStep d x (die * 256 + c)) (s, [], [])).1).updDie die
    fun d => { d with threshold := d.hot }
  occurs (s.powered (die / 64)) (if d.dfix then s else t) s

end Sys2Proof.Machine
end

