-- ==== Sys2Proof/Machine/Vperm.lean ====
section
/-! DEFINITION. Vector permutation, reduction and scan: VPERM, major 0x34 (17_isa_vector R295-R299). -/

namespace Sys2Proof.Machine

open Sys2Proof

/-- vshuf: element e of VD is the element of VA that VB names (R295). -/
def execVshuf (t : VTy) (d : Fin 16) (a b : VSrc) (k : Fin 8) (s : State) : Host.Outcome State Fault Refusal :=
  issue (fun s => anchored s fun _ =>
    let w := vtyBits t
    vsrc s w a fun x => vsrc s w b fun y => vold s d k fun z =>
      vput s d (mergeVec s.my w k z fun e => elemOf w x (elemOf w y e % (512 / w))) fun s => .done s .seq) s

/-- vbcast: every active element of VD is element 0 of VA (R295). -/
def execVbcast (t : VTy) (d : Fin 16) (a : VSrc) (k : Fin 8) (s : State) : Host.Outcome State Fault Refusal :=
  issue (fun s => anchored s fun _ =>
    let w := vtyBits t
    vsrc s w a fun x => vold s d k fun z => vput s d (mergeVec s.my w k z fun _ => elemOf w x 0) fun s => .done s .seq) s

/-- An element as a general register gets it: integers sign-extended, floats zero-extended (R296, R297). -/
def elemWord (t : VTy) (x : Nat) : Word :=
  if VTy.isFloat t then BitVec.ofNat 64 x else BitVec.ofNat 64 (ofInt 64 (toSigned (vtyBits t) x))

/-- vext: element g[b] mod n of VA to a general register (R296). -/
def execVext (t : VTy) (d a b : Fin 16) (s : State) : Host.Outcome State Fault Refusal :=
  issue (fun s => anchored s fun _ =>
    let w := vtyBits t
    vread s a fun x => src s (.g b) false fun i s =>
      put s (.g d) (elemWord t (elemOf w x (i.toNat % (512 / w)))) fun s => .done s .seq) s

/-- vins: the low bits of g[a] into element g[b] mod n of VD (R296). -/
def execVins (t : VTy) (d a b : Fin 16) (s : State) : Host.Outcome State Fault Refusal :=
  issue (fun s => anchored s fun _ =>
    let w := vtyBits t
    src s (.g a) false fun x s => src s (.g b) false fun i s => vread s d fun z =>
      vput s d (buildVec w fun e => if e = i.toNat % (512 / w) then x.toNat else elemOf w z e) fun s => .done s .seq) s

/-- vnzs: the positions of the active non-zero lanes, and their number in m7 (R299). -/
def execVnzs (d a b : Fin 16) (k : Fin 8) (s : State) : Host.Outcome State Fault Refusal :=
  issue (fun s => anchored s fun _ =>
    vread s a fun x => src s (.g b) false fun base s =>
      let hits := (List.range 16).filter fun j => s.my.active k 32 j && elemOf 32 x j != 0
      let r := buildVec 32 fun j => match hits[j]? with | some p => base.toNat + p | none => 2 ^ 32 - 1
      vput (s.writeM 7 (BitVec.ofNat 16 (2 ^ hits.length - 1))) d r fun s => .done s .seq) s

/-- vpfx: the exclusive running sum from element 0 of VB (R298). -/
def execVpfx (t : VTy) (d : Fin 16) (a b : VSrc) (k : Fin 8) (s : State) : Host.Outcome State Fault Refusal :=
  issue (fun s => anchored s fun _ =>
    let w := vtyBits t
    let plus (x y : Nat) : Nat := if VTy.isFloat t then (vfmt t).add s.my.rmode x y else (x + y) % 2 ^ w
    vsrc s w a fun x => vsrc s w b fun y => vold s d k fun z =>
      let one (acc : Nat × List Nat) (e : Nat) : Nat × List Nat :=
        if s.my.active k w e then (plus acc.1 (elemOf w x e), acc.2 ++ [acc.1]) else (acc.1, acc.2 ++ [elemOf w z e])
      let r := ((List.range (512 / w)).foldl one (elemOf w y 0, [])).2
      vput s d (BitVec.ofNat 512 (packElems w r)) fun s => .done s .seq) s

/-- A reduction of the active elements in ascending order; none when no element is active (R297). -/
def reduce (fr : Frame) (w : Nat) (k : Fin 8) (x : BitVec 512) (f : Nat → Nat → Nat) : Option Nat :=
  (List.range (512 / w)).foldl (fun acc e =>
    if fr.active k w e then
      match acc with
      | none => some (elemOf w x e)
      | some a => some (f a (elemOf w x e))
    else acc) none

/-- vred.add: integers exactly, floats rounded at each step (R297). -/
def execVredAdd (t : VTy) (d a : Fin 16) (k : Fin 8) (s : State) : Host.Outcome State Fault Refusal :=
  issue (fun s => anchored s fun _ =>
    let w := vtyBits t
    vread s a fun x =>
      let sum : Int := ((List.range (512 / w)).map fun e => if s.my.active k w e then toSigned w (elemOf w x e) else 0).sum
      let r : Word :=
        if VTy.isFloat t then BitVec.ofNat 64 ((reduce s.my w k x ((vfmt t).add s.my.rmode)).getD 0)
        else BitVec.ofInt 64 sum
      put s (.g d) r fun s => .done s .seq) s

/-- vred.min: the largest value of the type when no element is active (R297). -/
def execVredMin (t : VTy) (d a : Fin 16) (k : Fin 8) (s : State) : Host.Outcome State Fault Refusal :=
  issue (fun s => anchored s fun _ =>
    let w := vtyBits t
    vread s a fun x =>
      let f (p q : Nat) : Nat := if VTy.isFloat t then (vfmt t).minmax false p q else if toSigned w p < toSigned w q then p else q
      let top := if VTy.isFloat t then (vfmt t).infBits else 2 ^ (w - 1) - 1
      put s (.g d) (elemWord t ((reduce s.my w k x f).getD top)) fun s => .done s .seq) s

/-- vred.max: the smallest value of the type when no element is active (R297). -/
def execVredMax (t : VTy) (d a : Fin 16) (k : Fin 8) (s : State) : Host.Outcome State Fault Refusal :=
  issue (fun s => anchored s fun _ =>
    let w := vtyBits t
    vread s a fun x =>
      let f (p q : Nat) : Nat := if VTy.isFloat t then (vfmt t).minmax true p q else if toSigned w p < toSigned w q then q else p
      let low := if VTy.isFloat t then (vfmt t).infBits + (vfmt t).signBit else 2 ^ (w - 1)
      put s (.g d) (elemWord t ((reduce s.my w k x f).getD low)) fun s => .done s .seq) s

end Sys2Proof.Machine
end

