-- ==== Sys2Proof/Machine/Dispatch.lean ====
section
/-! DEFINITION. Which meaning each instruction and event of the opcode table has. -/

namespace Sys2Proof.Machine

open Sys2Proof

/-- The meaning of an instruction or event. -/
def exec (i : Instr) (s : State) : Host.Outcome State Fault Refusal :=
  match i with
  | .add d a b ta tb => Sys2Proof.Machine.execAdd d a b ta tb s
  | .sub d a b ta tb => Sys2Proof.Machine.execSub d a b ta tb s
  | .and d a b ta tb => Sys2Proof.Machine.execAnd d a b ta tb s
  | .or d a b ta tb => Sys2Proof.Machine.execOr d a b ta tb s
  | .xor d a b ta tb => Sys2Proof.Machine.execXor d a b ta tb s
  | .andn d a b ta tb => Sys2Proof.Machine.execAndn d a b ta tb s
  | .sll d a b ta tb => Sys2Proof.Machine.execSll d a b ta tb s
  | .srl d a b ta tb => Sys2Proof.Machine.execSrl d a b ta tb s
  | .sra d a b ta tb => Sys2Proof.Machine.execSra d a b ta tb s
  | .ror d a b ta tb => Sys2Proof.Machine.execRor d a b ta tb s
  | .mul d a b ta tb => Sys2Proof.Machine.execMul d a b ta tb s
  | .mulh d a b ta tb => Sys2Proof.Machine.execMulh d a b ta tb s
  | .mulhu d a b ta tb => Sys2Proof.Machine.execMulhu d a b ta tb s
  | .div d a b ta tb => Sys2Proof.Machine.execDiv d a b ta tb s
  | .divu d a b ta tb => Sys2Proof.Machine.execDivu d a b ta tb s
  | .rem d a b ta tb => Sys2Proof.Machine.execRem d a b ta tb s
  | .remu d a b ta tb => Sys2Proof.Machine.execRemu d a b ta tb s
  | .min d a b ta tb => Sys2Proof.Machine.execMin d a b ta tb s
  | .max d a b ta tb => Sys2Proof.Machine.execMax d a b ta tb s
  | .minu d a b ta tb => Sys2Proof.Machine.execMinu d a b ta tb s
  | .maxu d a b ta tb => Sys2Proof.Machine.execMaxu d a b ta tb s
  | .clz d a ta => Sys2Proof.Machine.execClz d a ta s
  | .ctz d a ta => Sys2Proof.Machine.execCtz d a ta s
  | .popc d a ta => Sys2Proof.Machine.execPopc d a ta s
  | .brev d a ta => Sys2Proof.Machine.execBrev d a ta s
  | .bswap d a ta => Sys2Proof.Machine.execBswap d a ta s
  | .sextB d a ta => Sys2Proof.Machine.execSextB d a ta s
  | .sextH d a ta => Sys2Proof.Machine.execSextH d a ta s
  | .sextW d a ta => Sys2Proof.Machine.execSextW d a ta s
  | .zextB d a ta => Sys2Proof.Machine.execZextB d a ta s
  | .zextH d a ta => Sys2Proof.Machine.execZextH d a ta s
  | .zextW d a ta => Sys2Proof.Machine.execZextW d a ta s
  | .cmpEq d a b ta tb => Sys2Proof.Machine.execCmpEq d a b ta tb s
  | .cmpNe d a b ta tb => Sys2Proof.Machine.execCmpNe d a b ta tb s
  | .cmpLt d a b ta tb => Sys2Proof.Machine.execCmpLt d a b ta tb s
  | .cmpGe d a b ta tb => Sys2Proof.Machine.execCmpGe d a b ta tb s
  | .cmpLtu d a b ta tb => Sys2Proof.Machine.execCmpLtu d a b ta tb s
  | .cmpGeu d a b ta tb => Sys2Proof.Machine.execCmpGeu d a b ta tb s
  | .selz d a b ta tb => Sys2Proof.Machine.execSelz d a b ta tb s
  | .lea d a b ta tb => Sys2Proof.Machine.execLea d a b ta tb s
  | .addi d a ta imm => Sys2Proof.Machine.execAddi d a ta imm s
  | .andi d a ta imm => Sys2Proof.Machine.execAndi d a ta imm s
  | .ori d a ta imm => Sys2Proof.Machine.execOri d a ta imm s
  | .xori d a ta imm => Sys2Proof.Machine.execXori d a ta imm s
  | .muli d a ta imm => Sys2Proof.Machine.execMuli d a ta imm s
  | .slli d a ta n => Sys2Proof.Machine.execSlli d a ta n s
  | .srli d a ta n => Sys2Proof.Machine.execSrli d a ta n s
  | .srai d a ta n => Sys2Proof.Machine.execSrai d a ta n s
  | .rori d a ta n => Sys2Proof.Machine.execRori d a ta n s
  | .cmpi c d a ta imm => Sys2Proof.Machine.execCmpi c d a ta imm s
  | .movi d imm => Sys2Proof.Machine.execMovi d imm s
  | .movk d hw imm => Sys2Proof.Machine.execMovk d hw imm s
  | .fadd f r d a b ta tb => Sys2Proof.Machine.execFadd f r d a b ta tb s
  | .fsub f r d a b ta tb => Sys2Proof.Machine.execFsub f r d a b ta tb s
  | .fmul f r d a b ta tb => Sys2Proof.Machine.execFmul f r d a b ta tb s
  | .fdiv f r d a b ta tb => Sys2Proof.Machine.execFdiv f r d a b ta tb s
  | .fsqrt f r d a ta => Sys2Proof.Machine.execFsqrt f r d a ta s
  | .fcmpEq f d a b ta tb => Sys2Proof.Machine.execFcmpEq f d a b ta tb s
  | .fcmpLt f d a b ta tb => Sys2Proof.Machine.execFcmpLt f d a b ta tb s
  | .fcmpLe f d a b ta tb => Sys2Proof.Machine.execFcmpLe f d a b ta tb s
  | .fcmpUn f d a b ta tb => Sys2Proof.Machine.execFcmpUn f d a b ta tb s
  | .fmin f d a b ta tb => Sys2Proof.Machine.execFmin f d a b ta tb s
  | .fmax f d a b ta tb => Sys2Proof.Machine.execFmax f d a b ta tb s
  | .fabs f d a ta => Sys2Proof.Machine.execFabs f d a ta s
  | .fneg f d a ta => Sys2Proof.Machine.execFneg f d a ta s
  | .fsgnj f d a b ta tb => Sys2Proof.Machine.execFsgnj f d a b ta tb s
  | .fclass f d a ta => Sys2Proof.Machine.execFclass f d a ta s
  | .fma f r d a b ta tb => Sys2Proof.Machine.execFma f r d a b ta tb s
  | .fms f r d a b ta tb => Sys2Proof.Machine.execFms f r d a b ta tb s
  | .fnma f r d a b ta tb => Sys2Proof.Machine.execFnma f r d a b ta tb s
  | .fnms f r d a b ta tb => Sys2Proof.Machine.execFnms f r d a b ta tb s
  | .fcvt tt st r d a ta => Sys2Proof.Machine.execFcvt tt st r d a ta s
  | .ldB d a ta disp => Sys2Proof.Machine.execLdB d a ta disp s
  | .ldBz d a ta disp => Sys2Proof.Machine.execLdBz d a ta disp s
  | .ldH d a ta disp => Sys2Proof.Machine.execLdH d a ta disp s
  | .ldHz d a ta disp => Sys2Proof.Machine.execLdHz d a ta disp s
  | .ldW d a ta disp => Sys2Proof.Machine.execLdW d a ta disp s
  | .ldWz d a ta disp => Sys2Proof.Machine.execLdWz d a ta disp s
  | .ldD d a ta disp => Sys2Proof.Machine.execLdD d a ta disp s
  | .stB d a ta disp => Sys2Proof.Machine.execStB d a ta disp s
  | .stH d a ta disp => Sys2Proof.Machine.execStH d a ta disp s
  | .stW d a ta disp => Sys2Proof.Machine.execStW d a ta disp s
  | .stD d a ta disp => Sys2Proof.Machine.execStD d a ta disp s
  | .ldfF32 d a ta disp => Sys2Proof.Machine.execLdfF32 d a ta disp s
  | .ldfBf16 d a ta disp => Sys2Proof.Machine.execLdfBf16 d a ta disp s
  | .ldfF64 d a ta disp => Sys2Proof.Machine.execLdfF64 d a ta disp s
  | .ldfI32 d a ta disp => Sys2Proof.Machine.execLdfI32 d a ta disp s
  | .stfF32 d a ta disp => Sys2Proof.Machine.execStfF32 d a ta disp s
  | .stfBf16 d a ta disp => Sys2Proof.Machine.execStfBf16 d a ta disp s
  | .stfF64 d a ta disp => Sys2Proof.Machine.execStfF64 d a ta disp s
  | .stfI32 d a ta disp => Sys2Proof.Machine.execStfI32 d a ta disp s
  | .ldqW sc d a ta disp => Sys2Proof.Machine.execLdqW sc d a ta disp s
  | .ldqD sc d a ta disp => Sys2Proof.Machine.execLdqD sc d a ta disp s
  | .stlW sc d a ta disp => Sys2Proof.Machine.execStlW sc d a ta disp s
  | .stlD sc d a ta disp => Sys2Proof.Machine.execStlD sc d a ta disp s
  | .amoAdd dbl d a b => Sys2Proof.Machine.execAmoAdd dbl d a b s
  | .amoAnd dbl d a b => Sys2Proof.Machine.execAmoAnd dbl d a b s
  | .amoOr dbl d a b => Sys2Proof.Machine.execAmoOr dbl d a b s
  | .amoXor dbl d a b => Sys2Proof.Machine.execAmoXor dbl d a b s
  | .amoMin dbl d a b => Sys2Proof.Machine.execAmoMin dbl d a b s
  | .amoMax dbl d a b => Sys2Proof.Machine.execAmoMax dbl d a b s
  | .amoMinu dbl d a b => Sys2Proof.Machine.execAmoMinu dbl d a b s
  | .amoMaxu dbl d a b => Sys2Proof.Machine.execAmoMaxu dbl d a b s
  | .amoSwap dbl d a b => Sys2Proof.Machine.execAmoSwap dbl d a b s
  | .amoCas dbl d a b => Sys2Proof.Machine.execAmoCas dbl d a b s
  | .amoFadd dbl d a b => Sys2Proof.Machine.execAmoFadd dbl d a b s
  | .amoFmaxa dbl d a b => Sys2Proof.Machine.execAmoFmaxa dbl d a b s
  | .amopAdd dbl a b => Sys2Proof.Machine.execAmopAdd dbl a b s
  | .amopAnd dbl a b => Sys2Proof.Machine.execAmopAnd dbl a b s
  | .amopOr dbl a b => Sys2Proof.Machine.execAmopOr dbl a b s
  | .amopXor dbl a b => Sys2Proof.Machine.execAmopXor dbl a b s
  | .amopMin dbl a b => Sys2Proof.Machine.execAmopMin dbl a b s
  | .amopMax dbl a b => Sys2Proof.Machine.execAmopMax dbl a b s
  | .amopMinu dbl a b => Sys2Proof.Machine.execAmopMinu dbl a b s
  | .amopMaxu dbl a b => Sys2Proof.Machine.execAmopMaxu dbl a b s
  | .amopFadd dbl a b => Sys2Proof.Machine.execAmopFadd dbl a b s
  | .amopFmaxa dbl a b => Sys2Proof.Machine.execAmopFmaxa dbl a b s
  | .go a => Sys2Proof.Machine.execGo a s
  | .pin => Sys2Proof.Machine.execPin s
  | .unpin => Sys2Proof.Machine.execUnpin s
  | .whereI d => Sys2Proof.Machine.execWhereI d s
  | .hops d => Sys2Proof.Machine.execHops d s
  | .spawn d a b => Sys2Proof.Machine.execSpawn d a b s
  | .spawna d a b => Sys2Proof.Machine.execSpawna d a b s
  | .exit => Sys2Proof.Machine.execExit s
  | .join a => Sys2Proof.Machine.execJoin a s
  | .yield => Sys2Proof.Machine.execYield s
  | .next d => Sys2Proof.Machine.execNext d s
  | .launch d a => Sys2Proof.Machine.execLaunch d a s
  | .taskDec d a => Sys2Proof.Machine.execTaskDec d a s
  | .taskDecp a => Sys2Proof.Machine.execTaskDecp a s
  | .sleep a => Sys2Proof.Machine.execSleep a s
  | .barArv sc id => Sys2Proof.Machine.execBarArv sc id s
  | .barWait sc id => Sys2Proof.Machine.execBarWait sc id s
  | .barArd sc id => Sys2Proof.Machine.execBarArd sc id s
  | .barSync sc id => Sys2Proof.Machine.execBarSync sc id s
  | .barPhase sc d id => Sys2Proof.Machine.execBarPhase sc d id s
  | .fence sc => Sys2Proof.Machine.execFence sc s
  | .flkJoin grp a b => Sys2Proof.Machine.execFlkJoin grp a b s
  | .flkLd grp a b => Sys2Proof.Machine.execFlkLd grp a b s
  | .flkLeave grp => Sys2Proof.Machine.execFlkLeave grp s
  | .flkTimer grp a => Sys2Proof.Machine.execFlkTimer grp a s
  | .leaseAcq => Sys2Proof.Machine.execLeaseAcq s
  | .leaseTry d => Sys2Proof.Machine.execLeaseTry d s
  | .leaseRel => Sys2Proof.Machine.execLeaseRel s
  | .tileAlloc d a b => Sys2Proof.Machine.execTileAlloc d a b s
  | .tileFree a => Sys2Proof.Machine.execTileFree a s
  | .tileFreef a => Sys2Proof.Machine.execTileFreef a s
  | .tileState d a => Sys2Proof.Machine.execTileState d a s
  | .tileMark a st => Sys2Proof.Machine.execTileMark a st s
  | .gangForm n => Sys2Proof.Machine.execGangForm n s
  | .split => Sys2Proof.Machine.execSplit s
  | .movs n a => Sys2Proof.Machine.execMovs n a s
  | .movfs d n => Sys2Proof.Machine.execMovfs d n s
  | .trap n => Sys2Proof.Machine.execTrap n s
  | .rfe => Sys2Proof.Machine.execRfe s
  | .brk => Sys2Proof.Machine.execBrk s
  | .waitev d => Sys2Proof.Machine.execWaitev d s
  | .ctxSw a => Sys2Proof.Machine.execCtxSw a s
  | .tlbInv a => Sys2Proof.Machine.execTlbInv a s
  | .secFlush => Sys2Proof.Machine.execSecFlush s
  | .preempt a => Sys2Proof.Machine.execPreempt a s
  | .resume a => Sys2Proof.Machine.execResume a s
  | .jl d disp => Sys2Proof.Machine.execJl d disp s
  | .bc c a ta disp => Sys2Proof.Machine.execBc c a ta disp s
  | .jr d a ta imm => Sys2Proof.Machine.execJr d a ta imm s
  | .repf count len sd sa sb => Sys2Proof.Machine.execRepf count len sd sa sb s
  | .solo => Sys2Proof.Machine.execSolo s
  | .vadd t d a b k => Sys2Proof.Machine.execVadd t d a b k s
  | .vsub t d a b k => Sys2Proof.Machine.execVsub t d a b k s
  | .vmul t d a b k => Sys2Proof.Machine.execVmul t d a b k s
  | .vmulh t d a b k => Sys2Proof.Machine.execVmulh t d a b k s
  | .vand t d a b k => Sys2Proof.Machine.execVand t d a b k s
  | .vor t d a b k => Sys2Proof.Machine.execVor t d a b k s
  | .vxor t d a b k => Sys2Proof.Machine.execVxor t d a b k s
  | .vandn t d a b k => Sys2Proof.Machine.execVandn t d a b k s
  | .vsll t d a b k => Sys2Proof.Machine.execVsll t d a b k s
  | .vsrl t d a b k => Sys2Proof.Machine.execVsrl t d a b k s
  | .vsra t d a b k => Sys2Proof.Machine.execVsra t d a b k s
  | .vmin t d a b k => Sys2Proof.Machine.execVmin t d a b k s
  | .vmax t d a b k => Sys2Proof.Machine.execVmax t d a b k s
  | .vminu t d a b k => Sys2Proof.Machine.execVminu t d a b k s
  | .vmaxu t d a b k => Sys2Proof.Machine.execVmaxu t d a b k s
  | .vabs t d a k => Sys2Proof.Machine.execVabs t d a k s
  | .vfadd t d a b k => Sys2Proof.Machine.execVfadd t d a b k s
  | .vfsub t d a b k => Sys2Proof.Machine.execVfsub t d a b k s
  | .vfmul t d a b k => Sys2Proof.Machine.execVfmul t d a b k s
  | .vfdiv t d a b k => Sys2Proof.Machine.execVfdiv t d a b k s
  | .vfmin t d a b k => Sys2Proof.Machine.execVfmin t d a b k s
  | .vfmax t d a b k => Sys2Proof.Machine.execVfmax t d a b k s
  | .vfabs t d a k => Sys2Proof.Machine.execVfabs t d a k s
  | .vfneg t d a k => Sys2Proof.Machine.execVfneg t d a k s
  | .vcvt tt st d a k => Sys2Proof.Machine.execVcvt tt st d a k s
  | .vfma t d a b k => Sys2Proof.Machine.execVfma t d a b k s
  | .vfms t d a b k => Sys2Proof.Machine.execVfms t d a b k s
  | .vfnma t d a b k => Sys2Proof.Machine.execVfnma t d a b k s
  | .vshuf t d a b k => Sys2Proof.Machine.execVshuf t d a b k s
  | .vbcast t d a k => Sys2Proof.Machine.execVbcast t d a k s
  | .vext t d a b => Sys2Proof.Machine.execVext t d a b s
  | .vins t d a b => Sys2Proof.Machine.execVins t d a b s
  | .vnzs d a b k => Sys2Proof.Machine.execVnzs d a b k s
  | .vpfx t d a b k => Sys2Proof.Machine.execVpfx t d a b k s
  | .vredAdd t d a k => Sys2Proof.Machine.execVredAdd t d a k s
  | .vredMin t d a k => Sys2Proof.Machine.execVredMin t d a k s
  | .vredMax t d a k => Sys2Proof.Machine.execVredMax t d a k s
  | .vcmpEq t d a b k => Sys2Proof.Machine.execVcmpEq t d a b k s
  | .vcmpNe t d a b k => Sys2Proof.Machine.execVcmpNe t d a b k s
  | .vcmpLt t d a b k => Sys2Proof.Machine.execVcmpLt t d a b k s
  | .vcmpGe t d a b k => Sys2Proof.Machine.execVcmpGe t d a b k s
  | .vcmpLtu t d a b k => Sys2Proof.Machine.execVcmpLtu t d a b k s
  | .vcmpGeu t d a b k => Sys2Proof.Machine.execVcmpGeu t d a b k s
  | .vsel t d a b k => Sys2Proof.Machine.execVsel t d a b k s
  | .mand d a b => Sys2Proof.Machine.execMand d a b s
  | .mor d a b => Sys2Proof.Machine.execMor d a b s
  | .mnot d a => Sys2Proof.Machine.execMnot d a s
  | .mpopc d a => Sys2Proof.Machine.execMpopc d a s
  | .vld sz d a b k => Sys2Proof.Machine.execVld sz d a b k s
  | .vst sz d a b k => Sys2Proof.Machine.execVst sz d a b k s
  | .vlds sz d a b k => Sys2Proof.Machine.execVlds sz d a b k s
  | .vsts sz d a b k => Sys2Proof.Machine.execVsts sz d a b k s
  | .vgath sz d a b k => Sys2Proof.Machine.execVgath sz d a b k s
  | .vscat sz d a b k => Sys2Proof.Machine.execVscat sz d a b k s
  | .vldt d a b k => Sys2Proof.Machine.execVldt d a b k s
  | .vstt d a b k => Sys2Proof.Machine.execVstt d a b k s
  | .vldfF32 d a b k => Sys2Proof.Machine.execVldfF32 d a b k s
  | .vldfBf16 d a b k => Sys2Proof.Machine.execVldfBf16 d a b k s
  | .vldfI32 d a b k => Sys2Proof.Machine.execVldfI32 d a b k s
  | .instructionFetch loc slot => Sys2Proof.Machine.execInstructionFetch loc slot s
  | .longLatencyResult k => Sys2Proof.Machine.execLongLatencyResult k s
  | .loadReply k => Sys2Proof.Machine.execLoadReply k s
  | .dataReturnRequest k => Sys2Proof.Machine.execDataReturnRequest k s
  | .storePerform loc k => Sys2Proof.Machine.execStorePerform loc k s
  | .atomicPerform k => Sys2Proof.Machine.execAtomicPerform k s
  | .postedOperation k => Sys2Proof.Machine.execPostedOperation k s
  | .pageWalk h va => Sys2Proof.Machine.execPageWalk h va s
  | .faultQueueRetry r => Sys2Proof.Machine.execFaultQueueRetry r s
  | .retry h q => Sys2Proof.Machine.execRetry h q s
  | .deny h q => Sys2Proof.Machine.execDeny h q s
  | .tlbInvalidateRequest k => Sys2Proof.Machine.execTlbInvalidateRequest k s
  | .spreadEntryFetch k => Sys2Proof.Machine.execSpreadEntryFetch k s
  | .undeliveredReturn k => Sys2Proof.Machine.execUndeliveredReturn k s
  | .fenceMarker k => Sys2Proof.Machine.execFenceMarker k s
  | .departure loc f => Sys2Proof.Machine.execDeparture loc f s
  | .migrationArrival k => Sys2Proof.Machine.execMigrationArrival k s
  | .migrationRetry k => Sys2Proof.Machine.execMigrationRetry k s
  | .spillRingTakeFrame loc => Sys2Proof.Machine.execSpillRingTakeFrame loc s
  | .pinExpiry loc f => Sys2Proof.Machine.execPinExpiry loc f s
  | .longWaitUnbind loc slot => Sys2Proof.Machine.execLongWaitUnbind loc slot s
  | .frameReadyBind loc => Sys2Proof.Machine.execFrameReadyBind loc s
  | .repeatFrameEnd loc f => Sys2Proof.Machine.execRepeatFrameEnd loc f s
  | .launchAccept k => Sys2Proof.Machine.execLaunchAccept k s
  | .launchStart m id => Sys2Proof.Machine.execLaunchStart m id s
  | .launchCompletion m id => Sys2Proof.Machine.execLaunchCompletion m id s
  | .joinCellIncrement k => Sys2Proof.Machine.execJoinCellIncrement k s
  | .joinCellDecrement k => Sys2Proof.Machine.execJoinCellDecrement k s
  | .joinComplete loc f => Sys2Proof.Machine.execJoinComplete loc f s
  | .dependentTaskDecrement k => Sys2Proof.Machine.execDependentTaskDecrement k s
  | .nextRescan loc f => Sys2Proof.Machine.execNextRescan loc f s
  | .gangFormation n => Sys2Proof.Machine.execGangFormation n s
  | .barrierPhaseComplete n => Sys2Proof.Machine.execBarrierPhaseComplete n s
  | .sleepExpiry loc f => Sys2Proof.Machine.execSleepExpiry loc f s
  | .shadeTableRefresh die samples power => Sys2Proof.Machine.execShadeTableRefresh die samples power s
  | .thermalStep die => Sys2Proof.Machine.execThermalStep die s
  | .sensorFailure die q => Sys2Proof.Machine.execSensorFailure die q s
  | .leaseRearbitration pav => Sys2Proof.Machine.execLeaseRearbitration pav s
  | .mma r => Sys2Proof.Machine.execMma r s
  | .sheafFwd r => Sys2Proof.Machine.execSheafFwd r s
  | .sheafBwd pav => Sys2Proof.Machine.execSheafBwd pav s
  | .copy2d quad => Sys2Proof.Machine.execCopy2d quad s
  | .copyIdx quad => Sys2Proof.Machine.execCopyIdx quad s
  | .expand24 quad => Sys2Proof.Machine.execExpand24 quad s
  | .compact24 quad => Sys2Proof.Machine.execCompact24 quad s
  | .convert quad => Sys2Proof.Machine.execConvert quad s
  | .fill quad => Sys2Proof.Machine.execFill quad s
  | .gather loc => Sys2Proof.Machine.execGather loc s
  | .gatherPool loc => Sys2Proof.Machine.execGatherPool loc s
  | .scatterAdd loc => Sys2Proof.Machine.execScatterAdd loc s
  | .chain loc => Sys2Proof.Machine.execChain loc s
  | .route loc => Sys2Proof.Machine.execRoute loc s
  | .walk quad => Sys2Proof.Machine.execWalk quad s
  | .walkerStepLimit quad => Sys2Proof.Machine.execWalkerStepLimit quad s
  | .engineCommandStart r => Sys2Proof.Machine.execEngineCommandStart r s
  | .engineCommandComplete id => Sys2Proof.Machine.execEngineCommandComplete id s
  | .messageDelivery k => Sys2Proof.Machine.execMessageDelivery k s
  | .messageRetry k => Sys2Proof.Machine.execMessageRetry k s
  | .eventRetry k => Sys2Proof.Machine.execEventRetry k s
  | .flockRequest k => Sys2Proof.Machine.execFlockRequest k s
  | .flockTimerExpiry h n => Sys2Proof.Machine.execFlockTimerExpiry h n s
  | .flockLateWindowEnd h n => Sys2Proof.Machine.execFlockLateWindowEnd h n s
  | .rehomeGranule h granule => Sys2Proof.Machine.execRehomeGranule h granule s
  | .epochBoundary m => Sys2Proof.Machine.execEpochBoundary m s
  | .reductionStepMerge m w => Sys2Proof.Machine.execReductionStepMerge m w s
  | .reductionStepTimeout m w part => Sys2Proof.Machine.execReductionStepTimeout m w part s
  | .trapQueueEntry loc slot => Sys2Proof.Machine.execTrapQueueEntry loc slot s
  | .patrolScrub dword => Sys2Proof.Machine.execPatrolScrub dword s
  | .moduleLost m => Sys2Proof.Machine.execModuleLost m s
  | .hedgerowPortFailure m p => Sys2Proof.Machine.execHedgerowPortFailure m p s
  | .cxlMemWrite m off size v => Sys2Proof.Machine.execCxlMemWrite m off size v s
  | .cxlMemRead m off size => Sys2Proof.Machine.execCxlMemRead m off size s
  | .boot m v => Sys2Proof.Machine.execBoot m v s
  | .fwload m v => Sys2Proof.Machine.execFwload m v s
  | .fallowSet m v => Sys2Proof.Machine.execFallowSet m v s
  | .fallowClear m v => Sys2Proof.Machine.execFallowClear m v s
  | .baradd m v => Sys2Proof.Machine.execBaradd m v s
  | .ptrootWrite m n v => Sys2Proof.Machine.execPtrootWrite m n v s
  | .reductionWindowWrite m w off v => Sys2Proof.Machine.execReductionWindowWrite m w off v s
  | .registerWindowWrite m off v => Sys2Proof.Machine.execRegisterWindowWrite m off v s
  | .roceSend m qp data => Sys2Proof.Machine.execRoceSend m qp data s
  | .roceRdmaWrite m qp region off data => Sys2Proof.Machine.execRoceRdmaWrite m qp region off data s
  | .roceRdmaRead m qp region off len => Sys2Proof.Machine.execRoceRdmaRead m qp region off len s
  | .roceAtomicNak m qp => Sys2Proof.Machine.execRoceAtomicNak m qp s
  | .powerGood m part => Sys2Proof.Machine.execPowerGood m part s
  | .i3cEntdaa m addr => Sys2Proof.Machine.execI3cEntdaa m addr s
  | .i3cRead m what => Sys2Proof.Machine.execI3cRead m what s
  | .mgmtFirmwareLoad m image len => Sys2Proof.Machine.execMgmtFirmwareLoad m image len s
  | .mgmtRead m what => Sys2Proof.Machine.execMgmtRead m what s
  | .powerLoss m => Sys2Proof.Machine.execPowerLoss m s
  | .ideKeyProgramming m => Sys2Proof.Machine.execIdeKeyProgramming m s
  | .hedgerowLinkTraining m number => Sys2Proof.Machine.execHedgerowLinkTraining m number s
  | .linkLevelRetry m p => Sys2Proof.Machine.execLinkLevelRetry m p s
  | .soloResultArrival k => Sys2Proof.Machine.execSoloResultArrival k s

end Sys2Proof.Machine
end

