-- ==== Sys2Proof/Machine/Issue.lean ====
section
/-! DEFINITION. Issue: how a slot gets its next instruction, from memory or from a repeat frame, and executes it
(03_execution R43, R45, R50, R71; 11_encoding R174, R182; 13_isa_scalar R232-R235, R243; 19_engines R340). -/

namespace Sys2Proof.Machine

open Sys2Proof

/-! ## Before an instruction issues -/

/-- The frames that an issue is for: the thread's, or its whole gang's. -/
def State.issuers (s : State) (k : Nat) : List Nat := match s.gangOf k with | some g => g.members | none => [k]

/-- GANG, LEAD, GSIZE and GPOS as the membership of the gang has them (R243). -/
def State.gangBits (s : State) (k : Nat) (f : Frame) : Frame :=
  match s.gangOf k with
  | some g =>
    let pos := g.pos (keyLoc k)
    (((f.setT 17 1 1).setT 18 1 (if pos = 0 then 1 else 0)).setT 19 2 g.size).setT 21 4 pos
  | none => (f.setT 17 4 0).setT 21 4 0

/-- A general register with bad parity is poisoned (R362). -/
def Frame.parityG (f : Frame) : Frame :=
  { f with poisoned := f.poisoned ||| f.par.g, par := { f.par with g := 0 } }

/-- What ends before the next instruction of a thread: a pin or a repeat frame that has run out, and captured words
that no frame holds (R50, R234). -/
def State.prepare (s : State) (k : Nat) : State :=
  let s := s.updFrame k fun f => (s.gangBits k f.expire).parityG
  if (s.frame k).rfa then s
  else match s.slotOf k with
    | some n => s.updSlot (keyLoc k) n fun x => { x with rf := none }
    | none => s

/-- The thread of a slot is in issue. -/
def State.toIssue (s : State) (l : Loc) (n f : Nat) : State :=
  let s := (s.issuers (keyOf l f)).foldl State.prepare s
  { s with cur := { loc := l, frame := f, slot := n } }

/-! ## The word to issue -/

/-- What the front of the pipe has for the thread: a word, or a state in which it issues nothing. -/
inductive Front where
  | word (s : State) (w : W32)
  | none (s : State)
  deriving DecidableEq, Repr

/-- A trap at the front. -/
def State.frontTrap (s : State) (c : Cause) (va : Word) : Front := .none { s.trapMy c va 0 with note := .trapped }

/-- A fetch for a repeat frame that does not give a word (R235). -/
def State.frontFetch (s : State) (va : Word) : FetchRes → Front
  | .trap c => s.frontTrap c va
  | .park h r b n => .none { s.parkThread s.me true h r b n va { exec := true, user := !s.my.priv } with note := .waiting }
  | _ => .none { s with note := .waiting }

/-- The word of a captured frame at the saved position and execution (R233, R234). -/
def frameWord (f : Frame) (ws : List W32) : Option W32 :=
  match ws with
  | [] => none
  | r :: body =>
    let w := r.toNat
    match body[f.rfpos]? with
    | some x =>
      if f.rfiter ≤ fld w 21 5 then
        some (BitVec.ofNat 32 (stagger x.toNat f.rfiter (fld w 15 2) (fld w 13 2) (fld w 11 2)))
      else none
    | none => none

/-- The captured words of the slot in issue; a thread that was bound anew recaptures them (R235). -/
def State.frontRepeat (s : State) : Front :=
  let f := s.my
  match ((s.core s.cur.loc).slot s.cur.slot).rf with
  | some ws => match frameWord f ws with | some w => .word s w | none => s.frontTrap .frameIllegal 0
  | none =>
    let p := f.pc - 4 - BitVec.ofNat 64 (4 * f.rfpos)
    match s.fetch p with
    | (s, .word w _) =>
      match decode w with
      | .ok (.repf count len _ _ _) =>
        if count.toNat < f.rfiter ∨ len.toNat < f.rfpos then s.frontTrap .frameIllegal 0
        else
          match capture s (p + 4) (len.toNat + 1) with
          | (s, .ok ws) =>
            let s := s.updSlot s.cur.loc s.cur.slot fun x => { x with rf := some (w :: ws) }
            match frameWord f (w :: ws) with | some v => .word s v | none => s.frontTrap .frameIllegal 0
          | (s, .error (.refused _)) => s.frontTrap .frameIllegal 0
          | (s, .error (.fetch va r)) => s.frontFetch va r
      | _ => s.frontTrap .frameIllegal 0
    | (s, r) => s.frontFetch p r

/-- The word that the thread in issue executes: the one whose request is under way, a repeat frame's, or the one at
pc. -/
def State.frontWord (s : State) : Front :=
  match s.my.pend, s.my.word with
  | .idle, _ =>
    if s.my.rfa then s.frontRepeat
    else match s.front with
      | (s, some w) => .word s w
      | (s, none) => .none s
  | _, some w => .word s w
  | _, none => .none { s with note := .waiting }

/-! ## Issue -/

/-- The word that these threads have in issue. -/
def State.holdWord (s : State) (w : W32) : State :=
  (s.issuers s.me).foldl (fun t k => t.updFrame k fun f => { f with word := some w }) s

/-- The mask registers that a word of a vector major reads: MK, and the sources of the mask operations (R180, R294). -/
def masksRead (w : Nat) : List (Fin 8) :=
  let op := fld w 26 6
  if op < 0x30 ∨ 0x35 < op then []
  else
    let vfn := fld w 3 5
    [mkOf (fld w 8 3)] ++ (if op = 0x35 ∧ 9 ≤ vfn ∧ vfn ≤ 12 then
      mkOf (fld w 16 3) :: (if vfn ≤ 10 then [mkOf (fld w 11 3)] else []) else [])

/-- A mask that the word reads has bad parity (R362). -/
def Frame.badMask (f : Frame) (w : Nat) : Bool := (masksRead w).any fun n => n.val != 0 && f.par.m.getLsbD n

/-- A word executes: its instruction, or the cause of R182. A PREFIX word under SOLO is illegal before its reserved bits are
looked at (R183, R198), and a mask with bad parity traps (R362). -/
def execWord (w : W32) (s : State) : Host.Outcome State Fault Refusal :=
  let s := s.holdWord w
  match decode w with
  | .ok i =>
    if (s.issuers s.me).any fun k => (s.frame k).badMask w.toNat then
      issue (fun s => if s.my.anch then (if s.my.badMask w.toNat then .trap .uncorrectable 0 0 else .wait) else .trap .privilege 0 0) s
    else exec i s
  | .error .reserved =>
    issue (fun s => if s.my.solo && fld w.toNat 26 6 == 0x3F then .trap .illegalOpcode 0 0 else .trap .reservedField 0 0) s
  | .error _ => issue (fun _ => .trap .illegalOpcode 0 0) s

/-- The traps of R340 that a popped completion word has made due for these threads. -/
def State.boundsTraps (s : State) (ks : List Nat) : State :=
  let one (t : State) (k : Nat) : State :=
    match (t.frame k).bounds with
    | some va => (t.updFrame k fun f => { f with bounds := none }).raiseAt k .bounds va 0
    | none => t
  { ks.foldl one s with cur := s.cur, note := .trapped }

/-- The thread in issue issues. A gang issues through its leader (R71). -/
def State.issueNow (s : State) : Host.Outcome State Fault Refusal :=
  let ks := s.issuers s.me
  if ks.head? != some s.me || ks.any (fun k => match (s.frame k).wait with | some (.queued _) => true | _ => false) then
    .next { s with note := .waiting }
  else if ks.any fun k => (s.frame k).bounds.isSome then .next (s.boundsTraps ks)
  else
    match s.frontWord with
    | .word s w => execWord w s
    | .none s => .next s

/-! ## Which slot issues (R43, R45, R74, R76, R362) -/

/-- Some of these threads are in the middle of an instruction, which issues no other. -/
def State.underWay (s : State) (ks : List Nat) : Bool := ks.any fun k => (s.frame k).pend != .idle

/-- The slot may be tried for frame f: its instruction is under way, or it has issued none in the previous 3 clk and its
gang's issue interval has passed (R45, R74). -/
def State.mayTry (s : State) (l : Loc) (n f : Nat) : Bool :=
  s.underWay (s.issuers (keyOf l f)) ||
  (decide (((s.core l).slot n).next ≤ s.clk) && match s.gangOf (keyOf l f) with | some g => decide (g.next ≤ s.clk) | none => true)

/-- The clk of the next issue moves on for these slots, and for a gang by its interval; the search for the next issuing
slot of a core starts after the one that has issued (R45, R74). -/
def State.issued (s : State) (g : Option Gang) (slots : List (Loc × Nat)) : State :=
  let one (t : State) (e : Loc × Nat) : State :=
    t.updCore e.1 fun c => { c.updSlot e.2 (fun x => { x with next := s.clk + 4 }) with rr := (e.2 + 1) % 8 }
  let s := slots.foldl one s
  match g with
  | some g => { s with gangs := mapIf (fun x => x.id == g.id) (fun x => { x with next := s.clk + x.interval }) s.gangs }
  | none => s

/-- A thread that R76 displaces, and whose instruction was under way, leaves its slot at the end of it. -/
def State.sheds (s : State) (k : Nat) : Bool := (s.frame k).shed && (s.frame k).between && s.mayDisplace k

/-- The same, for the thread of slot n. -/
def State.shedDone (s : State) (l : Loc) (n : Nat) : State :=
  match ((s.core l).slot n).bound with
  | some f => if s.sheds (keyOf l f) then (s.unbind l n).shed (keyOf l f) else s
  | none => s

/-- What follows the try of slot n for frame f: an issue is noted, and where nothing came about the search goes on. -/
def State.tried (s t : State) (l : Loc) (n f : Nat) : State :=
  let ks := s.issuers (keyOf l f)
  let went := t.note == .retired || t.note == .held || t.note == .trapped
  let t := if went && !s.underWay ks then
      t.issued (s.gangOf (keyOf l f)) (ks.filterMap fun k => (s.slotOf k).map fun i => (keyLoc k, i))
    else t
  t.shedDone l n

/-- A thread whose pc, `tstat`, full or poison bytes have bad parity ends (R362; log entry 91). In the handler frame that is
a handler fault. -/
def State.parityEnd (s : State) (l : Loc) (n f : Nat) : State :=
  let s := s.updFrame (keyOf l f) fun x => { x with par := {} }
  { (if f = 32 then s.handlerFault l (some n) else s.killThread l f 0x05 .uncorrectable) with note := .trapped }

/-- A thread of a pre-empted launch issues no new instruction (R364). -/
def State.frozen (s : State) (k : Nat) : Bool :=
  keyFrame k != 32 && (s.frame k).pend == .idle && s.preempted (s.frame k).launch (s.frame k).lmod

/-- The first of these slots of a core that can issue does (R45). -/
def State.issueFrom (s : State) (l : Loc) : List Nat → Host.Outcome State Fault Refusal
  | [] => .next s
  | n :: r =>
    match ((s.core l).slot n).bound with
    | some f =>
      if (s.frame (keyOf l f)).par.ctl then .next (s.parityEnd l n f)
      else if s.sheds (keyOf l f) then .next { s.shedDone l n with note := .moved }
      else if s.frozen (keyOf l f) then s.issueFrom l r
      else if s.mayTry l n f then
        match (s.toIssue l n f).issueNow with
        | .next t =>
          let u := s.tried t l n f
          if t.note = .waiting then u.issueFrom l r else .next u
        | o => o
      else s.issueFrom l r
    | none => s.issueFrom l r

/-- The slots of a core in the order of the search (R45). -/
def Core.order (c : Core) : List Nat := (List.range 8).map fun i => (c.rr + i) % 8

/-- A core issues, round robin over its slots (R43, R45). -/
def State.issueAt (s : State) (l : Loc) : Host.Outcome State Fault Refusal :=
  let s := { s with note := .idle }
  if s.powered (Loc.module l) then s.issueFrom l (s.core l).order else .next s

end Sys2Proof.Machine
end

