-- ==== Sys2Proof/Machine/Policy.lean ====
section
/-! DEFINITION. Who moves when State.turns names no one: the model's own order among the moves that the manual leaves
open (log entry 1), and the machine that a program is loaded into (log entry 3). -/

namespace Sys2Proof.Machine

open Sys2Proof

/-- An event takes place; a word of the instruction set is no event. -/
def State.happen (s : State) (i : Instr) : Host.Outcome State Fault Refusal :=
  if (encodeNat i).isNone then exec i s else .next { s with note := .idle }

/-- A turn's mover moves. -/
def State.move (s : State) : Who → Host.Outcome State Fault Refusal
  | .issue l => s.issueAt l
  | .event i => s.happen i

/-! ## Moves that can be due -/

/-- A meaning with its operands: the machine names no event beyond it. -/
abbrev Meaning := State → Host.Outcome State Fault Refusal


/-- The events that packet k of the net can bring about. -/
def Pkt.moves (p : Pkt) (k : Nat) : List Meaning :=
  match p.kind with
  | .load _ _ _ _ => [execDataReturnRequest k, execFaultQueueRetry (.packet k), execUndeliveredReturn k]
  | .ldf _ => [execDataReturnRequest k, execFaultQueueRetry (.packet k), execUndeliveredReturn k]
  | .lane _ _ _ => [execDataReturnRequest k, execFaultQueueRetry (.packet k), execUndeliveredReturn k]
  | .vldf _ _ => [execDataReturnRequest k, execFaultQueueRetry (.packet k), execUndeliveredReturn k]
  | .store _ _ => [execStorePerform p.src k, execFaultQueueRetry (.packet k), execUndeliveredReturn k]
  | .word _ => [execStorePerform p.src k, execFaultQueueRetry (.packet k), execUndeliveredReturn k]
  | .stf _ _ _ => [execStorePerform p.src k, execFaultQueueRetry (.packet k), execUndeliveredReturn k]
  | .amo _ _ _ _ => [execAtomicPerform k, execFaultQueueRetry (.packet k), execUndeliveredReturn k]
  | .post _ _ _ => [execPostedOperation k, execFaultQueueRetry (.packet k), execUndeliveredReturn k]
  | .hot _ => [execPostedOperation k, execFaultQueueRetry (.packet k), execUndeliveredReturn k]
  | .hotTest _ _ _ _ _ _ => [execPostedOperation k, execFaultQueueRetry (.packet k), execUndeliveredReturn k]
  | .record => [execLaunchAccept k, execFaultQueueRetry (.packet k), execUndeliveredReturn k]
  | .taskDec _ => [execDependentTaskDecrement k, execFaultQueueRetry (.packet k), execUndeliveredReturn k]
  | .joinInc => [execJoinCellIncrement k, execFaultQueueRetry (.packet k), execUndeliveredReturn k]
  | .joinDec => [execJoinCellDecrement k, execFaultQueueRetry (.packet k), execUndeliveredReturn k]
  | .marker _ => [execFenceMarker k, execUndeliveredReturn k]
  | .tlbInv _ => [execTlbInvalidateRequest k, execUndeliveredReturn k]
  | .flock _ _ _ _ _ _ _ => [execFlockRequest k, execFaultQueueRetry (.packet k), execUndeliveredReturn k]
  | .spread => [execSpreadEntryFetch k, execFaultQueueRetry (.packet k), execUndeliveredReturn k]
  | .result _ _ _ long _ => [if long then execLongLatencyResult k else execLoadReply k, execUndeliveredReturn k]
  | .vresult _ _ => [execLongLatencyResult k]
  | .soloG _ _ _ => [execSoloResultArrival k]
  | .soloV _ _ => [execSoloResultArrival k]
  | .migrate _ => [execMigrationArrival k, execMigrationRetry k, execUndeliveredReturn k]
  | .displace _ _ => [execMigrationArrival k, execMigrationRetry k, execUndeliveredReturn k]
  | .ready _ _ _ => [execFlockRequest k, execUndeliveredReturn k]
  | .msg _ => [execMessageDelivery k, execMessageRetry k, execUndeliveredReturn k]

/-- The events of a core with a number of packets in flight. -/
def Core.moves (c : Core) (l : Loc) (n : Nat) : List Meaning :=
  (if c.sb.isEmpty then [] else [execStorePerform l n]) ++ (if c.spill.isEmpty then [] else [execSpillRingTakeFrame l]) ++
  (if c.trapq.isEmpty then [] else (List.range 8).map fun i => execTrapQueueEntry l i) ++
  (if c.fifo.isEmpty then [] else [execFrameReadyBind l])

/-- The events of a frame in a long wait, and of its slot. -/
def Frame.moves (f : Frame) (k : Nat) (slot : Option Nat) : List Meaning :=
  let l := keyLoc k
  let n := keyFrame k
  let unbind : List Meaning := match slot with | some i => [execLongWaitUnbind l i] | none => []
  if !f.used then []
  else match f.wait with
    | some (.depart _ _) => [execDeparture l n] ++ unbind
    | some (.displaced _ _ _) => [execDeparture l n]
    | some (.queued _) => [execFaultQueueRetry (.thread l n)] ++ unbind
    | some (.join _) => [execJoinComplete l n] ++ unbind
    | some .next => [execNextRescan l n] ++ unbind
    | some (.sleep _) => [execSleepExpiry l n] ++ unbind
    | some .lease => [execLeaseRearbitration (Loc.pav l)] ++ unbind
    | some (.pushPort .qpav) => [execLeaseRearbitration (Loc.pav l)] ++ unbind
    | some _ => unbind
    | none => []

/-- The rows that can take a value pushed to an engine. -/
def Eng.moves : Eng → List Meaning
  | .pavilion p => [execMma { pav := p }, execSheafFwd { pav := p }, execSheafBwd p]
  | .barrow q => [execCopy2d q, execCopyIdx q, execExpand24 q, execCompact24 q, execConvert q, execFill q]
  | .gleaner l => [execGather l, execGatherPool l, execScatterAdd l, execChain l, execRoute l]
  | .trellis q => [execWalk q]

/-- The events of an accepted command at a clk. The completion of one that has run, and a walk that pauses, wait some
clk, so that others meet its tiles and locks. -/
def Cmd.moves (c : Cmd) (clk : Nat) : List Meaning :=
  match c.phase with
  | .waiting =>
    if c.walk.isSome && decide (clk < c.since + 128) then []
    else [execEngineCommandStart { id := c.id }] ++ (match c.eng with | .trellis q => [execWalkerStepLimit q] | _ => [])
  | .done _ _ => if c.since + 128 ≤ clk then [execEngineCommandComplete c.id] else []
  | _ => []

/-- Every event that the state can bring about of itself, packets first. Ticks of the clock and what comes from outside
are not among them. -/
def State.moves (s : State) : List Meaning :=
  (s.net.zipIdx.flatMap fun e => e.1.moves e.2) ++
  (s.words.map fun w => if w.2.2 then execDeny w.1 w.2.1 else execRetry w.1 w.2.1) ++
  ((List.range s.evq.length).map fun i => execEventRetry i) ++
  (s.cores.flatMap fun (e : Nat × Core) => e.2.moves e.1 s.net.length) ++
  (s.frames.flatMap fun (e : Nat × Frame) => e.2.moves e.1 (s.slotOf e.1)) ++
  (s.pushes.flatMap fun p => Eng.moves p.eng) ++ (s.cmds.flatMap fun c => c.moves s.clk) ++
  ((List.range s.barriers.length).map fun i => execBarrierPhaseComplete i) ++ (s.gangs.map fun g => execGangFormation g.id) ++
  (s.holds.flatMap fun h => if h.late then [execFlockLateWindowEnd h.home h.id] else [execFlockTimerExpiry h.home h.id]) ++
  (s.launches.flatMap fun x => [execLaunchStart x.mod x.id, execLaunchCompletion x.mod x.id]) ++
  (s.mods.flatMap fun (e : Nat × Module) => (List.range 16).flatMap fun w =>
    if (e.2.windows.toList.getD w {}).enable then [execReductionStepMerge e.1 w] else [])

/-- What the first of these events that is due leaves. -/
def State.firstMove (s : State) : List Meaning → Option State
  | [] => none
  | i :: r =>
    match i s with
    | .next t => if t.note = .moved then some t else s.firstMove r
    | _ => s.firstMove r

/-- A core has a slot that may be tried at this clk. -/
def State.mayIssue (s : State) (l : Loc) : Bool :=
  (List.range 8).any fun n => match ((s.core l).slot n).bound with | some f => s.mayTry l n f | none => false

/-- The core that issues next: those that may take turns by the clk. -/
def State.nextCore (s : State) : Option Loc :=
  let cs := (s.cores.filter fun (e : Nat × Core) => s.mayIssue e.1).map fun e => e.1
  cs[s.clk / 2 % max 1 cs.length]?

/-- The first due event of those that the state can bring about, by a search that starts at another one every second
clk, so that none waits for ever. -/
def State.nextMove (s : State) : Option State :=
  let l := s.moves
  s.firstMove (l.rotateLeft (s.clk / 2))

/-- A step that State.turns does not name: an event that is due, or a core's next issue. They take turns by the clk. -/
def State.default (s : State) : Host.Outcome State Fault Refusal :=
  let s := { s with clk := s.clk + 1 }
  match s.nextCore with
  | none => match s.nextMove with | some t => .next t | none => .next { s with note := .idle }
  | some l =>
    if s.clk % 2 = 1 then s.issueAt l
    else match s.nextMove with | some t => .next t | none => s.issueAt l

/-! ## A program loaded from outside (log entry 3) -/

/-- The DM address at which withFetchWord puts its word. -/
def loadedAt : Word := 0x10000

/-- The thread that runs a loaded word: supervisor and anchored, with every register 0 and full. -/
def loadedThread (uid : Nat) : Frame := { used := true, uid := uid, tstat := 3, pc := loadedAt }

/-- A root block and one 1 GiB leaf map die 0's first GiB at the DM addresses from 0; the word's bytes stand at
loadedAt, and frame 0 of core 0 holds the thread, bound to slot 0, whose turn is next. -/
def State.loadWord (s : State) (b : List Byte) : State :=
  let uid := s.nextId
  let s := (s.poke 0x40 (bytesOf 8 0x4000)).poke 0x4000 (bytesOf 8 0x4F)
  let s := (s.poke loadedAt.toNat b).updDie 0 fun d => { d with ptroot := 0x41 }
  let s := { s with homes := s.homes.filter fun e => decide (64 ≤ e.1) }
  let s := (s.updModule 0 fun x => { x with power := true }).setFrame 0 (loadedThread uid)
  let s := s.updCore 0 fun c =>
    { c.updSlot 0 (fun x => { x with enabled := true, bound := some 0, ibuf := [], rf := none, tsb := [], next := 0, draining := false }) with
      fallow := false, rr := 0 }
  { s with gangs := [], bad := [], nextId := uid + 1, turns := [{ clks := 1, who := .issue 0 }] }

end Sys2Proof.Machine
end

