-- ==== Sys2Proof/Machine/Step.lean ====
section
/-! DEFINITION. One step of the machine. -/

namespace Sys2Proof.Machine

open Sys2Proof

/-- One step: the next turn of the schedule, at least one clk on from the last (log entry 2), or the model's own choice
where the schedule is empty. With no turn left
and no module under power the machine stands (log entry 1). -/
def step (s : State) : Host.Outcome State Fault Refusal :=
  match s.turns with
  | t :: r => { s with turns := r, clk := s.clk + max 1 t.clks }.move t.who
  | [] => if s.mods.any fun e => e.2.power then s.default else .fault .powerOff

/-- The state with an instruction of the table where the next step fetches it. -/
def State.withFetchWord (s : State) (nbits w : Nat) : State := s.loadWord (wordBytes (BitVec.ofNat 32 (w % 2 ^ nbits)))

end Sys2Proof.Machine
end

