-- ==== Sys2Proof/Safety.lean ====
section
/-! DEFINITION. The terms in which claims about the machine are stated: what every state keeps, what an operand gives
and takes, and how an instruction of one thread ends. -/

namespace Sys2Proof.Machine

open Sys2Proof

/-- Memory keeps its canonical form: rising addresses, and no entry that an unlisted address would read as. -/
def State.memOk (s : State) : Prop := Memory.wf s.mem = true

end Sys2Proof.Machine

namespace Sys2Proof.Claims

open Sys2Proof Sys2Proof.Machine

/-- The thread in issue is in no gang, so its instruction is its own affair (R71, R73). -/
def Alone (s : State) : Prop := s.gangOf s.me = none ∧ s.cur.fan = []

/-- R178: the thread may name the register: `qevt` needs supervisor rights, and a light thread names no engine port
but `qgln`. -/
def mayName (f : Frame) : Reg → Bool
  | .port .qevt => f.priv
  | .port .qpav => f.anch
  | .port .qcpy => f.anch
  | .port .qtrl => f.anch
  | _ => true

/-- What a source gives, and the state with a popped word gone: `z` reads 0, a general register its value when it is
full and not poisoned, a port its oldest word (R177, R179, R215). -/
def gives (s : State) : Reg → Option (Word × State)
  | .z => some (0, s)
  | .g n => if s.my.full.getLsbD n && !s.my.poisoned.getLsbD n then some (s.my.g[n], s) else none
  | .port p => s.pop p

/-- The state that a port leaves which takes a pushed word: an engine port with room, `qpav` only for the holder of the
lease, `qmsg` always, `qevt` a resolution (R80, R128, R179, R307, R309). An idempotent task's stores drain first (R68). -/
def pushed (s : State) (p : Port) (v : Word) : Option State :=
  let s := s.drain s.me
  match p with
  | .qmsg => some (s.sendMsg v)
  | .qevt => (resolution s.cur.loc v).map fun w => { s with words := s.words ++ [w] }
  | .qpav =>
    if (s.lease (Loc.pav s.cur.loc)).holder = some s.my.uid ∧ (s.lease (Loc.pav s.cur.loc)).left ≠ 0 ∧
        s.portRoom .pav then
      some ((s.updLease (Loc.pav s.cur.loc) fun x => { x with left := x.left - 1 }).pushCmd .pav v)
    else none
  | .qcpy => if s.portRoom .cpy then some (s.pushCmd .cpy v) else none
  | .qgln => if s.portRoom .gln then some (s.pushCmd .gln v) else none
  | .qtrl => if s.portRoom .trl then some (s.pushCmd .trl v) else none

/-- No earlier result is on its way to the register: it is full, or nothing under way brings it a value (R215, R216,
R256). -/
def settled (s : State) : Reg → Bool
  | .g n => s.my.full.getLsbD n || !s.owed s.me n
  | _ => true

/-- What a result leaves: `z` discards it, a general register is full and holds it, unpoisoned and of good parity, once no
earlier result is on its way there, and a port takes it (R177, R215, R362). -/
def takes (s : State) (d : Reg) (v : Word) : Option State :=
  match d with
  | .z => some s
  | .g n =>
    if settled s (.g n) then
      some (s.updMy fun f =>
        { f with g := f.g.set n v, full := f.full ||| BitVec.twoPow 16 n, poisoned := f.poisoned &&& ~~~(BitVec.twoPow 16 n)
                 par := { f.par with g := f.par.g &&& ~~~(BitVec.twoPow 16 n) } })
    else none
  | .port p => pushed s p v

/-- What a poisoned result leaves: the register reads 0 and is poisoned, and `z` discards it (R254). -/
def takesPoison (s : State) (d : Reg) : Option State :=
  match d with
  | .g n =>
    if settled s (.g n) then
      some (s.updMy fun f =>
        { f with g := f.g.set n 0, full := f.full ||| BitVec.twoPow 16 n, poisoned := f.poisoned ||| BitVec.twoPow 16 n
                 par := { f.par with g := f.par.g &&& ~~~(BitVec.twoPow 16 n) } })
    else none
  | _ => some s

/-- The register goes empty until its result arrives (R216, R256). -/
def emptied (s : State) (d : Reg) : State :=
  match d with
  | .g n => s.updMy fun f => { f with full := f.full &&& ~~~(BitVec.twoPow 16 n) }
  | _ => s

/-- What the result of a long-latency instruction leaves: a general register goes empty and its result is on its way;
`z` and a port take it at once (R216). Where the sources popped a completion word, the thread's later accesses wait for
that result, as of an acquire at `.sys` (R163). -/
def takesLate (s : State) (from? : List Reg) (d : Reg) (v : Word) : Option State :=
  match d with
  | .g n =>
    if settled s d then
      some ((emptied s d).send (s.mkPkt (.result n v false true (popAcq from?)) (.core s.cur.loc) 0))
    else none
  | r => takes s r v

/-- The instruction retires and pc goes on to the next word (R41, R50, R234). -/
def retired (t : State) : State := { t.retire .seq false false with note := .retired }

/-- The instruction retires and pc goes to another word. -/
def jumped (t : State) (pc : Word) : State := { t.retire (.at pc) false false with note := .retired }

/-- The slot is held while a request of the instruction, sent now, is under way (R254, R262). -/
def held (t : State) : State := { t with note := .held }

/-- The instruction traps: none of its effects stays, and the thread enters its core's trap queue or its handler
(R11, R245, R356). -/
def trapped (s : State) (c : Cause) (va : Word) : State := { s.trapMy c va 0 with note := .trapped }

end Sys2Proof.Claims
end

