-- ==== Sys2Proof/Certificates/Slice0/Obligations.lean ====
section
/-! DEFINITION. What is claimed of the machine: the claims O1, O2, … of OBLIGATIONS.json in order, each over every
state and every operand form that its hypotheses do not name. Tables of results come before the claims they serve. -/

open Sys2Proof Sys2Proof.Machine Sys2Proof.Claims

/-! ## Integer and immediate instructions -/

namespace Sys2Proof.Claims

/-- The n low bits of an integer as a doubleword. -/
def wrap (x : Int) : Word := BitVec.ofInt 64 x

/-- 1 where a condition holds, otherwise 0. -/
def truth (p : Prop) [Decidable p] : Word := if p then 1 else 0

/-- The least i < 64 with p, otherwise 64. -/
def firstBit (p : Nat → Bool) : Word := wrap (((List.range 64).find? p).getD 64)

/-- R217's rows of two sources that complete at once: destination, sources and result. -/
def intTwo : Instr → Option (Reg × Reg × Reg × (Word → Word → Word))
  | .add d a b _ _ => some (d, a, b, fun x y => wrap (x.toNat + y.toNat))
  | .sub d a b _ _ => some (d, a, b, fun x y => wrap (x.toNat - y.toNat))
  | .and d a b _ _ => some (d, a, b, fun x y => x &&& y)
  | .or d a b _ _ => some (d, a, b, fun x y => x ||| y)
  | .xor d a b _ _ => some (d, a, b, fun x y => x ^^^ y)
  | .andn d a b _ _ => some (d, a, b, fun x y => x &&& ~~~y)
  | .sll d a b _ _ => some (d, a, b, fun x y => wrap (x.toNat * 2 ^ (y.toNat % 64)))
  | .srl d a b _ _ => some (d, a, b, fun x y => wrap (x.toNat / 2 ^ (y.toNat % 64)))
  | .sra d a b _ _ => some (d, a, b, fun x y => wrap (x.toInt / 2 ^ (y.toNat % 64)))
  | .ror d a b _ _ => some (d, a, b, fun x y => x >>> (y.toNat % 64) ||| x <<< (64 - y.toNat % 64))
  | .mul d a b _ _ => some (d, a, b, fun x y => wrap (x.toNat * y.toNat))
  | .mulh d a b _ _ => some (d, a, b, fun x y => wrap (x.toInt * y.toInt / 2 ^ 64))
  | .mulhu d a b _ _ => some (d, a, b, fun x y => wrap (x.toNat * y.toNat / 2 ^ 64))
  | .min d a b _ _ => some (d, a, b, fun x y => if x.toInt ≤ y.toInt then x else y)
  | .max d a b _ _ => some (d, a, b, fun x y => if x.toInt ≤ y.toInt then y else x)
  | .minu d a b _ _ => some (d, a, b, fun x y => if x.toNat ≤ y.toNat then x else y)
  | .maxu d a b _ _ => some (d, a, b, fun x y => if x.toNat ≤ y.toNat then y else x)
  | .cmpEq d a b _ _ => some (d, a, b, fun x y => truth (x = y))
  | .cmpNe d a b _ _ => some (d, a, b, fun x y => truth (x ≠ y))
  | .cmpLt d a b _ _ => some (d, a, b, fun x y => truth (x.toInt < y.toInt))
  | .cmpGe d a b _ _ => some (d, a, b, fun x y => truth (y.toInt ≤ x.toInt))
  | .cmpLtu d a b _ _ => some (d, a, b, fun x y => truth (x.toNat < y.toNat))
  | .cmpGeu d a b _ _ => some (d, a, b, fun x y => truth (y.toNat ≤ x.toNat))
  | .selz d a b _ _ => some (d, a, b, fun x y => if y = 0 then 0 else x)
  | .lea d a b _ _ => some (d, a, b, fun x y => (0b01#2 ++ y.extractLsb' 3 22 ++ x.extractLsb' 0 33).setWidth 64)
  | _ => none

/-- R217's unary rows and R219's immediates: destination, source and result. -/
def intOne : Instr → Option (Reg × Reg × (Word → Word))
  | .clz d a _ => some (d, a, fun x => firstBit fun i => x.getLsbD (63 - i))
  | .ctz d a _ => some (d, a, fun x => firstBit fun i => x.getLsbD i)
  | .popc d a _ => some (d, a, fun x => wrap ((List.range 64).countP fun i => x.getLsbD i))
  | .brev d a _ => some (d, a, fun x => x.reverse)
  | .bswap d a _ => some (d, a, fun x =>
      x.extractLsb' 0 8 ++ x.extractLsb' 8 8 ++ x.extractLsb' 16 8 ++ x.extractLsb' 24 8 ++
      x.extractLsb' 32 8 ++ x.extractLsb' 40 8 ++ x.extractLsb' 48 8 ++ x.extractLsb' 56 8)
  | .sextB d a _ => some (d, a, fun x => wrap (x.setWidth 8).toInt)
  | .sextH d a _ => some (d, a, fun x => wrap (x.setWidth 16).toInt)
  | .sextW d a _ => some (d, a, fun x => wrap (x.setWidth 32).toInt)
  | .zextB d a _ => some (d, a, fun x => wrap (x.toNat % 2 ^ 8))
  | .zextH d a _ => some (d, a, fun x => wrap (x.toNat % 2 ^ 16))
  | .zextW d a _ => some (d, a, fun x => wrap (x.toNat % 2 ^ 32))
  | .addi d a _ i => some (d, a, fun x => wrap (x.toInt + i.toInt))
  | .andi d a _ i => some (d, a, fun x => x &&& wrap i.toInt)
  | .ori d a _ i => some (d, a, fun x => x ||| wrap i.toInt)
  | .xori d a _ i => some (d, a, fun x => x ^^^ wrap i.toInt)
  | .muli d a _ i => some (d, a, fun x => wrap (x.toInt * i.toInt))
  | .slli d a _ n => some (d, a, fun x => wrap (x.toNat * 2 ^ n.toNat))
  | .srli d a _ n => some (d, a, fun x => wrap (x.toNat / 2 ^ n.toNat))
  | .srai d a _ n => some (d, a, fun x => wrap (x.toInt / 2 ^ n.toNat))
  | .rori d a _ n => some (d, a, fun x => x >>> n.toNat ||| x <<< (64 - n.toNat))
  | .cmpi .eq d a _ i => some (d, a, fun x => truth (x = wrap i.toInt))
  | .cmpi .ne d a _ i => some (d, a, fun x => truth (x ≠ wrap i.toInt))
  | .cmpi .lt d a _ i => some (d, a, fun x => truth (x.toInt < i.toInt))
  | .cmpi .ge d a _ i => some (d, a, fun x => truth (i.toInt ≤ x.toInt))
  | .cmpi .ltu d a _ i => some (d, a, fun x => truth (x.toNat < (wrap i.toInt).toNat))
  | .cmpi .geu d a _ i => some (d, a, fun x => truth ((wrap i.toInt).toNat ≤ x.toNat))
  | _ => none

/-- R217's division rows with the corners of R85: destination, sources and result. -/
def division : Instr → Option (Reg × Reg × Reg × (Word → Word → Word))
  | .div d a b _ _ => some (d, a, b, fun x y => if y = 0 then BitVec.allOnes 64 else wrap (x.toInt.tdiv y.toInt))
  | .divu d a b _ _ => some (d, a, b, fun x y => if y = 0 then BitVec.allOnes 64 else wrap (x.toNat / y.toNat))
  | .rem d a b _ _ => some (d, a, b, fun x y => if y = 0 then x else wrap (x.toInt.tmod y.toInt))
  | .remu d a b _ _ => some (d, a, b, fun x y => if y = 0 then x else wrap (x.toNat % y.toNat))
  | _ => none

end Sys2Proof.Claims

/-- R217, R218: an integer operation of two sources completes at once: source A, then source B, then the result to D,
and nothing else changes but what retiring changes. Every operand form is covered, ports and `z` among them. -/
def Sys2Proof.Claims.IntegerTwoSourceResults : Prop :=
  ∀ (i : Instr) (d a b : Reg) (f : Word → Word → Word) (s s1 s2 t : State) (x y : Word),
    intTwo i = some (d, a, b, f) → Alone s →
    mayName s.my d → mayName s.my a → mayName s.my b →
    gives s a = some (x, s1) → gives s1 b = some (y, s2) → takes s2 d (f x y) = some t →
    exec i s = .next (retired t)

/-- R217, R219: an integer operation of one source, the immediates among them, completes at once. -/
def Sys2Proof.Claims.IntegerOneSourceResults : Prop :=
  ∀ (i : Instr) (d a : Reg) (f : Word → Word) (s s1 t : State) (x : Word),
    intOne i = some (d, a, f) → Alone s → mayName s.my d → mayName s.my a →
    gives s a = some (x, s1) → takes s1 d (f x) = some t →
    exec i s = .next (retired t)

/-- R85, R163, R216, R217: a division empties its destination and sends its result on its way, for which the thread's later
accesses wait where a source popped a completion word; a port or `z` takes it at once. -/
def Obligations.DivisionResults : Prop :=
  ∀ (i : Instr) (d a b : Reg) (f : Word → Word → Word) (s s1 s2 t : State) (x y : Word),
    division i = some (d, a, b, f) → Alone s →
    mayName s.my d → mayName s.my a → mayName s.my b →
    gives s a = some (x, s1) → gives s1 b = some (y, s2) → takesLate s2 [a, b] d (f x y) = some t →
    exec i s = .next (retired t)

/-- R219, R220: `movi` delivers its sign-extended immediate, and `movk` replaces halfword HW of D and keeps the other
three. -/
def Sys2Proof.Claims.ConstantMoves : Prop :=
  (∀ (d : Reg) (imm : BitVec 21) (s t : State), Alone s → mayName s.my d →
    takes s d (wrap imm.toInt) = some t → exec (.movi d imm) s = .next (retired t)) ∧
  (∀ (d : Reg) (hw : BitVec 2) (imm : BitVec 16) (s t : State) (x v : Word), Alone s → d.np →
    gives s d = some (x, s) →
    (∀ j < 64, v.getLsbD j =
      if 16 * hw.toNat ≤ j ∧ j < 16 * hw.toNat + 16 then imm.getLsbD (j - 16 * hw.toNat) else x.getLsbD j) →
    takes s d v = some t → exec (.movk d hw imm) s = .next (retired t)) ∧
  (∀ w : W32, fld w.toNat 26 6 = 9 → (fld w.toNat 16 3 ≠ 0 ∨ (16 ≤ fld w.toNat 21 5 ∧ fld w.toNat 21 5 ≤ 21)) →
    decode w = .error .reserved) ∧
  (∀ w : W32, fld w.toNat 26 6 = 6 → fld w.toNat 6 7 ≠ 0 → decode w = .error .reserved) ∧
  (∀ w : W32, fld w.toNat 26 6 = 7 → 6 ≤ fld w.toNat 12 3 → decode w = .error .reserved) ∧
  decode 0x048209C8#32 = .ok (.lea (.g 4) (.g 2) (.g 1) false false) ∧
  decode 0x18A54003#32 = .ok (.srai (.g 5) (.g 5) false 3)

/-- R217-R220: the integer operations that complete at once, of two sources, of one and of none: what they deliver, with
every operand form, and nothing else changes but what retiring changes; the reserved words of SHI, CMPI and MOVK. -/
def Obligations.IntegerResults : Prop := IntegerTwoSourceResults ∧ IntegerOneSourceResults ∧ ConstantMoves

/-! ## Floating point -/

namespace Sys2Proof.Claims

/-- The rounding mode of a word's rounding code: 0 is RMODE, and 1-4 are modes 0-3 (R221, R187). -/
def modeFor (f : Frame) (r : Rnd) : Nat := match r with | .dyn => f.rmode | .rne => 0 | .rtz => 1 | .rup => 2 | .rdn => 3

/-- The low bits of a register that an operand of a format occupies (R221). -/
def low (f : Fmt) (x : Word) : Nat := x.toNat % 2 ^ f.width

/-- A result of a format, zero-extended (R221). -/
def high (f : Fmt) (n : Nat) : Word := BitVec.ofNat 64 (n % 2 ^ f.width)

/-- R222-R224: the operations of two sources that complete at once, for a thread's frame. -/
def floatTwo (fr : Frame) : Instr → Option (Reg × Reg × Reg × (Word → Word → Word))
  | .fadd f r d a b _ _ => some (d, a, b, fun x y => high (fmtOf f) ((fmtOf f).add (modeFor fr r) (low (fmtOf f) x) (low (fmtOf f) y)))
  | .fsub f r d a b _ _ => some (d, a, b, fun x y => high (fmtOf f) ((fmtOf f).sub (modeFor fr r) (low (fmtOf f) x) (low (fmtOf f) y)))
  | .fmul f r d a b _ _ => some (d, a, b, fun x y => high (fmtOf f) ((fmtOf f).mul (modeFor fr r) (low (fmtOf f) x) (low (fmtOf f) y)))
  | .fcmpEq f d a b _ _ => some (d, a, b, fun x y => truth ((fmtOf f).test (· == .eq) (low (fmtOf f) x) (low (fmtOf f) y) = true))
  | .fcmpLt f d a b _ _ => some (d, a, b, fun x y => truth ((fmtOf f).test (· == .lt) (low (fmtOf f) x) (low (fmtOf f) y) = true))
  | .fcmpLe f d a b _ _ => some (d, a, b, fun x y => truth ((fmtOf f).test (· != .gt) (low (fmtOf f) x) (low (fmtOf f) y) = true))
  | .fcmpUn f d a b _ _ => some (d, a, b, fun x y =>
      truth ((fmtOf f).isNaN (low (fmtOf f) x) = true ∨ (fmtOf f).isNaN (low (fmtOf f) y) = true))
  | .fmin f d a b _ _ => some (d, a, b, fun x y => high (fmtOf f) ((fmtOf f).minmax false (low (fmtOf f) x) (low (fmtOf f) y)))
  | .fmax f d a b _ _ => some (d, a, b, fun x y => high (fmtOf f) ((fmtOf f).minmax true (low (fmtOf f) x) (low (fmtOf f) y)))
  | .fsgnj f d a b _ _ => some (d, a, b, fun x y => high (fmtOf f) ((fmtOf f).sgnj (low (fmtOf f) x) (low (fmtOf f) y)))
  | _ => none

/-- R224, R225, R227: the operations of one source that complete at once. -/
def floatOne (fr : Frame) : Instr → Option (Reg × Reg × (Word → Word))
  | .fabs f d a _ => some (d, a, fun x => high (fmtOf f) ((fmtOf f).abs (low (fmtOf f) x)))
  | .fneg f d a _ => some (d, a, fun x => high (fmtOf f) ((fmtOf f).flip (low (fmtOf f) x)))
  | .fclass f d a _ => some (d, a, fun x => BitVec.twoPow 64 ((fmtOf f).classOf (low (fmtOf f) x)))
  | .fcvt tt st r d a _ => some (d, a, fun x =>
      let n := cvtCode tt (modeFor fr r) (cvtValue st x.toNat)
      if tt = .i32 then wrap (BitVec.ofNat 32 n).toInt else BitVec.ofNat 64 (n % 2 ^ cvtWidth tt))
  | _ => none

/-- R226: product and addend signs of the fused operations. -/
def fused : Instr → Option (Bool × Bool × FFmt × Rnd × Reg × Reg × Reg)
  | .fma f r d a b _ _ => some (false, false, f, r, d, a, b)
  | .fms f r d a b _ _ => some (false, true, f, r, d, a, b)
  | .fnma f r d a b _ _ => some (true, false, f, r, d, a, b)
  | .fnms f r d a b _ _ => some (true, true, f, r, d, a, b)
  | _ => none

/-- The four formats of FN[10:9] as they stand in R86: exponent bits and fraction bits. -/
def ieee (f : Fmt) : Prop := f = ⟨11, 52⟩ ∨ f = ⟨8, 23⟩ ∨ f = ⟨5, 10⟩ ∨ f = ⟨8, 7⟩

/-- The finite value of a code as a rational number, none for NaN and infinity. -/
def rational : FVal → Option ℚ
  | .fin s m e => some ((if s then -1 else 1) * m * 2 ^ e)
  | _ => none

end Sys2Proof.Claims

/-- R221-R227: a floating-point operation that delivers at once reads A, then B, and writes D; nothing else changes but
what retiring changes. -/
def Sys2Proof.Claims.FloatResultsAtOnce : Prop :=
  (∀ (i : Instr) (d a b : Reg) (f : Word → Word → Word) (s t : State) (x y : Word), i.wf → Alone s →
    floatTwo s.my i = some (d, a, b, f) → gives s a = some (x, s) → gives s b = some (y, s) →
    takes s d (f x y) = some t → exec i s = .next (retired t)) ∧
  (∀ (i : Instr) (d a : Reg) (f : Word → Word) (s t : State) (x : Word), i.wf → Alone s →
    floatOne s.my i = some (d, a, f) → gives s a = some (x, s) → takes s d (f x) = some t →
    exec i s = .next (retired t)) ∧
  (∀ (i : Instr) (np nd : Bool) (f : FFmt) (r : Rnd) (d a b : Reg) (s t : State) (x y z : Word), i.wf → Alone s →
    fused i = some (np, nd, f, r, d, a, b) → gives s a = some (x, s) → gives s b = some (y, s) → gives s d = some (z, s) →
    takes s d (high (fmtOf f) ((fmtOf f).fma (modeFor s.my r) np nd (low (fmtOf f) x) (low (fmtOf f) y) (low (fmtOf f) z))) = some t →
    exec i s = .next (retired t))

/-- R216, R222: `fdiv` and `fsqrt` empty their destination, and the rounded result is on its way. -/
def Sys2Proof.Claims.FloatingPointLateResults : Prop :=
  (∀ (f : FFmt) (r : Rnd) (d a b : Reg) (ta tb : Bool) (s t : State) (x y : Word), d.np → a.np → b.np → Alone s →
    gives s a = some (x, s) → gives s b = some (y, s) →
    takesLate s [a, b] d (high (fmtOf f) ((fmtOf f).div (modeFor s.my r) (low (fmtOf f) x) (low (fmtOf f) y))) = some t →
    exec (.fdiv f r d a b ta tb) s = .next (retired t)) ∧
  (∀ (f : FFmt) (r : Rnd) (d a : Reg) (ta : Bool) (s t : State) (x : Word), d.np → a.np → Alone s →
    gives s a = some (x, s) →
    takesLate s [a] d (high (fmtOf f) ((fmtOf f).sqrt (modeFor s.my r) (low (fmtOf f) x))) = some t →
    exec (.fsqrt f r d a ta) s = .next (retired t))

/-- R216, R221-R227: the results of the floating-point instructions, those that deliver at once and those that come late. -/
def Obligations.FloatingPointResults : Prop := FloatResultsAtOnce ∧ FloatingPointLateResults

/-- R88: the minimum and maximum are the operand that is no NaN, or A made quiet when both are NaN, and order −0 below +0;
the compares `eq`, `lt` and `le` are false with a NaN, and −0 equals +0. -/
def Obligations.MinMaxAndCompareRules : Prop :=
  ∀ (f : Fmt) (x y : Nat), ieee f → x < 2 ^ f.width → y < 2 ^ f.width →
    (f.isNaN x → !f.isNaN y → f.minmax false x y = y ∧ f.minmax true x y = y) ∧
    (!f.isNaN x → f.isNaN y → f.minmax false x y = x ∧ f.minmax true x y = x) ∧
    (f.isNaN x → f.isNaN y → f.minmax false x y = x ||| f.quiet ∧ f.minmax true x y = x ||| f.quiet) ∧
    (f.minmax false f.signBit 0 = f.signBit ∧ f.minmax false 0 f.signBit = f.signBit ∧
      f.minmax true f.signBit 0 = 0 ∧ f.minmax true 0 f.signBit = 0) ∧
    (∀ u v, rational (f.value x) = some u → rational (f.value y) = some v → u < v →
      f.minmax false x y = x ∧ f.minmax false y x = x ∧ f.minmax true x y = y ∧ f.minmax true y x = y) ∧
    (∀ p, f.isNaN x ∨ f.isNaN y → f.test p x y = false) ∧
    (∀ u v, rational (f.value x) = some u → rational (f.value y) = some v →
      f.test (· == .eq) x y = decide (u = v) ∧ f.test (· == .lt) x y = decide (u < v) ∧
      f.test (· != .gt) x y = decide (u ≤ v))

/-- R87: the first NaN operand in the order A, B, D comes out, made quiet, whatever the mode; with no NaN operand the
invalid operations give the default NaN, and a non-zero number divided by zero gives an infinity. -/
def Obligations.NanRules : Prop :=
  ∀ (f : Fmt) (mode x y z : Nat) (np nd : Bool), ieee f → x < 2 ^ f.width → y < 2 ^ f.width → z < 2 ^ f.width →
    (f.isNaN x → f.add mode x y = x ||| f.quiet ∧ f.sub mode x y = x ||| f.quiet ∧ f.mul mode x y = x ||| f.quiet ∧
      f.div mode x y = x ||| f.quiet ∧ f.sqrt mode x = x ||| f.quiet ∧ f.fma mode np nd x y z = x ||| f.quiet) ∧
    (!f.isNaN x → f.isNaN y → f.add mode x y = y ||| f.quiet ∧ f.sub mode x y = y ||| f.quiet ∧
      f.mul mode x y = y ||| f.quiet ∧ f.div mode x y = y ||| f.quiet ∧ f.fma mode np nd x y z = y ||| f.quiet) ∧
    (!f.isNaN x → !f.isNaN y → f.isNaN z → f.fma mode np nd x y z = z ||| f.quiet) ∧
    (f.add mode f.infBits (f.infBits + f.signBit) = f.defNaN ∧ f.sub mode f.infBits f.infBits = f.defNaN ∧
      f.mul mode 0 f.infBits = f.defNaN ∧ f.div mode 0 0 = f.defNaN ∧ f.div mode f.infBits f.infBits = f.defNaN) ∧
    (!f.isNaN x → f.signBit < x → f.sqrt mode x = f.defNaN) ∧
    (∀ u, rational (f.value x) = some u → u ≠ 0 →
      f.div mode x 0 = f.infBits + (if f.signBit ≤ x then f.signBit else 0) ∧
      f.div mode x f.signBit = f.infBits + (if f.signBit ≤ x then 0 else f.signBit))

/-- R89: an exact zero sum or difference keeps the sign of two zeros of one sign (a subtraction turns the second's sign over),
and is otherwise +0, or −0 under RDN. -/
def Obligations.ZeroSumSigns : Prop :=
  ∀ (f : Fmt) (mode x y : Nat) (u : ℚ), ieee f → x < 2 ^ f.width → y < 2 ^ f.width →
    rational (f.value x) = some u →
    (rational (f.value y) = some (-u) → f.add mode x y =
      if u = 0 ∧ (f.signBit ≤ x ↔ f.signBit ≤ y) then x else if mode = 3 then f.signBit else 0) ∧
    (rational (f.value y) = some u → f.sub mode x y =
      if u = 0 ∧ (f.signBit ≤ x ↔ y < f.signBit) then x else if mode = 3 then f.signBit else 0)

/-- R86, R97: a value that a format holds is converted to that format unchanged, whatever the mode. -/
def Sys2Proof.Claims.FormatHoldsItsValues : Prop :=
  ∀ (f : Fmt) (mode x : Nat), ieee f → x < 2 ^ f.width → f.isNaN x = false → f.code mode (f.value x) = x

/-- R96, R97: rounding of a value v that lies between two neighbouring finite codes of a format gives one of the two: RTZ
the one toward zero, RUP the upper and RDN the lower, and RNE the nearer one, the even code on a tie. -/
def Sys2Proof.Claims.RoundingPicksTheNeighbour : Prop :=
  ∀ (f : Fmt) (mode n m : Nat) (e : Int) (lo hi v : ℚ), ieee f → n + 1 < f.infBits → mode < 4 →
    rational (f.value n) = some lo → rational (f.value (n + 1)) = some hi →
    v = m * 2 ^ e → lo < v → v < hi →
    f.code mode (.fin false m e) =
      (if mode = 2 ∨ (mode = 0 ∧ (hi - v < v - lo ∨ (hi - v = v - lo ∧ n % 2 = 1))) then n + 1 else n) ∧
    f.code mode (.fin true m e) = f.signBit +
      (if mode = 3 ∨ (mode = 0 ∧ (hi - v < v - lo ∨ (hi - v = v - lo ∧ n % 2 = 1))) then n + 1 else n)

namespace Sys2Proof.Claims

/-- The magnitude of step n on a format's grid of subnormals and normals, the exponents going on without an upper limit
(R86, R97). -/
def gridValue (f : Fmt) (n : Nat) : ℚ :=
  if n / 2 ^ f.fw = 0 then n * 2 ^ f.qmin else (2 ^ f.fw + n % 2 ^ f.fw : Nat) * 2 ^ (f.qmin + (n / 2 ^ f.fw : Nat) - 1)

/-- R96, R97: the code of a non-zero real number rounded once: the step of the grid below its magnitude or the next one, as
the mode names it, and beyond the largest finite value what the mode gives on overflow. -/
def Rounds (f : Fmt) (mode : Nat) (v : ℝ) (code : Nat) : Prop :=
  ∃ n r : Nat, (gridValue f n : ℝ) ≤ |v| ∧ |v| < gridValue f (n + 1) ∧
    let below := |v| - gridValue f n
    let above := gridValue f (n + 1) - |v|
    let up := below ≠ 0 ∧ (mode = 2 ∧ 0 < v ∨ mode = 3 ∧ v < 0 ∨ mode = 0 ∧ (above < below ∨ (above = below ∧ n % 2 = 1)))
    (up → r = n + 1) ∧ (¬up → r = n) ∧
    let b := if r < f.infBits then r
      else if mode = 0 then f.infBits
      else if mode = 1 then f.infBits - 1
      else f.infBits
    let low := f.infBits - 1
    (0 < v → code = if mode = 3 ∧ f.infBits ≤ r then low else b) ∧
    (v < 0 → code = f.signBit + if mode = 2 ∧ f.infBits ≤ r then low else b)

/-- The sign bit of a code is set. -/
def minus (f : Fmt) (x : Nat) : Bool := decide (f.signBit ≤ x)

end Sys2Proof.Claims

/-- R86, R87, R89, R96, R97, R222, R226: on finite operands `fadd`, `fsub`, `fmul`, `fdiv`, `fsqrt` and the fused forms give
the exact result rounded once, its overflow by the mode; a zero product or quotient has the sign of its operands' signs, the
square root of a zero is that zero, and a zero fused sum has the sign of R89. -/
def Sys2Proof.Claims.ExactResultRoundedOnce : Prop :=
  ∀ (f : Fmt) (mode x y z : Nat) (np nd : Bool) (u v w : ℚ), ieee f → mode < 4 →
    x < 2 ^ f.width → y < 2 ^ f.width → z < 2 ^ f.width →
    rational (f.value x) = some u → rational (f.value y) = some v → rational (f.value z) = some w →
    (u + v ≠ 0 → Rounds f mode ((u + v : ℚ) : ℝ) (f.add mode x y)) ∧
    (u - v ≠ 0 → Rounds f mode ((u - v : ℚ) : ℝ) (f.sub mode x y)) ∧
    (u * v ≠ 0 → Rounds f mode ((u * v : ℚ) : ℝ) (f.mul mode x y)) ∧
    (u ≠ 0 → v ≠ 0 → Rounds f mode ((u / v : ℚ) : ℝ) (f.div mode x y)) ∧
    (0 < u → Rounds f mode (Real.sqrt (u : ℝ)) (f.sqrt mode x)) ∧
    (∀ p q : ℚ, p = (if np then -(u * v) else u * v) → q = (if nd then -w else w) →
      (p + q ≠ 0 → Rounds f mode ((p + q : ℚ) : ℝ) (f.fma mode np nd x y z)) ∧
      (p + q = 0 → f.fma mode np nd x y z =
        let sp := (minus f x != minus f y) != np
        let sq := minus f z != nd
        if (if p = 0 ∧ sp = sq then sp else mode == 3) then f.signBit else 0)) ∧
    (u * v = 0 → f.mul mode x y = if minus f x = minus f y then 0 else f.signBit) ∧
    (u = 0 → v ≠ 0 → f.div mode x y = if minus f x = minus f y then 0 else f.signBit) ∧
    (u = 0 → f.sqrt mode x = x)

/-- R86, R87, R89, R96, R97, R222, R226: rounding to a format: a value that it holds stays, and one between two neighbours
becomes the one that the mode names; and what the arithmetic of `FloatingPointResults` gives on finite operands is its exact
result rounded once. -/
def Obligations.RoundingOfValues : Prop := FormatHoldsItsValues ∧ RoundingPicksTheNeighbour ∧ ExactResultRoundedOnce

/-! ## Operands and frames -/

namespace Sys2Proof.Claims

/-- The registers that an integer, immediate, floating-point or conversion instruction names: destination, then sources
in the order of R183 with their trap bits. Late results are DivisionResults' and FloatingPointLateResults'. -/
def registerForm (i : Instr) : Option (Reg × List (Reg × Bool)) :=
  match i with
  | .add d a b p q => some (d, [(a, p), (b, q)])
  | .sub d a b p q => some (d, [(a, p), (b, q)])
  | .and d a b p q => some (d, [(a, p), (b, q)])
  | .or d a b p q => some (d, [(a, p), (b, q)])
  | .xor d a b p q => some (d, [(a, p), (b, q)])
  | .andn d a b p q => some (d, [(a, p), (b, q)])
  | .sll d a b p q => some (d, [(a, p), (b, q)])
  | .srl d a b p q => some (d, [(a, p), (b, q)])
  | .sra d a b p q => some (d, [(a, p), (b, q)])
  | .ror d a b p q => some (d, [(a, p), (b, q)])
  | .mul d a b p q => some (d, [(a, p), (b, q)])
  | .mulh d a b p q => some (d, [(a, p), (b, q)])
  | .mulhu d a b p q => some (d, [(a, p), (b, q)])
  | .div d a b p q => some (d, [(a, p), (b, q)])
  | .divu d a b p q => some (d, [(a, p), (b, q)])
  | .rem d a b p q => some (d, [(a, p), (b, q)])
  | .remu d a b p q => some (d, [(a, p), (b, q)])
  | .min d a b p q => some (d, [(a, p), (b, q)])
  | .max d a b p q => some (d, [(a, p), (b, q)])
  | .minu d a b p q => some (d, [(a, p), (b, q)])
  | .maxu d a b p q => some (d, [(a, p), (b, q)])
  | .cmpEq d a b p q => some (d, [(a, p), (b, q)])
  | .cmpNe d a b p q => some (d, [(a, p), (b, q)])
  | .cmpLt d a b p q => some (d, [(a, p), (b, q)])
  | .cmpGe d a b p q => some (d, [(a, p), (b, q)])
  | .cmpLtu d a b p q => some (d, [(a, p), (b, q)])
  | .cmpGeu d a b p q => some (d, [(a, p), (b, q)])
  | .selz d a b p q => some (d, [(a, p), (b, q)])
  | .lea d a b p q => some (d, [(a, p), (b, q)])
  | .clz d a p => some (d, [(a, p)])
  | .ctz d a p => some (d, [(a, p)])
  | .popc d a p => some (d, [(a, p)])
  | .brev d a p => some (d, [(a, p)])
  | .bswap d a p => some (d, [(a, p)])
  | .sextB d a p => some (d, [(a, p)])
  | .sextH d a p => some (d, [(a, p)])
  | .sextW d a p => some (d, [(a, p)])
  | .zextB d a p => some (d, [(a, p)])
  | .zextH d a p => some (d, [(a, p)])
  | .zextW d a p => some (d, [(a, p)])
  | .addi d a p _ => some (d, [(a, p)])
  | .andi d a p _ => some (d, [(a, p)])
  | .ori d a p _ => some (d, [(a, p)])
  | .xori d a p _ => some (d, [(a, p)])
  | .muli d a p _ => some (d, [(a, p)])
  | .slli d a p _ => some (d, [(a, p)])
  | .srli d a p _ => some (d, [(a, p)])
  | .srai d a p _ => some (d, [(a, p)])
  | .rori d a p _ => some (d, [(a, p)])
  | .cmpi _ d a p _ => some (d, [(a, p)])
  | .movi d _ => some (d, [])
  | .movk d _ _ => some (d, [(d, false)])
  | .fadd _ _ d a b p q => some (d, [(a, p), (b, q)])
  | .fsub _ _ d a b p q => some (d, [(a, p), (b, q)])
  | .fmul _ _ d a b p q => some (d, [(a, p), (b, q)])
  | .fdiv _ _ d a b p q => some (d, [(a, p), (b, q)])
  | .fsqrt _ _ d a p => some (d, [(a, p)])
  | .fcmpEq _ d a b p q => some (d, [(a, p), (b, q)])
  | .fcmpLt _ d a b p q => some (d, [(a, p), (b, q)])
  | .fcmpLe _ d a b p q => some (d, [(a, p), (b, q)])
  | .fcmpUn _ d a b p q => some (d, [(a, p), (b, q)])
  | .fmin _ d a b p q => some (d, [(a, p), (b, q)])
  | .fmax _ d a b p q => some (d, [(a, p), (b, q)])
  | .fabs _ d a p => some (d, [(a, p)])
  | .fneg _ d a p => some (d, [(a, p)])
  | .fsgnj _ d a b p q => some (d, [(a, p), (b, q)])
  | .fclass _ d a p => some (d, [(a, p)])
  | .fma _ _ d a b p q => some (d, [(a, p), (b, q), (d, false)])
  | .fms _ _ d a b p q => some (d, [(a, p), (b, q), (d, false)])
  | .fnma _ _ d a b p q => some (d, [(a, p), (b, q), (d, false)])
  | .fnms _ _ d a b p q => some (d, [(a, p), (b, q), (d, false)])
  | .fcvt _ _ _ d a p => some (d, [(a, p)])
  | _ => none

/-- Every byte of memory reads as before. -/
def SameMemory (s t : State) : Prop := ∀ a, Memory.get t.mem a = Memory.get s.mem a

end Sys2Proof.Claims

/-- R178, R183, R215: a register instruction whose first source is empty waits with no effect, or traps with
REGISTER_EMPTY where its trap bit or FE is set; a poisoned first source traps with POISON; a register that the thread may
not name traps with PRIVILEGE before anything is read. -/
def Obligations.OperandStops : Prop :=
  ∀ (i : Instr) (d a : Reg) (ta : Bool) (rest : List (Reg × Bool)) (s : State),
    registerForm i = some (d, (a, ta) :: rest) → i.wf → Alone s →
    ((mayName s.my d = false ∨ mayName s.my a = false ∨ rest.any (fun r => !mayName s.my r.1)) →
      exec i s = .next (trapped s .privilege 0)) ∧
    (mayName s.my d → mayName s.my a → rest.all (fun r => mayName s.my r.1) →
      (∀ n, a = .g n → s.my.full.getLsbD n = false → ta ∨ s.my.fe → exec i s = .next (trapped s .registerEmpty 0)) ∧
      (∀ n, a = .g n → s.my.full.getLsbD n = false → ta = false → s.my.fe = false →
        exec i s = .next { s with note := .waiting }) ∧
      (∀ n, a = .g n → s.my.full.getLsbD n → s.my.poisoned.getLsbD n → exec i s = .next (trapped s .poison 0)) ∧
      (∀ p, a = .port p → s.pop p = none → ta ∨ s.my.fe → exec i s = .next (trapped s .registerEmpty 0)) ∧
      (∀ p, a = .port p → s.pop p = none → ta = false → s.my.fe = false →
        exec i s = .next { s.updMy (fun f => f.waitFor (.popPort p) s.clk) with note := .waiting }))

/-- Frame of the register instructions: one that retires and names no port leaves every byte of memory, every other
thread, every core, queue and special register as it was; of its own thread it changes the destination, pc, the
instruction counts and the fields of `tstat` that every retirement moves (PINLEFT, SOLO, the repeat frame, LRV and LANE).
No supervisor's write of the thread's frame window waits for the instruction's end (R358; log entry 109). -/
def Obligations.RegisterInstructionFrame : Prop :=
  ∀ (i : Instr) (d : Reg) (rs : List (Reg × Bool)) (s t : State), registerForm i = some (d, rs) → i.wf → Alone s →
    d.np → rs.all (fun r => r.1.np) → s.my.late = [] → exec i s = .next t → t.note = .retired →
    { t with frames := s.frames, note := s.note, net := s.net, nextId := s.nextId } = s ∧
    (∀ k, k ≠ s.me → t.frame k = s.frame k) ∧
    (∀ n : Fin 16, d ≠ .g n → t.my.g[n] = s.my.g[n] ∧ t.my.full.getLsbD n = s.my.full.getLsbD n ∧
      t.my.poisoned.getLsbD n = s.my.poisoned.getLsbD n) ∧
    (∀ j < 64, ¬(6 ≤ j ∧ j < 15) → ¬(25 ≤ j ∧ j < 41) → t.my.tstat.getLsbD j = s.my.tstat.getLsbD j) ∧
    t.my.v = s.my.v ∧ t.my.m = s.my.m ∧ t.my.jcell = s.my.jcell ∧ t.my.hops = s.my.hops ∧ t.my.launch = s.my.launch ∧
    t.my.pav = s.my.pav ∧ t.my.cpy = s.my.cpy ∧ t.my.gln = s.my.gln ∧ t.my.trl = s.my.trl

/-! ## Control transfer, repeat frames and `solo` -/

namespace Sys2Proof.Claims

/-- The condition of a `bc` on a signed value (R229). -/
def branches (c : BrCond) (x : Word) : Prop :=
  match c with
  | .eqz => x.toInt = 0 | .nez => x.toInt ≠ 0 | .ltz => x.toInt < 0 | .gez => 0 ≤ x.toInt
  | .gtz => 0 < x.toInt | .lez => x.toInt ≤ 0 | .odd => x.toInt % 2 = 1 | .even => x.toInt % 2 = 0

end Sys2Proof.Claims

/-- R228-R230: `jl` and `jr` link and jump, `bc` jumps on its condition, and a `jr` target that is no word address
traps with MISALIGNED and the target in `trapva`. -/
def Obligations.ControlTransfers : Prop :=
  (∀ (d : Reg) (disp : BitVec 21) (s t : State), Alone s → d.np → takes s d (s.my.pc + 4) = some t →
    exec (.jl d disp) s = .next (jumped t (s.my.pc + wrap (4 * disp.toInt)))) ∧
  (∀ (c : BrCond) (a : Reg) (ta : Bool) (disp : BitVec 16) (s : State) (x : Word), Alone s → a.np →
    gives s a = some (x, s) →
    (branches c x → exec (.bc c a ta disp) s = .next (jumped s (s.my.pc + wrap (4 * disp.toInt)))) ∧
    (¬branches c x → exec (.bc c a ta disp) s = .next (retired s))) ∧
  (∀ (d a : Reg) (ta : Bool) (imm : BitVec 15) (s t : State) (x y : Word), Alone s → d.np → a.np →
    gives s a = some (x, s) → y = x + wrap imm.toInt →
    (y.toNat % 4 = 0 → takes s d (s.my.pc + 4) = some t → exec (.jr d a ta imm) s = .next (jumped t y)) ∧
    (y.toNat % 4 ≠ 0 → exec (.jr d a ta imm) s = .next (trapped s .misaligned y)))

/-- R198, R232: `repf` captures the LEN + 1 words after it and enters the frame at its first word, execution 0; the
prefix `solo` sets SOLO for the next instruction; `repf` under `solo` is FRAME_ILLEGAL and `solo` under `solo`
ILLEGAL_OPCODE. -/
def Sys2Proof.Claims.RepeatFrameAndSolo : Prop :=
  (∀ (count : BitVec 5) (len : BitVec 4) (sd sa sb : BitVec 2) (s s1 : State) (ws : List W32) (w : W32), Alone s →
    s.my.solo = false → capture s (s.my.pc + 4) (len.toNat + 1) = (s1, .ok ws) →
    encode (.repf count len sd sa sb) = some w →
    exec (.repf count len sd sa sb) s =
      .next (jumped ((s1.updSlot s1.cur.loc s1.cur.slot fun x => { x with rf := some (w :: ws) }).updMy fun f =>
        ((f.setT 26 1 1).setT 27 4 0).setT 31 5 0) (s1.my.pc + 4))) ∧
  (∀ (count : BitVec 5) (len : BitVec 4) (sd sa sb : BitVec 2) (s : State), Alone s → s.my.solo →
    exec (.repf count len sd sa sb) s = .next (trapped s .frameIllegal 0)) ∧
  (∀ (s : State), Alone s → s.my.solo = false → s.my.late = [] →
    ∃ t, exec .solo s = .next t ∧ t.note = .retired ∧ t.my.solo ∧ t.my.g = s.my.g ∧ SameMemory s t) ∧
  (∀ (s : State), Alone s → s.my.solo → exec .solo s = .next (trapped s .illegalOpcode 0))

/-! ## Migration control -/

/-- R263: `go` to the thread's own core only retires, and elsewhere waits to depart; an anchored thread traps. `pin` and `unpin` write PIN and PINLEFT; `where` and `hops` deliver the place and the hop count. -/
def Sys2Proof.Claims.MigrationControl : Prop :=
  (∀ (a : Reg) (s : State) (va : Word), Alone s → a.np → gives s a = some (va, s) →
    (s.my.anch → exec (.go a) s = .next (trapped s .privilege 0)) ∧
    (s.my.anch = false → (vaBad va ∨ spaceOf va ≠ .ls) → exec (.go a) s = .next (trapped s .protection va)) ∧
    (s.my.anch = false → vaBad va = false → spaceOf va = .ls → lsOwner va = s.cur.loc →
      exec (.go a) s = .next (retired s)) ∧
    (s.my.anch = false → vaBad va = false → spaceOf va = .ls → lsOwner va ≠ s.cur.loc →
      exec (.go a) s = .next { s.waitDepart va true with note := .waiting })) ∧
  (∀ (s : State), Alone s → s.my.late = [] →
    (∃ t, exec .pin s = .next t ∧ t.note = .retired ∧ t.my.pin ∧ t.my.pinLeft = 0 ∧ t.my.g = s.my.g ∧ SameMemory s t) ∧
    (∃ t, exec .unpin s = .next t ∧ t.note = .retired ∧ t.my.pin = false ∧ t.my.pinLeft = 0 ∧ t.my.g = s.my.g ∧
      SameMemory s t)) ∧
  (∀ (d : Reg) (s t : State), Alone s → d.np →
    (takes s d (BitVec.ofNat 64 (8 * s.cur.loc)) = some t → exec (.whereI d) s = .next (retired t)) ∧
    (takes s d (s.my.hops.setWidth 64) = some t → exec (.hops d) s = .next (retired t)))

/-- R198, R232, R263: the instructions that set up what the thread does next: `repf`, `solo`, `go`, `pin`, `unpin`, and those
that tell where it is. -/
def Obligations.ThreadStateInstructions : Prop := RepeatFrameAndSolo ∧ MigrationControl

/-! ## Loads, stores and atomics -/

namespace Sys2Proof.Claims

/-- The address of an M or MS word: the base and the displacement in units of the access size (R176). -/
def address (x : Word) (size : Nat) (disp : Int) : Word := x + wrap (disp * size)

/-- R253: an aligned access of the thread in issue to a valid address goes to home h, and no `ldq` of the thread holds
it back (R155). -/
def Reaches (s : State) (va : Word) (size : Nat) (h : Home) : Prop :=
  vaBad va = false ∧ va.toNat % size = 0 ∧ windowAt va = none ∧
  s.homeAt s.cur.loc s.my.launch s.my.lmod va = .home h ∧ s.acqHeld h va = false

/-- R253: the thread makes the access from where it is: device or host memory, its own core, a core of its region for
an anchored thread, any core for the handler, and for a light thread any core where it does not migrate, which it does
not while pinned (R49, R51). -/
def Stays (s : State) (va : Word) (h : Home) (migrates : Bool) : Prop :=
  h = .core s.cur.loc ∨ spaceOf va ≠ .ls ∨ s.cur.frame = 32 ∨ (s.my.anch ∧ s.myRegion (lsOwner va)) ∨
  (s.my.anch = false ∧ (migrates → s.my.pin ∧ (s.my.pinLeft = 0 ∨ s.my.pinOther = some (lsOwner va))))

/-- Bytes, sign and acquire scope of the plain and acquiring loads, then D, A and the displacement (R256, R259). -/
def loads : Instr → Option (Nat × Bool × Option Scope × Reg × Reg × Int)
  | .ldB d a _ i => some (1, true, none, d, a, i.toInt)
  | .ldBz d a _ i => some (1, false, none, d, a, i.toInt)
  | .ldH d a _ i => some (2, true, none, d, a, i.toInt)
  | .ldHz d a _ i => some (2, false, none, d, a, i.toInt)
  | .ldW d a _ i => some (4, true, none, d, a, i.toInt)
  | .ldWz d a _ i => some (4, false, none, d, a, i.toInt)
  | .ldD d a _ i => some (8, false, none, d, a, i.toInt)
  | .ldqW sc d a _ i => some (4, true, some sc, d, a, i.toInt)
  | .ldqD sc d a _ i => some (8, true, some sc, d, a, i.toInt)
  | _ => none

/-- Bytes and release scope of the plain and releasing stores, then D, A and the displacement (R256, R259). -/
def stores : Instr → Option (Nat × Option Scope × Reg × Reg × Int)
  | .stB d a _ i => some (1, none, d, a, i.toInt)
  | .stH d a _ i => some (2, none, d, a, i.toInt)
  | .stW d a _ i => some (4, none, d, a, i.toInt)
  | .stD d a _ i => some (8, none, d, a, i.toInt)
  | .stlW sc d a _ i => some (4, some sc, d, a, i.toInt)
  | .stlD sc d a _ i => some (8, some sc, d, a, i.toInt)
  | _ => none

/-- A value of n bytes as a load delivers it: sign-extended or zero-extended (R256). -/
def widened (n : Nat) (sgn : Bool) (x : Nat) : Word :=
  if sgn then wrap (BitVec.ofNat (8 * n) x).toInt else BitVec.ofNat 64 (x % 2 ^ (8 * n))

/-- A load's result on its way to D: the register is empty until it arrives (R256). -/
def replied (s : State) (d : Reg) (v : Word) (bad : Bool) (acq : Option Scope) : State :=
  match d with
  | .g n => (emptied s d).send ((emptied s d).mkPkt (.result n v bad false acq) (.core s.cur.loc) 0)
  | _ => s

/-- A load's request on its way to its home (R254). -/
def requested (s : State) (d : Reg) (size : Nat) (sgn : Bool) (acq : Option Scope) (h : Home) (va : Word) : State :=
  (emptied s d).send (s.mkPkt (.load size sgn (Reg.num d) acq) h va)

/-- The queue that a store enters: the slot's task store buffer under IDEM, otherwise the core's store buffer. None takes it
while earlier stores still drain into the store buffer ahead of it (R68, R152). -/
def queued (s : State) (e : SEntry) : Option State :=
  if s.pouring then none
  else if s.my.idem then
    if ((s.core s.cur.loc).slot s.cur.slot).tsb.length < 64 then some (s.enterTask e) else none
  else if (s.core s.cur.loc).sb.length < 16 then some (s.enterStore e) else none

/-- A request that holds the slot until its answer comes (R254, R262). -/
def asked (s : State) (k : PKind) (h : Home) (va : Word) : State :=
  held ((s.send (s.mkPkt k h va)).updMy fun f => { f with pend := .sent s.nextId })

/-- The byte of a page-table entry in which a walk at a home sets A and D (R124). -/
def walkByte (s : State) (h : Home) (va : Word) : Option Nat :=
  match walk s h va with
  | .leaf _ _ _ a => some a
  | _ => none

/-- The bytes of page-table entries that translating an address at a home may write: that of its walk, and that of the
walk which sets D once A is set (R124). -/
def walkBytes (s : State) (h : Home) (va : Word) : List (Option Nat) := [walkByte s h va, walkByte (s.leaf h va).1 h va]

/-- The operation, width, D, A and B of a returning atomic (R261). -/
def atomics : Instr → Option (AmoOp × Bool × Reg × Reg × Reg)
  | .amoAdd w d a b => some (.add, w, d, a, b)
  | .amoAnd w d a b => some (.and, w, d, a, b)
  | .amoOr w d a b => some (.or, w, d, a, b)
  | .amoXor w d a b => some (.xor, w, d, a, b)
  | .amoMin w d a b => some (.min, w, d, a, b)
  | .amoMax w d a b => some (.max, w, d, a, b)
  | .amoMinu w d a b => some (.minu, w, d, a, b)
  | .amoMaxu w d a b => some (.maxu, w, d, a, b)
  | .amoSwap w d a b => some (.swap, w, d, a, b)
  | .amoCas w d a b => some (.cas, w, d, a, b)
  | .amoFadd w d a b => some (.fadd, w, d, a, b)
  | .amoFmaxa w d a b => some (.fmaxa, w, d, a, b)
  | _ => none

/-- The operation, width, A and B of a posted atomic (R261). -/
def postings : Instr → Option (AmoOp × Bool × Reg × Reg)
  | .amopAdd w a b => some (.add, w, a, b)
  | .amopAnd w a b => some (.and, w, a, b)
  | .amopOr w a b => some (.or, w, a, b)
  | .amopXor w a b => some (.xor, w, a, b)
  | .amopMin w a b => some (.min, w, a, b)
  | .amopMax w a b => some (.max, w, a, b)
  | .amopMinu w a b => some (.minu, w, a, b)
  | .amopMaxu w a b => some (.maxu, w, a, b)
  | .amopFadd w a b => some (.fadd, w, a, b)
  | .amopFmaxa w a b => some (.fmaxa, w, a, b)
  | _ => none

/-- Bytes of an atomic: the `.p` forms of `fadd` and `fmaxa` work on one word (R260). -/
def atomicBytes (op : AmoOp) (dbl : Bool) : Nat := if op = .fadd ∨ op = .fmaxa then 4 else if dbl then 8 else 4

/-- The decoded loads: type, D, A and displacement (R257). -/
def decodedLoads : Instr → Option (DecTy × Reg × Reg × Int)
  | .ldfF32 d a _ i => some (.f32, d, a, i.toInt)
  | .ldfBf16 d a _ i => some (.bf16, d, a, i.toInt)
  | .ldfF64 d a _ i => some (.f64, d, a, i.toInt)
  | .ldfI32 d a _ i => some (.i32, d, a, i.toInt)
  | _ => none

/-- The decoded stores: type, D, A and displacement (R257). -/
def decodedStores : Instr → Option (DecTy × Reg × Reg × Int)
  | .stfF32 d a _ i => some (.f32, d, a, i.toInt)
  | .stfBf16 d a _ i => some (.bf16, d, a, i.toInt)
  | .stfF64 d a _ i => some (.f64, d, a, i.toInt)
  | .stfI32 d a _ i => some (.i32, d, a, i.toInt)
  | _ => none

/-- The destination that a slot-holding instruction's answer goes to (R254, R262, R271, R272). -/
def answered : Instr → Option Reg
  | .launch d _ => some d
  | .taskDec d _ => some d
  | i => match atomics i, decodedLoads i with
    | some (_, _, d, _, _), _ => some d
    | _, some (_, d, _, _) => some d
    | _, _ => none

end Sys2Proof.Claims

/-- The instruction issues again once the stores of its idempotent task have drained, and IDEM is clear (R68). -/
def drainedFirst (s : State) : State := { s.drain s.me with note := .waiting }

/-- R152, R254-R256, R259: a load marks its destination empty and retires, and either its request leaves for another
home, or its result is on its way: the newest store of the thread that covers it, or the bytes at the thread's own
core, whose checks come first. It waits for a store that it overlaps in part, one of the task store buffer draining first.
An idempotent task's stores drain before an `ldq` (R68). -/
def Sys2Proof.Claims.LoadResults : Prop :=
  ∀ (i : Instr) (n : Nat) (sgn : Bool) (acq : Option Scope) (d a : Reg) (disp : Int) (s : State) (x va : Word) (h : Home),
    loads i = some (n, sgn, acq, d, a, disp) → i.wf → Alone s → gives s a = some (x, s) → va = address x n disp →
    (acq.isSome → s.my.idem → exec i s = .next (drainedFirst s)) ∧
    (Reaches s va n h → Stays s va h true → settled s d → (acq.isSome → s.my.idem = false) →
      (h ≠ .core s.cur.loc →
        (∀ v, s.forwarded va n none = .value v → exec i s = .next (retired (replied s d (widened n sgn v) false acq))) ∧
        (s.forwarded va n none = .partly →
          exec i s = .next (if s.taskHeld s.me va n none then drainedFirst s else { s with note := .waiting })) ∧
        (s.forwarded va n none = .none → exec i s = .next (retired (requested s d n sgn acq h va)))) ∧
      (∀ (s1 : State) (p : Nat) (e : Word) (b z : Nat), h = .core s.cur.loc →
        s.check (s.myReq h va n false) = (s1, .ok p e b z) →
        (∀ v, s1.forwarded va n (some p) = .value v →
          exec i s = .next (retired (replied s1 d (widened n sgn v) false acq))) ∧
        (s1.forwarded va n (some p) = .partly →
          exec i s = .next (if s1.taskHeld s1.me va n (some p) then drainedFirst s1 else { s with note := .waiting })) ∧
        (s1.forwarded va n (some p) = .none →
          exec i s = .next (retired (
            if s1.myTurn = false then requested s1 d n sgn acq h va
            else if s1.isBad p n then replied s1 d 0 true acq
            else replied s1 d (widened n sgn (s1.num p n)) false acq)))))

/-- R152, R156, R254, R256, R259: a store reads A and then D, enters its buffer with its low bytes, and retires; at the
thread's own core it is checked first. A store of an idempotent task enters the task store buffer (R68), and an `stl`
of one drains that first. -/
def Sys2Proof.Claims.StoreResults : Prop :=
  ∀ (i : Instr) (n : Nat) (rel : Option Scope) (d a : Reg) (disp : Int) (s : State) (x y va : Word) (h : Home),
    stores i = some (n, rel, d, a, disp) → i.wf → Alone s → gives s a = some (x, s) → gives s d = some (y, s) →
    (rel.isSome → s.my.idem → exec i s = .next (drainedFirst s)) ∧
    (va = address x n disp → Reaches s va n h → Stays s va h true → (rel.isSome → s.my.idem = false) →
    (∀ t, h ≠ .core s.cur.loc → queued s (s.mkStore va n y h rel) = some t → exec i s = .next (retired t)) ∧
    (∀ (s1 t : State) (p : Nat) (e : Word) (b z : Nat), h = .core s.cur.loc →
      s.check (s.myReq h va n true) = (s1, .ok p e b z) →
      queued s1 { s1.mkStore va n y h rel with phys := some p } = some t → exec i s = .next (retired t)))

/-- R68, R152: a thread's stores drain in order, numbered anew, out of its slot's task store buffer into its core's store
buffer as far as that one's 16 places go, the rest staying in line, and IDEM is clear. -/
def Sys2Proof.Claims.DrainClearsIdem : Prop :=
  ∀ (s : State) (n : Nat), s.my.idem → s.slotOf s.me = some n → n < 8 →
    let c := s.core (keyLoc s.me)
    let t := s.drain s.me
    let d := t.core (keyLoc s.me)
    let out := numbered s.nextId (c.slot n).tsb
    t.my.idem = false ∧ (∃ added, d.sb = c.sb ++ added) ∧ (c.sb.length ≤ 16 → d.sb.length ≤ 16) ∧
    ((∀ x ∈ c.slots.toList, x.draining = false) →
      d.sb = c.sb ++ out.take (16 - c.sb.length) ∧ (d.slot n).tsb = out.drop (16 - c.sb.length) ∧
      ((d.slot n).draining ↔ 16 - c.sb.length < out.length) ∧ t.nextId = s.nextId + out.length)

/-- R68, R152, R156, R254-R256, R259: what a load and a store do when they issue, and that an idempotent task's stores drain
before its `ldq` and `stl`; that a draining buffer enters the store buffer step by step is the model's reading (log entry 47). -/
def Obligations.LoadAndStoreResults : Prop := LoadResults ∧ StoreResults ∧ DrainClearsIdem

/-- Frame of the plain loads and stores: none stores to memory when it issues (a store's bytes are written when it
performs), so every byte reads as before but the page-table bytes in which a walk at the own core sets A and D (R124).
General registers but the destination, and the special registers, stay. No supervisor's write of the thread's frame window
waits for the instruction's end (R358; log entry 109). -/
def Obligations.LoadStoreFrame : Prop :=
  ∀ (i : Instr) (d a : Reg) (x va : Word) (n : Nat) (disp : Int) (s t : State), i.wf → Alone s → s.memOk →
    s.my.late = [] →
    ((∃ sgn acq, loads i = some (n, sgn, acq, d, a, disp)) ∨ (∃ rel, stores i = some (n, rel, d, a, disp))) →
    gives s a = some (x, s) → va = address x n disp → exec i s = .next t → t.note = .retired → windowAt va = none →
    (∀ k, some k ∉ walkBytes s (.core s.cur.loc) va → Memory.get t.mem k = Memory.get s.mem k) ∧
    (∀ m : Fin 16, (∃ rel, stores i = some (n, rel, d, a, disp)) ∨ d ≠ .g m →
      t.my.g[m] = s.my.g[m] ∧ t.my.full.getLsbD m = s.my.full.getLsbD m ∧
      t.my.poisoned.getLsbD m = s.my.poisoned.getLsbD m) ∧
    t.dies = s.dies ∧ t.mods = s.mods ∧ t.launches = s.launches ∧
    (t.core s.cur.loc).trapcause = (s.core s.cur.loc).trapcause ∧ (t.core s.cur.loc).trapva = (s.core s.cur.loc).trapva ∧
    (t.core s.cur.loc).trappc = (s.core s.cur.loc).trappc ∧ (t.core s.cur.loc).ctxbase = (s.core s.cur.loc).ctxbase ∧
    (t.core s.cur.loc).evtmask = (s.core s.cur.loc).evtmask ∧ (t.core s.cur.loc).sel = (s.core s.cur.loc).sel

/-- R253: an access to an address with a forbidden bit, to a misaligned one, or by an anchored thread to a core outside
its region traps, with the address in `trapva`; a light thread that does not stay waits to depart for the owner. -/
def Obligations.AccessTraps : Prop :=
  ∀ (i : Instr) (n : Nat) (d a : Reg) (disp : Int) (s : State) (x va : Word),
    ((∃ sgn acq, loads i = some (n, sgn, acq, d, a, disp)) ∨
      (∃ rel y, stores i = some (n, rel, d, a, disp) ∧ gives s d = some (y, s))) →
    i.wf → Alone s → gives s a = some (x, s) → va = address x n disp → s.my.idem = false →
    (vaBad va → exec i s = .next (trapped s .protection va)) ∧
    (vaBad va = false → va.toNat % n ≠ 0 → exec i s = .next (trapped s .misaligned va)) ∧
    (vaBad va = false → va.toNat % n = 0 → windowAt va = none → spaceOf va = .ls → lsOwner va ≠ s.cur.loc →
      s.cur.frame ≠ 32 → s.acqHeld (.core (lsOwner va)) va = false →
      (s.my.anch → s.myRegion (lsOwner va) = false → exec i s = .next (trapped s .remoteDenied va)) ∧
      (s.my.anch = false → s.my.pin = false → exec i s = .next { s.waitDepart va false with note := .waiting }))

/-- R158, R260-R262: a posted atomic to device memory or another core retires at once with its request on its way, and
its home joins the path set; it never migrates. At the thread's own core it is checked first. -/
def Sys2Proof.Claims.PostedAtomicResults : Prop :=
  ∀ (i : Instr) (op : AmoOp) (w : Bool) (a b : Reg) (s : State) (va y : Word) (h : Home),
    postings i = some (op, w, a, b) → i.wf → Alone s → gives s a = some (va, s) → gives s b = some (y, s) →
    Reaches s va (atomicBytes op w) h → Stays s va h false → spaceOf va ≠ .host → s.my.idem = false →
    (h ≠ .core s.cur.loc → exec i s = .next (retired ((s.addPathAt h va).send (s.mkPkt (.post op w y) h va)))) ∧
    (∀ (s1 : State) (p : Nat) (e : Word) (c z : Nat), h = .core s.cur.loc →
      s.check (s.myReq h va (atomicBytes op w) true) = (s1, .ok p e c z) →
      exec i s = .next (retired ((s1.addPathAt h va).send (s1.mkPkt (.post op w y) h va))))

/-- R159, R254, R261, R262: a returning atomic issues once the thread's earlier stores and die-local loads are performed.
At its own core it reads, combines and writes in one step and delivers the old value, or poisons D where the read is
uncorrectable; elsewhere its request leaves and the slot is held. `amo.cas` reads D as its comparand. -/
def Sys2Proof.Claims.ReturningAtomicResults : Prop :=
  ∀ (i : Instr) (op : AmoOp) (w : Bool) (d a b : Reg) (s : State) (va y z : Word) (h : Home),
    atomics i = some (op, w, d, a, b) → i.wf → Alone s → s.my.pend = .idle →
    gives s a = some (va, s) → gives s b = some (y, s) → (if op = .cas then gives s d = some (z, s) else z = 0) →
    Reaches s va (atomicBytes op w) h → Stays s va h true → spaceOf va ≠ .host → s.my.idem = false →
    s.myStoresDone → s.loadsDone s.my.uid s.nextId → settled s d →
    (h ≠ .core s.cur.loc → exec i s = .next (asked (s.addPathAt h va) (.amo op w y z) h va)) ∧
    (∀ (s1 t : State) (p : Nat) (e : Word) (c n : Nat), h = .core s.cur.loc → s.ownClear →
      s.check (s.myReq h va (atomicBytes op w) true) = (s1, .ok p e c n) → s1.isBad p (atomicBytes op w) = false →
      takes ((s1.writeAt h va p (bytesOf (atomicBytes op w)
          (amoApply op w (s1.num p (atomicBytes op w)) y.toNat z.toNat))).addPath h) d
        (BitVec.ofNat 64 (s1.num p (atomicBytes op w))) = some t →
      exec i s = .next (retired t)) ∧
    (∀ (s1 t : State) (p : Nat) (e : Word) (c n : Nat), h = .core s.cur.loc → s.ownClear →
      s.check (s.myReq h va (atomicBytes op w) true) = (s1, .ok p e c n) → s1.isBad p (atomicBytes op w) →
      takesPoison s1 d = some t → exec i s = .next (retired t))

/-- R261: the new value of an atomic's location, of n = 32 or 64 bits, from the old one, B and D. -/
def Sys2Proof.Claims.AtomicOperations : Prop :=
  ∀ (w : Bool) (old b d : Nat), let n := if w then 64 else 32
    old < 2 ^ n → b < 2 ^ 64 → d < 2 ^ 64 →
    amoApply .add w old b d = (old + b) % 2 ^ n ∧ amoApply .swap w old b d = b % 2 ^ n ∧
    amoApply .and w old b d = old &&& b % 2 ^ n ∧ amoApply .or w old b d = old ||| b % 2 ^ n ∧
    amoApply .xor w old b d = old ^^^ b % 2 ^ n ∧
    amoApply .minu w old b d = min old (b % 2 ^ n) ∧ amoApply .maxu w old b d = max old (b % 2 ^ n) ∧
    (BitVec.ofNat n (amoApply .min w old b d)).toInt = min (BitVec.ofNat n old).toInt (BitVec.ofNat n b).toInt ∧
    (BitVec.ofNat n (amoApply .max w old b d)).toInt = max (BitVec.ofNat n old).toInt (BitVec.ofNat n b).toInt ∧
    amoApply .cas w old b d = (if old = d % 2 ^ n then b % 2 ^ n else old)

/-- R261: `fadd` rounds to nearest in F32, the `.p` form each BF16 half by itself, with the old value as operand A; `fmaxa`
keeps the greater magnitude and clears the sign. -/
def Sys2Proof.Claims.FloatAtomicOperations : Prop :=
  ∀ (old b d : Nat), old < 2 ^ 32 → b < 2 ^ 64 →
    let f : Fmt := ⟨8, 23⟩
    let h : Fmt := ⟨8, 7⟩
    let lo (x : Nat) : Nat := x % 2 ^ 16
    let hi (x : Nat) : Nat := x / 2 ^ 16 % 2 ^ 16
    let sum := amoApply .fadd true old b d
    let greatest := amoApply .fmaxa true old b d
    amoApply .fadd false old b d = f.add 0 old (b % 2 ^ 32) ∧ sum < 2 ^ 32 ∧
    lo sum = h.add 0 (lo old) (lo b) ∧ hi sum = h.add 0 (hi old) (hi b) ∧
    amoApply .fmaxa false old b d = max (old % 2 ^ 31) (b % 2 ^ 31) ∧ greatest < 2 ^ 32 ∧
    lo greatest = max (lo old % 2 ^ 15) (lo b % 2 ^ 15) ∧ hi greatest = max (hi old % 2 ^ 15) (hi b % 2 ^ 15)

/-- R158, R159, R260-R262: the atomics, posted and returning, and the new value that each operation gives its location. -/
def Obligations.AtomicResults : Prop :=
  PostedAtomicResults ∧ ReturningAtomicResults ∧ AtomicOperations ∧ FloatAtomicOperations

/-- R254, R257, R258, R262: a decoded load from another home leaves as a request and holds its slot; at the thread's own
core a failed check traps, and otherwise the element of its page, or what the thread's own buffered store holds of it, is
converted under RMODE and delivered; a read that is uncorrectable poisons D. A store of the thread over part of the element
or over its scale byte comes first (R152). -/
def Sys2Proof.Claims.DecodedLoads : Prop :=
  ∀ (i : Instr) (ty : DecTy) (d a : Reg) (disp : Int) (s : State) (x va : Word) (h : Home),
    decodedLoads i = some (ty, d, a, disp) → i.wf → Alone s → s.my.pend = .idle → gives s a = some (x, s) →
    va = address x (decSize ty) disp → Reaches s va 1 h → Stays s va h true → spaceOf va ≠ .host → settled s d →
    (h ≠ .core s.cur.loc → exec i s = .next (asked s (.ldf ty) h va)) ∧
    (∀ (s1 : State) (p : Nat) (e : Word) (b n : Nat), h = .core s.cur.loc →
      s.check (s.myReq h va (decSize ty) false).decoded = (s1, .ok p e b n) →
      let w := decElem (pteFmt e) (decSize ty)
      let found := decFwd s1.forwarded va p true (scalePlace e b n va p) w
      (∀ c, s1.decStop (s.myReq h va (decSize ty) false) ty e b n p = some c → exec i s = .next (trapped s c va)) ∧
      (∀ own, s1.decStop (s.myReq h va (decSize ty) false) ty e b n p = none →
        (∃ v, own = some v ∧ found = .value v) ∨
          (own = none ∧ found = .none ∧ s1.myTurn) →
        (∀ v t, decLoad s1 ty s1.my.rmode e n p (va.toNat - b) own = .ok v → takes s1 d v = some t →
          exec i s = .next (retired t)) ∧
        (∀ t, decLoad s1 ty s1.my.rmode e n p (va.toNat - b) own = .poison → takesPoison s1 d = some t →
          exec i s = .next (retired t))) ∧
      (∀ a z x, s1.decStop (s.myReq h va (decSize ty) false) ty e b n p = none → found = .after a z x →
        exec i s = .next (if s1.taskHeld s1.me a z x then drainedFirst s1 else { s with note := .waiting })))

/-- R68, R254, R257, R258, R262: a decoded store to another home leaves as a request and holds its slot, an idempotent
task's as a request for the bytes to buffer; at the thread's own core a failed check traps, and otherwise the value is
converted to the element of its page under RMODE and enters the thread's buffer, once the thread's own stores over its scale
byte are performed (R150). -/
def Sys2Proof.Claims.DecodedStores : Prop :=
  ∀ (i : Instr) (ty : DecTy) (d a : Reg) (disp : Int) (s : State) (x y va : Word) (h : Home),
    decodedStores i = some (ty, d, a, disp) → i.wf → Alone s → s.my.pend = .idle → gives s a = some (x, s) →
    gives s d = some (y, s) → va = address x (decSize ty) disp → Reaches s va 1 h → Stays s va h true →
    spaceOf va ≠ .host →
    (h ≠ .core s.cur.loc → s.my.idem → exec i s = .next (asked s (.stf ty y true) h va)) ∧
    (h ≠ .core s.cur.loc → s.my.idem = false → s.myStoresDone → s.loadsDone s.my.uid s.nextId →
      exec i s = .next (asked (s.addPathAt h va) (.stf ty y false) h va)) ∧
    (∀ (s1 : State) (p : Nat) (e : Word) (b n : Nat), h = .core s.cur.loc →
      s.check (s.myReq h va (decSize ty) true).decoded = (s1, .ok p e b n) →
      (∀ c, s1.decStop (s.myReq h va (decSize ty) true) ty e b n p = some c → exec i s = .next (trapped s c va)) ∧
      (∀ c x, s1.decStop (s.myReq h va (decSize ty) true) ty e b n p = none → s1.scaleOwed e b n va p = some (c, x) →
        exec i s = .next (if s1.taskHeld s1.me c 1 x then drainedFirst s1 else { s with note := .waiting })) ∧
      (s1.decStop (s.myReq h va (decSize ty) true) ty e b n p = none → s1.scaleOwed e b n va p = none →
        (∀ bs t, decStore s1 ty s1.my.rmode e n p (va.toNat - b) y = some bs →
          queued s1 { s1.mkStore va bs.length (BitVec.ofNat 64 (ofBytes bs)) h none with phys := some p } = some t →
          exec i s = .next (retired t)) ∧
        (decStore s1 ty s1.my.rmode e n p (va.toNat - b) y = none →
          exec i s = .next (retired (s1.record h 0x05 .uncorrectable va s1.my.launch s1.my.lmod)))))

/-- R68, R254, R257, R258, R262: what the decoded loads and stores do when they issue.
The D bit is set only where the write goes through (log entry 67). -/
def Obligations.DecodedAccesses : Prop := DecodedLoads ∧ DecodedStores

/-- R68: what the home of an idempotent task's decoded access answers instead of performing it. A load whose element or
scale byte the task's own buffered stores reach, and a store whose scale byte they reach, are asked for again once they have
drained, and a store's bytes enter the task store buffer. -/
def Sys2Proof.Claims.IdempotentAnswers : Prop :=
  (∀ (i : Instr) (ty : DecTy) (d a : Reg) (disp : Int) (s : State) (va : Word) (h : Home),
    decodedLoads i = some (ty, d, a, disp) → Alone s → s.my.pend = .got (.again va) →
    (s.my.idem → exec i s = .next (drainedFirst s)) ∧
    (s.my.idem = false → Reaches s va 1 h → Stays s va h false →
      exec i s = .next { asked s (.ldf ty) h va with note := .waiting })) ∧
  (∀ (i : Instr) (ty : DecTy) (d a : Reg) (disp : Int) (s t : State) (va : Word) (bs : List Byte) (h : Home),
    decodedStores i = some (ty, d, a, disp) → Alone s → s.my.pend = .got (.buffer va bs) → Reaches s va 1 h →
    Stays s va h false → queued s (s.mkStore va bs.length (BitVec.ofNat 64 (ofBytes bs)) h none) = some t →
    exec i s = .next (retired t)) ∧
  (∀ (i : Instr) (ty : DecTy) (d a : Reg) (disp : Int) (s : State) (va y : Word) (h : Home),
    decodedStores i = some (ty, d, a, disp) → Alone s → s.my.pend = .got (.restore va y) →
    (s.my.idem → exec i s = .next (drainedFirst s)) ∧
    (s.my.idem = false → Reaches s va 1 h → Stays s va h false → s.myStoresDone → s.loadsDone s.my.uid s.nextId →
      exec i s = .next { asked (s.addPathAt h va) (.stf ty y false) h va with note := .waiting }))

/-- R254, R262, R271, R272: the answer to a slot-holding request completes its instruction: a value goes to D, a poisoned
answer poisons D, and a failed check traps with its cause and address. The answer to a decoded store retires it. -/
def Obligations.AnswersComplete : Prop :=
  (∀ (i : Instr) (d : Reg) (s t : State) (v : Word), answered i = some d → i.wf → Alone s →
    s.my.pend = .got (.val v) → takes s d v = some t → exec i s = .next (retired t)) ∧
  (∀ (i : Instr) (d : Reg) (s t : State), answered i = some d → i.wf → Alone s →
    s.my.pend = .got .poison → takesPoison s d = some t → exec i s = .next (retired t)) ∧
  (∀ (i : Instr) (ty : DecTy) (d a : Reg) (disp : Int) (s : State) (v : Word), decodedStores i = some (ty, d, a, disp) →
    Alone s → s.my.pend = .got (.val v) → exec i s = .next (retired s)) ∧
  (∀ (i : Instr) (s : State) (c : Cause) (va : Word), (answered i).isSome ∨ (decodedStores i).isSome → Alone s →
    s.my.pend = .got (.fail c va) → exec i s = .next (trapped s c va)) ∧
  (∀ (i : Instr) (s : State) (n : Nat), (answered i).isSome ∨ (decodedStores i).isSome → Alone s →
    s.my.pend = .sent n → exec i s = .next { s with note := .waiting }) ∧
  IdempotentAnswers

/-! ## Threads and tasks -/

namespace Sys2Proof.Claims

/-- The instruction waits with its thread's long wait begun or going on (R44). -/
def waits (s : State) (w : Wait) : State := { s.updMy (fun f => f.waitFor w s.clk) with note := .waiting }

/-- ANCH, D, A and the register of B of the spawns (R265). -/
def spawns : Instr → Option (Bool × Reg × Reg × Fin 16)
  | .spawn d a (.g n) => some (false, d, a, n)
  | .spawna d a (.g n) => some (true, d, a, n)
  | _ => none

/-- The words that the thread's ports hold are discarded, its lease is freed, its join cell's decrement leaves and its share
leaves the count (steps 3, 5 and 6 of R267). -/
def taskEnded (s : State) : State := ((s.updMy Frame.discard).freeLease (Loc.pav s.cur.loc) s.my.uid).taskEnd s.me

/-- A thread ends: after those steps its frame is freed (step 7 of R267). -/
def ended (s : State) : State :=
  let t := taskEnded s
  { t.threadEnd t.me with note := .retired }

/-- The thread that `next` or `exit` found a task for starts it (R64). -/
def started (s : State) (t : Task) : State := jumped (s.become s.me t) t.pc

end Sys2Proof.Claims

/-- R59, R60, R62, R65, R265: a spawn with no join cell enters the bottom of the deque and counts; one with a join cell
first adds 1 there, at its own core at once and elsewhere by a request that holds the slot; with deque and overflow full
it is a call. An entry pc of 0 or off a word boundary traps, and so do a join cell outside local store and one whose read
is uncorrectable (R386). -/
def Sys2Proof.Claims.SpawnResults : Prop :=
  ∀ (i : Instr) (anch : Bool) (d a : Reg) (n : Fin 16) (s : State) (jc a0 a1 pc : Word),
    spawns i = some (anch, d, a, n) → i.wf → Alone s → s.my.idem = false → gives s a = some (jc, s) →
    gives s (.g n) = some (a0, s) → gives s (.g (n + 1)) = some (a1, s) → gives s d = some (pc, s) →
    (pc = 0 ∨ pc.toNat % 4 ≠ 0 → exec i s = .next (trapped s .misaligned pc)) ∧
    (pc ≠ 0 → pc.toNat % 4 = 0 → jc ≠ 0 → spaceOf jc ≠ .ls → exec i s = .next (trapped s .protection jc)) ∧
    (pc ≠ 0 → pc.toNat % 4 = 0 → (jc = 0 ∨ spaceOf jc = .ls) →
      (s.my.pend = .idle → (s.core s.cur.loc).deque.length < 1088 →
        (jc = 0 → s.myStoresDone → exec i s = .next (retired (s.pushTask (s.spawnTask anch pc jc a0 a1)))) ∧
        (∀ h, jc ≠ 0 → s.myStoresDone → Reaches s jc 8 h → Stays s jc h false → h ≠ .core s.cur.loc →
          exec i s = .next (asked (s.addPath h) .joinInc h jc)) ∧
        (∀ s1 p e b z, jc ≠ 0 → s.myStoresDone → s.myTurn → Reaches s jc 8 (.core s.cur.loc) →
          s.check (s.myReq (.core s.cur.loc) jc 8 true) = (s1, .ok p e b z) →
          (s1.isBad p 8 → exec i s = .next (trapped s .uncorrectable jc)) ∧
          (s1.isBad p 8 = false →
            exec i s = .next (retired (((s1.addPath (.core s.cur.loc)).writeAt (.core s.cur.loc) jc p
              (bytesOf 8 (s1.num p 8 + 1))).pushTask (s.spawnTask anch pc jc a0 a1)))))) ∧
      (s.my.pend = .got (.val 0) → exec i s = .next (retired (s.pushTask (s.spawnTask anch pc jc a0 a1)))) ∧
      (s.my.pend = .idle → 1088 ≤ (s.core s.cur.loc).deque.length → s.my.inld < 2 ^ 20 - 1 →
        s.my.full.getLsbD 1 → s.my.full.getLsbD 2 → s.my.full.getLsbD 15 →
        exec i s = .next (jumped (s.updMy fun f =>
          (((f.setT 41 20 (f.inld + 1)).setG 15 (f.pc + 4)).setG 1 a0).setG 2 a1) pc)))

/-- R65, R267: `exit` of an inline call returns to g15; otherwise, once the thread's registers are full and its commands
complete, the thread ends, or as a worker takes its next task. The decrement of a join cell leaves as a posted
operation. -/
def Sys2Proof.Claims.ExitResults : Prop :=
  ∀ (s : State), Alone s → s.my.pend = .idle →
    (∀ x, s.my.inld ≠ 0 → gives s (.g 15) = some (x, s) → x.toNat % 4 = 0 →
      exec .exit s = .next (jumped (s.updMy fun f => f.setT 41 20 (f.inld - 1)) x)) ∧
    (s.my.inld = 0 → s.my.settled = false → exec .exit s = .next { s with note := .waiting }) ∧
    (s.my.inld = 0 → s.my.settled → s.my.idem = false →
      s.my.jcell = 0 ∨ (∃ h, spaceOf s.my.jcell = .ls ∧ Reaches s s.my.jcell 8 h ∧ Stays s s.my.jcell h false ∧
        h ≠ .core s.cur.loc) →
      ∀ s1, s1 = taskEnded s →
      (s1.my.worker = false → exec .exit s = .next (ended s) ∧ ((ended s).frame s.me).used = false) ∧
      (s1.my.worker →
        (∀ s2 t, s1.search s1.cur.loc s1.my.actor [] = (s2, .task t) → exec .exit s = .next (started s2 t)) ∧
        (∀ s2, s1.search s1.cur.loc s1.my.actor [] = (s2, .over) →
          exec .exit s = .next { s2.threadEnd s2.me with note := .retired })))

/-- R59, R60, R62, R65, R265, R267: `spawn` and `exit`. -/
def Obligations.ThreadsBeginAndEnd : Prop := SpawnResults ∧ ExitResults

/-- R61, R63, R64, R68, R268-R270: `join` goes on when its cell reads zero and waits otherwise, the thread's own buffered store
over the cell coming first; `next` starts the task it
finds with g[D] = 1, answers 0 when nothing is outstanding, and waits otherwise; `yield` gives the slot up to the head of
the frame-ready FIFO; `sleep` ends when its time has come. -/
def Obligations.WaitingThreads : Prop :=
  (∀ (a : Reg) (s : State) (va : Word), Alone s → a.np → s.my.pend = .idle → gives s a = some (va, s) →
    (vaBad va = false → va.toNat % 8 = 0 → spaceOf va ≠ .ls → exec (.join a) s = .next (trapped s .protection va)) ∧
    (∀ h, spaceOf va = .ls → Reaches s va 8 h → Stays s va h false →
      (h ≠ .core s.cur.loc → exec (.join a) s = .next (waits s (.join va))) ∧
      (∀ s1 p e b z, h = .core s.cur.loc → s.check (s.myReq h va 8 false) = (s1, .ok p e b z) →
        (s1.forwarded va 8 (some p) ≠ .none →
          exec (.join a) s =
            .next (if s1.taskHeld s1.me va 8 (some p) then drainedFirst s1 else { s with note := .waiting })) ∧
        (s1.forwarded va 8 (some p) = .none → s1.myTurn → s1.isBad p 8 = false →
          (s1.num p 8 = 0 → exec (.join a) s = .next (retired s1)) ∧
          (s1.num p 8 ≠ 0 → exec (.join a) s = .next (waits s1 (.join va))))))) ∧
  (∀ (a : Reg) (s : State), Alone s → s.my.pend = .got (.val 0) → exec (.join a) s = .next (retired s)) ∧
  (∀ (d : Reg) (s s1 : State), Alone s → d.np → s.my.pend = .idle → settled s d → s.my.full.getLsbD 1 →
    s.my.full.getLsbD 2 →
    (∀ t s2, s.search s.cur.loc s.my.actor [] = (s1, .task t) → takes s1 d 1 = some s2 →
      exec (.next d) s = .next (started s2 t)) ∧
    (∀ s2, s.search s.cur.loc s.my.actor [] = (s1, .over) → takes s1 d 0 = some s2 →
      exec (.next d) s = .next (retired s2)) ∧
    (s.search s.cur.loc s.my.actor [] = (s1, .nothing) → exec (.next d) s = .next (waits s1 .next))) ∧
  (∀ (s : State), Alone s →
    exec .yield s = .next { (s.retire .seq false false).yieldSlot with note := .retired }) ∧
  (∀ (a : Reg) (s : State) (x : Word), Alone s → a.np → gives s a = some (x, s) →
    (∀ till, s.my.wait = some (.sleep till) → till ≤ s.clk → exec (.sleep a) s = .next (retired s)) ∧
    (∀ till, s.my.wait = some (.sleep till) → s.clk < till → exec (.sleep a) s = .next { s with note := .waiting }) ∧
    (s.my.wait = none → x.toNat % 2 ^ 48 ≠ 0 →
      exec (.sleep a) s = .next (waits s (.sleep (s.clk + x.toNat % 2 ^ 48)))) ∧
    (s.my.wait = none → x.toNat % 2 ^ 48 = 0 →
      exec (.sleep a) s = .next { (s.retire .seq false false).yieldSlot with note := .retired }))

/-- R67, R254, R271, R272, R386: `launch` and `task.dec` ask another home and hold the slot; a record at the thread's own
core is checked first; `task.dec` at its own core takes the decrement's result at once, and traps where the counter is zero
or uncorrectable; `task.decp` retires with its decrement on its way. A misaligned record traps. That an idempotent task's
stores drain before `launch` is the model's choice (log entry 93).
A walk of an instruction that traps leaves the A and D bits as they were (log entry 67). -/
def Obligations.LaunchAndDependentTasks : Prop :=
  (∀ (d a : Reg) (s : State) (va : Word) (h : Home), Alone s → d.np → a.np → s.my.pend = .idle →
    gives s a = some (va, s) → spaceOf va ≠ .host → Reaches s va 128 h → Stays s va h false →
    (spaceOf va = .ls → s.myRegion (lsOwner va)) →
    (s.my.idem → exec (.launch d a) s = .next (drainedFirst s)) ∧
    (s.my.idem = false → h ≠ .core s.cur.loc → s.myStoresDone → settled s d →
      exec (.launch d a) s = .next (asked s .record h va)) ∧
    (∀ s1 p e b z, s.my.idem = false → h = .core s.cur.loc → s.check (s.myReq h va 128 false) = (s1, .ok p e b z) →
      s1.myStoresDone → settled s1 d → exec (.launch d a) s = .next (asked s1 .record h va))) ∧
  (∀ (d a : Reg) (s : State) (va : Word) (h : Home), Alone s → d.np → a.np → s.my.pend = .idle →
    gives s a = some (va, s) → spaceOf va = .ls → Reaches s va 64 h → Stays s va h false → s.my.idem = false →
    s.myStoresDone → settled s d →
    (h ≠ .core s.cur.loc → exec (.taskDec d a) s =
      .next (asked ((s.addPath h).countUp s.my.launch s.my.lmod) (.taskDec true) h va)) ∧
    (∀ s1 n t, h = .core s.cur.loc → s.myTurn → s.decrement s.cur.loc s.my.actor va = (s1, .done n) →
      takes ((s1.addPath h).wakeNext s1.my.launch s1.my.lmod) d (BitVec.ofNat 64 n) = some t →
      exec (.taskDec d a) s = .next (retired t)) ∧
    (∀ s1, h = .core s.cur.loc → s.myTurn → s.decrement s.cur.loc s.my.actor va = (s1, .underflow) →
      exec (.taskDec d a) s = .next (trapped s .depUnderflow va)) ∧
    (∀ s1, h = .core s.cur.loc → s.myTurn → s.decrement s.cur.loc s.my.actor va = (s1, .bad) →
      exec (.taskDec d a) s = .next (trapped s .uncorrectable va))) ∧
  (∀ (a : Reg) (s : State) (va : Word) (h : Home), Alone s → a.np → gives s a = some (va, s) → spaceOf va = .ls →
    Reaches s va 64 h → Stays s va h false → s.my.idem = false →
    (h ≠ .core s.cur.loc → exec (.taskDecp a) s = .next (retired (((s.addPath h).countUp s.my.launch s.my.lmod).send
      (s.mkPkt (.taskDec false) h va)))) ∧
    (∀ s1 p e b z, h = .core s.cur.loc → s.check (s.myReq h va 64 true) = (s1, .ok p e b z) →
      exec (.taskDecp a) s = .next (retired (((s1.addPath h).countUp s1.my.launch s1.my.lmod).send
        (s1.mkPkt (.taskDec false) h va))))) ∧
  (∀ (d a : Reg) (s : State) (va : Word), Alone s → d.np → a.np → s.my.pend = .idle → gives s a = some (va, s) →
    vaBad va = false → spaceOf va = .ls → va.toNat % 64 ≠ 0 →
    exec (.taskDec d a) s = .next (trapped s .misaligned va) ∧ exec (.taskDecp a) s = .next (trapped s .misaligned va) ∧
    exec (.launch d a) s = .next (trapped s .misaligned va))

/-! ## Barriers, fences, Flock groups and leases -/

/-- R37, R273, R274: an arrival sets the member's arrive bit, and for `bar.ard` drops the member after the phase; a second
arrival in a phase or one by a thread that is no member traps; `bar.sync` arrives and then waits. -/
def Sys2Proof.Claims.BarrierArrivals : Prop :=
  ∀ (sc : Scope) (id : BitVec 3) (s : State) (b : Barrier), Alone s → barScope sc → s.my.anch →
    s.barrierOf s.me sc id.toNat = some b →
    (b.members.contains s.my.uid → (b.arrived.any fun e => e.1 == s.my.uid) = false →
      exec (.barArv sc id) s = .next (retired (s.putBarrier { b with
        arrived := b.arrived ++ [(s.my.uid, s.nextId)] })) ∧
      exec (.barArd sc id) s = .next (retired (s.putBarrier { b with
        arrived := b.arrived ++ [(s.my.uid, s.nextId)], ards := b.ards ++ [s.my.uid] })) ∧
      (s.my.pend = .idle → exec (.barSync sc id) s = .next (held ((s.putBarrier { b with
        arrived := b.arrived ++ [(s.my.uid, s.nextId)] }).updMy fun f => { f with pend := .got (.val 0) })))) ∧
    (b.members.contains s.my.uid = false ∨ (b.arrived.any fun e => e.1 == s.my.uid) →
      exec (.barArv sc id) s = .next (trapped s .barrierOverArrival 0) ∧
      exec (.barArd sc id) s = .next (trapped s .barrierOverArrival 0) ∧
      (s.my.pend = .idle → exec (.barSync sc id) s = .next (trapped s .barrierOverArrival 0)))

/-- R37, R273, R274: `bar.wait`, and `bar.sync` after its arrival, go on when the thread's arrive bit is clear and wait
otherwise; `bar.phase` delivers the phase number. A light thread's barrier instructions trap with PRIVILEGE. -/
def Sys2Proof.Claims.BarrierWaits : Prop :=
  ∀ (sc : Scope) (id : BitVec 3) (d : Reg) (s : State), Alone s → barScope sc → d.np →
    (s.my.anch → s.hasArrived sc id.toNat = false → exec (.barWait sc id) s = .next (retired s) ∧
      (s.my.pend = .got (.val 0) → exec (.barSync sc id) s = .next (retired s))) ∧
    (s.my.anch → s.hasArrived sc id.toNat → exec (.barWait sc id) s = .next (waits s (.bar sc id.toNat)) ∧
      (s.my.pend = .got (.val 0) → exec (.barSync sc id) s = .next (waits s (.bar sc id.toNat)))) ∧
    (∀ b t, s.my.anch → s.barrierOf s.me sc id.toNat = some b → takes s d (b.phase.setWidth 64) = some t →
      exec (.barPhase sc d id) s = .next (retired t)) ∧
    (s.my.anch = false → exec (.barArv sc id) s = .next (trapped s .privilege 0) ∧
      exec (.barWait sc id) s = .next (trapped s .privilege 0) ∧ exec (.barArd sc id) s = .next (trapped s .privilege 0) ∧
      exec (.barSync sc id) s = .next (trapped s .privilege 0) ∧
      exec (.barPhase sc d id) s = .next (trapped s .privilege 0))

/-- R157, R170: a fence of a thread with no posted operation on its way whose path set reaches no home in its scope completes
once the thread's loads are back and its stores have left the buffers; otherwise it sends a marker to each home and completes when none is left. Completing, it
takes what it covered out of the path set and discards the slot's instruction buffer. -/
def Sys2Proof.Claims.FenceResults : Prop :=
  ∀ (sc : Scope) (s : State), Alone s → s.my.idem = false →
    (∀ p ∈ s.net, p.uid = s.my.uid → ∀ op w b, p.kind ≠ .post op w b) →
    (∀ t, t = (s.updSlot s.cur.loc s.cur.slot fun x => { x with ibuf := [] }).updMy (fun f =>
        { f with path := f.path.filter fun h => !scopeHas sc s.cur.loc h
                 pathDies := f.pathDies.filter fun d => !dieInside sc s.cur.loc d }) →
      (s.my.pend = .idle → s.loadsBack s.my.uid s.nextId → ((s.core s.cur.loc).buffered.any fun e => e.uid == s.my.uid) = false →
        fenceTargets s sc = [] → exec (.fence sc) s = .next (retired t)) ∧
      (∀ n, s.my.pend = .sent n → (∀ p ∈ s.net, p.uid = s.my.uid → ∀ c, p.kind ≠ .marker c) →
        exec (.fence sc) s = .next (retired t))) ∧
    (s.my.pend = .idle → s.loadsBack s.my.uid s.nextId → ((s.core s.cur.loc).buffered.any fun e => e.uid == s.my.uid) = false →
      fenceTargets s sc ≠ [] → ∃ t, exec (.fence sc) s = .next t ∧ t.note = .held ∧
        t.net.map (fun p => (p.home, p.kind)) =
          s.net.map (fun p => (p.home, p.kind)) ++ (fenceTargets s sc).map fun h => (h, .marker sc)) ∧
    (s.my.pend = .idle → s.loadsBack s.my.uid s.nextId = false ∨ ((s.core s.cur.loc).buffered.any fun e => e.uid == s.my.uid) →
      exec (.fence sc) s = .next { s with note := .waiting })

/-- R37, R157, R170, R273, R274: the barrier instructions and `fence`. -/
def Obligations.BarriersAndFences : Prop := BarrierArrivals ∧ BarrierWaits ∧ FenceResults

/-- R144, R278: `flk.join` enrols the thread as member k of a group with its mask, `flk.leave` takes it and its numbers out
and `flk.timer` sets the timer; a request that R144 or R278 rules out traps with FLOCK. -/
def Sys2Proof.Claims.FlockGroups : Prop :=
  ∀ (grp : BitVec 4) (a b : Reg) (s : State) (x y : Word), Alone s → a.np → b.np → s.my.anch →
    gives s a = some (x, s) → gives s b = some (y, s) →
    (s.fgroup grp.toNat = none → 64 ≤ y.toNat ∨ x.getLsbD y.toNat = false →
      exec (.flkJoin grp a b) s = .next (trapped s .flock 0)) ∧
    (s.fgroup grp.toNat = none → y.toNat < 64 → x.getLsbD y.toNat →
      exec (.flkJoin grp a b) s = .next (retired (s.putGroup
        { launch := s.my.launch, lmod := s.my.lmod, die := Loc.dieId s.cur.loc, grp := grp.toNat, mask := x
          enrolled := [(s.my.uid, y.toNat)] }))) ∧
    (∀ g, s.fgroup grp.toNat = some g →
      (y.toNat < 64 → x.getLsbD y.toNat → g.mask = x → (g.enrolled.any fun e => e.2 == y.toNat) = false →
        exec (.flkJoin grp a b) s = .next (retired (s.putGroup { g with enrolled := g.enrolled ++ [(s.my.uid, y.toNat)] }))) ∧
      (g.mask ≠ x ∨ 64 ≤ y.toNat ∨ x.getLsbD y.toNat = false ∨ (g.enrolled.any fun e => e.2 == y.toNat) →
        exec (.flkJoin grp a b) s = .next (trapped s .flock 0)) ∧
      ((g.member s.my.uid).isSome →
        exec (.flkLeave grp) s = .next (retired (s.putGroup (g.leave s.my.uid))) ∧
        (g.leave s.my.uid).member s.my.uid = none ∧
        (∀ k < 64, (g.leave s.my.uid).mask.getLsbD k = (g.mask.getLsbD k && !g.enrolled.contains (s.my.uid, k))) ∧
        (1 ≤ x.toNat → x.toNat ≤ 256 →
          exec (.flkTimer grp a) s = .next (retired (s.putGroup { g with timer := x.toNat }))) ∧
        (x.toNat = 0 ∨ 256 < x.toNat → exec (.flkTimer grp a) s = .next (trapped s .flock 0))) ∧
      (g.member s.my.uid = none → exec (.flkLeave grp) s = .next (trapped s .flock 0) ∧
        exec (.flkTimer grp a) s = .next (trapped s .flock 0))) ∧
    (s.fgroup grp.toNat = none → exec (.flkLeave grp) s = .next (trapped s .flock 0) ∧
      exec (.flkTimer grp a) s = .next (trapped s .flock 0))

/-- R142, R145, R278: `flk.ld` of a member into a ready tile marks the tile in use, registers its destination lock and sends
its request to the home of the address, with the group's member count; a stale handle traps with TILE_STALE, then the causes
of R145 with FLOCK, and then a misaligned address or length with MISALIGNED. -/
def Sys2Proof.Claims.FlockLoad : Prop :=
  ∀ (grp : BitVec 4) (a : Reg) (n : Fin 16) (s : State) (va len hd : Word), Alone s → a.np → s.my.anch →
    gives s a = some (va, s) → gives s (.g n) = some (len, s) → gives s (.g (n + 1)) = some (hd, s) →
    (s.handle s.cur.loc hd = none → exec (.flkLd grp a (.g n)) s = .next (trapped s .tileStale 0)) ∧
    (∀ k, s.handle s.cur.loc hd = some k →
      s.fgroup grp.toNat = none ∨ (∃ g, s.fgroup grp.toNat = some g ∧ g.member s.my.uid = none) ∨
        (spaceOf va ≠ .dm ∧ spaceOf va ≠ .spread) → exec (.flkLd grp a (.g n)) s = .next (trapped s .flock va)) ∧
    (∀ k g m h, s.handle s.cur.loc hd = some k → s.fgroup grp.toNat = some g → g.member s.my.uid = some m →
      spaceOf va = .dm ∨ spaceOf va = .spread → vaBad va = false →
      s.homeAt s.cur.loc s.my.launch s.my.lmod va = .home h →
      (len = 0 ∨ 65536 < len.toNat ∨ (s.pageOf h va).1 + (s.pageOf h va).2 < va.toNat + len.toNat ∨
        ((s.core s.cur.loc).tile k).bytes < len.toNat → exec (.flkLd grp a (.g n)) s = .next (trapped s .flock va)) ∧
      (len ≠ 0 → len.toNat ≤ 65536 → va.toNat + len.toNat ≤ (s.pageOf h va).1 + (s.pageOf h va).2 →
        len.toNat ≤ ((s.core s.cur.loc).tile k).bytes → va.toNat % 256 ≠ 0 ∨ len.toNat % 256 ≠ 0 →
        exec (.flkLd grp a (.g n)) s = .next (trapped s .misaligned va))) ∧
    (∀ k g m h, s.handle s.cur.loc hd = some k → s.fgroup grp.toNat = some g → g.member s.my.uid = some m →
      spaceOf va = .dm ∨ spaceOf va = .spread → vaBad va = false →
      s.homeAt s.cur.loc s.my.launch s.my.lmod va = .home h → 0 < len.toNat → len.toNat ≤ 65536 →
      va.toNat + len.toNat ≤ (s.pageOf h va).1 + (s.pageOf h va).2 →
      len.toNat ≤ ((s.core s.cur.loc).tile k).bytes → va.toNat % 256 = 0 → len.toNat % 256 = 0 →
      ((s.core s.cur.loc).tile k).state = 2 → s.acqHeld h va = false → s.bankLocks s.cur.loc < 64 →
      ∃ t, exec (.flkLd grp a (.g n)) s = .next t ∧ t.note = .retired ∧
        ((t.core s.cur.loc).tile k).state = 1 ∧
        (∃ x, t.locks = s.locks ++ [x] ∧ x.dst ∧ x.rng = .bank s.cur.loc ((s.core s.cur.loc).tile k).base.toNat
          ((s.core s.cur.loc).tile k).bytes ∧ x.homes = [.core s.cur.loc] ∧
          x.bank = [(bankKey s.cur.loc ((s.core s.cur.loc).tile k).base.toNat, ((s.core s.cur.loc).tile k).bytes)]) ∧
        ∃ p, t.net = s.net ++ [p] ∧ p.home = h ∧ p.va = va ∧ p.uid = s.my.uid ∧ p.launch = s.my.launch ∧
          p.lmod = s.my.lmod ∧ p.kind = .flock grp.toNat m ((List.range 64).countP fun i => g.mask.getLsbD i) len.toNat k
            ((s.core s.cur.loc).tile k).gen.toNat (Loc.dieId s.cur.loc))

/-- R144, R145, R278: the Flock instructions. A thread may enrol under several numbers (log entry 87). -/
def Obligations.FlockInstructions : Prop := FlockGroups ∧ FlockLoad

/-- R79, R80, R279: `lease.acq` and `lease.try` of a free lease with nobody waiting get it with its full count of commands;
the holder's succeed at once; another thread's `lease.try` answers 0 and its `lease.acq` waits; `lease.rel` of the holder
frees it. No supervisor's write of the thread's frame window waits for the instruction's end (R358; log entry 109). -/
def Obligations.LeaseResults : Prop :=
  ∀ (d : Reg) (s : State), Alone s → d.np → s.my.anch → s.my.away = false → s.my.late = [] →
    let p := Loc.pav s.cur.loc
    ((s.lease p).holder = some s.my.uid →
      exec .leaseAcq s = .next (retired s) ∧
      (∀ t, takes s d 1 = some t → exec (.leaseTry d) s = .next (retired t)) ∧
      ((s.lease p).waiters = [] → ∃ t, exec .leaseRel s = .next t ∧ t.note = .retired ∧ (t.lease p).holder = none)) ∧
    ((s.lease p).holder = none → (s.lease p).waiters = [] →
      (∃ t, exec .leaseAcq s = .next t ∧ t.note = .retired ∧ (t.lease p).holder = some s.my.uid ∧ (t.lease p).left = 64 ∧
        (t.lease p).waiters = []) ∧
      (settled s d → ∃ t, exec (.leaseTry d) s = .next t ∧ t.note = .retired ∧ (t.lease p).holder = some s.my.uid ∧
        (t.lease p).left = 64 ∧ ∀ n, d = .g n → t.my.g[n] = 1)) ∧
    (∀ u, (s.lease p).holder = some u → u ≠ s.my.uid →
      (∀ t, takes s d 0 = some t → exec (.leaseTry d) s = .next (retired t)) ∧
      (∃ t, exec .leaseAcq s = .next t ∧ t.note = .waiting ∧ (t.lease p).holder = some u ∧
        (t.lease p).waiters.contains s.me ∧ t.my.wait = some .lease) ∧
      exec .leaseRel s = .next (retired s))

/-! ## Tiles and gangs -/

/-- R139-R141, R280-R283: `tile.alloc` of a permitted shape takes the lowest empty slot, writes base and shape into its
entry and answers its handle, which names the slot and its generation, or all ones when there is none; a valid handle is read,
marked and freed, waiting while an engine has the tile; freeing moves the generation on, so that the old handle is stale; a
stale handle traps. No supervisor's write of the thread's frame window waits for the instruction's end (R358; log entry 109). -/
def Obligations.TileResults : Prop :=
  ∀ (a d : Reg) (s : State) (v : Word), Alone s → a.np → d.np → s.my.anch → s.my.late = [] → gives s a = some (v, s) →
    (s.handle s.cur.loc v = none →
      exec (.tileFree a) s = .next (trapped s .tileStale 0) ∧ exec (.tileState d a) s = .next (trapped s .tileStale 0) ∧
      exec (.tileMark a 1) s = .next (trapped s .tileStale 0)) ∧
    (∀ n e, s.handle s.cur.loc v = some n → e = (s.core s.cur.loc).tile n →
      (∀ t, takes s d e.word = some t → exec (.tileState d a) s = .next (retired t)) ∧
      (e.busy = false → exec (.tileFree a) s = .next (retired (s.freeTile s.cur.loc n)) ∧
        (s.freeTile s.cur.loc n).handle s.cur.loc v = none ∧
        (∃ t, exec (.tileMark a 1) s = .next t ∧ t.note = .retired ∧ ((t.core s.cur.loc).tile n).state = 1) ∧
        (∃ t, exec (.tileMark a 2) s = .next t ∧ t.note = .retired ∧ ((t.core s.cur.loc).tile n).state = 2)) ∧
      (e.busy → s.my.fe = false → exec (.tileFree a) s = .next (waits s (.tile n)) ∧
        exec (.tileMark a 2) s = .next (waits s (.tile n))) ∧
      (s.my.priv → exec (.tileFreef a) s = .next (retired ((s.abortTile s.cur.loc n).freeTile s.cur.loc n)))) ∧
    (s.my.priv = false → exec (.tileFreef a) s = .next (trapped s .privilege 0)) ∧
    (∀ b shape s1 p e pb z, b.np → gives s b = some (shape, s) → shapeOk shape → v.toNat % 64 = 0 → vaBad v = false →
      spaceOf v = .ls → lsOwner v = s.cur.loc → windowAt v = none → settled s d →
      s.check { s.myReq (.core s.cur.loc) v 1 false with locks := false } = (s1, .ok p e pb z) →
      v.toNat + shape.toNat % 2 ^ 9 * tilePitch (shape.toNat / 2 ^ 9 % 2 ^ 9) (shape.toNat / 2 ^ 18 % 2 ^ 6) ≤ pb + z →
      inArea (p % 2 ^ 22) (shape.toNat % 2 ^ 9 * tilePitch (shape.toNat / 2 ^ 9 % 2 ^ 9) (shape.toNat / 2 ^ 18 % 2 ^ 6)) = false →
      (pteFmt e = 0 ∨ pteFmt e = shape.toNat / 2 ^ 18 % 2 ^ 6) → pteGeo e = 0 →
      ((s1.core s.cur.loc).freeSlot = none → ∀ t, takes s1 d (BitVec.allOnes 64) = some t →
        exec (.tileAlloc d a b) s = .next (retired t)) ∧
      (∀ n, (s1.core s.cur.loc).freeSlot = some n → ∃ t, exec (.tileAlloc d a b) s = .next t ∧
        t.note = .retired ∧ ((t.core s.cur.loc).tile n).state = 2 ∧
        ((t.core s.cur.loc).tile n).gen = ((s1.core s.cur.loc).tile n).gen ∧
        ((t.core s.cur.loc).tile n).base.toNat = p % 2 ^ 22 ∧
        ((t.core s.cur.loc).tile n).rows.toNat = shape.toNat % 2 ^ 9 ∧
        ((t.core s.cur.loc).tile n).cols.toNat = shape.toNat / 2 ^ 9 % 2 ^ 9 ∧
        ((t.core s.cur.loc).tile n).fmt.toNat = shape.toNat / 2 ^ 18 % 2 ^ 6 ∧
        (∀ m, d = .g m → t.my.g[m].toNat = n + ((s1.core s.cur.loc).tile n).gen.toNat * 2 ^ 6 ∧ t.my.full.getLsbD m) ∧
        (∀ m : Fin 16, d = .g m → t.handle s.cur.loc t.my.g[m] = some n)))

/-- R69-R72, R284: `gang.form` on a free rectangle reserves it and waits, and retires once GANG_FORMATION has answered;
a member's or one that meets another rectangle of its launch traps with GANG_DIVERGE; `split` outside a gang does
nothing. -/
def Sys2Proof.Claims.GangResults : Prop :=
  ∀ (n : BitVec 3) (s : State), n.toNat < 4 → s.cur.fan = [] → s.my.anch →
    (s.gangOf s.me = none →
      (s.my.pend = .got (.val 0) → exec (.gangForm n) s = .next (retired s)) ∧
      exec .split s = .next (retired s) ∧
      (s.my.pend = .idle → s.gangs = [] → ∃ t g, exec (.gangForm n) s = .next t ∧ t.note = .waiting ∧ t.gangs = [g] ∧
        g.formed = false ∧ g.die = Loc.dieId s.cur.loc ∧ g.members = [s.me] ∧ g.size = n.toNat ∧
        (g.x, g.y) = gangCorner n.toNat s.cur.loc ∧ t.my.wait = some (.gang 0))) ∧
    (∀ g rest, s.gangs = [g] → g.formed → g.members = s.me :: rest → s.my.solo = false →
      (∀ k ∈ g.members, (s.frame k).anch ∧ (s.slotOf k).isSome) →
      ∃ t, exec .split s = .next t ∧ t.note = .retired ∧ t.gangs = []) ∧
    (s.gangOf s.me = none → s.my.pend = .idle →
      (∀ g ∈ s.gangs, g.members.contains s.me = false) →
      (∃ g ∈ s.gangs, g.formed = false ∧ g.launch = s.my.launch ∧ g.lmod = s.my.lmod ∧ g.die = Loc.dieId s.cur.loc ∧
        rectsMeet g.x g.y g.size (gangCorner n.toNat s.cur.loc).1 (gangCorner n.toNat s.cur.loc).2 n.toNat ∧
        ¬(g.x = (gangCorner n.toNat s.cur.loc).1 ∧ g.y = (gangCorner n.toNat s.cur.loc).2 ∧ g.size = n.toNat)) →
      exec (.gangForm n) s = .next (trapped s .gangDiverge 0)) ∧
    (∀ g, s.gangOf s.me = some g → g.members.head? = some s.me → s.my.solo = false →
      (∀ k ∈ g.members, (s.frame k).anch ∧ (s.frame k).pend = .idle ∧ (s.slotOf k).isSome) →
      exec (.gangForm n) s = .next { g.members.foldl (fun t k => t.raiseAt k .gangDiverge 0 0) (s.dissolve g) with
        cur := s.cur, note := .trapped })

/-- R71: where members of a gang take a branch differently, every member traps with GANG_DIVERGE; where one member of
a gang traps on an operand, its thread alone takes the trap. The gang is dissolved, and no member executes. -/
def Sys2Proof.Claims.GangDiverges : Prop :=
  ∀ (n : Fin 16) (g : Gang) (s : State), s.gangOf s.me = some g → g.members.head? = some s.me → s.my.solo = false →
    (∀ k ∈ g.members, (s.slotOf k).isSome ∧ (s.frame k).full.getLsbD n) →
    (∀ (c : BrCond) (ta : Bool) (disp : BitVec 16), (∀ k ∈ g.members, (s.frame k).poisoned.getLsbD n = false) →
      (∃ k ∈ g.members, branches c (s.frame k).g[n]) → (∃ k ∈ g.members, ¬branches c (s.frame k).g[n]) →
      exec (.bc c (.g n) ta disp) s = .next { g.members.foldl (fun t k => t.raise k .gangDiverge 0 0) (s.dissolve g) with
        note := .trapped }) ∧
    (∀ (d : Fin 16) (ta : Bool) (imm : BitVec 15) (k : Nat),
      (g.members.filter fun j => (s.frame j).poisoned.getLsbD n) = [k] →
      exec (.addi (.g d) (.g n) ta imm) s = .next { (s.dissolve g).raiseAt k .poison 0 0 with
        cur := s.cur, note := .trapped })

/-- R71: in a gang only the leader issues, and what it issues every member executes: after `movi` each member's register
holds the immediate, and every member's pc is the leader's, where no supervisor's write of a member's frame window waits
(R358; log entry 109). -/
def Sys2Proof.Claims.GangExecutes : Prop :=
  (∀ (i : Instr) (g : Gang) (s : State), (encode i).isSome → s.gangOf s.me = some g → g.members.head? ≠ some s.me →
    exec i s = .next { s with note := .waiting }) ∧
  (∀ (n : Fin 16) (imm : BitVec 21) (g : Gang) (rest : List Nat) (s : State), s.gangs = [g] → g.formed →
    g.members = s.me :: rest → g.members.Nodup → s.my.solo = false →
    (∀ k ∈ g.members, (s.slotOf k).isSome ∧ (s.frame k).full.getLsbD n ∧ (s.frame k).used ∧ (s.frame k).late = []) →
    ∃ t, exec (.movi (.g n) imm) s = .next t ∧ t.cur = s.cur ∧ SameMemory s t ∧
      (∀ k ∈ g.members, (t.frame k).g[n] = wrap imm.toInt ∧ (t.frame k).pc = t.my.pc) ∧
      (∀ k, k ∉ g.members → t.frame k = s.frame k))

/-- R69-R72, R284: gangs: how one forms, that its leader issues for all, and how it ends when its members part. -/
def Obligations.GangInstructions : Prop := GangResults ∧ GangExecutes ∧ GangDiverges

/-! ## System registers, traps and supervisor instructions -/

namespace Sys2Proof.Claims

/-- The registers that no `movs` writes (R195). -/
def fixedS : List SReg := [.tid, .kid, .clock, .units]

/-- The registers that user code reads (R195). -/
def openS : List SReg := [.tstat, .tid, .kid, .clock, .units]

/-- What a register reads after a supervisor wrote v to it, from what it read before (R119, R239-R242). -/
def written (r : SReg) (old v : Word) : Word :=
  match r with
  | .trapcause => v &&& 0x7FFFF#64
  | .trapva => v
  | .trappc => v
  | .ctxbase => v &&& 0x1FFFFFFFFFFFFFC#64
  | .evtmask => v &&& 0xFFFF#64
  | .ptroot => v &&& 0x7FFFFFFC1#64
  | _ => old

end Sys2Proof.Claims

/-- R195, R236, R239-R241, R244: a supervisor's `movs` retires with the register written; it then reads what its fields
keep of the value, and the other registers of the core read as before. The registers that only the device writes raise
RESERVED_FIELD; user code writes only RMODE and FE of `tstat`, and any other register raises PRIVILEGE. -/
def Sys2Proof.Claims.SystemRegisterWrites : Prop :=
  (∀ (r : SReg) (a : Reg) (s : State) (v : Word), Alone s → a.np → s.my.priv → gives s a = some (v, s) →
    (r ∈ fixedS → exec (.movs r a) s = .next (trapped s .reservedField 0)) ∧
    (r ∉ fixedS → r ≠ .tstat → r ≠ .evtmask → exec (.movs r a) s = .next (retired (s.writeS r v))) ∧
    (r = .evtmask → ∃ t, exec (.movs r a) s = .next t ∧ t.note = .retired ∧ t.readS .evtmask = written .evtmask 0 v) ∧
    (r = .tstat → exec (.movs r a) s =
      .next { (s.writeS .tstat v).retire .seq true true with note := .retired }) ∧
    (r ∉ fixedS → r ≠ .tstat → r ≠ .shadesel → (s.writeS r v).readS r = written r (s.readS r) v) ∧
    (∀ q, q ≠ r → q ≠ .shadesel → (s.writeS r v).readS q = s.readS q) ∧
    (r = .tstat → ∀ j < 64, ((s.writeS r v).readS .tstat).getLsbD j =
      if j = 1 then s.my.tstat.getLsbD 1 else decide (j < 61) && v.getLsbD j) ∧
    (r = .shadesel → ((s.writeS r v).core s.cur.loc).sel = v.setWidth 8 ∧
      ((s.writeS r v).die (Loc.dieId s.cur.loc)).hot.toNat = max 60 (min 125 (v.toNat / 2 ^ 32 % 128)))) ∧
  (∀ (r : SReg) (a : Reg) (s : State) (v : Word), Alone s → a.np → s.my.priv = false → gives s a = some (v, s) →
    (r ≠ .tstat → exec (.movs r a) s = .next (trapped s .privilege 0)) ∧
    (r = .tstat → exec (.movs r a) s = .next (retired (s.updMy fun f =>
      (f.setT 2 2 (v.toNat / 4 % 4)).setT 4 1 (v.toNat / 16 % 2)))))

/-- R18, R195, R236, R238: `movfs` delivers the register's value; user code reads `tstat`, `tid`, `kid`, `clock` and `units`
and traps on the others. -/
def Sys2Proof.Claims.SystemRegisterReads : Prop :=
  ∀ (d : Reg) (r : SReg) (s t : State), Alone s → d.np →
    (r ∈ openS ∨ s.my.priv → takes s d (s.readS r) = some t → exec (.movfs d r) s = .next (retired t)) ∧
    (r ∉ openS → s.my.priv = false → exec (.movfs d r) s = .next (trapped s .privilege 0)) ∧
    s.readS .tid = BitVec.ofNat 64 (s.cur.slot + 8 * s.cur.loc) ∧ s.readS .kid = s.my.launch.setWidth 64 ∧
    ((s.module (Loc.module s.cur.loc)).ready →
      s.readS .clock = BitVec.ofNat 64 (s.clk - (s.module (Loc.module s.cur.loc)).epoch)) ∧
    s.readS .tstat = s.my.tstat ∧ s.readS .ptroot = (s.die (Loc.dieId s.cur.loc)).ptroot

/-- R195, R236-R241, R244: `movs` and `movfs` of every system register, and who may name it.
The clock counts a clk as 0.5 ns on every die, with no skew (log entry 2). -/
def Obligations.SystemRegisters : Prop := SystemRegisterWrites ∧ SystemRegisterReads

/-- R245: `trap n` raises TRAP with TCODE n, and `brk` raises BREAK. -/
def Sys2Proof.Claims.TrapInstructions : Prop :=
  ∀ (n : BitVec 3) (s : State), Alone s →
    exec (.trap n) s = .next { s.trapMy .trap 0 n.toNat with note := .trapped } ∧
    exec .brk s = .next (trapped s .break 0)

/-- R239, R240, R356: a trap of a thread on a slot enters the handler frame when that is free and the trap queue is empty:
`trapcause`, `trapva` and `trappc` say what trapped, the slot is bound to the handler frame at `ctxbase`, its instruction
buffer is empty, and the thread stays in its frame with its registers and pc, but for what a supervisor's window write that
waited for the instruction's end changes (R358; log entry 109). Otherwise, and from a slot that R76 has
disabled, the thread leaves its slot and joins the trap queue, whose order is by the clk of the trap and then by frame. -/
def Sys2Proof.Claims.TrapEntryAndQueue : Prop :=
  ∀ (c : Cause) (va : Word) (n k : Nat) (s t : State), t = s.trapMy c va n → s.gangOf s.me = none → s.cur.frame < 32 →
    s.my.away = false → s.slotOf s.me = some k → k < 8 →
    ((s.core s.cur.loc).serving = none → (s.core s.cur.loc).trapq = [] → ((s.core s.cur.loc).slot k).enabled →
      (t.core s.cur.loc).trapcause = BitVec.ofNat 64 (c.code + n * 2 ^ 8 + s.cur.frame * 2 ^ 11 + k * 2 ^ 16) ∧
      (t.core s.cur.loc).trapva = va ∧ (t.core s.cur.loc).trappc = s.my.pc ∧
      (t.core s.cur.loc).serving = some s.cur.frame ∧
      ((t.core s.cur.loc).slot k).bound = some 32 ∧ ((t.core s.cur.loc).slot k).ibuf = [] ∧
      (t.frame (keyOf s.cur.loc 32)).pc = (s.core s.cur.loc).ctxbase &&& ~~~3#64 ∧
      (t.frame (keyOf s.cur.loc 32)).g = (s.frame (keyOf s.cur.loc 32)).g) ∧
    ((s.core s.cur.loc).serving ≠ none ∨ (s.core s.cur.loc).trapq ≠ [] ∨ ((s.core s.cur.loc).slot k).enabled = false →
      (∃ a b, (s.core s.cur.loc).trapq = a ++ b ∧
        (t.core s.cur.loc).trapq =
          a ++ { frame := s.cur.frame, cause := c, va := va, pc := s.my.pc, tcode := n, clk := s.clk } :: b ∧
        (∀ x ∈ a, ¬(s.clk < x.clk ∨ (s.clk = x.clk ∧ s.cur.frame < x.frame))) ∧
        (∀ y, b.head? = some y → s.clk < y.clk ∨ (s.clk = y.clk ∧ s.cur.frame < y.frame))) ∧
      ((t.core s.cur.loc).slot k).bound = none ∧ (t.core s.cur.loc).trapcause = (s.core s.cur.loc).trapcause) ∧
    (s.my.late = [] → (t.frame s.me).pc = s.my.pc ∧ (t.frame s.me).g = s.my.g ∧ (t.frame s.me).full = s.my.full) ∧
    (t.frame s.me).used = s.my.used ∧ SameMemory s t ∧ (∀ j, j ≠ s.me → j ≠ keyOf s.cur.loc 32 → t.frame j = s.frame j)

/-- R359: a cause raised in the handler frame ends the thread that the handler serves: its frame is free, it leaves its
launch's count, an error record of status FAULTED is logged and counted, and event 0x14 with its frame follows. The handler
frame serves the head of the trap queue from `ctxbase` on the same slot, or is free and leaves its slot. -/
def Sys2Proof.Claims.HandlerFault : Prop :=
  ∀ (c : Cause) (va : Word) (n k f : Nat) (s t : State), t = s.trapMy c va n → s.cur.frame = 32 →
    s.slotOf s.me = some k → k < 8 → (s.core s.cur.loc).serving = some f → f < 32 →
    (∀ e ∈ (s.core s.cur.loc).trapq, e.frame ≠ f) →
    let fr := s.frame (keyOf s.cur.loc f)
    let sup := s.supLoc (Loc.dieId s.cur.loc)
    (t.frame (keyOf s.cur.loc f)).used = false ∧ SameMemory s t ∧
    (∀ x, s.launchOf fr.launch fr.lmod = some x → ∃ y, t.launchOf fr.launch fr.lmod = some y ∧
      y.live = x.live - 1 ∧ y.errs = x.errs + 1 ∧ y.exited = x.exited ++ [fr.uid]) ∧
    ((s.core sup).qevt.length + 5 ≤ 1024 → (s.evq.all fun e => e.src != homeKey (.core s.cur.loc)) →
      (t.core sup).qevt = (s.core sup).qevt ++
        [(BitVec.ofNat 64 (0x12 + 4 * 2 ^ 8 + 6 * 2 ^ 16 + 2 ^ 20 + Loc.core s.cur.loc * 2 ^ 21), true), (0, false),
          (launchWord fr.launch fr.lmod, false), (0x14, true), (BitVec.ofNat 64 f, false)]) ∧
    ((s.core s.cur.loc).trapq = [] → (t.core s.cur.loc).serving = none ∧ ((t.core s.cur.loc).slot k).bound = none ∧
      (t.frame s.me).used = false) ∧
    (∀ e r, (s.core s.cur.loc).trapq = e :: r → (t.core s.cur.loc).serving = some e.frame ∧
      (t.core s.cur.loc).trapq = r ∧ (t.core s.cur.loc).trapva = e.va ∧ (t.core s.cur.loc).trappc = e.pc ∧
      ((t.core s.cur.loc).slot k).bound = some 32 ∧ (t.frame s.me).pc = (s.core s.cur.loc).ctxbase &&& ~~~3#64)

/-- R239, R240, R245, R356, R359: the instructions that trap, what taking a trap saves and where it goes, and what a cause
in the handler does. -/
def Obligations.TrapsTaken : Prop := TrapInstructions ∧ TrapEntryAndQueue ∧ HandlerFault

/-- R246, R248: `rfe` outside the handler frame traps with PRIVILEGE. In it, with an empty trap queue, the slot is bound
again to the trapped thread, whose pc is `trappc`, or to the frame that `ctx.sw` named where R248 lets it; with an entry
in the queue the head enters the handler frame on the slot instead. -/
def Sys2Proof.Claims.ReturnFromHandler : Prop :=
  ∀ (s : State), Alone s → s.cur.slot < 8 →
    (s.cur.frame ≠ 32 ∨ s.my.priv = false → exec .rfe s = .next (trapped s .privilege 0)) ∧
    (∀ f, s.cur.frame = 32 → s.my.priv → ((s.core s.cur.loc).slot s.cur.slot).bound = some 32 →
      (s.core s.cur.loc).serving = some f → f < 32 → (s.frame (keyOf s.cur.loc f)).used →
      (s.frame (keyOf s.cur.loc f)).away = false → ∃ t, exec .rfe s = .next t ∧ t.note = .retired ∧
        (t.frame (keyOf s.cur.loc f)).pc = (s.core s.cur.loc).trappc &&& ~~~3#64 ∧
        (t.frame (keyOf s.cur.loc f)).g = (s.frame (keyOf s.cur.loc f)).g ∧
        (t.frame (keyOf s.cur.loc f)).tstat = (s.frame (keyOf s.cur.loc f)).tstat ∧ SameMemory s t ∧
        ((s.core s.cur.loc).trapq = [] → (s.core s.cur.loc).retFrame = none →
          ((t.core s.cur.loc).slot s.cur.slot).bound = some f ∧ (t.core s.cur.loc).serving = none ∧
          (t.frame (keyOf s.cur.loc 32)).used = false) ∧
        (∀ r, (s.core s.cur.loc).trapq = [] → (s.core s.cur.loc).retFrame = some r → r ≠ f →
          s.canSwitch s.cur.loc r → ((t.core s.cur.loc).slot s.cur.slot).bound = some r) ∧
        (∀ e r, (s.core s.cur.loc).trapq = e :: r → ((t.core s.cur.loc).slot s.cur.slot).bound = some 32 ∧
          (t.core s.cur.loc).serving = some e.frame ∧ (t.core s.cur.loc).trapq = r ∧
          (t.core s.cur.loc).trapva = e.va ∧ (t.core s.cur.loc).trappc = e.pc))

/-- R356, R246: a trap that enters the handler and the `rfe` of that handler with nothing between bring the thread back to
its slot with its registers, its memory and its word-aligned pc, where no supervisor's write of its frame window waits (R358;
log entry 109). -/
def Sys2Proof.Claims.TrapThenReturn : Prop :=
  ∀ (c : Cause) (va : Word) (n : Nat) (s t : State), Alone s → s.cur.frame < 32 → s.cur.slot < 8 → s.my.used →
    s.my.away = false → s.slotOf s.me = some s.cur.slot → ((s.core s.cur.loc).slot s.cur.slot).enabled →
    (s.core s.cur.loc).serving = none → (s.core s.cur.loc).trapq = [] → (s.frame (keyOf s.cur.loc 32)).tstat.getLsbD 0 → s.my.idem = false →
    s.my.late = [] → s.gangOf (keyOf s.cur.loc 32) = none → s.my.pc &&& 3#64 = 0#64 →
    t = s.trapMy c va n →
    ∃ u, exec .rfe { t with cur := { s.cur with frame := 32 } } = .next u ∧
      ((u.core s.cur.loc).slot s.cur.slot).bound = some s.cur.frame ∧ (u.frame s.me).pc = s.my.pc ∧
      (u.frame s.me).g = s.my.g ∧ (u.frame s.me).full = s.my.full ∧ (u.frame s.me).tstat = s.my.tstat ∧
      (u.core s.cur.loc).serving = none ∧ (u.core s.cur.loc).trapq = [] ∧ SameMemory s u

/-- R246, R248, R356: `rfe`, and that a trap and its return bring a thread back. -/
def Obligations.TrapReturn : Prop := ReturnFromHandler ∧ TrapThenReturn

/-- R241, R247: a supervisor's `waitev` completes, and answers the number of words, in every state where a code word of an enabled
class stands in `qevt`; it waits otherwise, and a user's traps. -/
def Sys2Proof.Claims.WaitevCompletes : Prop :=
  ∀ (d : Reg) (s : State), Alone s → d.np →
    (s.my.priv = false → exec (.waitev d) s = .next (trapped s .privilege 0)) ∧
    (∀ t, s.my.priv →
      (∃ w ∈ (s.core s.cur.loc).qevt, w.2 ∧ (s.core s.cur.loc).evtmask.getLsbD (w.1.toNat / 16 % 16)) →
      takes s d (BitVec.ofNat 64 (s.core s.cur.loc).qevt.length) = some t → exec (.waitev d) s = .next (retired t)) ∧
    (s.my.priv → (∃ w ∈ (s.core s.cur.loc).qevt, w.2 ∧ (s.core s.cur.loc).evtmask.getLsbD (w.1.toNat / 16 % 16)) →
      settled s d → ∃ t, exec (.waitev d) s = .next t ∧ t.note = .retired) ∧
    (s.my.priv →
      (∀ w ∈ (s.core s.cur.loc).qevt, w.2 → (s.core s.cur.loc).evtmask.getLsbD (w.1.toNat / 16 % 16) = false) →
      exec (.waitev d) s = .next (waits s .waitev))

/-- R248: a supervisor's `ctx.sw` completes in every state: in the handler frame it names the return frame, elsewhere it does
nothing for a frame that cannot be bound, and rebinds the slot to one that can, the issuer becoming ready. A user's traps. -/
def Sys2Proof.Claims.ContextSwitchCompletes : Prop :=
  ∀ (a : Reg) (s : State) (v : Word), Alone s → a.np → gives s a = some (v, s) →
    (s.my.priv = false → exec (.ctxSw a) s = .next (trapped s .privilege 0)) ∧
    (s.my.priv → ∃ t, exec (.ctxSw a) s = .next t ∧ t.note = .retired) ∧
    (s.my.priv → s.cur.frame = 32 → exec (.ctxSw a) s =
      .next (retired (s.updCore s.cur.loc fun c => { c with retFrame := some (v.toNat % 32) }))) ∧
    (s.my.priv → s.cur.frame ≠ 32 → s.canSwitch s.cur.loc (v.toNat % 32) = false →
      exec (.ctxSw a) s = .next (retired s)) ∧
    (s.my.priv → s.cur.frame < 32 → s.cur.slot < 8 → s.slotOf s.me = some s.cur.slot → s.my.idem = false → s.my.used →
      s.my.away = false → s.inTrapq s.me = false → (s.core s.cur.loc).serving ≠ some s.cur.frame →
      s.canSwitch s.cur.loc (v.toNat % 32) →
      ∃ t, exec (.ctxSw a) s = .next t ∧ t.note = .retired ∧
        ((t.core s.cur.loc).slot s.cur.slot).bound = some (v.toNat % 32) ∧
        (t.slotOf s.me = none → (t.core s.cur.loc).fifo.contains s.cur.frame) ∧ t.my.pc = (s.retire .seq false false).my.pc)

/-- R249, R250: `tlb.inv` sends a request to every unit that translates the address, holds its slot, and retires when none
is left; `sec.flush` with empty buffers empties the core's TLB, spread cache and instruction buffers, zeroes every free
frame and the free entries of the arrival spill ring, and keeps the other frames and the other bytes of memory. Both are
supervisor-only. -/
def Obligations.InvalidateAndFlush : Prop :=
  (∀ (a : Reg) (s : State) (va : Word), Alone s → a.np → gives s a = some (va, s) →
    (s.my.priv = false → exec (.tlbInv a) s = .next (trapped s .privilege 0)) ∧
    (s.my.priv → s.my.pend = .idle → vaBad va → exec (.tlbInv a) s = .next (trapped s .protection va)) ∧
    (∀ h, s.my.priv → s.my.pend = .idle → vaBad va = false → s.myStoresDone →
      s.homeAt s.cur.loc s.my.launch s.my.lmod va = .home h → ∃ t, exec (.tlbInv a) s = .next t ∧ t.note = .held ∧
        t.net.map (fun p => (p.home, p.va, p.kind)) =
          s.net.map (fun p => (p.home, p.va, p.kind)) ++ (invTargets h).map fun u => (u, va, .tlbInv s.nextId)) ∧
    (∀ n, s.my.priv → s.my.pend = .sent n → (∀ p ∈ s.net, p.uid = s.my.uid → p.kind ≠ .tlbInv n) →
      exec (.tlbInv a) s = .next (retired s))) ∧
  (∀ (s : State), Alone s → (s.my.priv = false → exec .secFlush s = .next (trapped s .privilege 0)) ∧
    (s.my.priv → (s.core s.cur.loc).sb = [] → (∀ x ∈ (s.core s.cur.loc).slots.toList, x.tsb = []) → s.my.used →
      s.my.late = [] → ∃ t, exec .secFlush s = .next t ∧ t.note = .retired ∧ (t.home (.core s.cur.loc)).tlb = [] ∧
        (t.core s.cur.loc).spread = [] ∧ (∀ x ∈ (t.core s.cur.loc).slots.toList, x.ibuf = []) ∧
        (∀ f < 32, (s.frame (keyOf s.cur.loc f)).used = false → ∀ n : Fin 16,
          (t.frame (keyOf s.cur.loc f)).g[n] = 0 ∧ (t.frame (keyOf s.cur.loc f)).v[n] = 0) ∧
        (∀ k, k ≠ s.me → (s.frame k).used → t.frame k = s.frame k) ∧ t.my.g = s.my.g ∧
        (∀ a, Memory.get t.mem a =
          if spillAt s.cur.loc + 256 * (s.core s.cur.loc).spill.length ≤ a ∧ a < spillAt s.cur.loc + 0x40000 then 0
          else Memory.get s.mem a)))

/-- R251, R252, R364: `preempt` holds a pending launch and `resume` lets it go; `preempt` of a running launch puts every
other thread of it away, one whose instruction is in issue at that instruction's end, holds its slot until that is done and the
launch's Pavilions are let go, and completes, after which an issuer of the launch is itself put away; `resume` brings a
pre-empted launch back. For any other launch both only retire. -/
def Obligations.PreemptAndResume : Prop :=
  ∀ (a : Reg) (s : State) (v : Word), Alone s → a.np → gives s a = some (v, s) →
    (s.my.priv = false → exec (.preempt a) s = .next (trapped s .privilege 0) ∧
      exec (.resume a) s = .next (trapped s .privilege 0)) ∧
    (s.my.priv → s.launchOf (v.setWidth 32) (Loc.module s.cur.loc) = none →
      exec (.preempt a) s = .next (retired s) ∧ exec (.resume a) s = .next (retired s)) ∧
    (∀ x, s.my.priv → s.launchOf (v.setWidth 32) (Loc.module s.cur.loc) = some x →
      (x.status = .pending → exec (.preempt a) s =
        .next (retired (s.updLaunch x.id x.mod fun y => { y with status := .held })) ∧
        exec (.resume a) s = .next (retired s)) ∧
      (x.status = .held → exec (.resume a) s =
        .next (retired (s.updLaunch x.id x.mod fun y => { y with status := .pending })) ∧
        (s.my.pend = .idle → exec (.preempt a) s = .next (retired s))) ∧
      (x.status = .done → exec (.resume a) s = .next (retired s) ∧ exec (.preempt a) s = .next (retired s)) ∧
      (x.status = .preempted → exec (.resume a) s = .next (retired (s.thaw x))) ∧
      (∀ p, x.status = .running ∧ p = (s.freeze x s.me).putAllAway x s.me ∨
          x.status = .preempted ∧ (∃ w, s.my.pend = .got w) ∧ p = s.putAllAway x s.me →
        (∀ s1, p.allAway x s.me → p.savePavs x = (s1, true) →
          (s1.my.launch ≠ x.id ∨ s1.my.lmod ≠ x.mod ∨ s1.cur.frame = 32 → exec (.preempt a) s = .next (retired s1)) ∧
          (s1.my.launch = x.id → s1.my.lmod = x.mod → s1.cur.frame < 32 → ∃ t, exec (.preempt a) s = .next t ∧
            t.note = .retired ∧ t.my.away ∧ t.my.pc = (s1.retire .seq false false).my.pc)) ∧
        (s.my.pend = .idle → p.allAway x s.me = false →
          exec (.preempt a) s = .next (held (p.updMy fun f => { f with pend := .got (.val 0) }))) ∧
        (∀ s1, s.my.pend = .idle → p.allAway x s.me → p.savePavs x = (s1, false) →
          exec (.preempt a) s = .next (held (s1.updMy fun f => { f with pend := .got (.val 0) })))) ∧
      (x.status = .preempted → s.my.pend = .idle → exec (.preempt a) s = .next (retired s)) ∧
      (∀ k ∈ s.threadsOf x.id x.mod, k ≠ s.me →
        ((s.freeze x s.me).frame k).away ∨ (s.freeze x s.me).inIssue k))

/-- R243, R358: the frame window: a supervisor's plain access to a frame of its own core reads and writes the frame's registers
as R41 lays them out, untranslated; anyone else's raises PROTECTION. A store to the issuer's own `tstat` keeps the SOLO, LRV and
LANE bits that it writes, which its completion would clear. A write to a frame whose instruction is under way is seen at once
in the window, and by the thread at the instruction's end (log entry 109). -/
def Sys2Proof.Claims.FrameWindow : Prop :=
  ∀ (i : Instr) (n : Nat) (d a : Reg) (disp : Int) (s : State) (x va : Word) (f o : Nat),
    i.wf → Alone s → gives s a = some (x, s) → va = address x n disp → vaBad va = false → va.toNat % n = 0 →
    windowAt va = some (f, o) → s.my.idem = false → s.acqHeld (.core s.cur.loc) va = false →
    (∀ sgn acq t, loads i = some (n, sgn, acq, d, a, disp) → s.my.priv → lsOwner va = s.cur.loc → settled s d →
      takes s d (widened n sgn
        (((s.frame (keyOf s.cur.loc f)).settle.group (o / 8)).toNat / 2 ^ (8 * (o % 8)) % 2 ^ (8 * n))) = some t →
      exec i s = .next (retired t)) ∧
    (∀ rel y, stores i = some (n, rel, d, a, disp) → gives s d = some (y, s) → s.my.priv → lsOwner va = s.cur.loc →
      (f ≠ s.cur.frame → exec i s = .next (retired (s.windowWrite s.cur.loc f o n y.toNat))) ∧
      (f = s.cur.frame → s.my.pend = .idle → s.my.late = [] → ∃ w : Word,
        exec i s = .next ((retired (s.windowWrite s.cur.loc f o n y.toNat)).updMy fun fr => { fr with tstat := w }) ∧
        ∀ j < 64, w.getLsbD j =
          if o ≤ 144 + j / 8 ∧ 144 + j / 8 < o + n ∧ (j = 25 ∨ 36 ≤ j ∧ j < 41) then y.getLsbD (j + 1152 - 8 * o)
          else (retired (s.windowWrite s.cur.loc f o n y.toNat)).my.tstat.getLsbD j)) ∧
    (s.my.priv = false ∨ lsOwner va ≠ s.cur.loc →
      ((∃ sgn acq, loads i = some (n, sgn, acq, d, a, disp)) ∨
        (∃ rel y, stores i = some (n, rel, d, a, disp) ∧ gives s d = some (y, s))) →
      exec i s = .next (trapped s .protection va)) ∧
    (∀ k y, k = keyOf s.cur.loc f →
      ((s.frame k).pend = .idle → (s.windowWrite s.cur.loc f o n y).frame k = (s.frame k).putBytes o n y) ∧
      ((s.frame k).pend ≠ .idle →
        { (s.windowWrite s.cur.loc f o n y).frame k with late := [] } = { s.frame k with late := [] } ∧
        ((s.windowWrite s.cur.loc f o n y).frame k).settle = (s.frame k).settle.putBytes o n y)) ∧
    (∀ m : Fin 16, ∀ fr : Frame, fr.group m.val = fr.g[m] ∧ fr.group 17 = fr.pc ∧
      (∀ y, (fr.setGroup m.val y).g[m] = y ∧ (fr.setGroup 17 y).pc = y &&& ~~~3#64))

/-- R241, R243, R247, R248, R358: `waitev` and `ctx.sw`, when they complete and what they do, and the frame window through which
supervisor code reaches a frame. -/
def Obligations.ContextAndFrames : Prop := WaitevCompletes ∧ ContextSwitchCompletes ∧ FrameWindow

/-! ## Vector instructions -/

namespace Sys2Proof.Claims

/-- What VA or VB gives for elements of w bits: a register that no result is on its way to, of good parity, or a scalar in
every element (R180, R287, R362). -/
def vgives (s : State) (w : Nat) : VSrc → Option (BitVec 512)
  | .v n => if s.my.vbusy.getLsbD n || s.my.par.v.getLsbD n then none else some s.my.v[n]
  | .g n =>
    if s.my.full.getLsbD n && !s.my.poisoned.getLsbD n then some (buildVec w fun _ => s.my.g[n].toNat) else none

/-- A vector register written, with good parity. -/
def vtakes (s : State) (d : Fin 16) (r : BitVec 512) : State :=
  s.updMy fun f => { f with v := f.v.set d r, par := { f.par with v := f.par.v &&& ~~~(BitVec.twoPow 16 d) } }

/-- A mask register written, with good parity. -/
def mtakes (s : State) (d : Fin 8) (r : BitVec 16) : State :=
  s.updMy fun f => { f with m := f.m.set d r, par := { f.par with m := f.par.m &&& ~~~(BitVec.twoPow 8 d) } }

/-- The vector register can be read: no result is on its way there and its parity is good (R287, R362). -/
def vwhole (s : State) (d : Fin 16) : Bool := !s.my.vbusy.getLsbD d && !s.my.par.v.getLsbD d

/-- The vector register can be written under a mask: no result is on its way there, and what a masked instruction keeps of
it can be read (R286, R287). -/
def vsettled (s : State) (d : Fin 16) (k : Fin 8) : Bool := if k = 0 then !s.my.vbusy.getLsbD d else vwhole s d

/-- VD is a source of the instruction, with or without a mask (R290). -/
def readsD : Instr → Bool
  | .vfma _ _ _ _ _ => true
  | .vfms _ _ _ _ _ => true
  | .vfnma _ _ _ _ _ => true
  | _ => false

/-- An element of w bits read as signed. -/
def signedOf (w x : Nat) : Int := if 2 * x < 2 ^ w then (x : Int) else (x : Int) - 2 ^ w

/-- The low w bits of an integer. -/
def wrapTo (w : Nat) (i : Int) : Nat := (i % 2 ^ w).toNat

/-- Elements of w bits in a vector register. -/
def count (w : Nat) : Nat := 512 / w

/-- R289, R290: element results of two sources and the old element of VD, under the thread's RMODE. -/
def vecTwoOps (m : Nat) : Instr → Option (VTy × Fin 16 × VSrc × VSrc × Fin 8 × (Nat → Nat → Nat → Nat))
  | .vadd t d a b k => some (t, d, a, b, k, fun x y _ => wrapTo (vtyBits t) (x + y))
  | .vsub t d a b k => some (t, d, a, b, k, fun x y _ => wrapTo (vtyBits t) (x - y))
  | .vmul t d a b k => some (t, d, a, b, k, fun x y _ => wrapTo (vtyBits t) (x * y))
  | .vmulh t d a b k => some (t, d, a, b, k, fun x y _ =>
      wrapTo (vtyBits t) (signedOf (vtyBits t) x * signedOf (vtyBits t) y / 2 ^ vtyBits t))
  | .vand t d a b k => some (t, d, a, b, k, fun x y _ => x &&& y)
  | .vor t d a b k => some (t, d, a, b, k, fun x y _ => x ||| y)
  | .vxor t d a b k => some (t, d, a, b, k, fun x y _ => x ^^^ y)
  | .vandn t d a b k => some (t, d, a, b, k, fun x y _ => x &&& (2 ^ vtyBits t - 1 - y))
  | .vsll t d a b k => some (t, d, a, b, k, fun x y _ => wrapTo (vtyBits t) (x * 2 ^ (y % vtyBits t)))
  | .vsrl t d a b k => some (t, d, a, b, k, fun x y _ => x / 2 ^ (y % vtyBits t))
  | .vsra t d a b k => some (t, d, a, b, k, fun x y _ => wrapTo (vtyBits t) (signedOf (vtyBits t) x / 2 ^ (y % vtyBits t)))
  | .vmin t d a b k => some (t, d, a, b, k, fun x y _ => if signedOf (vtyBits t) x ≤ signedOf (vtyBits t) y then x else y)
  | .vmax t d a b k => some (t, d, a, b, k, fun x y _ => if signedOf (vtyBits t) x ≤ signedOf (vtyBits t) y then y else x)
  | .vminu t d a b k => some (t, d, a, b, k, fun x y _ => min x y)
  | .vmaxu t d a b k => some (t, d, a, b, k, fun x y _ => max x y)
  | .vfadd t d a b k => some (t, d, a, b, k, fun x y _ => (vfmt t).add m x y)
  | .vfsub t d a b k => some (t, d, a, b, k, fun x y _ => (vfmt t).sub m x y)
  | .vfmul t d a b k => some (t, d, a, b, k, fun x y _ => (vfmt t).mul m x y)
  | .vfmin t d a b k => some (t, d, a, b, k, fun x y _ => (vfmt t).minmax false x y)
  | .vfmax t d a b k => some (t, d, a, b, k, fun x y _ => (vfmt t).minmax true x y)
  | .vfma t d a b k => some (t, d, a, b, k, fun x y z => (vfmt t).fma m false false x y z)
  | .vfms t d a b k => some (t, d, a, b, k, fun x y z => (vfmt t).fma m false true x y z)
  | .vfnma t d a b k => some (t, d, a, b, k, fun x y z => (vfmt t).fma m true false x y z)
  | _ => none

/-- R289, R290: element results of one source. -/
def vecOneOps : Instr → Option (VTy × Fin 16 × VSrc × Fin 8 × (Nat → Nat))
  | .vabs t d a k => some (t, d, a, k, fun x => wrapTo (vtyBits t) (signedOf (vtyBits t) x).natAbs)
  | .vfabs t d a k => some (t, d, a, k, fun x => (vfmt t).abs x)
  | .vfneg t d a k => some (t, d, a, k, fun x => (vfmt t).flip x)
  | _ => none

/-- R292, R88: the condition of a vector compare on two elements. -/
def vecConds : Instr → Option (VTy × Fin 8 × VSrc × VSrc × Fin 8 × (Nat → Nat → Bool))
  | .vcmpEq t d a b k => some (t, d, a, b, k, fun x y => if vtFloat t then (vfmt t).test (· == .eq) x y else x == y)
  | .vcmpNe t d a b k => some (t, d, a, b, k, fun x y => if vtFloat t then !(vfmt t).test (· == .eq) x y else x != y)
  | .vcmpLt t d a b k => some (t, d, a, b, k, fun x y =>
      if vtFloat t then (vfmt t).test (· == .lt) x y else decide (signedOf (vtyBits t) x < signedOf (vtyBits t) y))
  | .vcmpGe t d a b k => some (t, d, a, b, k, fun x y =>
      if vtFloat t then (vfmt t).test (· != .gt) y x else decide (signedOf (vtyBits t) y ≤ signedOf (vtyBits t) x))
  | .vcmpLtu t d a b k => some (t, d, a, b, k, fun x y => decide (x < y))
  | .vcmpGeu t d a b k => some (t, d, a, b, k, fun x y => decide (y ≤ x))
  | _ => none

/-- An element as it comes to a general register: integers sign-extended, floats zero-extended (R296, R297). -/
def asWord (t : VTy) (x : Nat) : Word := if vtFloat t then BitVec.ofNat 64 x else wrap (signedOf (vtyBits t) x)

/-- The running sums of R298 before element e. -/
def prefixSum (act : Nat → Bool) (plus : Nat → Nat → Nat) (x : Nat → Nat) (start : Nat) : Nat → Nat
  | 0 => start
  | e + 1 => if act e then plus (prefixSum act plus x start e) (x e) else prefixSum act plus x start e

/-- The active elements in ascending order. -/
def activeElems (s : State) (w : Nat) (k : Fin 8) (x : BitVec 512) : List Nat :=
  ((List.range (count w)).filter fun e => s.my.active k w e).map fun e => elemOf w x e

/-- Elements combined in order, or the identity of R297 when there is none. -/
def combined (f : Nat → Nat → Nat) (ident : Nat) : List Nat → Nat
  | [] => ident
  | x :: r => r.foldl f x

end Sys2Proof.Claims

/-- R37, R286-R290: an element-wise vector operation of an anchored thread retires with the result in every active element of VD
and the other elements as they were. -/
def Sys2Proof.Claims.VectorArithmetic : Prop :=
  (∀ (i : Instr) (ty : VTy) (d : Fin 16) (a b : VSrc) (k : Fin 8) (f : Nat → Nat → Nat → Nat) (s : State)
      (x y r : BitVec 512), vecTwoOps s.my.rmode i = some (ty, d, a, b, k, f) → i.wf → Alone s → s.my.anch →
    vgives s (vtyBits ty) a = some x → vgives s (vtyBits ty) b = some y → vsettled s d k → (readsD i → vwhole s d) →
    (∀ e < count (vtyBits ty), elemOf (vtyBits ty) r e =
      if s.my.active k (vtyBits ty) e then
        f (elemOf (vtyBits ty) x e) (elemOf (vtyBits ty) y e) (elemOf (vtyBits ty) s.my.v[d] e)
      else elemOf (vtyBits ty) s.my.v[d] e) →
    exec i s = .next (retired (vtakes s d r))) ∧
  (∀ (i : Instr) (ty : VTy) (d : Fin 16) (a : VSrc) (k : Fin 8) (f : Nat → Nat) (s : State) (x r : BitVec 512),
    vecOneOps i = some (ty, d, a, k, f) → i.wf → Alone s → s.my.anch → vgives s (vtyBits ty) a = some x → vsettled s d k →
    (∀ e < count (vtyBits ty), elemOf (vtyBits ty) r e =
      if s.my.active k (vtyBits ty) e then f (elemOf (vtyBits ty) x e) else elemOf (vtyBits ty) s.my.v[d] e) →
    exec i s = .next (retired (vtakes s d r)))

/-- R287, R290, R291: `vfdiv` marks VD busy and sends its result on its way; `vcvt` converts element by element up to the
shorter of the two vectors and clears the rest. -/
def Sys2Proof.Claims.VectorDivideAndConvert : Prop :=
  (∀ (ty : VTy) (d : Fin 16) (a b : VSrc) (k : Fin 8) (s : State) (x y r : BitVec 512), vtFloat ty → Alone s → s.my.anch →
    vgives s (vtyBits ty) a = some x → vgives s (vtyBits ty) b = some y → vsettled s d k →
    (∀ e < count (vtyBits ty), elemOf (vtyBits ty) r e =
      if s.my.active k (vtyBits ty) e then
        (vfmt ty).div s.my.rmode (elemOf (vtyBits ty) x e) (elemOf (vtyBits ty) y e)
      else elemOf (vtyBits ty) s.my.v[d] e) →
    exec (.vfdiv ty d a b k) s = .next (retired ((s.updMy fun f =>
      { f with vbusy := f.vbusy ||| BitVec.twoPow 16 d }).send (s.mkPkt (.vresult d r) (.core s.cur.loc) 0)))) ∧
  (∀ (tt st : VTy) (d : Fin 16) (a : VSrc) (k : Fin 8) (s : State) (x r : BitVec 512), Alone s → s.my.anch →
    vgives s (vtyBits st) a = some x → vsettled s d k →
    (∀ e < count (vtyBits tt), elemOf (vtyBits tt) r e =
      if s.my.active k (vtyBits tt) e then
        (if e < count (vtyBits st) then vcvtElem s.my.rmode tt st (elemOf (vtyBits st) x e) % 2 ^ vtyBits tt else 0)
      else elemOf (vtyBits tt) s.my.v[d] e) →
    exec (.vcvt tt st d a k) s = .next (retired (vtakes s d r)))

/-- R287, R290, R362: a vector source that a result is still on its way to holds the instruction back, and one of bad parity
traps with UNCORRECTABLE, VD of a multiply-add too. -/
def Sys2Proof.Claims.VectorSourceStops : Prop :=
  (∀ (i : Instr) (ty : VTy) (d n : Fin 16) (b : VSrc) (k : Fin 8) (f : Nat → Nat → Nat → Nat) (s : State),
    vecTwoOps s.my.rmode i = some (ty, d, .v n, b, k, f) → i.wf → Alone s → s.my.anch →
    (s.my.vbusy.getLsbD n → exec i s = .next { s with note := .waiting }) ∧
    (s.my.vbusy.getLsbD n = false → s.my.par.v.getLsbD n → exec i s = .next (trapped s .uncorrectable 0))) ∧
  (∀ (i : Instr) (ty : VTy) (d : Fin 16) (a b : VSrc) (k : Fin 8) (f : Nat → Nat → Nat → Nat) (s : State) (x y : BitVec 512),
    vecTwoOps s.my.rmode i = some (ty, d, a, b, k, f) → readsD i → i.wf → Alone s → s.my.anch →
    vgives s (vtyBits ty) a = some x → vgives s (vtyBits ty) b = some y →
    (s.my.vbusy.getLsbD d → exec i s = .next { s with note := .waiting }) ∧
    (s.my.vbusy.getLsbD d = false → s.my.par.v.getLsbD d → exec i s = .next (trapped s .uncorrectable 0)))

/-- R37, R286-R291, R362: the vector operations that go element by element. -/
def Obligations.VectorElementResults : Prop := VectorArithmetic ∧ VectorDivideAndConvert ∧ VectorSourceStops

/-- R286, R292-R294: a compare sets bit j of its mask where lane j is active and the condition holds for every element of the
lane; `vsel` takes each lane from VA or VB by its mask; the mask operations act on all 16 bits. -/
def Sys2Proof.Claims.VectorComparesAndMasks : Prop :=
  (∀ (i : Instr) (ty : VTy) (d : Fin 8) (a b : VSrc) (k : Fin 8) (p : Nat → Nat → Bool) (s : State) (x y : BitVec 512)
      (m : BitVec 16), vecConds i = some (ty, d, a, b, k, p) → i.wf → Alone s → s.my.anch →
    vgives s (vtyBits ty) a = some x → vgives s (vtyBits ty) b = some y →
    (∀ j < 16, m.getLsbD j = (s.my.active k 32 j && (List.range (32 / vtyBits ty)).all fun q =>
      p (elemOf (vtyBits ty) x (j * (32 / vtyBits ty) + q)) (elemOf (vtyBits ty) y (j * (32 / vtyBits ty) + q)))) →
    exec i s = .next (retired (mtakes s d m))) ∧
  (∀ (ty : VTy) (d : Fin 16) (a b : VSrc) (k : Fin 8) (s : State) (x y r : BitVec 512), k ≠ 0 → Alone s → s.my.anch →
    vgives s (vtyBits ty) a = some x → vgives s (vtyBits ty) b = some y → vsettled s d 0 →
    (∀ j < 16, elemOf 32 r j = if s.my.m[k].getLsbD j then elemOf 32 x j else elemOf 32 y j) →
    exec (.vsel ty d a b k) s = .next (retired (vtakes s d r))) ∧
  (∀ (d a b : Fin 8) (s : State), d ≠ 0 → a ≠ 0 → b ≠ 0 → Alone s → s.my.anch →
    exec (.mand d a b) s = .next (retired (mtakes s d (s.my.m[a] &&& s.my.m[b]))) ∧
    exec (.mor d a b) s = .next (retired (mtakes s d (s.my.m[a] ||| s.my.m[b]))) ∧
    exec (.mnot d a) s = .next (retired (mtakes s d (~~~s.my.m[a])))) ∧
  (∀ (d : Fin 16) (a : Fin 8) (s t : State), a ≠ 0 → Alone s → s.my.anch →
    takes s (.g d) (wrap ((List.range 16).countP fun j => s.my.m[a].getLsbD j)) = some t →
    exec (.mpopc d a) s = .next (retired t))

/-- R295-R299: the permutations move elements, `vext` and `vins` move one element to and from a general register, `vpfx` sums
the elements before each, the reductions combine the active elements in ascending order, and `vnzs` lists the active
non-zero lanes. -/
def Sys2Proof.Claims.VectorPermutationsAndReductions : Prop :=
  (∀ (ty : VTy) (d : Fin 16) (a b : VSrc) (k : Fin 8) (s : State) (x y r : BitVec 512), Alone s → s.my.anch →
    vgives s (vtyBits ty) a = some x → vgives s (vtyBits ty) b = some y → vsettled s d k →
    ((∀ e < count (vtyBits ty), elemOf (vtyBits ty) r e =
        if s.my.active k (vtyBits ty) e then elemOf (vtyBits ty) x (elemOf (vtyBits ty) y e % count (vtyBits ty))
        else elemOf (vtyBits ty) s.my.v[d] e) → exec (.vshuf ty d a b k) s = .next (retired (vtakes s d r))) ∧
    ((∀ e < count (vtyBits ty), elemOf (vtyBits ty) r e =
        if s.my.active k (vtyBits ty) e then elemOf (vtyBits ty) x 0 else elemOf (vtyBits ty) s.my.v[d] e) →
      exec (.vbcast ty d a k) s = .next (retired (vtakes s d r))) ∧
    ((∀ e < count (vtyBits ty), elemOf (vtyBits ty) r e =
        if s.my.active k (vtyBits ty) e then
          prefixSum (s.my.active k (vtyBits ty))
            (if vtFloat ty then (vfmt ty).add s.my.rmode else fun p q => (p + q) % 2 ^ vtyBits ty)
            (elemOf (vtyBits ty) x) (elemOf (vtyBits ty) y 0) e
        else elemOf (vtyBits ty) s.my.v[d] e) → exec (.vpfx ty d a b k) s = .next (retired (vtakes s d r)))) ∧
  (∀ (ty : VTy) (d a b : Fin 16) (s : State) (x : BitVec 512) (i : Word), Alone s → s.my.anch →
    gives s (.g b) = some (i, s) →
    (∀ t, vgives s (vtyBits ty) (.v a) = some x →
      takes s (.g d) (asWord ty (elemOf (vtyBits ty) x (i.toNat % count (vtyBits ty)))) = some t →
      exec (.vext ty d a b) s = .next (retired t)) ∧
    (∀ r y, gives s (.g a) = some (y, s) → vwhole s d →
      (∀ e < count (vtyBits ty), elemOf (vtyBits ty) r e =
        if e = i.toNat % count (vtyBits ty) then y.toNat % 2 ^ vtyBits ty else elemOf (vtyBits ty) s.my.v[d] e) →
      exec (.vins ty d a b) s = .next (retired (vtakes s d r)))) ∧
  (∀ (ty : VTy) (d a : Fin 16) (k : Fin 8) (s t : State) (x : BitVec 512), Alone s → s.my.anch →
    vgives s (vtyBits ty) (.v a) = some x →
    (takes s (.g d) (if vtFloat ty then BitVec.ofNat 64 (combined ((vfmt ty).add s.my.rmode) 0 (activeElems s (vtyBits ty) k x))
        else wrap ((activeElems s (vtyBits ty) k x).map (signedOf (vtyBits ty))).sum) = some t →
      exec (.vredAdd ty d a k) s = .next (retired t)) ∧
    (takes s (.g d) (asWord ty (if vtFloat ty then combined ((vfmt ty).minmax false) (vfmt ty).infBits (activeElems s (vtyBits ty) k x)
        else combined (fun p q => if signedOf (vtyBits ty) p < signedOf (vtyBits ty) q then p else q) (2 ^ (vtyBits ty - 1) - 1)
          (activeElems s (vtyBits ty) k x))) = some t →
      exec (.vredMin ty d a k) s = .next (retired t)) ∧
    (takes s (.g d) (asWord ty (if vtFloat ty then
        combined ((vfmt ty).minmax true) ((vfmt ty).infBits + (vfmt ty).signBit) (activeElems s (vtyBits ty) k x)
        else combined (fun p q => if signedOf (vtyBits ty) p < signedOf (vtyBits ty) q then q else p) (2 ^ (vtyBits ty - 1))
          (activeElems s (vtyBits ty) k x))) = some t →
      exec (.vredMax ty d a k) s = .next (retired t))) ∧
  (∀ (d a b : Fin 16) (k : Fin 8) (s : State) (x r : BitVec 512) (base : Word) (hits : List Nat), Alone s → s.my.anch →
    vgives s 32 (.v a) = some x → gives s (.g b) = some (base, s) → vsettled s d 0 →
    hits = (List.range 16).filter (fun j => s.my.active k 32 j && elemOf 32 x j != 0) →
    (∀ j < 16, elemOf 32 r j = match hits[j]? with | some p => (base.toNat + p) % 2 ^ 32 | none => 2 ^ 32 - 1) →
    exec (.vnzs d a b k) s = .next (retired (vtakes (mtakes s 7 (BitVec.ofNat 16 (2 ^ hits.length - 1))) d r)))

/-- R286, R292-R299: compares, masks, permutations and reductions. -/
def Obligations.VectorLaneResults : Prop := VectorComparesAndMasks ∧ VectorPermutationsAndReductions

namespace Sys2Proof.Claims

/-- Element bytes, VD, MK and lane addresses of the vector loads of modes 0, 2 and 4, given the words and the vector in A and B (R300). -/
def vecLoads : Instr → Option (VSize × Fin 16 × Fin 16 × (Reg ⊕ Fin 16) × Fin 8)
  | .vld z d a b k => some (z, d, a, .inl b, k)
  | .vlds z d a b k => some (z, d, a, .inl b, k)
  | .vgath z d a b k => some (z, d, a, .inr b, k)
  | _ => none

/-- The same for the vector stores of modes 1, 3 and 5 (R300). -/
def vecStores : Instr → Option (VSize × Fin 16 × Fin 16 × (Reg ⊕ Fin 16) × Fin 8)
  | .vst z d a b k => some (z, d, a, .inl b, k)
  | .vsts z d a b k => some (z, d, a, .inl b, k)
  | .vscat z d a b k => some (z, d, a, .inr b, k)
  | _ => none

/-- R300: the address of lane j: base and offset plus the lane times the size, base plus the lane times the stride, or
base plus the signed index in lane j times the size. -/
def laneAddress (i : Instr) (size : Nat) (x : Word) (y : Word) (v : BitVec 512) (j : Nat) : Word :=
  match i with
  | .vld _ _ _ _ _ => x + y + wrap (j * size)
  | .vst _ _ _ _ _ => x + y + wrap (j * size)
  | .vlds _ _ _ _ _ => x + wrap (j * y.toInt)
  | .vsts _ _ _ _ _ => x + wrap (j * y.toInt)
  | _ => x + wrap (signedOf 32 (elemOf 32 v j) * size)

/-- What B gives: a word for a register, a vector for modes 4 and 5. -/
def bGives (s : State) (y : Word) (v : BitVec 512) : Reg ⊕ Fin 16 → Prop
  | .inl b => gives s b = some (y, s)
  | .inr n => vgives s 32 (.v n) = some v

/-- A lane's access goes to home h: R253 with RET, and never to host space (R301). -/
def LaneGoes (s : State) (va : Word) (size : Nat) (h : Home) : Prop :=
  Reaches s va size h ∧ Stays s va h false ∧ spaceOf va ≠ .host

/-- R301: the lanes of a load at the thread's own core, one after the other: each active lane gets its zero-extended
element, from the thread's own store that covers it, or from the bank once no store of the thread waits there and what it
sent before is performed. -/
def lanesLoaded (size : Nat) (k : Fin 8) (addr : Nat → Word) : List Nat → State → BitVec 512 → State → BitVec 512 → Prop
  | [], s, acc, t, r => t = s ∧ r = acc
  | j :: rest, s, acc, t, r =>
    if s.my.active k 32 j then
      LaneGoes s (addr j) size (.core s.cur.loc) ∧
      ∃ s1 p e b z x, s.check (s.myReq (.core s.cur.loc) (addr j) size false) = (s1, .ok p e b z) ∧
        (s1.forwarded (addr j) size (some p) = .value x ∨
          (s1.forwarded (addr j) size (some p) = .none ∧ s1.myTurn ∧ s1.isBad p size = false ∧ x = s1.num p size)) ∧
        lanesLoaded size k addr rest s1 (setLane acc j x) t r
    else lanesLoaded size k addr rest s acc t r

/-- R301, R68, R152: the lanes of a store, one after the other: each active lane's element enters its queue. -/
def lanesStored (size : Nat) (k : Fin 8) (addr : Nat → Word) (x : BitVec 512) : List Nat → State → State → Prop
  | [], s, t => t = s
  | j :: rest, s, t =>
    if s.my.active k 32 j then
      ∃ h u, LaneGoes s (addr j) size h ∧ lanesStored size k addr x rest u t ∧
        ((h ≠ .core s.cur.loc ∧ queued s (s.mkStore (addr j) size (BitVec.ofNat 64 (elemOf 32 x j)) h none) = some u) ∨
          (h = .core s.cur.loc ∧ ∃ s1 p e b z, s.check (s.myReq h (addr j) size true) = (s1, .ok p e b z) ∧
            queued s1 { s1.mkStore (addr j) size (BitVec.ofNat 64 (elemOf 32 x j)) h none with phys := some p } = some u))
    else lanesStored size k addr x rest s t

end Sys2Proof.Claims

/-- R24, R40, R300-R303: a vector load whose lanes are all at the thread's own core retires with the elements in VD; a lane at
another home leaves as a request and the slot is held; and once the last lane has answered, VD holds what the lanes read. A
lane that a closed region or a hardware area refuses traps, at the thread's own core as at another home, with LRV and LANE set
and VD as the lanes below left it; it is neither poisoned nor recorded, which is the model's reading (log entry 94). -/
def Sys2Proof.Claims.VectorLoads : Prop :=
  ∀ (i : Instr) (z : VSize) (d a : Fin 16) (b : Reg ⊕ Fin 16) (k : Fin 8) (s : State) (x y : Word) (v : BitVec 512),
    vecLoads i = some (z, d, a, b, k) → i.wf → Alone s → s.my.anch → gives s (.g a) = some (x, s) → bGives s y v b →
    s.laneOut = none → vsettled s d k →
    (∀ t r, s.my.pend = .idle → s.my.lrv = false →
      lanesLoaded (vszBytes z) k (laneAddress i (vszBytes z) x y v) (List.range 16) s s.my.v[d] t r →
      t.my.vbusy.getLsbD d = false → t.cur.fan = [] → exec i s = .next (retired (vtakes t d r))) ∧
    (∀ j h, s.my.pend = .idle → s.my.lrv = false → j < 16 → s.my.active k 32 j →
      (∀ q < j, s.my.active k 32 q = false) → LaneGoes s (laneAddress i (vszBytes z) x y v j) (vszBytes z) h →
      h ≠ .core s.cur.loc →
      s.forwarded (laneAddress i (vszBytes z) x y v j) (vszBytes z) none = .none →
      exec i s = .next (held ((s.send (s.mkPkt (.lane d j (vszBytes z)) h (laneAddress i (vszBytes z) x y v j))).updMy
        fun f => { f with pend := .lanes j s.my.v[d] }))) ∧
    (∀ acc, s.my.pend = .lanes 16 acc → exec i s = .next (retired (vtakes s d acc))) ∧
    (∀ j s1, s.my.pend = .idle → s.my.lrv = false → j < 16 → s.my.active k 32 j →
      (∀ q < j, s.my.active k 32 q = false) →
      LaneGoes s (laneAddress i (vszBytes z) x y v j) (vszBytes z) (.core s.cur.loc) →
      let va := laneAddress i (vszBytes z) x y v j
      let stopped := s.updMy fun f => { ((f.setT 36 1 1).setT 37 4 j) with pend := .idle, v := f.v.set d s.my.v[d] }
      (s.check (s.myReq (.core s.cur.loc) va (vszBytes z) false) = (s1, .isol) →
        exec i s = .next (trapped stopped .remoteDenied va)) ∧
      (s.check (s.myReq (.core s.cur.loc) va (vszBytes z) false) = (s1, .area) →
        exec i s = .next (trapped stopped .protection va))) ∧
    (∀ (q j n : Nat) (acc : BitVec 512) (u t : State) (p : Pkt) (r : HRes) (c : Cause), p.kind = .lane d j n →
      u.pkt q = some p → u.mayPerform q p → (u.dropPkt q).check (p.req n false) = (t, r) →
      (r = .isol ∧ c = .remoteDenied ∨ r = .area ∧ c = .protection) → (t.frame p.key).used → (t.frame p.key).uid = p.uid →
      (t.frame p.key).pend = .lanes j acc →
      exec (.dataReturnRequest q) u = .next { (t.updFrame p.key fun f => { ((f.setT 36 1 1).setT 37 4 j) with
        v := f.v.set d acc, pend := .got (.fail c p.va) }).wakeLane p with note := .moved })

/-- R300-R302: a vector store retires once the elements of its active lanes have entered their queue in lane order. -/
def Sys2Proof.Claims.VectorStores : Prop :=
  ∀ (i : Instr) (z : VSize) (d a : Fin 16) (b : Reg ⊕ Fin 16) (k : Fin 8) (s t : State) (x y : Word) (v : BitVec 512),
    vecStores i = some (z, d, a, b, k) → i.wf → Alone s → s.my.anch → gives s (.g a) = some (x, s) → bGives s y v b →
    vwhole s d → s.my.pend = .idle → s.my.lrv = false →
    lanesStored (vszBytes z) k (laneAddress i (vszBytes z) x y v) s.my.v[d] (List.range 16) s t →
    exec i s = .next (retired t)

/-- R24, R40, R300-R303: the vector loads and stores. The lanes are performed in ascending order, one after the other (log entry
13). -/
def Obligations.VectorLoadsAndStores : Prop := VectorLoads ∧ VectorStores

/-- R304, R305: `vldt` of a ready tile reads its 64-byte chunk into the active lanes of VD, and `vstt` enters the active
lanes as stores to the chunk, in the task store buffer under IDEM (R68); a decoded vector load is one read at the thread's own core, or leaves as one request from
another home, whose answer goes to the active lanes. -/
def Sys2Proof.Claims.TileAndDecodedVectors : Prop :=
  (∀ (d a : Fin 16) (b : Reg) (k : Fin 8) (s : State) (x y : Word) (n p : Nat) (e : Tile), b.np → Alone s → s.my.anch →
    gives s (.g a) = some (x, s) → gives s b = some (y, s) → s.handle s.cur.loc x = some n →
    e = (s.core s.cur.loc).tile n → e.state = 2 → e.chunk s.cur.loc y = some p → s.locks = [] →
    s.acqHeld (.core s.cur.loc) 0 = false →
    (∀ r, vsettled s d k → ((s.core s.cur.loc).buffered.any fun q => q.covers s.my.uid p 64) = false → s.myTurn → s.isBad p 64 = false →
      (∀ j < 16, elemOf 32 r j = if s.my.active k 32 j then s.num (p + 4 * j) 4 else elemOf 32 s.my.v[d] j) →
      exec (.vldt d a b k) s = .next (retired (vtakes s d r))) ∧
    (vwhole s d → s.pouring = false →
      (if s.my.idem then ((s.core s.cur.loc).slot s.cur.slot).tsb.length ≤ 48 else (s.core s.cur.loc).sb = []) →
      exec (.vstt d a b k) s = .next (retired (tileStores s p s.my.v[d] k)))) ∧
  (∀ (i : Instr) (ty : DecTy) (d a : Fin 16) (b : Reg) (k : Fin 8) (s : State) (x y : Word),
    (i = .vldfF32 d a b k ∧ ty = .f32) ∨ (i = .vldfBf16 d a b k ∧ ty = .bf16) ∨ (i = .vldfI32 d a b k ∧ ty = .i32) →
    b.np → Alone s → s.my.anch → gives s (.g a) = some (x, s) → gives s b = some (y, s) → vsettled s d k →
    (∀ v r, s.my.pend = .got (.vec v) →
      (∀ j < 16, elemOf 32 r j = if s.my.active k 32 j then elemOf 32 v j else elemOf 32 s.my.v[d] j) →
      exec i s = .next (retired (vtakes s d r))) ∧
    (∀ c va, s.my.pend = .got (.fail c va) → exec i s = .next (trapped s c va)) ∧
    (∀ h, s.my.pend = .idle → s.laneOut = none → spaceOf (x + y) ≠ .host → spaceOf (x + y + 127) ≠ .spread →
      Reaches s (x + y) 1 h → Stays s (x + y) h false →
      (h ≠ .core s.cur.loc → exec i s = .next (asked s (.vldf ty (s.my.activeLanes k)) h (x + y))) ∧
      (∀ s1 v, h = .core s.cur.loc → s.myTurn →
        vldfRead s ty s.my.rmode (s.reader s.me s.nextId) (x + y) (s.my.activeLanes k) s.my.v[d] = (s1, .ok (.lanes v)) →
        s1.my.vbusy.getLsbD d = false → s1.cur.fan = [] → exec i s = .next (retired (vtakes s1 d v)))))

/-- R37: a vector instruction of a light thread traps with PRIVILEGE, whatever its operands. -/
def Sys2Proof.Claims.VectorNeedsAnchored : Prop :=
  ∀ (i : Instr) (w : W32) (s : State), i.wf → encode i = some w → 0x30 ≤ w.toNat / 2 ^ 26 → w.toNat / 2 ^ 26 ≤ 0x35 →
    Alone s → s.my.anch = false → exec i s = .next (trapped s .privilege 0)

/-- R37, R304, R305: the vector accesses to tiles and decoded pages, and that every vector instruction needs an anchored thread. -/
def Obligations.VectorTilesAndRights : Prop := TileAndDecodedVectors ∧ VectorNeedsAnchored

/-! ## Events: results, and requests at their homes -/

namespace Sys2Proof.Claims

/-- The event has taken place. -/
def happened (t : State) : State := { t with note := .moved }

/-- The thread that a packet comes from is where it was when it sent it. -/
def Resident (s : State) (p : Pkt) : Prop := (s.frame p.key).used = true ∧ (s.frame p.key).uid = p.uid

/-- The thread of a packet holds its slot for the answer (R254). -/
def Awaits (s : State) (p : Pkt) : Prop := Resident s p ∧ (s.frame p.key).pend = .sent p.id

/-- The answer reaches the thread. -/
def got (s : State) (p : Pkt) (a : Ans) : State := s.updFrame p.key fun f => { f with pend := .got a }

/-- A register of a thread as a result leaves it: a poisoned one reads 0 (R215, R254), and its parity is good again (R362). -/
def landedG (f : Frame) (d : Fin 16) (v : Word) (bad : Bool) : Frame :=
  { f with
    g := f.g.set d (if bad then 0 else v), par := { f.par with g := f.par.g &&& ~~~(BitVec.twoPow 16 d) }, full := f.full ||| BitVec.twoPow 16 d
    poisoned := if bad then f.poisoned ||| BitVec.twoPow 16 d else f.poisoned &&& ~~~(BitVec.twoPow 16 d) }

/-- A vector register as a result leaves it, its parity good again (R287, R362). -/
def landedV (f : Frame) (d : Fin 16) (v : BitVec 512) : Frame :=
  { f with v := f.v.set d v, par := { f.par with v := f.par.v &&& ~~~(BitVec.twoPow 16 d) }, vbusy := f.vbusy &&& ~~~(BitVec.twoPow 16 d) }

/-- Packet k has its turn, and the checks of its home let its n bytes through to place a of a page with entry e, base b
and size z; t is the state after them (R123, R131, R254). -/
def Admitted (s : State) (k : Nat) (p : Pkt) (n : Nat) (write : Bool) (t : State) (a : Nat) (e : Word) (b z : Nat) : Prop :=
  s.pkt k = some p ∧ s.mayPerform k p = true ∧ ∃ t0, (s.dropPkt k).check (p.req n write) = (t0, .ok a e b z) ∧
    t = t0.countReq p.home p.src p.va write

/-- The same for a decoded access, whose page is checked for its first byte; a slice has its element's scale byte too
(R130, R257, R258). -/
def AdmittedDec (s : State) (k : Nat) (p : Pkt) (ty : DecTy) (write : Bool) (t : State) (a : Nat) (e : Word) (b z : Nat) :
    Prop :=
  s.pkt k = some p ∧ s.mayPerform k p = true ∧
    ∃ t0, (s.dropPkt k).check (p.req (decSize ty) write).decoded = (t0, .ok a e b z) ∧
      t = (t0.countReq p.home p.src p.va write).fillScale p.home e b z p.va a

/-- What stops a decoded access at its home: R136's cases, the element's alignment, then a range lock (R143, R257). -/
def decStops (t : State) (p : Pkt) (ty : DecTy) (write : Bool) (a : Nat) (e : Word) (b z : Nat) : Option Cause :=
  t.decStop (p.req (decSize ty) write) ty e b z a

/-- What a decoded load finds in the buffers of the thread that sent it (R68, R152). -/
def decFound (t : State) (p : Pkt) (ty : DecTy) (a : Nat) (e : Word) (b z : Nat) : DecFwd :=
  decFwd ((t.core p.src).forwarded p.uid) p.va a false (scalePlace e b z p.va a) (decElem (pteFmt e) (decSize ty))

/-- No earlier write of the thread to an element's scale byte is on its way (R150). -/
def scaleCome (t : State) (p : Pkt) (a : Nat) (e : Word) (b z : Nat) : Prop :=
  ∀ x ∈ scalePlace e b z p.va a, t.owes p.uid p.id x.1 1 = false

/-- Packet k stays where it stood among the others. -/
def stays (t : State) (k : Nat) (p : Pkt) : State := { t with net := t.net.take k ++ p :: t.net.drop k }

/-- A load's value sets out for its register (R256). -/
def replySent (t : State) (p : Pkt) (d : Fin 16) (v : Word) (bad : Bool) (acq : Option Scope) : State :=
  t.send { p with kind := .result d v bad false acq, home := .core p.src, via := [], refused := false, asked := p.id }

/-- The actor of a packet. -/
def sender (p : Pkt) : Actor := { user := p.user, launch := p.launch, lmod := p.lmod }

/-- The request of a buffered store, which met the locks of its own core at issue (R254). -/
def bufferReq (l : Loc) (e : SEntry) : Req :=
  { home := e.home, va := e.va, size := e.size, write := true, user := e.user, launch := e.launch, lmod := e.lmod
    locks := e.home != .core l }

end Sys2Proof.Claims

/-- R73, R216, R256, R287: a result on its way arrives at its register, full again and poisoned when its load failed, or at
its vector register, no longer busy; under `solo` a copy sets out for each other member, and arrives likewise. A thread
that has gone gets nothing. -/
def Obligations.ResultsArrive : Prop :=
  ∀ (k : Nat) (s : State) (p : Pkt), s.pkt k = some p →
    (∀ d v bad long acq, p.kind = .result d v bad long acq → ∃ t,
      exec (if long then .longLatencyResult k else .loadReply k) s = .next t ∧ t.note = .moved ∧
      (Resident s p → t.frame p.key = landedG (s.frame p.key) d v bad) ∧
      (¬Resident s p → t.frames = s.frames) ∧ (∀ j, j ≠ p.key → t.frame j = s.frame j) ∧ SameMemory s t ∧
      t.net.map (fun q => (q.kind, q.key, q.home)) =
        (s.net.take k ++ s.net.drop (k + 1)).map (fun q => (q.kind, q.key, q.home)) ++
          p.fan.map fun j => (.soloG d v bad, j, .core (keyLoc j))) ∧
    (∀ d v, p.kind = .vresult d v → ∃ t, exec (.longLatencyResult k) s = .next t ∧ t.note = .moved ∧
      (Resident s p → t.frame p.key = landedV (s.frame p.key) d v) ∧
      (¬Resident s p → t.frames = s.frames) ∧ (∀ j, j ≠ p.key → t.frame j = s.frame j) ∧ SameMemory s t ∧
      t.net.map (fun q => (q.kind, q.key, q.home)) =
        (s.net.take k ++ s.net.drop (k + 1)).map (fun q => (q.kind, q.key, q.home)) ++
          p.fan.map fun j => (.soloV d v, j, .core (keyLoc j))) ∧
    (∀ d v bad, p.kind = .soloG d v bad → Resident s p →
      exec (.soloResultArrival k) s = .next (happened ((s.dropPkt k).updFrame p.key fun f => landedG f d v bad))) ∧
    (∀ d v, p.kind = .soloV d v → Resident s p →
      exec (.soloResultArrival k) s = .next (happened ((s.dropPkt k).updFrame p.key fun f => landedV f d v)))

/-- R68, R136, R143, R150, R254, R256, R257, R258, R302, R305: a read whose turn has come at its home is performed in one step: a
load's value, or its poison, sets out for its register; a decoded load's element, read from memory or from the thread's own
buffered store, is converted and answers the thread that waits, what stops it is raised by the thread, a range lock poisons
it with a record, and a store of the thread that has to be performed first drains from the task store buffer or is waited for,
one that is on its way too (R150); a lane's
element joins the others and the next lane may go; a decoded vector load answers with its lanes.
The next lane goes when the one before has been performed (log entry 13). -/
def Obligations.ReadsPerformed : Prop :=
  (∀ (k n : Nat) (sgn : Bool) (d : Fin 16) (acq : Option Scope) (s t : State) (p : Pkt) (a : Nat) (e : Word) (b z : Nat),
    p.kind = .load n sgn (some d) acq → n ∈ [1, 2, 4, 8] → Admitted s k p n false t a e b z →
    (t.isBad a n = false → exec (.dataReturnRequest k) s =
      .next (happened (replySent t p d (widened n sgn (t.num a n)) false acq))) ∧
    (t.isBad a n → exec (.dataReturnRequest k) s = .next (happened (replySent t p d 0 true acq)))) ∧
  (∀ (k : Nat) (ty : DecTy) (s t : State) (p : Pkt) (a : Nat) (e : Word) (b z : Nat),
    p.kind = .ldf ty → AdmittedDec s k p ty false t a e b z →
    (∀ c, decStops t p ty false a e b z = some c → c ≠ .rangeLocked → Awaits t p →
      exec (.dataReturnRequest k) s = .next (happened (got t p (.fail c p.va)))) ∧
    (decStops t p ty false a e b z = some .rangeLocked → Awaits (t.record p.home 0x04 .lock p.va p.launch p.lmod) p →
      exec (.dataReturnRequest k) s =
        .next (happened (got (t.record p.home 0x04 .lock p.va p.launch p.lmod) p .poison))) ∧
    (decStops t p ty false a e b z = none → Awaits t p →
      (∀ own, (decFound t p ty a e b z = .none ∧ own = none ∧
            t.owes p.uid p.id p.va (decElem (pteFmt e) (decSize ty)) = false ∨
          ∃ x, decFound t p ty a e b z = .value x ∧ own = some x) → scaleCome t p a e b z →
        (∀ v, decLoad t ty (t.frame p.key).rmode e z a (p.va.toNat - b) own = .ok v →
          exec (.dataReturnRequest k) s = .next (happened (got t p (.val v)))) ∧
        (decLoad t ty (t.frame p.key).rmode e z a (p.va.toNat - b) own = .poison →
          exec (.dataReturnRequest k) s = .next (happened (got t p .poison)))) ∧
      (∀ x n o, decFound t p ty a e b z = .after x n o →
        (t.heldFor p x n o → exec (.dataReturnRequest k) s =
          .next (happened ((got t p (.again p.va)).wakeLane p))) ∧
        (t.heldFor p x n o = false → exec (.dataReturnRequest k) s = .next (happened (stays t k p)))) ∧
      (decFound t p ty a e b z = .none → t.owes p.uid p.id p.va (decElem (pteFmt e) (decSize ty)) →
        exec (.dataReturnRequest k) s = .next (happened (stays t k p))))) ∧
  (∀ (k j n : Nat) (d : Fin 16) (acc : BitVec 512) (s t : State) (p : Pkt) (a : Nat) (e : Word) (b z : Nat),
    p.kind = .lane d j n → Admitted s k p n false t a e b z → Resident t p → (t.frame p.key).pend = .lanes j acc →
    (t.isBad a n = false → exec (.dataReturnRequest k) s = .next (happened ((t.updFrame p.key fun f =>
      { f with pend := .lanes (j + 1) (setLane acc j (t.num a n)) }).wakeLane p))) ∧
    (t.isBad a n → exec (.dataReturnRequest k) s = .next (happened ((t.updFrame p.key fun f =>
      { ((f.setT 36 1 1).setT 37 4 j) with v := f.v.set d acc, pend := .got (.fail .uncorrectable p.va) }).wakeLane p)))) ∧
  (∀ (k : Nat) (ty : DecTy) (act : BitVec 16) (s t : State) (p : Pkt) (v : BitVec 512), p.kind = .vldf ty act →
    s.pkt k = some p → s.mayPerform k p →
    vldfRead (s.dropPkt k) ty (s.frame p.key).rmode
      { (s.dropPkt k).reader p.key p.id with
        loc := p.src, user := p.user, launch := p.launch, lmod := p.lmod } p.va act 0 = (t, .ok (.lanes v)) → Awaits t p →
    exec (.dataReturnRequest k) s = .next (happened ((got t p (.vec v)).wakeLane p)))

/-- A word that the device writes has found its home: one that a home passed on stays there, and so does one outside
spread space whose home the address names (R58, R116). -/
def Sys2Proof.Claims.AtItsHome (p : Pkt) : Prop :=
  p.via ≠ [] ∨ (vaBad p.va = false ∧ spaceOf p.va ≠ .spread ∧ homeOf (Loc.module p.src) p.va = p.home)

/-- R152, R153, R254, R258, R260, R261, R265, R267, R272: a store whose turn has come is performed and writes its bytes, but
not over part of an uncorrectable doubleword, which leaves a record; a decoded store writes its converted element, or gives
an idempotent task the bytes to buffer, once no earlier store of the thread to its scale byte waits (R150); the head of a store
buffer is performed too where its access is die-local, and otherwise sets out for its home, no packet lost on the way, and what
drains from a task store buffer moves up; an atomic reads, combines and writes in one step, and a returning one answers with the
old value; a posted one that a reduction window combines joins the window's current step; a join cell counts up or down by
one; a task record's counter goes down and the answer is what is left. -/
def Sys2Proof.Claims.WritesPerformed : Prop :=
  (∀ (k n : Nat) (v : Word) (s t : State) (p : Pkt) (a : Nat) (e : Word) (b z : Nat),
    p.kind = .store n v ∨ (p.kind = .word v ∧ n = 8 ∧ AtItsHome p) → Admitted s k p n true t a e b z →
    (t.badUnder a n = false → exec (.storePerform p.src k) s =
      .next (happened (t.writeAt p.home p.va a (bytesOf n v.toNat)))) ∧
    (t.badUnder a n → exec (.storePerform p.src k) s =
      .next (happened (t.record p.home 0x05 .uncorrectable p.va p.launch p.lmod)))) ∧
  (∀ (k : Nat) (ty : DecTy) (y : Word) (probe : Bool) (bs : List Byte) (s t : State) (p : Pkt) (a : Nat) (e : Word)
      (b z : Nat),
    p.kind = .stf ty y probe → AdmittedDec s k p ty true t a e b z → Awaits t p → decStops t p ty true a e b z = none →
    decStore t ty (t.frame p.key).rmode e z a (p.va.toNat - b) y = some bs → scaleCome t p a e b z →
    (∀ x ∈ scalePlace e b z p.va a, (t.core p.src).forwarded p.uid x.1 1 none = .none) →
    (∀ x ∈ scalePlace e b z p.va a, t.heldFor p x.1 1 none = false) →
    (probe → exec (.storePerform p.src k) s = .next (happened (got t p (.buffer p.va bs)))) ∧
    (probe = false → t.badUnder a bs.length = false →
      exec (.storePerform p.src k) s = .next (happened (got (t.writeAt p.home p.va a bs) p (.val 0))))) ∧
  (∀ (k : Nat) (ty : DecTy) (y : Word) (probe : Bool) (s t : State) (p : Pkt) (a : Nat) (e : Word) (b z : Nat),
    p.kind = .stf ty y probe → AdmittedDec s k p ty true t a e b z → decStops t p ty true a e b z = none →
    ((∃ x ∈ scalePlace e b z p.va a, t.heldFor p x.1 1 none) → Awaits t p →
      exec (.storePerform p.src k) s = .next (happened (got t p (.restore p.va y)))) ∧
    ((∀ x ∈ scalePlace e b z p.va a, t.heldFor p x.1 1 none = false) → ¬scaleCome t p a e b z →
      exec (.storePerform p.src k) s = .next (happened (stays t k p)))) ∧
  (∀ (loc k : Nat) (x : SEntry) (r : List SEntry) (s : State), s.pkt k = none → (s.core loc).sb = x :: r →
    s.mayStore loc x →
    (s.farStore loc x → (s.setOff (x.pkt loc)).Perm (x.pkt loc :: s.net) ∧ exec (.storePerform loc k) s =
      .next (happened { (s.updCore loc fun c => { c with sb := r }.pour) with net := s.setOff (x.pkt loc) })) ∧
    (∀ t a e b z, x.tile = false → s.farStore loc x = false →
      (s.updCore loc fun c => { c with sb := r }.pour).check (bufferReq loc x) = (t, .ok a e b z) →
      (t.countReq x.home loc x.va true).badUnder a x.size = false →
      exec (.storePerform loc k) s =
        .next (happened ((t.countReq x.home loc x.va true).writeAt x.home x.va a (bytesOf x.size x.v.toNat)))) ∧
    (∀ a, x.tile → x.phys = some a → s.badUnder a x.size = false → exec (.storePerform loc k) s =
      .next (happened ((s.updCore loc fun c => { c with sb := r }.pour).poke a (bytesOf x.size x.v.toNat))))) ∧
  (∀ (k : Nat) (op : AmoOp) (w : Bool) (y v : Word) (s t : State) (p : Pkt) (a : Nat) (e : Word) (b z : Nat),
    Admitted s k p (atomicBytes op w) true t a e b z → pteKind e ≠ 3 → t.isBad a (atomicBytes op w) = false →
    (p.kind = .amo op w y v → Awaits t p →
      exec (.atomicPerform k) s = .next (happened (got
        (t.writeAt p.home p.va a (bytesOf (atomicBytes op w) (amoApply op w (t.num a (atomicBytes op w)) y.toNat v.toNat))) p
        (.val (BitVec.ofNat 64 (t.num a (atomicBytes op w))))))) ∧
    (p.kind = .post op w y → (s.dropPkt k).windowFor p op w = none → ¬Awaits t p →
      exec (.postedOperation k) s = .next (happened (t.writeAt p.home p.va a
        (bytesOf (atomicBytes op w) (amoApply op w (t.num a (atomicBytes op w)) y.toNat 0)))))) ∧
  (∀ (k m w : Nat) (op : AmoOp) (dbl : Bool) (y : Word) (s : State) (p : Pkt), p.kind = .post op dbl y → s.pkt k = some p →
    s.mayPerform k p → (s.dropPkt k).windowFor p op dbl = some (m, w) →
    exec (.postedOperation k) s = .next (happened ((s.dropPkt k).updWindow m w fun x => { x with
      ops := x.ops ++ [{ step := x.step (Loc.module p.src), mod := Loc.module p.src, va := p.va, op := op, dbl := dbl
                         v := y, pkt := p }] }))) ∧
  (∀ (k : Nat) (s t : State) (p : Pkt) (a : Nat) (e : Word) (b z : Nat), Admitted s k p 8 true t a e b z →
    t.isBad a 8 = false →
    (p.kind = .joinInc → Awaits t p →
      exec (.joinCellIncrement k) s =
        .next (happened (got (t.writeAt p.home p.va a (bytesOf 8 (t.num a 8 + 1))) p (.val 0)))) ∧
    (p.kind = .joinDec → ¬Awaits t p →
      exec (.joinCellDecrement k) s =
        .next (happened (t.writeAt p.home p.va a (bytesOf 8 (t.num a 8 + 2 ^ 64 - 1)))))) ∧
  (∀ (k l n : Nat) (ret : Bool) (s t u : State) (p : Pkt), p.kind = .taskDec ret → s.pkt k = some p → s.mayPerform k p →
    p.home = .core l → (s.dropPkt k).decrement l (sender p) p.va = (t, .done n) →
    u = (t.countDown p.launch p.lmod).wakeNext p.launch p.lmod →
    (ret → Awaits u p → exec (.dependentTaskDecrement k) s = .next (happened (got u p (.val (BitVec.ofNat 64 n))))) ∧
    (ret = false → exec (.dependentTaskDecrement k) s = .next (happened u)))

/-- R67, R386: a decrement of a task record in place: an uncorrectable counter is left as it is; a counter of 0 underflows;
one above 1 goes down and leaves the queues; at 1 it reaches 0, and the record, its own link 0, becomes the tail of its
level's ready queue, counted as a task of its launch. -/
def Sys2Proof.Claims.RecordDecrements : Prop :=
  ∀ (s t : State) (l : Loc) (x : Actor) (va : Word) (p : Nat) (e : Word) (b z : Nat),
    s.check (x.req l va 64 true) = (t, .ok p e b z) →
    (t.isBad p 8 → s.decrement l x va = (t, .bad)) ∧
    (t.isBad p 8 = false →
      (t.num p 4 = 0 → s.decrement l x va = (t, .underflow)) ∧
      (2 ≤ t.num p 4 →
        s.decrement l x va = (t.writeAt (.core l) va p (bytesOf 4 (t.num p 4 - 1)), .done (t.num p 4 - 1))) ∧
      (t.num p 4 = 1 → ((t.core l).queue (t.num (p + 4) 1 % 4)).tail = 0 → t.memOk → ∃ u,
        s.decrement l x va = (u, .done 0) ∧ u.num p 4 = 0 ∧ u.num (p + 40) 8 = 0 ∧
        ((u.core l).queue (t.num (p + 4) 1 % 4)).tail = va ∧
        ((u.core l).queue (t.num (p + 4) 1 % 4)).tags =
          ((t.core l).queue (t.num (p + 4) 1 % 4)).tags ++ [{ launch := x.launch, lmod := x.lmod, va := va }]))

/-- R67, R254, R258, R260, R261, R265, R267, R272, R386: what a home does with a write, an atomic and a counter.
A store to another home leaves the buffer before it is performed (log entry 14). -/
def Obligations.HomesPerformWrites : Prop := WritesPerformed ∧ RecordDecrements

/-! ## Events: walks, fetches and the outcomes of faults -/

namespace Sys2Proof.Claims

/-- The state in which packet k is not refused. -/
def offered (s : State) (k : Nat) (p : Pkt) : State := { s with net := setAt s.net k { p with refused := false } }

/-- The event that performs a request of a kind for the first time. -/
def FirstTry (p : Pkt) (k : Nat) (i : Instr) : Prop :=
  match p.kind with
  | .load _ _ _ _ => i = .dataReturnRequest k
  | .ldf _ => i = .dataReturnRequest k
  | .store _ _ => i = .storePerform p.src k
  | .stf _ _ _ => i = .storePerform p.src k
  | .amo _ _ _ _ => i = .atomicPerform k
  | .post _ _ _ => i = .postedOperation k
  | .taskDec _ => i = .dependentTaskDecrement k
  | .joinInc => i = .joinCellIncrement k
  | .joinDec => i = .joinCellDecrement k
  | .record => i = .launchAccept k
  | _ => False

/-- A fault queue without entry x, and the resolution word gone (R128). -/
def resolved (s : State) (h : Home) (r : List (Home × Nat × Bool)) (x : FEntry) : State :=
  { s with words := r }.updHome h fun y =>
    { y with faults := y.faults.filter fun e => !(e.base == x.base && e.size == x.size) }

/-- The resolution word for entry q of a home comes next, and x is the one entry of its fault page (R126, R128). -/
def Resolves (s : State) (h : Home) (q : Nat) (deny : Bool) (r : List (Home × Nat × Bool)) (x : FEntry) : Prop :=
  s.words = (h, q, deny) :: r ∧ ((s.home h).faults.find? fun e => e.idx == q) = some x ∧
    ((s.home h).faults.filter fun e => e.base == x.base && e.size == x.size) = [x]

/-- The cause that a denied fault raises (R128). -/
def deniedCause : Reason → Cause
  | .notPresent => .translation
  | .fallow => .translation
  | .permission => .protection
  | .badEntry => .protection

end Sys2Proof.Claims

/-- R117, R120-R124, R130, R148, R157, R170, R174, R249: a walk puts the leaf into the TLB and sets A in the entry it came from, and no
other byte of memory changes; a fetched word enters its slot's buffer; a spread-table entry enters the cache of its core,
and a granule beyond the table is denied; an invalidate drops each translation of the address and each L2 sector of its page,
a dirty one being written back to its bank (R130, R148); a fence's marker is acknowledged in its turn.
The count of a spread table is read with each entry, and a read of the count or of an entry that is denied or uncorrectable leaves
a record and an entry that denies every access to the granule, the value of one beyond the table (log entry 42). -/
def Obligations.WalksAndFetches : Prop :=
  (∀ (h : Home) (va e : Word) (base size a : Nat) (s : State), (∃ p ∈ s.net, p.kind.isRequest ∧ p.home = h ∧ p.va = va) →
    s.memOk → s.tlbHit h va = none → walk s h va = .leaf base size e a → ∃ t, exec (.pageWalk h va) s = .next t ∧
      t.note = .moved ∧ t.tlbHit h va = some { base := base, size := size, pte := e ||| 0x10#64 } ∧
      Memory.get t.mem a = (e ||| 0x10#64).setWidth 8 ∧ ∀ j, j ≠ a → Memory.get t.mem j = Memory.get s.mem j) ∧
  (∀ (loc slot f p : Nat) (w : W32) (s u t : State), ((s.core loc).slot slot).bound = some f →
    u = { s with cur := { loc := loc, frame := f, slot := slot } } → u.my.wait = none → u.my.pend = .idle →
    u.my.rfa = false → (((s.core loc).slot slot).ibuf.any fun i => i.va == u.my.pc) = false →
    u.fetch u.my.pc = (t, .word w p) →
    exec (.instructionFetch loc slot) s = .next (happened (t.updSlot t.cur.loc t.cur.slot fun x => x.buffer u.my.pc p w))) ∧
  (∀ (k : Nat) (s t : State) (p : Pkt) (ptr : Word) (g m : Nat) (e : Word) (b z : Nat), p.kind = .spread →
    s.pkt k = some p → s.mayPerform k p → ptr = s.spreadPtr p.launch p.lmod → g = (p.va - ptr - 64).toNat / 4 →
    (s.dropPkt k).check { p.req 4 false with home := homeOf (Loc.module p.src) ptr, va := ptr } = (t, .ok m e b z) →
    (t.isBad m 4 → exec (.spreadEntryFetch k) s =
      .next (happened ((t.record p.home 0x05 .uncorrectable ptr p.launch p.lmod).spreadLoad p.src p.launch p.lmod g 0x1FFFFFFFF))) ∧
    (t.isBad m 4 = false → t.num m 4 ≤ g → exec (.spreadEntryFetch k) s =
      .next (happened (t.spreadLoad p.src p.launch p.lmod g 0x1FFFFFFFF))) ∧
    (∀ u a e' b' z', t.isBad m 4 = false → g < t.num m 4 → t.check (p.req 4 false) = (u, .ok a e' b' z') →
      (u.countReq p.home p.src p.va false).isBad a 4 → exec (.spreadEntryFetch k) s =
        .next (happened (((u.countReq p.home p.src p.va false).record p.home 0x05 .uncorrectable p.va p.launch p.lmod).spreadLoad
          p.src p.launch p.lmod g 0x1FFFFFFFF))) ∧
    (∀ u a e' b' z', t.isBad m 4 = false → g < t.num m 4 → t.check (p.req 4 false) = (u, .ok a e' b' z') →
      (u.countReq p.home p.src p.va false).isBad a 4 = false → exec (.spreadEntryFetch k) s =
        .next (happened ((u.countReq p.home p.src p.va false).spreadLoad p.src p.launch p.lmod g
          (BitVec.ofNat 64 (u.num a 4)))))) ∧
  (∀ (h : Home) (q : Nat) (r : List (Home × Nat × Bool)) (x : FEntry) (s : State) (p : Pkt), Resolves s h q true r x →
    x.item = .request p → p.kind = .spread → exec (.deny h q) s = .next (happened
      (((resolved s h r x).record p.home 0x04 .deny x.va p.launch p.lmod).spreadLoad p.src p.launch p.lmod
        ((p.va - s.spreadPtr p.launch p.lmod - 64).toNat / 4) 0x1FFFFFFFF))) ∧
  (∀ (k : Nat) (s : State) (p : Pkt), s.pkt k = some p → s.mayPerform k p →
    (∀ n, p.kind = .tlbInv n → ∃ t, exec (.tlbInvalidateRequest k) s = .next t ∧ t.note = .moved ∧ t.tlbHit p.home p.va = none ∧
      (∀ e ∈ (t.home p.home).l2, ∀ g ∈ e.pages, ¬(g.1 ≤ p.va.toNat ∧ p.va.toNat < g.1 + g.2)) ∧
      ((s.home p.home).l2 = [] → SameMemory s t) ∧
      (∀ e, s.memOk → (s.home p.home).l2 = [e] → (∃ g ∈ e.pages, g.1 ≤ p.va.toNat ∧ p.va.toNat < g.1 + g.2) → e.dirty →
        ∀ i < 256, Memory.get t.mem (e.key + i) = Memory.get s.mem (cacheKey (e.key + i))) ∧
      t.net = s.net.take k ++ s.net.drop (k + 1)) ∧
    (∀ sc, p.kind = .marker sc → exec (.fenceMarker k) s = .next (happened (s.dropPkt k))))

/-- R68, R115, R126-R128: a refused request is tried again, 64 clk later, as the first time, and a thread that found the fault
queue of its home full becomes ready to look again then; RETRY lets a parked thread go on, performs a parked request, which
stays ahead of later ones to its page where it has to wait again (R149), and queues a parked idempotent task at its core; DENY raises the cause of the fault for a thread, gives a load a record and
poison, and counts a parked task as ended, with a record; a request to a module that does not answer comes back, gives a
record of its own and poisons a load's register, and a thread traps with TRANSLATION where it was, its ticket given up. -/
def Obligations.FaultOutcomes : Prop :=
  (∀ (k : Nat) (i : Instr) (s : State) (p : Pkt), s.pkt k = some p → FirstTry p k i → p.refused →
    p.retryAt ≤ s.clk → (offered s k p).mayPerform k { p with refused := false } →
    exec (.faultQueueRetry (.packet k)) s = exec i (offered s k p)) ∧
  (∀ (loc f at' : Nat) (s : State), (s.frame (keyOf loc f)).used → (s.frame (keyOf loc f)).wait = some (.queued at') →
    at' ≤ s.clk →
    exec (.faultQueueRetry (.thread loc f)) s =
      .next (happened ((s.updFrame (keyOf loc f) fun x => { x with wait := none }).ready (keyOf loc f)))) ∧
  (∀ (h : Home) (q : Nat) (r : List (Home × Nat × Bool)) (x : FEntry) (s : State), Resolves s h q false r x →
    (∀ key, x.item = .thread key ∨ x.item = .fetch key → exec (.retry h q) s = .next (happened
      (((resolved s h r x).updFrame key fun f => { f with wait := none }).ready key))) ∧
    (∀ p t, x.item = .request p → (resolved s h r x).perform p = (t, none) →
      exec (.retry h q) s = .next (happened t)) ∧
    (∀ p t p', x.item = .request p → (resolved s h r x).perform p = (t, some p') →
      exec (.retry h q) s =
        .next (happened { t with net := (if p'.home = p.home then { p' with replay := true } else p') :: t.net })) ∧
    (∀ y l, x.item = .task y l → exec (.retry h q) s = .next (happened
      (((resolved s h r x).updQueue l 0 fun z =>
        { tags := z.tags ++ [{ launch := y.launch, lmod := y.lmod, task := some y }] }).wakeNext y.launch y.lmod)))) ∧
  (∀ (h : Home) (q : Nat) (r : List (Home × Nat × Bool)) (x : FEntry) (s : State), Resolves s h q true r x →
    (∀ key, x.item = .thread key → exec (.deny h q) s = .next (happened
      ((resolved s h r x).raiseAt key (deniedCause x.reason) x.va 0))) ∧
    (∀ key, x.item = .fetch key → exec (.deny h q) s = .next (happened
      ((resolved s h r x).raiseAt key .translation x.va 0))) ∧
    (∀ p n sgn d acq, x.item = .request p → p.kind = .load n sgn (some d) acq → exec (.deny h q) s =
      .next (happened (replySent
        ((resolved s h r x).record p.home 0x04 .deny x.va p.launch p.lmod) p d 0 true acq))) ∧
    (∀ y l, x.item = .task y l → exec (.deny h q) s = .next (happened
      (((resolved s h r x).record h 0x04 .deny x.va y.launch y.lmod).countDown y.launch y.lmod)))) ∧
  (∀ (k : Nat) (s : State) (p : Pkt), s.pkt k = some p → s.goneFrom p.origin (homeMod p.home) →
    (∀ n sgn d acq, p.kind = .load n sgn (some d) acq → exec (.undeliveredReturn k) s =
      .next (happened (replySent ((s.dropPkt k).record (.core p.src) 0x04 .undelivered p.va p.launch p.lmod) p d 0 true acq))) ∧
    (∀ fr l, p.kind = .migrate fr → p.home = .core l → Awaits s p → exec (.undeliveredReturn k) s =
      .next (happened ((((s.dropPkt k).useTicket l p).updFrame p.key fun f => { f with wait := none, pend := .idle }).raiseAt
        p.key .translation p.va 0))))

/-! ## Events: threads on the way, slots and waits -/

namespace Sys2Proof.Claims

/-- Thread packet k reaches core l, which takes it in: the core answers, no closed region and no pre-empted launch stops
it, replayed packets come first, and it is the arrival's or, after a refusal, the retry's turn (R40, R48, R49, R365, R368). -/
def Arrives (s : State) (k : Nat) (p : Pkt) (l : Loc) (i : Instr) : Prop :=
  s.pkt k = some p ∧ p.home = .core l ∧ s.reaches p = true ∧ s.replayTurn k p = true ∧
    s.isolRefuses p.user p.launch p.lmod l = false ∧ s.preempted p.launch p.lmod = false ∧ (s.core l).fallow = false ∧
    ((i = .migrationArrival k ∧ p.refused = false) ∨ (i = .migrationRetry k ∧ p.refused = true ∧ p.retryAt ≤ s.clk))

/-- Nothing keeps a thread that enters frame f of core l from the frame-ready FIFO. -/
def Unclaimed (s : State) (l : Loc) (f : Nat) : Prop :=
  f < 32 ∧ s.slotOf (keyOf l f) = none ∧ s.inTrapq (keyOf l f) = false ∧ (s.core l).serving ≠ some f

/-- A travelling thread as its new frame holds it (R41, R46, R48). -/
def Landed (f fr : Frame) : Prop :=
  f.used = true ∧ f.uid = fr.uid ∧ f.g = fr.g ∧ f.full = fr.full ∧ f.poisoned = fr.poisoned ∧ f.pc = fr.pc ∧
    f.jcell = fr.jcell ∧ f.launch = fr.launch ∧ f.gln = fr.gln ∧ f.pend = fr.pend

/-- Memory but for the 1,024 entries of 256 bytes of core l's arrival spill ring (R24, R48). -/
def SameBesideRing (l : Loc) (s t : State) : Prop :=
  ∀ a, (a < spillAt l ∨ spillAt l + 1024 * 256 ≤ a) → Memory.get t.mem a = Memory.get s.mem a

/-- Waiter j of a lease's list w comes before waiter i: by launch priority, then as the pusher of a saved command, then by
its position after the last holder's (R79, R368). -/
def BeforeInColumn (s : State) (x : Lease) (j i : Nat) : Prop :=
  let saved (k : Nat) : Prop := ∃ e ∈ x.saved, e.1 = (s.frame k).uid
  let after (k : Nat) : Nat := (32 * Loc.ctrl (keyLoc k) + keyFrame k + 511 - x.last) % 512
  s.prioOf i < s.prioOf j ∨ (s.prioOf j = s.prioOf i ∧
    ((saved j ∧ ¬saved i) ∨ ((saved j ↔ saved i) ∧ after j < after i)))

end Sys2Proof.Claims

/-- R46-R50: a thread that waits to depart leaves its slot as a packet for the owner, with its hop counted, and its frame
stays taken; a packet that arrives, with no older ticket out, takes the lowest free frame when the spill ring is empty, is
ready there and frees the sender's frame, or joins the spill ring when there is no frame, with its doublewords in the
ring's bytes; the head of the ring takes a freed frame. A pin and a repeat frame that have run out
end. -/
def Obligations.ThreadsTravel : Prop :=
  (∀ (loc f : Nat) (va : Word) (go : Bool) (s : State), f < 64 → (s.frame (keyOf loc f)).wait = some (.depart va go) →
    (s.frame (keyOf loc f)).idem = false → s.mayLeave (keyOf loc f) → ∃ t p fr, exec (.departure loc f) s = .next t ∧
      t.note = .moved ∧ t.net = s.net ++ [p] ∧ p.kind = .migrate fr ∧ p.home = .core (lsOwner va) ∧ p.key = keyOf loc f ∧
      fr.g = (s.frame (keyOf loc f)).g ∧ fr.uid = (s.frame (keyOf loc f)).uid ∧
      fr.hops.toNat = min ((s.frame (keyOf loc f)).hops.toNat + 1) 65535 ∧
      fr.pc = (if go then (s.frame (keyOf loc f)).pc + 4 else (s.frame (keyOf loc f)).pc) ∧ fr.wait = none ∧
      (t.frame (keyOf loc f)).used ∧ (t.frame (keyOf loc f)).pend = .sent p.id ∧ SameMemory s t) ∧
  (∀ (k l : Nat) (i : Instr) (fr : Frame) (s : State) (p : Pkt), Arrives s k p l i → p.kind = .migrate fr →
    (∀ f, s.freeFrame l = some f → (s.core l).spill = [] → s.mayEnter l p → Unclaimed s l f →
      s.preempted fr.launch fr.lmod = false → ∃ t,
      exec i s = .next t ∧ t.note = .moved ∧ Landed (t.frame (keyOf l f)) fr ∧ (t.core l).fifo.contains f ∧
      (Awaits s p → (t.frame p.key).used = false) ∧ SameMemory s t ∧ t.net = s.net.take k ++ s.net.drop (k + 1)) ∧
    (s.freeFrame l = none → (s.core l).spill.length < 1024 → s.mayEnter l p → ∃ t,
      exec i s = .next t ∧ t.note = .moved ∧
      (t.core l).spill = s.spill l ++ [{ p with refused := false, ticket := none, replay := false }] ∧
      (s.memOk → (s.core l).spill = [] → t.dwords (spillAt l) 32 = (List.range 32).map fr.group) ∧
      (Awaits s p → (t.frame p.key).used = false) ∧
      (((s.core l).spill.map Pkt.room).sum < 1024 → s.memOk → SameBesideRing l s t))) ∧
  (∀ (loc f : Nat) (fr : Frame) (s : State) (p : Pkt) (r : List Pkt), s.spill loc = p :: r →
    p.kind = .migrate fr → s.freeFrame loc = some f → (s.core loc).fallow = false → Unclaimed s loc f →
    s.preempted fr.launch fr.lmod = false → ∃ t,
      exec (.spillRingTakeFrame loc) s = .next t ∧ t.note = .moved ∧ (t.core loc).spill = r ∧
      Landed (t.frame (keyOf loc f)) fr ∧ (t.core loc).fifo.contains f ∧
      (((s.core loc).spill.map Pkt.room).sum ≤ 1024 → s.memOk → SameBesideRing loc s t)) ∧
  (∀ (loc f : Nat) (s : State), (s.frame (keyOf loc f)).used →
    ((s.frame (keyOf loc f)).pinDue → ∃ t, exec (.pinExpiry loc f) s = .next t ∧ t.note = .moved ∧
      (t.frame (keyOf loc f)).pin = false ∧ (t.frame (keyOf loc f)).g = (s.frame (keyOf loc f)).g ∧ SameMemory s t) ∧
    ((s.frame (keyOf loc f)).rfDue → ∃ t, exec (.repeatFrameEnd loc f) s = .next t ∧ t.note = .moved ∧
      (t.frame (keyOf loc f)).rfa = false ∧ (t.frame (keyOf loc f)).rfiter = 0 ∧
      (t.frame (keyOf loc f)).pc = (s.frame (keyOf loc f)).pc ∧ SameMemory s t))

/-- R44, R61, R63, R70, R79, R80, R268-R270, R274, R356: a slot whose thread has been 64 clk in a long wait is unbound; an
empty slot binds the head of the FIFO; the head of the trap queue enters the handler; a sleeper whose time has come is
ready; a `join` ends at zero, once the thread's own stores over the cell are performed (R150), and a `next` that finds a task takes it; a full rectangle forms its gang; a phase in which
every member has arrived ends; and a lease whose count is used up goes to the waiter that comes before every other, the
pusher included, by priority, saved command and position after the last holder's, for 64 pushes more. A waiter of a
pre-empted launch is passed over, and the lowest-numbered empty slot binds: the model's choices (log entries 86, 88). -/
def Obligations.WaitsEnd : Prop :=
  (∀ (loc slot f : Nat) (s : State), slot < 8 → ((s.core loc).slot slot).bound = some f →
    (s.frame (keyOf loc f)).wait.isSome → (s.frame (keyOf loc f)).slept s.clk = false →
    (s.frame (keyOf loc f)).since + 64 ≤ s.clk → ∃ t, exec (.longWaitUnbind loc slot) s = .next t ∧ t.note = .moved ∧
      ((t.core loc).slot slot).bound = none ∧ ((t.core loc).slot slot).ibuf = [] ∧
      (t.frame (keyOf loc f)).wait = (s.frame (keyOf loc f)).wait ∧ (t.frame (keyOf loc f)).pc = (s.frame (keyOf loc f)).pc) ∧
  (∀ (loc n f : Nat) (r : List Nat) (s : State), (s.core loc).emptySlot = some n → (s.core loc).fifo = f :: r →
    s.trapWaits loc = false → ∃ t, exec (.frameReadyBind loc) s = .next t ∧ t.note = .moved ∧
      ((t.core loc).slot n).bound = some f ∧ ((t.core loc).slot n).ibuf = [] ∧ (t.core loc).fifo = r ∧
      (t.frame (keyOf loc f)).g = (s.frame (keyOf loc f)).g ∧ SameMemory s t) ∧
  (∀ (loc n : Nat) (e : TrapEntry) (r : List TrapEntry) (s : State), n < 8 → (s.core loc).trapq = e :: r →
    s.trapWaits loc → ((s.core loc).slot n).enabled → ((s.core loc).slot n).bound = none → (s.core loc).fallow = false →
    ∃ t, exec (.trapQueueEntry loc n) s = .next t ∧ t.note = .moved ∧ (t.core loc).trapq = r ∧
      ((t.core loc).slot n).bound = some 32 ∧ (t.core loc).serving = some e.frame ∧
      (t.core loc).trapcause = BitVec.ofNat 64 (e.cause.code + e.tcode * 2 ^ 8 + e.frame * 2 ^ 11 + n * 2 ^ 16) ∧
      (t.core loc).trapva = e.va ∧ (t.core loc).trappc = e.pc ∧
      (t.frame (keyOf loc 32)).pc = (s.core loc).ctxbase &&& ~~~3#64) ∧
  (∀ (loc f till : Nat) (s : State), f < 64 → (s.frame (keyOf loc f)).used → (s.frame (keyOf loc f)).away = false →
    (s.frame (keyOf loc f)).wait = some (.sleep till) → till ≤ s.clk → s.slotOf (keyOf loc f) = none →
    (s.core loc).fifo.contains f = false → s.inTrapq (keyOf loc f) = false → (s.core loc).serving ≠ some f →
    exec (.sleepExpiry loc f) s = .next (happened (s.updCore loc fun c => { c with fifo := c.fifo ++ [f] }))) ∧
  (∀ (loc f a : Nat) (va e : Word) (b z : Nat) (s t : State), f < 64 → (s.frame (keyOf loc f)).used →
    (s.frame (keyOf loc f)).wait = some (.join va) → (s.frame (keyOf loc f)).pend = .idle → lsOwner va = loc →
    (s.net.all fun q => !(q.kind.isRequest && q.uid == (s.frame (keyOf loc f)).uid && q.home == .core loc)) →
    (s.core loc).forwarded (s.frame (keyOf loc f)).uid va 8 (s.physOf (.core loc) va) = .none →
    s.pollParked (keyOf loc f) va = false → s.check ((s.pollPkt (keyOf loc f) va).req 8 false) = (t, .ok a e b z) → t.isBad a 8 = false → t.num a 8 = 0 →
    exec (.joinComplete loc f) s = .next (happened ((t.updFrame (keyOf loc f) fun x => { x with wait := none }).ready
      (keyOf loc f)))) ∧
  (∀ (loc f a : Nat) (va e : Word) (b z : Nat) (s t : State), f < 64 → (s.frame (keyOf loc f)).used →
    (s.frame (keyOf loc f)).wait = some (.join va) → (s.frame (keyOf loc f)).pend = .idle → lsOwner va ≠ loc →
    (s.net.all fun q => !(q.kind.isRequest && q.uid == (s.frame (keyOf loc f)).uid && q.home == .core (lsOwner va))) →
    (s.core loc).forwarded (s.frame (keyOf loc f)).uid va 8 none = .none → s.pollParked (keyOf loc f) va = false →
    s.reaches (s.pollPkt (keyOf loc f) va) →
    s.check ((s.pollPkt (keyOf loc f) va).req 8 false) = (t, .ok a e b z) → t.isBad a 8 = false → t.num a 8 = 0 →
    exec (.joinComplete loc f) s = .next (happened ((t.updFrame (keyOf loc f) fun x =>
      { x with wait := none, pend := .got (.val 0) }).ready (keyOf loc f)))) ∧
  (∀ (loc f : Nat) (x : Task) (s t : State), f < 64 → (s.frame (keyOf loc f)).used → (s.frame (keyOf loc f)).away = false →
    (s.frame (keyOf loc f)).wait = some .next → (s.frame (keyOf loc f)).pend = .idle →
    s.search loc (s.frame (keyOf loc f)).actor [] = (t, .task x) → exec (.nextRescan loc f) s = .next (happened
      ((t.updFrame (keyOf loc f) fun y => { y with task := some x, wait := none, pend := .got (.val 1) }).ready (keyOf loc f)))) ∧
  (∀ (g : Gang) (ms : List Nat) (s : State), s.gangs = [g] → g.formed = false → s.preempted g.launch g.lmod = false →
    g.size < 4 → ms = g.ordered → ms.length = (gangShape g.size).1 * (gangShape g.size).2 → ms.Nodup →
    ∃ t, exec (.gangFormation g.id) s = .next t ∧ t.note = .moved ∧
      t.gangs = [{ g with formed := true, members := ms }] ∧
      ∀ k ∈ ms, (t.frame k).wait = none ∧ (t.frame k).pend = .got (.val 0) ∧ (t.frame k).tstat.getLsbD 17) ∧
  (∀ (n : Nat) (b : Barrier) (s : State), s.barriers[n]? = some b → s.phaseDue b → ∃ t c,
    exec (.barrierPhaseComplete n) s = .next t ∧ t.note = .moved ∧ t.barriers[n]? = some c ∧ c.phase = b.phase + 1 ∧
      c.arrived = [] ∧ c.members = (b.members.filter fun u => !b.ards.contains u) ++ b.joining ∧ SameMemory s t) ∧
  (∀ (pav k u : Nat) (s : State), (s.lease pav).holder = some u → s.keyOfUid u = some k → (s.lease pav).left = 0 →
    (s.frame k).wait = some (.pushPort .qpav) → ∀ w, w = ((s.lease pav).waiters.filter fun i => i ≠ k) ++ [k] →
    (∀ i ∈ w, s.prioOf i ≤ 3) → ∀ j ∈ w, (s.frame j).away = false →
    (∀ i ∈ w, i ≠ j → (s.frame i).away = false → BeforeInColumn s (s.lease pav) j i) →
    ∃ t, exec (.leaseRearbitration pav) s = .next t ∧ t.note = .moved ∧
      t.lease pav = { s.lease pav with
        holder := some (s.frame j).uid, left := 64, last := 32 * Loc.ctrl (keyLoc j) + keyFrame j
        waiters := w.filter fun i => i ≠ j, saved := (s.lease pav).saved.filter fun e => e.1 ≠ (s.frame j).uid } ∧
      ((s.frame j).used → ((s.frame j).wait = some .lease ∨ (s.frame j).wait = some (.pushPort .qpav)) →
        (t.frame j).wait = none) ∧ SameMemory s t)

/-! ## Events: launches, messages and Flock loads -/

namespace Sys2Proof.Claims

/-- The issuing stack's or the lowest stack of the record's mask, whose pool is concerned (R54). -/
def poolStack (r : LRec) (l : Loc) : Nat := r.pool (Loc.stack l)

/-- What a new thread of a launch holds (R42, R57). -/
def Started (f : Frame) (x : Launch) (i : Nat) : Prop :=
  f.used = true ∧ f.launch = x.id ∧ f.lmod = x.mod ∧ f.pc = x.lr.entry ∧ f.g[1] = BitVec.ofNat 64 i ∧
    (∀ n : Fin 4, f.g[n.val + 2] = x.lr.args.getD n.val 0) ∧ f.g[6] = x.lr.argp ∧
    f.g[14] = x.lr.sbase + BitVec.ofNat 64 ((i + 1) * x.lr.sbytes) ∧ f.full = 0xFFFF ∧ f.poisoned = 0 ∧
    f.priv = x.lr.isSuper ∧ f.anch = decide (x.lr.kind = 1)

/-- The message queue of a core gets a word that names its sender and carries the payload (R309). -/
def messageWord (src : Loc) (v : Word) : Word := BitVec.ofNat 64 (8 * src + v.toNat / 2 ^ 32 * 2 ^ 32)

/-- A completion word on its way: a supervisor's store for the launch from the lowest core of its region (R58). -/
def wordPacket (s : State) (l : Loc) (id : W32) (m : Nat) (va v : Word) (h : Home) : Pkt :=
  { id := s.nextId, kind := .word v, src := l, key := keyOf l 0, uid := 0, user := false, launch := id, lmod := m
    home := h, va := va }

/-- The store of a completion word as its home checks it (R58). -/
def wordReq (l : Loc) (id : W32) (m : Nat) (va : Word) (h : Home) : Req :=
  { home := h, va := va, size := 8, write := true, user := false, launch := id, lmod := m, locks := decide (h ≠ Home.core l) }

end Sys2Proof.Claims

/-- R53-R55, R271, R380, R381: a `launch` whose record has been read answers 0 and puts the launch into its pool, answers 1
when the pool is full, and answers 0 with no launch for a record that breaks R53 or asks for SUPER from user code. A BOOT
write does the same for the host, and says the id or that it is refused. -/
def Sys2Proof.Claims.LaunchesAccepted : Prop :=
  (∀ (k : Nat) (s t : State) (p : Pkt) (a : Nat) (e : Word) (b z : Nat) (r : LRec), p.kind = .record →
    Admitted s k p 128 false t a e b z → t.isBad a 128 = false → Awaits t p → r = LRec.ofBytes (t.bytes a 128) →
    (r.ok = false ∨ (r.isSuper ∧ p.user) → ∃ u, exec (.launchAccept k) s = .next u ∧ u.note = .moved ∧
      (u.frame p.key).pend = .got (.val 0) ∧ u.launches.length = s.launches.length) ∧
    (r.ok → (r.isSuper → p.user = false) → 64 ≤ t.poolUse (Loc.module p.src) (poolStack r p.src) →
      exec (.launchAccept k) s = .next (happened (got t p (.val 1)))) ∧
    (r.ok → (r.isSuper → p.user = false) → t.poolUse (Loc.module p.src) (poolStack r p.src) < 64 → ∃ u x,
      exec (.launchAccept k) s = .next u ∧ u.note = .moved ∧ (u.frame p.key).pend = .got (.val 0) ∧
      u.launches = (s.launches.filter fun y => !(y.id == x.id && y.mod == x.mod)) ++ [x] ∧ x.lr = r ∧
      x.status = .pending ∧ x.mod = Loc.module p.src ∧ x.id.toNat / 2 ^ 28 = poolStack r p.src ∧ x.super = !p.user ∧
      x.src = some p.src ∧
      SameMemory t u)) ∧
  (∀ (m : Nat) (v : Word) (s : State), s.powered m →
    ((s.module m).ready = false ∨ bootPlace m v = false → ∃ t, exec (.boot m v) s = .next t ∧ t.note = .moved ∧
      (t.module m).bootState = 2 ∧ t.launches = s.launches) ∧
    (∀ t r, (s.module m).ready → bootPlace m v → s.bootRead m v = (t, some r) → r.ok → t.poolUse m (r.pool 0) < 64 →
      ∃ u x, exec (.boot m v) s = .next u ∧ u.note = .moved ∧ (u.module m).bootState = 1 ∧ (u.module m).bootId = x.id ∧
        u.launches = (t.launches.filter fun y => !(y.id == x.id && y.mod == x.mod)) ++ [x] ∧ x.lr = r ∧ x.super ∧
        x.status = .pending ∧ x.mod = m))

/-- R42, R56-R58, R282: a launch whose turn has come starts, and each of its threads is resident on its core with its
registers set; when its last thread has ended and nothing of it is on its way it completes: its barriers and idle tiles
go, and its completion word, which carries id, first status and error count, is written as a supervisor's store, or parks
at its home where that store faults. -/
def Sys2Proof.Claims.LaunchesRun : Prop :=
  (∀ (m : Nat) (id : W32) (x : Launch) (s : State), s.launchOf id m = some x → x.lr.ok → s.mayStart x →
    ∃ t y, exec (.launchStart m id) s = .next t ∧ t.note = .moved ∧ t.launchOf id m = some y ∧ y.status = .running ∧
      y.lr = x.lr ∧ SameMemory s t ∧
      ∀ i < x.lr.count, ∃ f < 32, Started (t.frame (keyOf ((x.lr.cores m).getD (i % (x.lr.cores m).length) 0) f)) x i) ∧
  (∀ (m : Nat) (id : W32) (x : Launch) (s : State), s.launchOf id m = some x → x.status = .running → x.live = 0 →
    s.launchQuiet id m → ∃ (u : State) (y : Launch), exec (.launchCompletion m id) s = .next (happened (u.writeWord
        ((x.lr.cores m).head?.getD 0) id m x.lr.caddr
        (BitVec.ofNat 64 (id.toNat + x.first.getD 0 * 2 ^ 32 + min x.errs 0xFFFF * 2 ^ 40)))) ∧
      u.launchOf id m = some y ∧ y.status = .done ∧ (∀ b ∈ u.barriers, ¬(b.launch = id ∧ b.lmod = m)) ∧ u.mem = s.mem ∧
      ∀ l n, ((s.core l).tile n).launch = id → ((s.core l).tile n).lmod = m → ((s.core l).tile n).busy = false →
        ((u.core l).tile n).state = 0) ∧
  (∀ (l : Loc) (id : W32) (m : Nat) (va v : Word) (h : Home) (s t : State), va ≠ 0 → va.toNat % 8 = 0 →
    vaBad va = false → s.homeAt l id m va = .home h → s.answers (Loc.module l) (homeMod h) →
    (∀ a e b z, { s with nextId := s.nextId + 1 }.check (wordReq l id m va h) = (t, .ok a e b z) →
      (t.countReq h l va true).badUnder a 8 = false →
      s.writeWord l id m va v = (t.countReq h l va true).writeAt h va a (bytesOf 8 v.toNat)) ∧
    (∀ r b z u, { s with nextId := s.nextId + 1 }.check (wordReq l id m va h) = (t, .park r b z) →
      t.park h r b z (.request (wordPacket s l id m va v h)) va { write := true, user := false } id m = some u →
      s.writeWord l id m va v = u))

/-- R42, R53-R58, R271, R282, R380, R381: a launch from its record to its completion word.
Completion waits for every store and merged operation of the launch (log entry 76), and the completion word and the
record of BOOT are accessed directly at their home (log entry 83). -/
def Obligations.Launches : Prop := LaunchesAccepted ∧ LaunchesRun

/-- R144-R147, R309, R360: a message in its turn enters its core's queue with its sender and payload, or is refused for 64
clk when 64 wait; an event held at its source enters `qevt` once there is room, its first word as the code, and is tried
again 64 clk later while there is none; a Flock request of a new group opens a
hold; the group's timer delivers the bytes into the tile of the member that has asked, ready again with its lock let go, and the
hold stays as a window for late members, which ends in its time. -/
def Obligations.MessagesAndFlock : Prop :=
  (∀ (k l : Nat) (i : Instr) (v : Word) (s : State) (p : Pkt), s.pkt k = some p → p.kind = .msg v → p.home = .core l →
    s.msgTurn k p → ((i = .messageDelivery k ∧ p.refused = false) ∨ (i = .messageRetry k ∧ p.refused ∧ p.retryAt ≤ s.clk)) →
    ((s.core l).msgs.length < 64 → ∃ t, exec i s = .next t ∧ t.note = .moved ∧
      (t.core l).msgs = (s.core l).msgs ++ [messageWord p.src v] ∧ t.net = s.net.take k ++ s.net.drop (k + 1) ∧
      SameMemory s t) ∧
    (64 ≤ (s.core l).msgs.length → ∃ t, exec i s = .next t ∧ t.note = .moved ∧ t.cores = s.cores ∧
      t.net[k]? = some { p with refused := true, retryAt := s.clk + 64 })) ∧
  (∀ (k : Nat) (s : State) (e : Event), s.evq[k]? = some e →
    ((s.evq.take k).all fun x => !(x.src == e.src && x.dest == e.dest)) →
    e.retryAt ≤ s.clk →
    ((s.core e.dest).qevt.length + e.words.length ≤ 1024 → ∃ t, exec (.eventRetry k) s = .next t ∧ t.note = .moved ∧
      ((t.core e.dest).qevt.map fun w => w.1) = ((s.core e.dest).qevt.map fun w => w.1) ++ e.words ∧
      (∀ w r, e.words = w :: r → (t.core e.dest).qevt = (s.core e.dest).qevt ++ (w, true) :: r.map fun x => (x, false)) ∧
      t.evq = s.evq.take k ++ s.evq.drop (k + 1)) ∧
    (1024 < (s.core e.dest).qevt.length + e.words.length → ∃ t, exec (.eventRetry k) s = .next t ∧ t.note = .moved ∧
      t.cores = s.cores ∧ t.evq = s.evq.take k ++ { e with retryAt := s.clk + 64 } :: s.evq.drop (k + 1))) ∧
  (∀ (k g mem cnt len tile gen d a : Nat) (e : Word) (b z : Nat) (s t : State) (p : Pkt) (h : Hold) (at' : Home),
    p.kind = .flock g mem cnt len tile gen d → s.pkt k = some p → s.mayPerform k p → 2 ≤ cnt → spaceOf p.va = .dm →
    (∀ x ∈ s.holds, ¬(x.home = p.home ∧ x.launch = p.launch ∧ x.lmod = p.lmod ∧ x.die = d ∧ x.grp = g)) →
    (s.holds.filter fun x => x.home == p.home && !x.late && x.status == 0).length < 32 →
    (∀ x, ((s.dropPkt k).check { p.req len false with locks := false }).2 ≠ .fwd x) →
    h = { id := s.nextId, home := p.home, launch := p.launch, lmod := p.lmod, die := d, grp := g, va := p.va, len := len
          cnt := cnt, members := [{ mem := mem, loc := p.src, tile := tile, gen := gen, lock := p.id, user := p.user }]
          ends := s.clk + s.flockPeriod p.launch p.lmod d g, period := s.flockPeriod p.launch p.lmod d g } →
    { s.dropPkt k with holds := s.holds ++ [h], nextId := s.nextId + 1 }.through p.src h.req maxForwards =
      (t, at', .ok a e b z) →
    exec (.flockRequest k) s = .next (happened t)) ∧
  (∀ (h at' : Home) (n a : Nat) (e : Word) (b z : Nat) (s t : State) (x : Hold) (m : FReq), s.memOk →
    (s.holds.find? fun y => y.id == n && y.home == h) = some x → x.late = false → x.status = 0 → x.left = none →
    x.ends ≤ s.clk → x.retryAt ≤ s.clk → x.members = [m] → 1 < x.cnt → s.through m.loc x.req maxForwards = (t, at', .ok a e b z) →
    t.locked { x.req with locks := true } a = false → t.isBad a x.len = false →
    ((t.core m.loc).tile m.tile).gen.toNat = m.gen → ((t.core m.loc).tile m.tile).state = 1 →
    t.preempted ((t.core m.loc).tile m.tile).launch ((t.core m.loc).tile m.tile).lmod = false →
    (∀ y, t.launchOf ((t.core m.loc).tile m.tile).launch ((t.core m.loc).tile m.tile).lmod = some y → y.status ≠ .done) →
    ∃ u, exec (.flockTimerExpiry h n) s = .next u ∧ u.note = .moved ∧
      ((u.core m.loc).tile m.tile).state = 2 ∧ ((u.core m.loc).tile m.tile).status = 0 ∧
      u.bytes (bankKey m.loc ((t.core m.loc).tile m.tile).base.toNat) x.len = t.bytes a x.len ∧
      (∀ k ∈ u.locks, k.cmd ≠ m.lock) ∧ ∃ y ∈ u.holds, y.id = n ∧ y.late ∧ y.ends = s.clk + 64 * x.period) ∧
  (∀ (h : Home) (n : Nat) (s : State) (x : Hold), (s.holds.find? fun y => y.id == n && y.home == h) = some x → x.late →
    x.ends ≤ s.clk → exec (.flockLateWindowEnd h n) s =
      .next (happened { s with holds := s.holds.filter fun y => y.id != n }))

/-! ## Events: engine commands -/

namespace Sys2Proof.Claims

/-- The rows of the engine commands: the engine that each is for, its code, and for a product how many k-chunks it goes on
before it may be stopped (R311, R367). -/
def EngineRow (i : Instr) (e : Eng) (code : Nat) (left : Option Nat) : Prop :=
  (∃ p, e = .pavilion p ∧ ((i = .mma { pav := p, left := left } ∧ code = 0x0101) ∨
    (i = .sheafFwd { pav := p, left := left } ∧ code = 0x0102) ∨ (i = .sheafBwd p ∧ code = 0x0103 ∧ left = none))) ∨
  (left = none ∧ ∃ q, e = .barrow q ∧ ((i = .copy2d q ∧ code = 0x0201) ∨ (i = .copyIdx q ∧ code = 0x0202) ∨
    (i = .expand24 q ∧ code = 0x0203) ∨ (i = .compact24 q ∧ code = 0x0204) ∨ (i = .convert q ∧ code = 0x0205) ∨
    (i = .fill q ∧ code = 0x0206))) ∨
  (left = none ∧ ∃ l, e = .gleaner l ∧ ((i = .gather l ∧ code = 0x0301) ∨ (i = .gatherPool l ∧ code = 0x0302) ∨
    (i = .scatterAdd l ∧ code = 0x0303) ∨ (i = .chain l ∧ code = 0x0304) ∨ (i = .route l ∧ code = 0x0305))) ∨
  (left = none ∧ ∃ q, i = .walk q ∧ e = .trellis q ∧ code = 0x0401)

/-- An engine has a place for the value that it takes next, which waits for nothing, and whose next try has come where a full
fault queue has refused it; v is the state without that refusal (R126, R127, R162, R315, R368). -/
def Taking (s v : State) (e : Eng) (p : Push) : Prop :=
  s.nextPush e = some p ∧ p.eng = e ∧ p.parked = false ∧ dueAgain p.refused s.clk ∧ s.placesTaken e < e.places ∧
    s.savedFirst e = false ∧
    v = { s with pushes := mapIf (fun x => x.id == p.id) (fun x => { x with refused := none }) s.pushes }

/-- Steps 1 to 10 of R312 let pushed value p in: h is its header, b its block, x what its checks found, and u the state in
which its locks are registered and command k stands in a place. -/
def Accepted (s : State) (p : Push) (code : Nat) (u : State) (k : Cmd) : Prop :=
  ∃ h s1 b x s2, (p.header (p.actr s.nextId none) : EM (List Byte)) s = (.ok h, s1) ∧ numAt h 0 2 = code ∧
    (p.checks (p.actr s.nextId none) h : EM (List Byte × Prep)) s1 = (.ok (b, x), s2) ∧
    s2.lockRoomFor ((p.actr s.nextId none).locksOf s2 x) = true ∧ k = p.cmd s2.nextId b x .waiting ∧
    (∀ c ∈ s2.cmds, c.id ≠ s2.nextId) ∧
    u = { s2.admitCmd p k with locks := s2.locks ++ (p.actr s.nextId none).locksOf s2 x }

/-- Steps 11 and 12 of R312 for command c, which no save has stopped: its table is sampled where it has one, its pages agree,
its tiles are current and ready, and the work of its code, for at most `left` k-chunks, gives r in state t. -/
def Gives (s : State) (c : Cmd) (left : Option Nat) (r : Except EStop Unit) (t : State) : Prop :=
  c.restore = false ∧ s.cmd c.id = some c ∧ ∃ s1 c1 s2 c2, (c.sample (c.actr none) : EM Unit) s = (.ok (), s1) ∧
    s1.cmd c.id = some c1 ∧
    (do c1.tableOk (c.actr none)
        splitOf c1.eng (c.actr none) c1.code (c1.block.take ((codeLen c1.code).getD 0)) : EM Unit) s1 = (.ok (), s2) ∧
    (c1.tiles.all fun r => s2.refOk r) = true ∧ (c1.begun = true ∨ s2.tilesReady c1 = true) ∧
    (s2.begin c1).cmd c.id = some c2 ∧ (runOf c2.eng (c.actr none) c2 left : EM Unit) (s2.begin c1) = (r, t)

/-- The work stops for a while in state t, in which the command stands. -/
def standing (t : State) (id : Nat) (f : Cmd → Cmd) : State :=
  { t with cmds := mapIf (fun c => c.id == id) (fun c => { f c with since := t.clk }) t.cmds }

/-- No full fault queue refuses a request of this command. -/
def unrefused (c : Cmd) : Cmd := { c with refused := none }

/-- A command's work has ended with a status, its detail bits those due so far; its completion follows (R318). One whose
write a closed region refused is not DONE (R313). -/
def workDone (t : State) (id status detail : Nat) : State :=
  let ended (c : Cmd) : Cmd :=
    { c with phase := .done (if status = 0 ∧ c.dropped then 4 else status) (detail ||| c.endDetail), failVA := none
             since := t.clk }
  { t with cmds := mapIf (fun c => c.id == id) ended t.cmds }

end Sys2Proof.Claims

/-- R311, R312, R315, R354, R367: the row of an engine command takes the value at the head of its engine's intake: it becomes
a command with its locks, runs to its end, to a walk's `wtile` or to the k-chunk at which a product may be stopped where
its tiles and locks let it, and otherwise keeps its place; a value whose checks fail ends with the status of the failing
step and registers no lock. Where a product pauses between two chunks and that a walk pauses at `wtile` are the model's
choices (log entries 30, 45). -/
def Sys2Proof.Claims.EngineRowsTake : Prop :=
  ∀ (i : Instr) (e : Eng) (code : Nat) (left : Option Nat) (s v : State) (p : Push), EngineRow i e code left →
    Taking s v e p →
    (∀ u k t, Accepted v p code u k → Gives u k left (.ok ()) t → exec i s = .next (happened (workDone t k.id 0 0))) ∧
    (∀ u k t w, Accepted v p code u k → Gives u k left (.error (.pause w)) t →
      exec i s = .next (happened (standing t k.id fun c => { c with walk := some w }))) ∧
    (∀ u k t, Accepted v p code u k → Gives u k left (.error .rest) t →
      exec i s = .next (happened (standing t k.id id))) ∧
    (∀ u k t st d, Accepted v p code u k → Gives u k left (.error (.ends st d)) t →
      exec i s = .next (happened (workDone t k.id st d))) ∧
    (∀ u k, Accepted v p code u k → u.runCmd k.id none left = .stands → exec i s = .next (happened u)) ∧
    (∀ h s1 st d t, (p.header (p.actr s.nextId none) : EM (List Byte)) v = (.ok h, s1) → numAt h 0 2 = code →
      (p.checks (p.actr s.nextId none) h : EM (List Byte × Prep)) s1 = (.error (.ends st d), t) → ∃ u k,
      exec i s = .next (happened u) ∧ u.cmds = t.cmds ++ [k] ∧ k.phase = .done st d ∧ k.seq = p.seq ∧ u.locks = t.locks ∧
      u.pushes = t.pushes.filter fun x => x.id != p.id)

/-- R141, R163, R314, R318, R339, R352, R354, R367: a waiting command starts and runs to its end once its tiles and locks let
it; a walk goes on from where it stands and may stand again at its next `wtile`, and a product at its next chunk; a walk
past its step limit ends BOUNDS; a command whose access a full fault queue refuses tries it again after 64 clk (R127); a
command that has ended completes: its locks go, its tiles return to STATE 2 with its
status, and its completion word reaches the pushing thread; a Gleaner's in-flight count goes down first. -/
def Sys2Proof.Claims.EngineCommandsEnd : Prop :=
  (∀ (id : Nat) (left : Option Nat) (s t : State) (c : Cmd), s.cmd id = some c → c.phase = .waiting → s.stopping c = false →
    dueAgain c.refused s.clk →
    (Gives (s.updCmd id unrefused) (unrefused c) left (.ok ()) t →
      exec (.engineCommandStart { id := id, left := left }) s = .next (happened (workDone t id 0 0))) ∧
    (∀ w, Gives (s.updCmd id unrefused) (unrefused c) left (.error (.pause w)) t →
      exec (.engineCommandStart { id := id, left := left }) s =
        .next (happened (standing t id fun c => { c with walk := some w }))) ∧
    (Gives (s.updCmd id unrefused) (unrefused c) left (.error .rest) t →
      exec (.engineCommandStart { id := id, left := left }) s = .next (happened (standing t id fun c => c))) ∧
    (∀ h r b n va w, Gives (s.updCmd id unrefused) (unrefused c) left (.error (.park h r b n va w)) t →
      t.park h r b n (.engine id) va { write := w, user := c.user } c.launch c.lmod = none →
      exec (.engineCommandStart { id := id, left := left }) s =
        .next (happened (t.updCmd id fun k => { k with refused := some (h, t.clk + 64, t.nextId) })))) ∧
  (∀ (q d : Nat) (s t : State) (c : Cmd), (s.cmds.find? fun c => c.eng == .trellis q && c.phase == .waiting) = some c →
    (c.begun ∨ s.tilesReady c) → s.overLimit c → Gives s c none (.error (.limit d)) t →
    exec (.walkerStepLimit q) s = .next (happened (workDone t c.id 3 d))) ∧
  (∀ (id st d : Nat) (s : State) (c : Cmd), s.cmd id = some c → c.phase = .done st d → c.version = none → c.tiles.Nodup →
    s.engineParked id = false → dueAgain c.refused s.clk → (∀ e ∈ s.cores, e.2.spill = [] ∧ e.2.nispill = []) →
    ∃ t, exec (.engineCommandComplete id) s = .next t ∧ t.note = .moved ∧
      (∀ k ∈ t.cmds, k.id ≠ id) ∧ (∀ k ∈ t.locks, k.cmd ≠ id) ∧ t.mem = s.mem ∧
      (∀ k f, (k, f) ∈ s.frames → (∀ g, (k, g) ∈ s.frames → g = f) → f.used → f.uid = c.uid →
        ((t.frame k).port c.eng.port).words = (f.port c.eng.port).words ++
          [(BitVec.ofNat 64 (c.seq.toNat + st * 2 ^ 32 + d % 256 * 2 ^ 40 + numAt c.block 8 2 * 2 ^ 48), c.trapVA)]) ∧
      (∀ r, c.tiles = [r] → c.begun → s.refOk r → (s.tileOf r).busy →
        (∀ x, s.launchOf (s.tileOf r).launch (s.tileOf r).lmod = some x → x.status ≠ .done) →
        (t.tileOf r).state = 2 ∧ (t.tileOf r).status.toNat = st % 64)) ∧
  (∀ (id st d slot : Nat) (va : Word) (s t : State) (c : Cmd), s.cmd id = some c → c.phase = .done st d →
    c.version = some (va, slot) → s.engineParked id = false → dueAgain c.refused s.clk →
    ((c.actr none).unsample va slot : EM Unit) (s.updCmd id unrefused) = (.ok (), t) → (∀ k, t.cmd id = some k → k.dropped = false) →
    exec (.engineCommandComplete id) s = .next (happened (t.finishCmd c st d)))

/-- R141, R163, R311-R315, R318, R339, R352: an engine command from its intake to its completion word. -/
def Obligations.EngineCommands : Prop := EngineRowsTake ∧ EngineCommandsEnd

namespace Sys2Proof.Claims

/-- The exact sum of the products of two lists of I8 codes (R101, R105). -/
def dot8 : List Elem → List Elem → Int
  | a :: r, b :: t => (BitVec.ofNat 8 a.1).toInt * (BitVec.ofNat 8 b.1).toInt + dot8 r t
  | _, _ => 0

/-- The walker operations on registers: WOP, then the result from wa, wb and IMM18 (R351). -/
def walkerOps : List (Nat × (Nat → Nat → BitVec 18 → Nat)) :=
  [(2, fun a b _ => (a + b) % 2 ^ 32), (3, fun a _ i => ((a + i.toInt) % 2 ^ 32).toNat),
   (4, fun a b _ => (((a : Int) - b) % 2 ^ 32).toNat), (5, fun a b _ => a &&& b),
   (6, fun a b _ => a * 2 ^ (b % 32) % 2 ^ 32), (7, fun a b _ => a / 2 ^ (b % 32)), (8, fun a b _ => a / 2 ^ (b % 32) % 2)]

/-- The branches: WOP, then whether it branches, from wa and wb (R351). -/
def walkerBranches : List (Nat × (Nat → Nat → Bool)) :=
  [(9, fun a b => decide (a < b)), (10, fun a b => a == b), (11, fun a b => a != b), (12, fun _ _ => true)]

end Sys2Proof.Claims

/-- R101, R105, R106, R114, R335, R345, R348, R349, R351: an I8 dot product is exact, whatever the partials; COMPACT24 keeps
two elements that no other outranks, and EXPAND24 puts them back; integer sums of SCATTER.ADD wrap; ROUTE sends the n-th
choice of an expert to its replica n mod c, and its inverse places assignments slot by slot in order; a hot counter halves
each millisecond and then counts, up to its limit; walker words compute modulo 2^32 and branch. -/
def Sys2Proof.Claims.EngineArithmetic : Prop :=
  (∀ (n : Nat) (a b : List Elem), 0 < n → a.length = b.length → 0 < a.length → a.length ≤ 4096 →
    ({ kind := .int8, fa := 1, fb := 1, acc := Fmt.a48 } : Arith).element n none a b = (some (.int (dot8 a b)), false)) ∧
  (∀ (fmt : Nat) (w x y z : Nat), 1 ≤ fmt → fmt ≤ 10 → ∃ p q, p < q ∧ q < 4 ∧
    compactGroup fmt [w, x, y, z] = ([[w, x, y, z].getD p 0, [w, x, y, z].getD q 0], p + 4 * q) ∧
    (∀ i < 4, i ≠ p → i ≠ q → ranksAbove fmt ([w, x, y, z].getD i 0) ([w, x, y, z].getD p 0) = false ∧
      ranksAbove fmt ([w, x, y, z].getD i 0) ([w, x, y, z].getD q 0) = false) ∧
    (expandGroup ([w, x, y, z].getD p 0) ([w, x, y, z].getD q 0) (p + 4 * q)).1 =
      (List.range 4).map fun i => if i = p ∨ i = q then [w, x, y, z].getD i 0 else 0) ∧
  (∀ (a b : Nat), scatterAdd 3 a b = (a + b) % 2 ^ 32 ∧ scatterAdd 4 a b = (a + b) % 2 ^ 64) ∧
  (∀ (row : Nat → Nat) (x : Routed) (e : Nat), (∀ d f, d < f → ∀ i j : Nat, x.seen[i]? = some (f, j) →
      ∀ k m : Nat, x.seen[k]? = some (d, m) → k < i) →
    (routeOne row x e).slots = row e / 2 ^ (16 * (1 + x.seen.get 0 e % (row e % 2 ^ 16))) % 2 ^ 16 :: x.slots ∧
    (routeOne row x e).seen.get 0 e = x.seen.get 0 e + 1 ∧
    ∀ d, d ≠ e → (routeOne row x e).seen.get 0 d = x.seen.get 0 d) ∧
  (∀ (offs slots : List Nat) (i s : Nat), slots[i]? = some s →
    (routeInv offs [] slots)[i]? = some (offs.getD s 0 + ((slots.take i).filter (· == s)).length)) ∧
  (∀ (old x t : Nat), let d := (t + 2 ^ 32 - old / 2 ^ 32 % 2 ^ 32) % 2 ^ 32
    (d = 0 → hotUpdate old x t = min (old % 2 ^ 31 + x) (2 ^ 31 - 1) + old / 2 ^ 31 % 2 * 2 ^ 31 + old / 2 ^ 32 % 2 ^ 32 * 2 ^ 32) ∧
    (d ≠ 0 → hotUpdate old x t = min (old % 2 ^ 31 / 2 ^ min d 31 + x) (2 ^ 31 - 1) + t % 2 ^ 32 * 2 ^ 32)) ∧
  (∀ (v : WalkEnv) (w : Walker) (x : Nat) (s : State), w.regs.length = 8 → (∀ r ∈ w.regs, r < 2 ^ 32) →
    (∀ f, (x / 2 ^ 27 % 32, f) ∈ walkerOps → ∃ u, (v.word w x : EM (Option Walker)) s = (.ok (some u), s) ∧
      u.idx = w.idx + 1 ∧ u.x0 = w.x0 ∧ u.x1 = w.x1 ∧ u.opened = w.opened ∧ ∀ n < 8, u.reg n = if n = x / 2 ^ 24 % 8 then
        f (w.reg (x / 2 ^ 21 % 8)) (w.reg (x / 2 ^ 18 % 8)) (BitVec.ofNat 18 x) else w.reg n) ∧
    (∀ f, (x / 2 ^ 27 % 32, f) ∈ walkerBranches → (v.word w x : EM (Option Walker)) s =
      (.ok (some { w with idx := if f (w.reg (x / 2 ^ 21 % 8)) (w.reg (x / 2 ^ 18 % 8)) then x % 2 ^ 18 else w.idx + 1 }), s)))

/-- A finite value as a whole number of 2^q. -/
def Sys2Proof.Claims.wholeAt (q : Int) : FVal → Option Int
  | .fin s m e => if q ≤ e then some ((if s then -1 else 1) * (m * 2 ^ (e - q).toNat : Nat)) else none
  | _ => none

/-- The exact sum of the products of two lists of finite values, as a whole number of 2^(2 q). -/
def Sys2Proof.Claims.dotAt (q : Int) : List FVal → List FVal → Int
  | a :: r, b :: t => (wholeAt q a).getD 0 * (wholeAt q b).getD 0 + dotAt q r t
  | _, _ => 0

/-- R93, R102, R105, R106, R110: a float product of one k-chunk is the exact sum of its products, rounded once to the
accumulator's format, and a NaN operand makes it the NaN of its partial and chunk; a C_in of an I8 command enters as it
is, and one of an L6 command times 2^24, rounded to nearest even and clamped, with the saturation flag set where it was;
an EMPTY accumulator drains as +0 whatever the finite output scale. -/
def Sys2Proof.Claims.FloatProducts : Prop :=
  (∀ (t : Arith) (n : Nat) (q : Int) (a b : List Elem), t.kind = .flt → 0 < n → a.length = b.length → 0 < a.length →
    a.length ≤ t.kappa →
    ((∀ x ∈ a, (wholeAt q (elemValue t.fa x)).isSome) → (∀ x ∈ b, (wholeAt q (elemValue t.fb x)).isSome) → ∃ v,
      t.element n none a b = (some (.flt (roundTo t.acc v)), false) ∧
      wholeAt (2 * q) v = some (dotAt q (a.map (elemValue t.fa)) (b.map (elemValue t.fb)))) ∧
    ((∃ x ∈ a, (elemValue t.fa x).isNaN) → t.element n none a b = (some (.flt (pavNaN 0 0)), false))) ∧
  (∀ (fa fb x : Nat), ({ kind := .int8, fa := fa, fb := fb, acc := Fmt.a48 } : Arith).enter 3 x =
    (.int (BitVec.ofNat 32 x).toInt, false)) ∧
  (∀ (fmt x fa fb : Nat) (acc : Fmt), let t : Arith := { kind := .log6, fa := fa, fb := fb, acc := acc }
    ((fmtValue fmt x).isNaN → t.enter fmt x = (.inan, false)) ∧
    (∀ s, fmtValue fmt x = .inf s → t.enter fmt x = (.int (if s then -(2 ^ 47 - 1) else 2 ^ 47 - 1), true)) ∧
    (∀ s m e, fmtValue fmt x = .fin s m e → ∃ y : Int,
      t.enter fmt x = (.int (max (-(2 ^ 47 - 1)) (min y (2 ^ 47 - 1))), decide (2 ^ 47 - 1 < y.natAbs)) ∧
      (0 ≤ e + 24 → y = (if s then -1 else 1) * (m * 2 ^ (e + 24).toNat : Nat)) ∧
      (e + 24 < 0 → let u : Int := 2 ^ (-(e + 24)).toNat
        let r : Int := 2 * ((if s then -1 else 1) * (m : Int) - y * u)
        r.natAbs ≤ u.natAbs ∧ (r.natAbs = u.natAbs → y % 2 = 0)))) ∧
  (∀ (t : Arith) (d : Drain), 5 ≤ d.fmt → d.fmt ≤ 8 →
    (∀ x, d.scale = some x → (wholeAt (-149) (Fmt.f32.value x)).isSome) → (d.out t (none, false)).code = 0)

/-- R328-R331: the signature bit of a row and a plane of finite values is the sign of their exact sum; rows of one signature
share the lowest of them as representative, a NaN row is its own, and SHEAF.BWD takes the map that SHEAF.FWD writes. -/
def Sys2Proof.Claims.SheafMaps : Prop :=
  (∀ (q : Int) (row plane : List FVal), row.length = plane.length → (∀ x ∈ row, (wholeAt q x).isSome) →
    (∀ x ∈ plane, (wholeAt q x).isSome) → q ≤ 0 → signBit row plane = some (decide (0 < dotAt q row plane))) ∧
  (∀ (sigs : List (Option Nat)) (i : Nat), i < sigs.length →
    (sigs.getD i none = none → repOf sigs i = i) ∧
    (∀ x, sigs.getD i none = some x → repOf sigs i ≤ i ∧ sigs.getD (repOf sigs i) none = some x ∧
      ∀ j, sigs.getD j none = some x → repOf sigs j = repOf sigs i)) ∧
  (∀ (sigs : List (Option Nat)), sigs.length ≤ 256 → (∀ x ∈ sigs, x.getD 0 < 2 ^ 16) →
    mapOk ((List.range sigs.length).map fun m => mapWord (sigs.getD m none) (repOf sigs m)))

/-- R340, R344, R346: positions within the table's rows resolve to their indices with nothing noted, and the first that a
FAULT policy stops ends the command with the slot and the address of its entry; a pooled F32 element is the sum of its
positions in their order, a zeroed one adding +0; a CHAIN of one level reads its entry and meets the table's bound by its
policy; what CLAMP gives where a bound is 0 is open (log entry 31). -/
def Sys2Proof.Claims.GleanerPositions : Prop :=
  (∀ (c : Actr) (code : Nat) (t : Table) (va : Nat → Word) (ix : List Nat) (s : State),
    ((∀ i ∈ ix, i < t.rows) → (resolveAll c code t va ix : EM (List (Option Nat))) s = (.ok (ix.map some), s)) ∧
    (∀ i x, code = 2 → (∀ j < i, ix.getD j 0 < t.rows) → ix[i]? = some x → t.rows ≤ x →
      (resolveAll c code t va ix : EM (List (Option Nat))) s = (.error (.fault (16 * t.slot) (va i)), s))) ∧
  (∀ (x : Nat) (xs : List Nat), (∀ y ∈ x :: xs, y < 2 ^ 32 ∧ Fmt.f32.isNaN y = false) →
    poolElem 7 false ((x :: xs).map fun y => (some y, none)) = xs.foldl (Fmt.f32.add 0) x ∧
    poolElem 7 false [(some x, none), (none, none)] = Fmt.f32.add 0 x 0) ∧
  (∀ (c : Actr) (b : List Byte) (t : Table) (i y : Nat) (f : Reached) (s u : State), numAt b 28 1 = 1 →
    i < (levelAt b 0).bound → 0 < (levelAt b 0).width →
    (entryVA (levelAt b 0).va (levelAt b 0).width i).toNat % 1024 + (levelAt b 0).width ≤ 1024 →
    (c.place (entryVA (levelAt b 0).va (levelAt b 0).width i) (levelAt b 0).width false : EM (Option Reached)) s =
      (.ok (some f), u) → u.isBad f.a (levelAt b 0).width = false → y = u.num f.a (levelAt b 0).width →
    (y < t.rows → (chainPos c b t i : EM (Option Nat)) s = (.ok (some y), u)) ∧
    (t.rows ≤ y →
      (numAt b 80 1 = 0 → (chainPos c b t i : EM (Option Nat)) s =
        (.ok none, u.updCmd c.cmd fun k => { k with det := k.det ||| 1 })) ∧
      (numAt b 80 1 = 1 → (chainPos c b t i : EM (Option Nat)) s =
        (.ok (some (if t.rows = 0 then Config.clampEmpty y else t.rows - 1)), u.updCmd c.cmd fun k => { k with det := k.det ||| 1 })) ∧
      (numAt b 80 1 = 2 → (chainPos c b t i : EM (Option Nat)) s =
        (.error (.fault (16 * t.slot) (entryVA (levelAt b 0).va (levelAt b 0).width i)), u))))

/-- R98, R100, R336: CONVERT without scales leaves a code of its own format as it is, widens BF16 to F32 exactly, extends
and cuts integers, and notes neither saturation nor a NaN at any of them. -/
def Sys2Proof.Claims.ConvertedElements : Prop :=
  (∀ (f mode x : Nat), 5 ≤ f → f ≤ 8 → (fmtValue f x).isNaN = false →
    convElem f f mode x none none = { code := x, sat := false, nan := false }) ∧
  (∀ (mode x : Nat), x < 2 ^ 16 → Fmt.bf16.isNaN x = false →
    convElem 6 7 mode x none none = { code := x * 2 ^ 16, sat := false, nan := false }) ∧
  (∀ (mode x : Nat), convElem 1 3 mode x none none =
      { code := ((BitVec.ofNat 8 x).signExtend 32).toNat, sat := false, nan := false } ∧
    convElem 3 1 mode x none none = { code := x % 2 ^ 8, sat := false, nan := false })

/-- A row that a command writes first is done: its bytes stand where they were placed, and the command counts it (R318). -/
def Sys2Proof.Claims.rowWritten (t : State) (c : Actr) (f : Reached) (bs : List Byte) : State :=
  (t.pokeAt f bs).updCmd c.cmd fun k => { k with wrote := 1 }

/-- R318, R333, R337, R343: FILL of one row within a line writes its pattern over the row, COPY2D of one row within a line
copies its bytes, and a GATHER of one resolved position brings the table's row; the places are those that the homes' checks
give. -/
def Sys2Proof.Claims.EngineRowsMove : Prop :=
  (∀ (c : Actr) (k : Cmd) (b : List Byte) (d : Desc) (w : Nat) (f : Reached) (s t : State), s.cmd c.cmd = some k →
    k.wrote = 0 → d = Desc.ofBytes b 16 → d.kind = 0 → d.rows = 1 →
    w = numAt b 56 1 → 0 < w → 0 < d.len → d.len % w = 0 → d.va.toNat % 1024 + d.len ≤ 1024 →
    (c.place d.va d.len true : EM (Option Reached)) s = (.ok (some f), t) → t.badPart f.a d.len = false →
    (runFill c b : EM Unit) s =
      (.ok (), rowWritten t c f ((List.range (d.len / w)).flatMap fun _ => bytesOf w (numAt b 48 8)))) ∧
  (∀ (c : Actr) (k : Cmd) (b : List Byte) (x y : Desc) (f g : Reached) (s t u : State), s.cmd c.cmd = some k → k.wrote = 0 →
    x = Desc.ofBytes b 16 → y = Desc.ofBytes b 48 →
    x.kind = 0 → y.kind = 0 → x.rows = 1 → 0 < x.len → x.va.toNat % 1024 + x.len ≤ 1024 →
    y.va.toNat % 1024 + x.len ≤ 1024 → (c.place x.va x.len false : EM (Option Reached)) s = (.ok (some f), t) →
    t.isBad f.a x.len = false → (c.place y.va x.len true : EM (Option Reached)) t = (.ok (some g), u) →
    u.badPart g.a x.len = false →
    (runCopy2d c b : EM Unit) s = (.ok (), rowWritten u c g (t.bytes f.a x.len))) ∧
  (∀ (c : Actr) (k : Cmd) (b : List Byte) (d : Desc) (r : Nat) (tb : Table) (f g : Reached) (s t u : State),
    s.cmd c.cmd = some k → k.wrote = 0 → k.plan = some [some r] → d = Desc.ofBytes b 40 → d.kind = 0 → d.rows = 1 →
    numAt b 32 4 = 1 → d.len = tb.len → 0 < d.len → c.allows s false (tb.row r) tb.len →
    (tb.row r).toNat % 1024 + tb.len ≤ 1024 → d.va.toNat % 1024 + tb.len ≤ 1024 →
    (c.place (tb.row r) tb.len false : EM (Option Reached)) s = (.ok (some f), t) → t.isBad f.a tb.len = false →
    (c.place d.va tb.len true : EM (Option Reached)) t = (.ok (some g), u) → u.badPart g.a tb.len = false →
    (runGather c b tb : EM Unit) s = (.ok (), rowWritten u c g (t.bytes f.a tb.len)))

/-- R93, R101, R102, R105, R106, R110, R114, R318, R328-R331, R333, R335-R337, R340, R343-R346, R348, R349, R351: what engine
commands compute. -/
def Obligations.EngineResults : Prop :=
  EngineArithmetic ∧ FloatProducts ∧ SheafMaps ∧ GleanerPositions ∧ ConvertedElements ∧ EngineRowsMove

/-! ## Events: the memory side, temperature, power and the outside -/

namespace Sys2Proof.Claims

/-- A byte with MOVES and FROZEN of a leaf cleared, in the third byte of the entry (R133). -/
def thawed (b : Byte) : Byte := BitVec.ofNat 8 (b.toNat % 4 + b.toNat / 32 * 32)

/-- The event word list is in the queue of a core, or the event waits at its source (R360). -/
def Posted (s t : State) (src : Nat) (dest : Loc) (ws : List Word) : Prop :=
  ((t.core dest).qevt = (s.core dest).qevt ++ eventWords ws ∧ t.evq = s.evq) ∨
  ((t.core dest).qevt = (s.core dest).qevt ∧ ∃ r, t.evq = s.evq ++ [{ src := src, dest := dest, words := ws, retryAt := r }])

/-- Enabled slots of a core. -/
def slotsOn (c : Core) : Nat := ((List.range 8).filter fun n => (c.slot n).enabled).length

/-- The reading in force for a core's quad (R75). -/
def heatAt (s : State) (l : Loc) : Int := (s.die (Loc.dieId l)).temp (Loc.quad l)

/-- Bytes i, i+1, … of a host value. -/
def hostBytes (v : Word) (n : Nat) : List Byte := (List.range n).map fun i => v.extractLsb' (8 * i) 8

/-- The presence map of a module's stack i stands in the last frame of its die C0, which is zero from byte 576 on (R34). -/
def MapsAt (t : State) (m : Nat) (p : Part) (i : Nat) : Prop :=
  t.bytes (dramKey ((m * 16 + i) * 4) (partBytes - 65536)) 576 = presenceMap p (m * 16 + i) ∧
  ∀ x, 576 ≤ x → x < 65536 → Memory.get t.mem (dramKey ((m * 16 + i) * 4) (partBytes - 65536) + x) = 0

end Sys2Proof.Claims

/-- R131-R133, R172: a granule whose count stands at 64 moves to the die that wrote it, with its bytes, those that the old slices
hold written back first, a leaf there that counts the move, a forwarding leaf in its old place, its old frame in the pool of
its old die, and event 0x11; a request that has left its core is passed on to the new home; a push to a full pool writes nothing; one that is frozen stays and its count starts again; and the 16 ms boundary, which is due once its
time has come, clears MOVES and FROZEN of every listed leaf and changes nothing else. The model takes the count at 64 and the
tables of the new die as log entry 23 has them, a pool as log entry 35, and the boundary's time as log entry 17. -/
def Obligations.GranuleMoves : Prop :=
  (∀ (h : Home) (g d n : Nat) (e : Word) (a o b : Nat) (s s1 s2 u : State), s.rehomeTo h g = some d →
    walk s h (granuleVA g) = .leaf n 65536 e a → (s.die (homeDie h)).moved.length < 4096 → bitOf e 20 = false →
    s.levelOne d g = some b → s.popFrame d = some (s1, o) →
    s2 = (List.range 64).foldl (fun t q => t.flushPage (.slice (homeDie h) q) (granuleVA g)) s1 →
    u = ((s2.copyFrame (leafPhys (homeDie h) e 65536 (granuleVA g)) (dramKey d o)).poke b
        (bytesOf 8 (movedLeaf e o).toNat)).poke a (bytesOf 8 (fwdLeaf d).toNat) →
    ∃ t, exec (.rehomeGranule h g) s = .next t ∧ t.note = .moved ∧
      (t.die (homeDie h)).moved = (s.die (homeDie h)).moved ++ [b] ∧
      (pteKind e ≠ 1 → t.mem = u.mem ∧
        Posted s t (homeKey h) (s.supLoc (homeDie h)) [0x11, granuleVA g, BitVec.ofNat 64 (2 ^ 63)]) ∧
      (pteKind e = 1 → t.mem = (u.pushFrame (homeDie h) (fieldOf e 24 35)).1.mem ∧
        Posted s t (homeKey h) (s.supLoc (homeDie h)) [0x11, granuleVA g, BitVec.ofNat 64 (fieldOf e 24 35 +
          if (u.pushFrame (homeDie h) (fieldOf e 24 35)).2 then 0 else 2 ^ 63)]) ∧
      (∀ p ∈ t.net, spaceOf p.va = .spread → granuleOf p.va = g → p.kind.isRequest → p.home = .slice (homeDie h) (sliceOf p.va) →
        s.leaves p → homeDie h = d)) ∧
  (∀ (h : Home) (g d n : Nat) (e : Word) (a : Nat) (s : State), s.rehomeTo h g = some d →
    walk s h (granuleVA g) = .leaf n 65536 e a → bitOf e 20 → exec (.rehomeGranule h g) s = .next (happened (s.resetCount h g))) ∧
  (∀ (d o a n : Nat) (s u : State), s.memOk → s.poolOf d = some a → n = s.num a 8 → u = (s.pushFrame d o).1 →
    (n < s.num (a + 8) 8 → (s.pushFrame d o).2 ∧ u.bytes a 8 = bytesOf 8 (n + 1) ∧
      u.bytes (a + 16 + 8 * n) 8 = bytesOf 8 o ∧ ∀ x, (x < a ∨ a + 8 ≤ x) → (x < a + 16 + 8 * n ∨ a + 24 + 8 * n ≤ x) →
        Memory.get u.mem x = Memory.get s.mem x) ∧
    (s.num (a + 8) 8 ≤ n → s.pushFrame d o = (s, false))) ∧
  (∀ (d o a n : Nat) (s u : State), s.memOk → s.poolOf d = some a → n = s.num a 8 → s.popFrame d = some (u, o) → 0 < n ∧
    o = s.num (a + 8 + 8 * n) 8 ∧ u.bytes a 8 = bytesOf 8 (n - 1) ∧
    ∀ x, (x < a ∨ a + 8 ≤ x) → Memory.get u.mem x = Memory.get s.mem x) ∧
  (∀ (s : State) (a b : Nat), s.memOk → (s.copyFrame a b).bytes b 65536 = s.bytes a 65536 ∧
    ∀ x, x < b ∨ b + 65536 ≤ x → Memory.get (s.copyFrame a b).mem x = Memory.get s.mem x) ∧
  (∀ (e : Word) (o : Nat), fieldOf e 18 2 < 3 → o < 2 ^ 35 → fieldOf (movedLeaf e o) 18 2 = fieldOf e 18 2 + 1 ∧
    fieldOf (movedLeaf e o) 24 40 = o ∧ pteKind (movedLeaf e o) = 1 ∧
    bitOf (movedLeaf e o) 20 = (bitOf e 20 || decide (fieldOf e 18 2 = 2)) ∧
    ∀ i < 64, i < 6 ∨ (8 ≤ i ∧ i < 18) ∨ (20 < i ∧ i < 24) → bitOf (movedLeaf e o) i = bitOf e i) ∧
  (∀ d, d < 2 ^ 14 → pteP (fwdLeaf d) = false ∧ pteFwd (fwdLeaf d) ∧ fieldOf (fwdLeaf d) 24 8 = d / 64 ∧
    fieldOf (fwdLeaf d) 32 4 = d / 4 % 16 ∧ fieldOf (fwdLeaf d) 36 2 = d % 4) ∧
  (∀ (m : Nat) (s : State), s.powered m → s.memOk → (s.module m).epochAt ≤ s.clk →
    ∃ t, exec (.epochBoundary m) s = .next t ∧ t.note = .moved ∧ (t.module m).epochAt = (s.module m).epochAt + 32000000 ∧
    (∀ i < 64, (t.die (m * 64 + i)).moved = []) ∧ t.net = s.net ∧ t.frames = s.frames ∧
    (∀ i < 64, ∀ a ∈ (s.die (m * 64 + i)).moved, Memory.get t.mem (a + 2) = thawed (Memory.get s.mem (a + 2))) ∧
    ∀ x, (∀ i < 64, ∀ a ∈ (s.die (m * 64 + i)).moved, x ≠ a + 2) → Memory.get t.mem x = Memory.get s.mem x)

/-- R166, R167, R362: the lowest step that every participant has closed is merged into one packet for each address,
operation and width, the values folded by ascending module, for the home of the first; 64 µs after the first closure a participant that has not
closed is closed with event 0x32; and a patrol scrub reports an uncorrectable doubleword with event 0x13, whose location word is open (log entry 34). -/
def Obligations.StepsAndScrubs : Prop :=
  (∀ (m w n : Nat) (s : State) (x : RWindow), w < 16 → x = (s.module m).windows.toList.getD w {} → x.first = some n →
    s.powered m → x.enable → (∀ i < 256, x.mask.getLsbD i → n < x.step i) → ∃ t y,
    exec (.reductionStepMerge m w) s = .next t ∧ t.note = .moved ∧ SameMemory s t ∧
      (t.module m).windows.toList.getD w {} = y ∧ (∀ o ∈ y.ops, o.step ≠ n) ∧ (∀ c ∈ y.closed, c.1 ≠ n) ∧
      (∀ o ∈ x.ops, o.step ≠ n → o ∈ y.ops) ∧ y.steps = x.steps ∧ y.mask = x.mask ∧
      t.net.length = s.net.length + (foldStep [] (x.opsOf n)).length ∧
      ∀ o ∈ x.ops, o.step = n → o.mod < 256 → ∃ p ∈ t.net, ∃ a l, ((List.range 256).flatMap fun i => x.ops.filter fun q =>
        decide (q.step = n ∧ q.mod = i ∧ q.va = o.va ∧ q.op = o.op ∧ q.dbl = o.dbl)) = a :: l ∧ p.merged ∧ p.va = o.va ∧
        p.home = a.pkt.home ∧ p.kind = .post o.op o.dbl
          (l.foldl (fun v q => BitVec.ofNat 64 (amoApply o.op o.dbl v.toNat q.v.toNat 0)) a.v)) ∧
  (∀ (a : RedOp) (l : List RedOp), (∀ o ∈ l, o.va = a.va ∧ o.op = a.op ∧ o.dbl = a.dbl) → foldStep [] (a :: l) =
    [{ a with v := l.foldl (fun v o => BitVec.ofNat 64 (amoApply a.op a.dbl v.toNat o.v.toNat 0)) a.v }]) ∧
  (∀ (m w k n : Nat) (s : State) (x : RWindow), w < 16 → k < 256 → x = (s.module m).windows.toList.getD w {} →
    x.first = some n → s.powered m → x.enable → x.mask.getLsbD k → x.step k = n → x.closedAt n + 128000 ≤ s.clk → ∃ t y,
    exec (.reductionStepTimeout m w k) s = .next t ∧ t.note = .moved ∧ (t.module m).windows.toList.getD w {} = y ∧
      y.step k = n + 1 ∧ (∀ i, i ≠ k → y.step i = x.step i) ∧ y.ops = x.ops ∧
      Posted s t (2 ^ 35 + m * 16 + w) (s.supLoc (dmDie x.base)) [0x32, x.base]) ∧
  (∀ (d : Nat) (h : Home) (s : State), scrubHome d = some h → s.powered (homeMod h) →
    (s.bad.contains d = false → exec (.patrolScrub d) s = .next (happened s)) ∧
    (s.bad.contains d → ∃ t, exec (.patrolScrub d) s = .next t ∧ t.note = .moved ∧ t.bad = s.bad ∧ t.mem = s.mem ∧
      Posted s t (homeKey h) (s.supLoc (homeDie h)) [0x13, Config.scrubPlace d]))

/-- R75-R77, R83, R242, R369, R370: a refresh takes each working sensor's sample, and for a quad without one the highest of its
working neighbours plus 5 °C; the die goes to its slow clock at 125 °C and back at 115 °C; a sensor that fails is declared
with event 0x30, the last one with a fixed clock and every slot enabled; and at a tick HOT as written comes in force, a core
above it loses at most one slot and never its last, a core below by 5 °C gets at most one back, any other keeps its slots. -/
def Sys2Proof.Claims.SensorsAndTicks : Prop :=
  (∀ (die power : Nat) (samples : List (BitVec 12)) (s : State) (x : Die), s.powered (die / 64) →
    x = Die.judged { s.die die with
      samples := (samples :: (s.die die).samples).take 400
      powers := (power :: (s.die die).powers).take 400 } →
    ∃ t, exec (.shadeTableRefresh die samples power) s = .next t ∧ t.note = .moved ∧ (t.die die).samples = x.samples ∧
      (∀ q < 64, x.works q → (t.die die).temp q = (samples.getD q 0).toInt) ∧
      (∀ q < 64, x.works q = false → (quadNeighbours q).any x.works →
        (∃ n ∈ quadNeighbours q, x.works n ∧ (t.die die).temp q = (samples.getD n 0).toInt + 40) ∧
        ∀ n ∈ quadNeighbours q, x.works n → (samples.getD n 0).toInt + 40 ≤ (t.die die).temp q) ∧
      ((∃ q < 64, 1000 ≤ (t.die die).temp q) → (t.die die).slow) ∧
      ((∀ q < 64, (t.die die).temp q ≤ 920) → (t.die die).slow = false) ∧
      ((∀ q < 64, (t.die die).temp q < 1000) → (∃ q < 64, 920 < (t.die die).temp q) → (t.die die).slow = (s.die die).slow)) ∧
  (∀ (die q : Nat) (s : State), s.powered (die / 64) → q < 64 → (s.die die).failed.getLsbD q = false →
    (s.die die).failing q → ∃ t, exec (.sensorFailure die q) s = .next t ∧ t.note = .moved ∧
      (∀ i < 64, (t.die die).failed.getLsbD i = ((s.die die).failed.getLsbD i || decide (i = q))) ∧
      ((∃ i < 64, i ≠ q ∧ (s.die die).failed.getLsbD i = false) → (t.die die).dfix = (s.die die).dfix ∧
        Posted s t (heatSource die) (s.supLoc die)
          [BitVec.ofNat 64 (0x30 + q * 2 ^ 8), BitVec.ofNat 64 (ofInt 12 (maxOf ((s.die die).last q 1)))]) ∧
      ((∀ i < 64, i ≠ q → (s.die die).failed.getLsbD i) → (t.die die).dfix ∧
        ∀ l n, Loc.dieId l = die → n < 8 → ((t.core l).slot n).enabled)) ∧
  (∀ (die : Nat) (s : State), s.powered (die / 64) → ∃ t, exec (.thermalStep die) s = .next t ∧ t.note = .moved ∧
    SameMemory s t ∧ ((s.die die).dfix → t = happened s) ∧
    ((s.die die).dfix = false → (t.die die).threshold = (s.die die).hot) ∧ ∀ c < 256, let l := die * 256 + c
      (8 * ((s.die die).hot.toNat : Int) < (s.die die).temp (Loc.quad l) → slotsOn (t.core l) ≤ slotsOn (s.core l) ∧
        slotsOn (s.core l) ≤ slotsOn (t.core l) + 1 ∧ (1 ≤ slotsOn (s.core l) → 1 ≤ slotsOn (t.core l)) ∧
        ((s.die die).dfix = false → 2 ≤ slotsOn (s.core l) → (∃ n < 8, ((s.core l).slot n).enabled ∧
          ((s.core l).slot n).bound = none) → slotsOn (t.core l) + 1 = slotsOn (s.core l))) ∧
      ((s.die die).temp (Loc.quad l) ≤ 8 * ((s.die die).hot.toNat : Int) - 40 → slotsOn (s.core l) ≤ slotsOn (t.core l) ∧
        slotsOn (t.core l) ≤ slotsOn (s.core l) + 1 ∧ ((s.core l).heat = [] → slotsOn (t.core l) = slotsOn (s.core l))) ∧
      ((s.die die).temp (Loc.quad l) ≤ 8 * ((s.die die).hot.toNat : Int) →
        8 * ((s.die die).hot.toNat : Int) - 40 < (s.die die).temp (Loc.quad l) → slotsOn (t.core l) = slotsOn (s.core l)))

/-- R76, R77, R83: a core that disables a slot takes the highest-numbered enabled empty one, else the highest-numbered whose
thread may be displaced. That thread leaves it at once between two instructions, else when its instruction ends; it sets out
for the coolest other core of its region with a free frame, of equals the lowest, or stays resident and unbound. Where no
slot may be disabled a gang's interval doubles, up to 64 clk, and a cool core undoes its most recent step. The cores of a die
take their steps by ascending index (log entry 99), readings compare whatever die they are of (log entry 89), a thread in the
middle of an instruction is displaced at its end (log entry 33), and a doubling whose gang has dissolved is undone without
effect (log entry 90). -/
def Sys2Proof.Claims.SlotsAndGangsCool : Prop :=
  (∀ (die : Nat) (s : State), s.powered (die / 64) → (s.die die).dfix = false → ∃ v : Nat → Tick, v 0 = (s, [], []) ∧
    (∀ c < 256, v (c + 1) = heatStep (s.die die) (v c) (die * 256 + c)) ∧
    exec (.thermalStep die) s = .next (happened ((v 256).1.updDie die fun d => { d with threshold := d.hot }))) ∧
  (∀ (l n : Nat) (s : State), s.slotToShed l = some n → n < 8 ∧ ((s.core l).slot n).enabled ∧ 2 ≤ slotsOn (s.core l) ∧
    ((((s.core l).slot n).bound = none ∧ ∀ m < 8, ((s.core l).slot m).enabled → ((s.core l).slot m).bound = none → m ≤ n) ∨
    (∃ f, ((s.core l).slot n).bound = some f ∧ s.mayDisplace (keyOf l f) ∧ ∀ m < 8, ((s.core l).slot m).enabled →
      ∃ g, ((s.core l).slot m).bound = some g ∧ (s.mayDisplace (keyOf l g) → m ≤ n)))) ∧
  (∀ (l n f : Nat) (up down : List Nat) (s u : State), s.slotToShed l = some n → ((s.core l).slot n).bound = some f →
    u = (heatUp (s, up, down) l).1 → ((u.core l).slot n).enabled = false ∧ (u.core l).heat = .slot n :: (s.core l).heat ∧
    ((s.frame (keyOf l f)).between = false → (u.frame (keyOf l f)).shed ∧ ((u.core l).slot n).bound = some f) ∧
    ((s.frame (keyOf l f)).between → ((u.core l).slot n).bound = none ∧
      ∃ v : State, v.dies = s.dies ∧ v.launches = s.launches ∧ u = v.shed (keyOf l f))) ∧
  (∀ (k dest n : Nat) (s : State), s.coolest k = some (dest, n) → ∃ x,
    s.launchOf (s.frame k).launch (s.frame k).lmod = some x ∧ x.lr.holds (s.frame k).lmod dest ∧ dest ≠ keyLoc k ∧
    s.freeFrame dest = some n ∧ ∀ l, x.lr.holds (s.frame k).lmod l → l ≠ keyLoc k → (s.freeFrame l).isSome →
      heatAt s dest ≤ heatAt s l ∧ (heatAt s dest = heatAt s l → dest ≤ l)) ∧
  (∀ (k : Nat) (s : State), (s.frame k).used → (∀ d r, (s.frame k).wait ≠ some (.depart d r)) →
    (∀ dest n, s.coolest k = some (dest, n) → ((s.shed k).frame k).wait = some (.displaced dest
      (match (s.frame k).wait with | some (.sleep t) => some t | _ => none) (if (s.frame k).anch then some n else none))) ∧
    (s.coolest k = none → (s.shed k).frame k = { s.frame k with shed := false })) ∧
  (∀ (l : Nat) (up down : List Nat) (s u : State) (g : Gang), s.slotToShed l = none →
    (s.gangs.find? fun g => g.formed && g.members.any fun k => keyLoc k == l) = some g → u = (heatUp (s, up, down) l).1 →
    (u.core l).heat = .gang g.id :: (s.core l).heat ∧ (∀ n, (u.core l).slot n = (s.core l).slot n) ∧
    (g.id ∉ up → { g with interval := min (2 * g.interval) 64 } ∈ u.gangs) ∧ (g.id ∈ up → u.gangs = s.gangs)) ∧
  (∀ (l id : Nat) (r : List HeatStep) (up down : List Nat) (s u : State), (s.core l).heat = .gang id :: r →
    u = (coolDown (s, up, down) l).1 → (u.core l).heat = r ∧ (∀ n, (u.core l).slot n = (s.core l).slot n) ∧
    u.frames = s.frames ∧ ((∀ g ∈ s.gangs, g.id ≠ id) → u.gangs = s.gangs) ∧ (id ∈ down → u.gangs = s.gangs) ∧
    (id ∉ down → ∀ g ∈ s.gangs, g.id = id → { g with interval := max (g.interval / 2) 4 } ∈ u.gangs)) ∧
  (∀ (l m n : Nat) (r : List HeatStep) (up down : List Nat) (s u : State), (s.core l).heat = .slot m :: r →
    u = (coolDown (s, up, down) l).1 → (u.core l).heat = r ∧ u.gangs = s.gangs ∧ u.frames = s.frames ∧
    (n < 8 → (∀ j < n, ((s.core l).slot j).enabled) → ((u.core l).slot n).enabled ∧
      ∀ j < 8, j ≠ n → ((s.core l).slot n).enabled = false → (u.core l).slot j = (s.core l).slot j))

/-- R75-R77, R83, R242, R369, R370: what temperature does to clocks, slots, threads and gangs. Events and thresholds are as log
entries 74 and 85 have them. -/
def Obligations.TemperatureSteps : Prop := SensorsAndTicks ∧ SlotsAndGangsCool

/-- R20, R34, R375, R380, R383: power-good runs bring-up: to READY and step 8 on a part without a failing step and
with the presence maps in place, or to FAIL at the failing step, and to FWWAIT where the image does not verify; an
image that arrives is kept in the slot, and lets a waiting Bothy go on; power loss clears the module and its memory and
leaves the rest of the pod alone; and the management ports read STATUS, UNITS and the readings.
Whether an image verifies is open (log entry 16), a failed router is reported as log entry 18 says, and a held
in-band interrupt goes out with the address (log entry 19). -/
def Obligations.PowerAndManagement : Prop :=
  (∀ (m : Nat) (part p : Part) (s : State), m < 256 → s.powered m = false →
    p = { part with imagePlace := if s.mods.has m then (s.module m).part.imagePlace else part.imagePlace } →
    ∃ t, exec (.powerGood m part) s = .next t ∧ t.note = .moved ∧ t.powered m ∧ (t.module m).part = p ∧
      (t.module m).epoch = s.clk ∧ (∀ k, Loc.module (keyLoc k) = m → (t.frame k).used = false) ∧
      (Config.imageGood p.imagePlace s.nextId = false → (t.module m).ready = false ∧ (t.module m).fail ∧
        (t.module m).failKind = 9 ∧ (t.module m).fwwait) ∧
      (∀ k kind st d, Config.imageGood p.imagePlace s.nextId → partStop p m = some (k, kind, st, d) →
        (t.module m).ready = false ∧ (t.module m).fail ∧ (t.module m).fwwait = false ∧ (t.module m).step = k - 1 ∧
        (t.module m).failKind = kind ∧ (t.module m).failStack = st ∧ (t.module m).failDie = d) ∧
      (Config.imageGood p.imagePlace s.nextId → partStop p m = none → (t.module m).ready ∧ (t.module m).fail = false ∧
        (t.module m).step = 8 ∧ (s.memOk → ∀ i < 16, MapsAt t m p i))) ∧
  (∀ (m n : Nat) (i : Instr) (s : State), s.powered m → ((∃ v, i = .fwload m v ∧ n = v.toNat) ∨
      (∃ a b, i = .mgmtFirmwareLoad m a b ∧ n = 2 ^ 64 + a * 2 ^ 32 + b)) →
    ∃ t, exec i s = .next t ∧ t.note = .moved ∧ (t.module m).part = { (s.module m).part with imagePlace := n } ∧
      ((s.module m).fwwait = false → t.mem = s.mem ∧ (t.module m).ready = (s.module m).ready) ∧
      ((s.module m).fwwait → Config.imageGood n s.nextId → partStop { (s.module m).part with imagePlace := n } m = none →
        (t.module m).ready ∧ (t.module m).fwwait = false ∧ (t.module m).step = 8 ∧ (t.module m).epoch = s.clk ∧
        (s.memOk → ∀ i < 16, MapsAt t m (t.module m).part i))) ∧
  (∀ (m : Nat) (s : State), s.powered m → s.memOk → ∃ t, exec (.powerLoss m) s = .next t ∧ t.note = .moved ∧
    t.powered m = false ∧ (t.module m).part = (s.module m).part ∧
    (∀ a, Memory.get t.mem a = if keyModule a = some m then memDefault a else Memory.get s.mem a) ∧
    (∀ k, Loc.module (keyLoc k) = m → (t.frame k).used = false) ∧
    (∀ k, Loc.module (keyLoc k) ≠ m → t.frame k = s.frame k) ∧ (∀ i, i ≠ m → t.module i = s.module i) ∧
    (∀ k ∈ t.locks, ∀ l lo n, k.rng = .bank l lo n → Loc.module l ≠ m) ∧ ∀ x ∈ t.launches, x.mod ≠ m) ∧
  (∀ (m : Nat) (s : State) (what : Reading) (addr : BitVec 7), s.powered m →
    (∃ w, exec (.mgmtRead m what) s = .next (happened { s with outs := s.outs ++ [.reading w] }) ∧
      ((s.module m).i3cAddr.isSome → exec (.i3cRead m what) s = .next (happened { s with outs := s.outs ++ [.reading w] })) ∧
      (what = .status → w = (s.module m).status) ∧ (what = .units → w = unitsWord (s.module m).part) ∧
      (∀ d q, what = .temp d q → d < 64 → w.toNat = ((s.die (m * 64 + d)).temp q % 4096).toNat)) ∧
    (∃ t, exec (.i3cEntdaa m addr) s = .next t ∧ t.note = .moved ∧ (t.module m).i3cAddr = some addr ∧
      t.outs = s.outs ++ (if (s.module m).ibi then [.ibi m] else []))) ∧
  (∀ x : Module, x.failStack < 16 → x.failDie < 4 → x.failKind < 16 → x.step < 16 →
    bitOf x.status 0 = x.ready ∧ fieldOf x.status 1 4 = x.step ∧ bitOf x.status 5 = x.fail ∧ fieldOf x.status 6 4 = x.failStack ∧
    fieldOf x.status 10 2 = x.failDie ∧ fieldOf x.status 12 4 = x.failKind ∧ bitOf x.status 16 = x.fwwait ∧
    fieldOf x.status 17 47 = 0)

/-- R18, R377: link training gives a module its number in the pod and its memory with it; a link-level retry and a lost
port change no packet; a module whose last port is lost falls silent; and one that is silent for 1 ms is declared lost, with
event 0x41 on a peer that waits for it.
A retry stays marked (log entry 28), the event of a lost module goes to die 0 of stack 0 with an open second word (log
entry 36), and training moves a module before anything runs on it (log entry 37). -/
def Obligations.HedgerowLinks : Prop :=
  (∀ (m n : Nat) (s : State), s.powered m → (s.module m).trained = false → n < 256 → (n = m ∨ s.mods.has n = false) →
    s.quiet m → s.memOk → (∀ c ∈ s.mem, keyModule c.1 = some n → n = m) → m < 256 →
    ∃ t, exec (.hedgerowLinkTraining m n) s = .next t ∧ t.note = .moved ∧ t.powered n ∧ (t.module n).trained ∧
      (∀ i < 64, ∀ o < 2 ^ 35, Memory.get t.mem (dramKey (n * 64 + i) o) = Memory.get s.mem (dramKey (m * 64 + i) o)) ∧
      (n ≠ m → t.mods.has m = false) ∧ ∀ x ∈ s.launches, x.mod ≠ m → x ∈ t.launches) ∧
  (∀ (m p : Nat) (s : State), s.powered m → p < 32 → ∃ t, exec (.hedgerowPortFailure m p) s = .next t ∧
    t.note = .moved ∧ t.net = s.net ∧ t.mem = s.mem ∧ t.cores = s.cores ∧ t.frames = s.frames ∧
    (∀ i < 32, (t.module m).portsDown.getLsbD i = ((s.module m).portsDown.getLsbD i || decide (i = p))) ∧
    ((∃ i < 32, i ≠ p ∧ (s.module m).portsDown.getLsbD i = false) → (t.module m).silent = (s.module m).silent) ∧
    ((∀ i < 32, i ≠ p → (s.module m).portsDown.getLsbD i) → (t.module m).silent.isSome)) ∧
  (∀ (m p : Nat) (s : State), s.powered m → p < 32 → (s.module m).portsDown.getLsbD p = false →
    ∃ t, exec (.linkLevelRetry m p) s = .next t ∧ t.note = .moved ∧ t.net = s.net ∧ t.mem = s.mem ∧ t.frames = s.frames ∧
    t.cores = s.cores ∧ ∀ i < 32, (t.module m).inRetry.getLsbD i = ((s.module m).inRetry.getLsbD i || decide (i = p))) ∧
  (∀ (m c : Nat) (s : State), s.mods.has m → (s.module m).trained → (s.module m).lost = false →
    (s.module m).silent = some c → c + 2000000 ≤ s.clk → ∃ t, exec (.moduleLost m) s = .next t ∧ t.note = .moved ∧
    (t.module m).lost ∧ t.mem = s.mem ∧ ((∀ e ∈ s.mods, s.outstanding e.1 m = false) → t.cores = s.cores ∧ t.evq = s.evq) ∧
    (∀ i x, s.mods = [(i, x), (m, s.module m)] → i ≠ m → x.power → x.trained → s.outstanding i m →
      Posted s t (2 ^ 36 + i * 256 + m) (s.supLoc (i * 64)) [BitVec.ofNat 64 (0x41 + m * 2 ^ 8), Config.lostWord s.nextId]))

/-- R168, R254, R372, R376: a host write puts its bytes in place and a host read returns what is there, unless the host
asked for IDE and no keys are programmed; an uncorrectable doubleword is read as poison and a partial write leaves it; a
write to the bell doubleword posts event 0x40 after the bytes. -/
def Sys2Proof.Claims.HostMemoryAccess : Prop :=
  (∀ (m size : Nat) (off v : Word) (s : State), s.powered m → hdmOk off.toNat size →
    ((s.module m).refusesMem = false → s.memOk → ∃ t, exec (.cxlMemWrite m off size v) s = .next t ∧ t.note = .moved ∧
      (s.badUnder (hdmKey m off.toNat) size = false → t.bytes (hdmKey m off.toNat) size = hostBytes v size) ∧
      (∀ a, (a < hdmKey m off.toNat ∨ hdmKey m off.toNat + size ≤ a) ∨ s.badUnder (hdmKey m off.toNat) size →
        Memory.get t.mem a = Memory.get s.mem a) ∧
      (bellIn (s.module m).mbox = false ∨ hdmKey m off.toNat / 8 ≠ bellKey m (s.module m).mbox / 8 → t.evq = s.evq ∧ t.frames = s.frames ∧
        ∀ l, (t.core l).qevt = (s.core l).qevt) ∧
      (bellIn (s.module m).mbox → hdmKey m off.toNat / 8 = bellKey m (s.module m).mbox / 8 →
        Posted s t (homeKey (.cxl m)) (bellCore m (s.module m).mbox) [0x40, BitVec.ofNat 64 (v.toNat % 2 ^ (8 * size))])) ∧
    ((s.module m).refusesMem →
      exec (.cxlMemWrite m off size v) s = .next (happened { s with outs := s.outs ++ [.refused] }) ∧
      exec (.cxlMemRead m off size) s = .next (happened { s with outs := s.outs ++ [.refused] })) ∧
    ((s.module m).refusesMem = false → exec (.cxlMemRead m off size) s = .next (happened { s with outs := s.outs ++
      [if s.isBad (hdmKey m off.toNat) size then .hostPoison else .hostRead (BitVec.ofNat 64 (s.num (hdmKey m off.toNat) size))] }))) ∧
  (∀ (m : Nat) (s : State), s.powered m → ∃ t, exec (.ideKeyProgramming m) s = .next t ∧ t.note = .moved ∧
    (t.module m).refusesMem = false ∧ t.mem = s.mem)

/-- R119, R129, R273, R374: what a write of the register window does: `ptroot` keeps its valid bits, SUPCORE and MBOX keep
what they hold, a core becomes fallow unless a launch occupies it and stays so until it is cleared, BARADD brings a launch's
placed threads into a barrier, and an enabled reduction window takes nothing but the clearing of enable.
What a window keeps as its enable is cleared, whom BARADD takes and what becomes of the threads of a fallow core are
the choices of log entries 24, 26 and 27. -/
def Obligations.RegisterWindow : Prop :=
  (∀ (m n : Nat) (v : Word) (s : State), s.powered m → n < 64 → ∃ t, exec (.ptrootWrite m n v) s = .next t ∧
    exec (.registerWindowWrite m (0x500 + 8 * n) v) s = .next t ∧ t.note = .moved ∧
    (∀ i < 64, bitOf (t.die (m * 64 + n)).ptroot i = (bitOf v i && decide (i = 0 ∨ (6 ≤ i ∧ i < 35)))) ∧
    t.readReg m (0x500 + 8 * n) = (t.die (m * 64 + n)).ptroot ∧ (∀ d, d ≠ m * 64 + n → t.die d = s.die d) ∧ t.mem = s.mem) ∧
  (∀ (m n : Nat) (v : Word) (s : State), s.powered m → n < 64 → ∃ t,
    exec (.registerWindowWrite m (0x100 + 8 * n) v) s = .next t ∧ t.note = .moved ∧
    (t.readReg m (0x100 + 8 * n)).toNat = v.toNat % 256 ∧ t.supLoc (m * 64 + n) = (m * 64 + n) * 256 + v.toNat % 256) ∧
  (∀ (m : Nat) (v : Word) (s : State), s.powered m → ∃ t, exec (.registerWindowWrite m 0x10 v) s = .next t ∧ t.note = .moved ∧
    ∀ i < 64, bitOf (t.readReg m 0x10) i = (bitOf v i && decide (i < 6 ∨ (16 ≤ i ∧ i < 62)))) ∧
  (∀ (m : Nat) (v : Word) (s : State), s.powered m → bitOf v 14 →
    ((s.launches.any fun x => x.occupies && x.lr.holds x.mod (fallowLoc m v)) →
      ∃ t, exec (.fallowSet m v) s = .next t ∧ t.note = .moved ∧ t.readReg m 0x400 = 1 ∧ t.cores = s.cores) ∧
    ((s.launches.any fun x => x.occupies && x.lr.holds x.mod (fallowLoc m v)) = false →
      ∃ t, exec (.fallowSet m v) s = .next t ∧ t.note = .moved ∧ t.readReg m 0x400 = 0 ∧ (t.core (fallowLoc m v)).fallow ∧
        (∀ n < 8, ((t.core (fallowLoc m v)).slot n).bound = none) ∧ SameMemory s t)) ∧
  (∀ (m : Nat) (v : Word) (s : State), s.powered m → bitOf v 14 = false →
    ∃ t, exec (.fallowClear m v) s = .next t ∧ t.note = .moved ∧ t.readReg m 0x400 = 0 ∧
      (t.core (fallowLoc m v)).fallow = false ∧ t.mem = s.mem) ∧
  (∀ (m : Nat) (v : Word) (s : State) (x y : Launch) (b : Barrier) (sc : Scope) (n : Nat), s.powered m →
    ((fieldOf (s.module m).baradd 32 3 = 4 ∧ sc = .mod) ∨ (fieldOf (s.module m).baradd 32 3 = 5 ∧ sc = .pod)) →
    n = fieldOf (s.module m).baradd 35 3 → s.launchOf ((s.module m).baradd.setWidth 32) m = some x → x.status ≠ .done →
    s.launchOf (v.setWidth 32) m = some y → y.lr.kind = 1 →
    (s.barriers.find? fun c => c.isAt x.id x.mod sc (if sc = .mod then m else 0) n) = some b → b.members ≠ [] → ∃ t c,
    exec (.baradd m v) s = .next t ∧ t.note = .moved ∧ c ∈ t.barriers ∧ c.id = b.id ∧ c.members = b.members ∧
      c.phase = b.phase ∧ c.arrived = b.arrived ∧ ∀ e ∈ y.placed, instanceOf sc e.2 = (if sc = .mod then m else 0) →
        e.1 ∉ y.exited → e.1 ∈ c.members ∨ e.1 ∈ c.joining) ∧
  (∀ (m w off : Nat) (v : Word) (s : State) (x : RWindow), s.powered m → w < 16 → off < 64 → off % 8 = 0 →
    x = (s.module m).windows.toList.getD w {} → ∃ t y, exec (.reductionWindowWrite m w off v) s = .next t ∧
      t.note = .moved ∧ (t.module m).windows.toList.getD w {} = y ∧ t.mem = s.mem ∧
      (∀ i < 16, i ≠ w → (t.module m).windows.toList.getD i {} = (s.module m).windows.toList.getD i {}) ∧
      (x.enable → y.base = x.base ∧ y.pages = x.pages ∧ y.ty = x.ty ∧ y.mask = x.mask ∧ y.ops = x.ops) ∧
      (x.enable = false → (off = 0 → y.base = v) ∧ (32 ≤ off → ∀ i < 256, y.mask.getLsbD i =
        if (off - 32) * 8 ≤ i ∧ i < (off - 32) * 8 + 64 then bitOf v (i - (off - 32) * 8) else x.mask.getLsbD i) ∧
        (off = 8 → y.pages = v.setWidth 32 ∧ y.enable = bitOf v 40 ∧ y.ops = [] ∧ y.closed = [])))

/-- R378: a SEND fills the queue pair's first posted receive and completes it, an RDMA write and read reach the bytes of a
registered region, anything outside it and every RDMA atomic is refused with a NAK. -/
def Sys2Proof.Claims.EthernetRequests : Prop :=
  (∀ (m qp region off : Nat) (data : List Byte) (s : State), s.powered m → (s.module m).ready → qp < 4096 → s.memOk →
    (∀ a, s.regionKey m region off data.length = some a → ∃ t, exec (.roceRdmaWrite m qp region off data) s = .next t ∧
      t.note = .moved ∧ t.bytes a data.length = data ∧ t.outs = s.outs ∧
      (∀ x, x < a ∨ a + data.length ≤ x → Memory.get t.mem x = Memory.get s.mem x) ∧
      (data.length % 8 = 0 → a % 8 = 0 → ∀ len ≤ data.length, exec (.roceRdmaRead m qp region off len) t =
        .next (happened { t with outs := t.outs ++ [.roce qp (data.take len)] }))) ∧
    (s.regionKey m region off data.length = none → exec (.roceRdmaWrite m qp region off data) s = .next (happened (s.nak qp)) ∧
      exec (.roceRdmaRead m qp region off data.length) s = .next (happened (s.nak qp))) ∧
    (∀ len a, s.regionKey m region off len = some a → exec (.roceRdmaRead m qp region off len) s =
      .next (happened (if s.isBad a len then s.nak qp else { s with outs := s.outs ++ [.roce qp (s.bytes a len)] }))) ∧
    (∀ r a, (s.module m).recvs.find? (fun e => e.1 == qp) = some (qp, r) → s.regionKey m r 0 data.length = some a → ∃ t,
      exec (.roceSend m qp data) s = .next t ∧ t.note = .moved ∧ t.bytes a data.length = data ∧
      (t.module m).cq = (s.module m).cq ++ [(qp, data.length)] ∧ (t.module m).recvs = (s.module m).recvs.erase (qp, r)) ∧
    ((∀ e ∈ (s.module m).recvs, e.1 ≠ qp) → exec (.roceSend m qp data) s = .next (happened (s.nak qp))) ∧
    exec (.roceAtomicNak m qp) s = .next (happened (s.nak qp)))

/-- R168, R254, R372, R376, R378: the host's accesses to device memory and the requests that come by Ethernet.
A host write of part of an uncorrectable doubleword leaves it so (log entry 25), and queue pairs, regions and
completion entries are as log entry 38 has them. -/
def Obligations.HostAndEthernet : Prop := HostMemoryAccess ∧ EthernetRequests

/-! ## Words, steps and the whole machine -/

namespace Sys2Proof.Claims

/-- What the pipe has in front for the thread in issue: word w, in state t. No request is under way, no repeat frame is
active, and the word at pc stands in the slot's buffer, or is fetched into it (R43, R170, R174). -/
def InFront (v t : State) (w : W32) : Prop :=
  v.my.pend = .idle ∧ v.my.rfa = false ∧
  ((∃ e, (((v.core v.cur.loc).slot v.cur.slot).ibuf.find? fun x => x.va == v.my.pc) = some e ∧ e.w = w ∧ t = v) ∨
   ((((v.core v.cur.loc).slot v.cur.slot).ibuf.find? fun x => x.va == v.my.pc) = none ∧ ∃ u p,
      v.fetch v.my.pc = (u, .word w p) ∧ t = u.updSlot u.cur.loc u.cur.slot fun x => x.buffer v.my.pc p w))

/-- A turn of core l has come, at least one clk after the last: u is the state in which its slots are searched (R45). -/
def CoreTurn (s u : State) (l : Loc) : Prop :=
  ∃ c r, s.turns = { clks := c, who := .issue l } :: r ∧
    u = { s with turns := r, clk := s.clk + max 1 c, note := .idle } ∧ u.powered (Loc.module l)

/-- A slot bound to frame f may issue: its thread or gang is in the middle of an instruction, or the slot has issued none in
the last 3 clk and a gang's interval has passed (R45, R74). -/
def MayIssue (u : State) (l : Loc) (n f : Nat) : Prop :=
  (∃ k ∈ u.issuers (keyOf l f), (u.frame k).pend ≠ .idle) ∨
  (((u.core l).slot n).next ≤ u.clk ∧ ∀ g, u.gangOf (keyOf l f) = some g → g.next ≤ u.clk)

/-- The search passes over slot n of core l, which is bound to frame f: its thread is not to leave the slot, and may not issue
or starts no new instruction because its launch is pre-empted (R45, R76, R364). -/
def PassedOver (u : State) (l : Loc) (n f : Nat) : Prop :=
  (u.frame (keyOf l f)).par.ctl = false ∧ u.sheds (keyOf l f) = false ∧ (u.frozen (keyOf l f) ∨ ¬ MayIssue u l n f)

/-- The search of core l starts after the slot that issued last and passes over slots that are unbound or may not issue; it
comes to slot n, which is bound to frame f (R45). -/
def FirstSlot (u : State) (l : Loc) (n f : Nat) : Prop :=
  ((u.core l).slot n).bound = some f ∧ ∃ i < 8, n = ((u.core l).rr + i) % 8 ∧
    ∀ j < i, ∀ g, ((u.core l).slot (((u.core l).rr + j) % 8)).bound = some g →
      PassedOver u l (((u.core l).rr + j) % 8) g

/-- A turn of core l has come and slot n may issue for frame f, alone or as its gang's leader, with no refused fault entry to
retry and no trap of R340 due, no displacement due and its launch not pre-empted: v is the state in which it issues. -/
def Issues (s u v : State) (l : Loc) (n f : Nat) : Prop :=
  CoreTurn s u l ∧ FirstSlot u l n f ∧ (u.frame (keyOf l f)).par.ctl = false ∧ u.sheds (keyOf l f) = false ∧
    u.frozen (keyOf l f) = false ∧ MayIssue u l n f ∧ v = u.toIssue l n f ∧
    (v.issuers v.me).head? = some v.me ∧
    ∀ k ∈ v.issuers v.me, (v.frame k).bounds = none ∧ ∀ b, (v.frame k).wait ≠ some (.queued b)

/-- A mask register that the word reads has bad parity in some thread in issue (R362). -/
def BadMask (v : State) (w : W32) : Prop := ∃ k ∈ v.issuers v.me, ∃ n ∈ masksRead w.toNat, n ≠ 0 ∧ (v.frame k).par.m.getLsbD n

/-- The majors that the grid of R184 leaves without an instruction. -/
def unassignedMajors : List Nat :=
  [0x00, 0x0B, 0x0C, 0x0D, 0x0E, 0x0F, 0x13, 0x14, 0x15, 0x16, 0x17, 0x1E, 0x1F, 0x26, 0x27, 0x2D, 0x2E, 0x2F, 0x36, 0x37,
   0x38, 0x39, 0x3A, 0x3B, 0x3D, 0x3E]

end Sys2Proof.Claims

/-- A step runs the decoded instruction: where a core's turn has come and a slot may issue (R43, R45, R74), the step is the
meaning of the instruction that the word at pc decodes to, with that word held in issue, and what follows an issue: the slot
issues again 4 clk later, a gang after its interval, and the next search starts after the slot. A word that decodes to none
traps with the cause of R182, a PREFIX word under SOLO with ILLEGAL_OPCODE before its reserved bits count (R183, R198), and a
vector word whose mask has bad parity with UNCORRECTABLE (R362); a thread with bad parity at its pc, status or flags ends
(R362, log entry 91); one that R76 displaces leaves its slot between two instructions (log entry 33). A fetched word is the four bytes at its place, little-endian (R6, R174), and stays the instruction until
it is done (log entry 41). An event's turn runs its meaning (log entries 1 and 2); and with no turn left and no power the
machine stands. -/
def Obligations.StepRunsDecoded : Prop :=
  (∀ (s u v t x : State) (l : Loc) (n f : Nat) (w : W32) (i : Instr), Issues s u v l n f → InFront v t w → decode w = .ok i →
    ¬ BadMask (t.holdWord w) w → exec i (t.holdWord w) = .next x →
    (x.note ≠ .waiting → step s = .next (u.tried x l n f)) ∧
    ((∀ j, j ≠ n → (((u.tried x l n f).core l).slot j).bound = none) → step s = .next (u.tried x l n f))) ∧
  (∀ (u x : State) (l : Loc) (n f : Nat), f < 64 →
    (∀ g, ((x.core l).slot n).bound = some g → x.sheds (keyOf l g) = false) → u.gangOf (keyOf l f) = none →
    u.slotOf (keyOf l f) = some n → (u.frame (keyOf l f)).pend = .idle →
    (x.note = .retired ∨ x.note = .held ∨ x.note = .trapped → u.tried x l n f =
      x.updCore l fun c => { c.updSlot n (fun y => { y with next := x.clk + 4 }) with rr := (n + 1) % 8 }) ∧
    (x.note = .waiting → u.tried x l n f = x)) ∧
  (∀ (u x : State) (l : Loc) (n f : Nat) (g : Gang), (∀ h, ((x.core l).slot n).bound = some h → x.sheds (keyOf l h) = false) →
    u.gangOf (keyOf l f) = some g →
    (∀ k ∈ g.members, (u.frame k).pend = .idle) → (x.note = .retired ∨ x.note = .held ∨ x.note = .trapped) →
    (∀ y ∈ x.gangs, y.id = g.id → { y with next := x.clk + y.interval } ∈ (u.tried x l n f).gangs) ∧
    ∀ k ∈ g.members, ∀ i, u.slotOf k = some i → i < 8 → (((u.tried x l n f).core (keyLoc k)).slot i).next = x.clk + 4) ∧
  (∀ (s u v t : State) (l : Loc) (n f : Nat) (w : W32) (e : DecodeErr), Issues s u v l n f → InFront v t w →
    decode w = .error e → Alone (t.holdWord w) → step s = .next (u.tried (trapped (t.holdWord w)
      (if e = .reserved ∧ ¬ ((t.holdWord w).my.solo ∧ w.toNat / 2 ^ 26 = 0x3F) then .reservedField else .illegalOpcode) 0) l n f)) ∧
  (∀ (s u v t : State) (l : Loc) (n f : Nat) (w : W32) (i : Instr), Issues s u v l n f → InFront v t w → decode w = .ok i →
    BadMask (t.holdWord w) w → Alone (t.holdWord w) → (t.holdWord w).my.anch →
    step s = .next (u.tried (trapped (t.holdWord w) .uncorrectable 0) l n f)) ∧
  (∀ (s u : State) (l : Loc) (n f : Nat), CoreTurn s u l → FirstSlot u l n f → f ≠ 32 → (u.frame (keyOf l f)).par.ctl →
    step s = .next { (u.updFrame (keyOf l f) fun x => { x with par := {} }).killThread l f 0x05 .uncorrectable with
      note := .trapped }) ∧
  (∀ (s u : State) (l : Loc) (n f : Nat), CoreTurn s u l → FirstSlot u l n f → (u.frame (keyOf l f)).par.ctl = false →
    u.sheds (keyOf l f) → step s = .next (happened ((u.unbind l n).shed (keyOf l f)))) ∧
  (∀ (v u : State) (va : Word) (w : W32) (p : Nat), v.fetch va = (u, .word w p) →
    w = BitVec.ofNat 32 (u.num p 4) ∧ u.isBad p 4 = false) ∧
  (∀ (s : State) (c : Nat) (i : Instr) (r : List Turn), s.turns = { clks := c, who := .event i } :: r → encode i = none →
    step s = exec i { s with turns := r, clk := s.clk + max 1 c }) ∧
  (∀ s : State, s.turns = [] → (∀ e ∈ s.mods, e.2.power = false) → step s = .fault .powerOff)

/-- R174-R184: words written out from the encoding tables decode to their instructions, in each table one; a word of a
major that R184 leaves unassigned, the zero word among them, is illegal; a reserved register code, a port where none may
stand and a reserved field that is not zero are reserved. -/
def Obligations.WordsDecode : Prop :=
  decode 0x048209C8#32 = .ok (.lea (.g 4) (.g 2) (.g 1) false false) ∧
  decode 0x18A54003#32 = .ok (.srai (.g 5) (.g 5) false 3) ∧
  decode 0xF0000013#32 = .ok (.trap 3) ∧ decode 0xF0000020#32 = .ok .brk ∧
  decode 0x90A21880#32 = .ok (.flkJoin 5 (.g 2) (.g 3)) ∧ decode 0xD4611011#32 = .ok (.vcmpLt .f32 3 (.v 1) (.v 2) 0) ∧
  decode 0b011000_00011_01001_1_110_110100110101#32 = .ok (.ldD (.g 3) (.g 9) true 3381) ∧
  (∀ w : W32, w.toNat / 2 ^ 26 ∈ unassignedMajors → decode w = .error .illegal) ∧
  (∀ (d a b : BitVec 5) (fn : BitVec 2), (d = 22 ∨ d = 23 ∨ 24 < d) →
    decode (0b000001#6 ++ d ++ a ++ b ++ 0#6 ++ fn ++ 0#3) = .error .reserved) ∧
  (∀ (d : BitVec 5) (x : BitVec 21), 16 ≤ d → d ≤ 21 → decode (0b001001#6 ++ d ++ x) = .error .reserved) ∧
  (∀ (d : BitVec 5) (hw : BitVec 2) (r : BitVec 3) (x : BitVec 16), r ≠ 0 →
    decode (0b001001#6 ++ d ++ hw ++ r ++ x) = .error .reserved)

/-- Decode and encode agree, with every operand at every value that the encoding admits: the word of a well-formed
instruction decodes to it, and it is an event that has no word. -/
def Obligations.EncodedWordsDecode : Prop :=
  ∀ (i : Instr), i.wf → match encode i with
    | some w => decode w = .ok i
    | none => ∀ w, decode w ≠ .ok i

/-- A word has one meaning: a word that decodes is the encoding of its instruction, which is well formed; so no bit of
the word goes unread. -/
def Obligations.DecodedWordsEncode : Prop :=
  ∀ (w : W32) (i : Instr), decode w = .ok i → i.wf ∧ encode i = some w

/-- No instruction stops the machine: each answers a next state on every operand and in every state, be it its effect, a
trap or a wait; and a step stops only where no turn is left and no module has power. The turns are those of log entry 1. -/
def Obligations.EveryInstructionAnswers : Prop :=
  (∀ (i : Instr) (s : State), ∃ t, exec i s = .next t) ∧
  ∀ s : State, (∃ t, step s = .next t) ∨ (s.turns = [] ∧ (∀ e ∈ s.mods, e.2.power = false) ∧ step s = .fault .powerOff)

/-- Every step keeps memory in its canonical form: rising addresses, and no entry equal to what an unlisted address reads
as, so that equal memories are equal data. -/
def Obligations.MemoryStaysCanonical : Prop := ∀ s t : State, s.memOk → step s = .next t → t.memOk

/-- R7, R119, R239, R241, R375, R380: the machine right after bring-up: READY is 1 and STEP is 8, no launch, thread, gang,
command or fault entry is there, every frame is free, memory is canonical, the local stores among it, and reads zero but for the presence maps, which
the model gives as those of a complete part (log entry 4; zero by step 7 of R380), the trap registers, `ptroot` and SUPCORE are 0, `evtmask` is
0xFFFF, and `ctxbase` is 0 by the model's choice (log entry 5). -/
def Obligations.ResetState : Prop :=
  State.reset.memOk ∧ State.reset.powered 0 ∧ (State.reset.module 0).status = 0x11 ∧ State.reset.readReg 0 0 = 0x11 ∧
  (∀ k, (State.reset.frame k).used = false) ∧ (∀ l n, ((State.reset.core l).slot n).bound = none) ∧
  (∀ l, (State.reset.core l).trapq = [] ∧ (State.reset.core l).qevt = [] ∧ (State.reset.core l).msgs = [] ∧
    (State.reset.core l).trapcause = 0 ∧ (State.reset.core l).trapva = 0 ∧ (State.reset.core l).trappc = 0 ∧
    (State.reset.core l).evtmask = 0xFFFF ∧ (State.reset.core l).ctxbase = 0) ∧
  (∀ d, (State.reset.die d).ptroot = 0 ∧ (State.reset.die d).supcore = 0) ∧
  State.reset.launches = [] ∧ State.reset.gangs = [] ∧ State.reset.cmds = [] ∧ State.reset.homes = [] ∧
  (∀ d o, d < 2 ^ 14 → o < partBytes - 65536 → Memory.get State.reset.mem (dramKey d o) = 0) ∧
  (∀ st, st < 16 → State.reset.bytes (dramKey (4 * st) (partBytes - 65536)) 576 = presenceMap {} st) ∧
  (∀ l o, o < 2 ^ 22 → Memory.get State.reset.mem (bankKey l o) = 0) ∧ State.reset.bad = []
end

