-- ==== Sys2Proof/Laws/State.lean ====
section
/-! SUPPORT. What each named update of the state leaves alone, field by field, and what a sparse table gives back
after a write. -/

namespace Sys2Proof.Machine

open Sys2Proof

/-! ### State.setFrame -/

@[simp] theorem State.setFrame_mem (s : State) (k : Nat) (f : Frame) : (s.setFrame k f).mem = s.mem := rfl
@[simp] theorem State.setFrame_bad (s : State) (k : Nat) (f : Frame) : (s.setFrame k f).bad = s.bad := rfl
@[simp] theorem State.setFrame_cores (s : State) (k : Nat) (f : Frame) : (s.setFrame k f).cores = s.cores := rfl
@[simp] theorem State.setFrame_homes (s : State) (k : Nat) (f : Frame) : (s.setFrame k f).homes = s.homes := rfl
@[simp] theorem State.setFrame_dies (s : State) (k : Nat) (f : Frame) : (s.setFrame k f).dies = s.dies := rfl
@[simp] theorem State.setFrame_mods (s : State) (k : Nat) (f : Frame) : (s.setFrame k f).mods = s.mods := rfl
@[simp] theorem State.setFrame_launches (s : State) (k : Nat) (f : Frame) : (s.setFrame k f).launches = s.launches := rfl
@[simp] theorem State.setFrame_barriers (s : State) (k : Nat) (f : Frame) : (s.setFrame k f).barriers = s.barriers := rfl
@[simp] theorem State.setFrame_gangs (s : State) (k : Nat) (f : Frame) : (s.setFrame k f).gangs = s.gangs := rfl
@[simp] theorem State.setFrame_leases (s : State) (k : Nat) (f : Frame) : (s.setFrame k f).leases = s.leases := rfl
@[simp] theorem State.setFrame_pushes (s : State) (k : Nat) (f : Frame) : (s.setFrame k f).pushes = s.pushes := rfl
@[simp] theorem State.setFrame_cmds (s : State) (k : Nat) (f : Frame) : (s.setFrame k f).cmds = s.cmds := rfl
@[simp] theorem State.setFrame_locks (s : State) (k : Nat) (f : Frame) : (s.setFrame k f).locks = s.locks := rfl
@[simp] theorem State.setFrame_fgroups (s : State) (k : Nat) (f : Frame) : (s.setFrame k f).fgroups = s.fgroups := rfl
@[simp] theorem State.setFrame_holds (s : State) (k : Nat) (f : Frame) : (s.setFrame k f).holds = s.holds := rfl
@[simp] theorem State.setFrame_net (s : State) (k : Nat) (f : Frame) : (s.setFrame k f).net = s.net := rfl
@[simp] theorem State.setFrame_words (s : State) (k : Nat) (f : Frame) : (s.setFrame k f).words = s.words := rfl
@[simp] theorem State.setFrame_evq (s : State) (k : Nat) (f : Frame) : (s.setFrame k f).evq = s.evq := rfl
@[simp] theorem State.setFrame_clk (s : State) (k : Nat) (f : Frame) : (s.setFrame k f).clk = s.clk := rfl
@[simp] theorem State.setFrame_cur (s : State) (k : Nat) (f : Frame) : (s.setFrame k f).cur = s.cur := rfl
@[simp] theorem State.setFrame_note (s : State) (k : Nat) (f : Frame) : (s.setFrame k f).note = s.note := rfl
@[simp] theorem State.setFrame_nextId (s : State) (k : Nat) (f : Frame) : (s.setFrame k f).nextId = s.nextId := rfl
@[simp] theorem State.setFrame_turns (s : State) (k : Nat) (f : Frame) : (s.setFrame k f).turns = s.turns := rfl
@[simp] theorem State.setFrame_outs (s : State) (k : Nat) (f : Frame) : (s.setFrame k f).outs = s.outs := rfl

/-! ### State.updFrame -/

@[simp] theorem State.updFrame_mem (s : State) (k : Nat) (h : Frame → Frame) : (s.updFrame k h).mem = s.mem := rfl
@[simp] theorem State.updFrame_bad (s : State) (k : Nat) (h : Frame → Frame) : (s.updFrame k h).bad = s.bad := rfl
@[simp] theorem State.updFrame_cores (s : State) (k : Nat) (h : Frame → Frame) : (s.updFrame k h).cores = s.cores := rfl
@[simp] theorem State.updFrame_homes (s : State) (k : Nat) (h : Frame → Frame) : (s.updFrame k h).homes = s.homes := rfl
@[simp] theorem State.updFrame_dies (s : State) (k : Nat) (h : Frame → Frame) : (s.updFrame k h).dies = s.dies := rfl
@[simp] theorem State.updFrame_mods (s : State) (k : Nat) (h : Frame → Frame) : (s.updFrame k h).mods = s.mods := rfl
@[simp] theorem State.updFrame_launches (s : State) (k : Nat) (h : Frame → Frame) : (s.updFrame k h).launches = s.launches := rfl
@[simp] theorem State.updFrame_barriers (s : State) (k : Nat) (h : Frame → Frame) : (s.updFrame k h).barriers = s.barriers := rfl
@[simp] theorem State.updFrame_gangs (s : State) (k : Nat) (h : Frame → Frame) : (s.updFrame k h).gangs = s.gangs := rfl
@[simp] theorem State.updFrame_leases (s : State) (k : Nat) (h : Frame → Frame) : (s.updFrame k h).leases = s.leases := rfl
@[simp] theorem State.updFrame_pushes (s : State) (k : Nat) (h : Frame → Frame) : (s.updFrame k h).pushes = s.pushes := rfl
@[simp] theorem State.updFrame_cmds (s : State) (k : Nat) (h : Frame → Frame) : (s.updFrame k h).cmds = s.cmds := rfl
@[simp] theorem State.updFrame_locks (s : State) (k : Nat) (h : Frame → Frame) : (s.updFrame k h).locks = s.locks := rfl
@[simp] theorem State.updFrame_fgroups (s : State) (k : Nat) (h : Frame → Frame) : (s.updFrame k h).fgroups = s.fgroups := rfl
@[simp] theorem State.updFrame_holds (s : State) (k : Nat) (h : Frame → Frame) : (s.updFrame k h).holds = s.holds := rfl
@[simp] theorem State.updFrame_net (s : State) (k : Nat) (h : Frame → Frame) : (s.updFrame k h).net = s.net := rfl
@[simp] theorem State.updFrame_words (s : State) (k : Nat) (h : Frame → Frame) : (s.updFrame k h).words = s.words := rfl
@[simp] theorem State.updFrame_evq (s : State) (k : Nat) (h : Frame → Frame) : (s.updFrame k h).evq = s.evq := rfl
@[simp] theorem State.updFrame_clk (s : State) (k : Nat) (h : Frame → Frame) : (s.updFrame k h).clk = s.clk := rfl
@[simp] theorem State.updFrame_cur (s : State) (k : Nat) (h : Frame → Frame) : (s.updFrame k h).cur = s.cur := rfl
@[simp] theorem State.updFrame_note (s : State) (k : Nat) (h : Frame → Frame) : (s.updFrame k h).note = s.note := rfl
@[simp] theorem State.updFrame_nextId (s : State) (k : Nat) (h : Frame → Frame) : (s.updFrame k h).nextId = s.nextId := rfl
@[simp] theorem State.updFrame_turns (s : State) (k : Nat) (h : Frame → Frame) : (s.updFrame k h).turns = s.turns := rfl
@[simp] theorem State.updFrame_outs (s : State) (k : Nat) (h : Frame → Frame) : (s.updFrame k h).outs = s.outs := rfl

/-! ### State.updMy -/

@[simp] theorem State.updMy_mem (s : State) (h : Frame → Frame) : (s.updMy h).mem = s.mem := rfl
@[simp] theorem State.updMy_bad (s : State) (h : Frame → Frame) : (s.updMy h).bad = s.bad := rfl
@[simp] theorem State.updMy_cores (s : State) (h : Frame → Frame) : (s.updMy h).cores = s.cores := rfl
@[simp] theorem State.updMy_homes (s : State) (h : Frame → Frame) : (s.updMy h).homes = s.homes := rfl
@[simp] theorem State.updMy_dies (s : State) (h : Frame → Frame) : (s.updMy h).dies = s.dies := rfl
@[simp] theorem State.updMy_mods (s : State) (h : Frame → Frame) : (s.updMy h).mods = s.mods := rfl
@[simp] theorem State.updMy_launches (s : State) (h : Frame → Frame) : (s.updMy h).launches = s.launches := rfl
@[simp] theorem State.updMy_barriers (s : State) (h : Frame → Frame) : (s.updMy h).barriers = s.barriers := rfl
@[simp] theorem State.updMy_gangs (s : State) (h : Frame → Frame) : (s.updMy h).gangs = s.gangs := rfl
@[simp] theorem State.updMy_leases (s : State) (h : Frame → Frame) : (s.updMy h).leases = s.leases := rfl
@[simp] theorem State.updMy_pushes (s : State) (h : Frame → Frame) : (s.updMy h).pushes = s.pushes := rfl
@[simp] theorem State.updMy_cmds (s : State) (h : Frame → Frame) : (s.updMy h).cmds = s.cmds := rfl
@[simp] theorem State.updMy_locks (s : State) (h : Frame → Frame) : (s.updMy h).locks = s.locks := rfl
@[simp] theorem State.updMy_fgroups (s : State) (h : Frame → Frame) : (s.updMy h).fgroups = s.fgroups := rfl
@[simp] theorem State.updMy_holds (s : State) (h : Frame → Frame) : (s.updMy h).holds = s.holds := rfl
@[simp] theorem State.updMy_net (s : State) (h : Frame → Frame) : (s.updMy h).net = s.net := rfl
@[simp] theorem State.updMy_words (s : State) (h : Frame → Frame) : (s.updMy h).words = s.words := rfl
@[simp] theorem State.updMy_evq (s : State) (h : Frame → Frame) : (s.updMy h).evq = s.evq := rfl
@[simp] theorem State.updMy_clk (s : State) (h : Frame → Frame) : (s.updMy h).clk = s.clk := rfl
@[simp] theorem State.updMy_cur (s : State) (h : Frame → Frame) : (s.updMy h).cur = s.cur := rfl
@[simp] theorem State.updMy_note (s : State) (h : Frame → Frame) : (s.updMy h).note = s.note := rfl
@[simp] theorem State.updMy_nextId (s : State) (h : Frame → Frame) : (s.updMy h).nextId = s.nextId := rfl
@[simp] theorem State.updMy_turns (s : State) (h : Frame → Frame) : (s.updMy h).turns = s.turns := rfl
@[simp] theorem State.updMy_outs (s : State) (h : Frame → Frame) : (s.updMy h).outs = s.outs := rfl

/-! ### State.updCore -/

@[simp] theorem State.updCore_mem (s : State) (l : Loc) (h : Core → Core) : (s.updCore l h).mem = s.mem := rfl
@[simp] theorem State.updCore_bad (s : State) (l : Loc) (h : Core → Core) : (s.updCore l h).bad = s.bad := rfl
@[simp] theorem State.updCore_frames (s : State) (l : Loc) (h : Core → Core) : (s.updCore l h).frames = s.frames := rfl
@[simp] theorem State.updCore_homes (s : State) (l : Loc) (h : Core → Core) : (s.updCore l h).homes = s.homes := rfl
@[simp] theorem State.updCore_dies (s : State) (l : Loc) (h : Core → Core) : (s.updCore l h).dies = s.dies := rfl
@[simp] theorem State.updCore_mods (s : State) (l : Loc) (h : Core → Core) : (s.updCore l h).mods = s.mods := rfl
@[simp] theorem State.updCore_launches (s : State) (l : Loc) (h : Core → Core) : (s.updCore l h).launches = s.launches := rfl
@[simp] theorem State.updCore_barriers (s : State) (l : Loc) (h : Core → Core) : (s.updCore l h).barriers = s.barriers := rfl
@[simp] theorem State.updCore_gangs (s : State) (l : Loc) (h : Core → Core) : (s.updCore l h).gangs = s.gangs := rfl
@[simp] theorem State.updCore_leases (s : State) (l : Loc) (h : Core → Core) : (s.updCore l h).leases = s.leases := rfl
@[simp] theorem State.updCore_pushes (s : State) (l : Loc) (h : Core → Core) : (s.updCore l h).pushes = s.pushes := rfl
@[simp] theorem State.updCore_cmds (s : State) (l : Loc) (h : Core → Core) : (s.updCore l h).cmds = s.cmds := rfl
@[simp] theorem State.updCore_locks (s : State) (l : Loc) (h : Core → Core) : (s.updCore l h).locks = s.locks := rfl
@[simp] theorem State.updCore_fgroups (s : State) (l : Loc) (h : Core → Core) : (s.updCore l h).fgroups = s.fgroups := rfl
@[simp] theorem State.updCore_holds (s : State) (l : Loc) (h : Core → Core) : (s.updCore l h).holds = s.holds := rfl
@[simp] theorem State.updCore_net (s : State) (l : Loc) (h : Core → Core) : (s.updCore l h).net = s.net := rfl
@[simp] theorem State.updCore_words (s : State) (l : Loc) (h : Core → Core) : (s.updCore l h).words = s.words := rfl
@[simp] theorem State.updCore_evq (s : State) (l : Loc) (h : Core → Core) : (s.updCore l h).evq = s.evq := rfl
@[simp] theorem State.updCore_clk (s : State) (l : Loc) (h : Core → Core) : (s.updCore l h).clk = s.clk := rfl
@[simp] theorem State.updCore_cur (s : State) (l : Loc) (h : Core → Core) : (s.updCore l h).cur = s.cur := rfl
@[simp] theorem State.updCore_note (s : State) (l : Loc) (h : Core → Core) : (s.updCore l h).note = s.note := rfl
@[simp] theorem State.updCore_nextId (s : State) (l : Loc) (h : Core → Core) : (s.updCore l h).nextId = s.nextId := rfl
@[simp] theorem State.updCore_turns (s : State) (l : Loc) (h : Core → Core) : (s.updCore l h).turns = s.turns := rfl
@[simp] theorem State.updCore_outs (s : State) (l : Loc) (h : Core → Core) : (s.updCore l h).outs = s.outs := rfl

/-! ### State.updSlot -/

@[simp] theorem State.updSlot_mem (s : State) (l : Loc) (n : Nat) (h : Slot → Slot) : (s.updSlot l n h).mem = s.mem := rfl
@[simp] theorem State.updSlot_bad (s : State) (l : Loc) (n : Nat) (h : Slot → Slot) : (s.updSlot l n h).bad = s.bad := rfl
@[simp] theorem State.updSlot_frames (s : State) (l : Loc) (n : Nat) (h : Slot → Slot) : (s.updSlot l n h).frames = s.frames := rfl
@[simp] theorem State.updSlot_homes (s : State) (l : Loc) (n : Nat) (h : Slot → Slot) : (s.updSlot l n h).homes = s.homes := rfl
@[simp] theorem State.updSlot_dies (s : State) (l : Loc) (n : Nat) (h : Slot → Slot) : (s.updSlot l n h).dies = s.dies := rfl
@[simp] theorem State.updSlot_mods (s : State) (l : Loc) (n : Nat) (h : Slot → Slot) : (s.updSlot l n h).mods = s.mods := rfl
@[simp] theorem State.updSlot_launches (s : State) (l : Loc) (n : Nat) (h : Slot → Slot) : (s.updSlot l n h).launches = s.launches := rfl
@[simp] theorem State.updSlot_barriers (s : State) (l : Loc) (n : Nat) (h : Slot → Slot) : (s.updSlot l n h).barriers = s.barriers := rfl
@[simp] theorem State.updSlot_gangs (s : State) (l : Loc) (n : Nat) (h : Slot → Slot) : (s.updSlot l n h).gangs = s.gangs := rfl
@[simp] theorem State.updSlot_leases (s : State) (l : Loc) (n : Nat) (h : Slot → Slot) : (s.updSlot l n h).leases = s.leases := rfl
@[simp] theorem State.updSlot_pushes (s : State) (l : Loc) (n : Nat) (h : Slot → Slot) : (s.updSlot l n h).pushes = s.pushes := rfl
@[simp] theorem State.updSlot_cmds (s : State) (l : Loc) (n : Nat) (h : Slot → Slot) : (s.updSlot l n h).cmds = s.cmds := rfl
@[simp] theorem State.updSlot_locks (s : State) (l : Loc) (n : Nat) (h : Slot → Slot) : (s.updSlot l n h).locks = s.locks := rfl
@[simp] theorem State.updSlot_fgroups (s : State) (l : Loc) (n : Nat) (h : Slot → Slot) : (s.updSlot l n h).fgroups = s.fgroups := rfl
@[simp] theorem State.updSlot_holds (s : State) (l : Loc) (n : Nat) (h : Slot → Slot) : (s.updSlot l n h).holds = s.holds := rfl
@[simp] theorem State.updSlot_net (s : State) (l : Loc) (n : Nat) (h : Slot → Slot) : (s.updSlot l n h).net = s.net := rfl
@[simp] theorem State.updSlot_words (s : State) (l : Loc) (n : Nat) (h : Slot → Slot) : (s.updSlot l n h).words = s.words := rfl
@[simp] theorem State.updSlot_evq (s : State) (l : Loc) (n : Nat) (h : Slot → Slot) : (s.updSlot l n h).evq = s.evq := rfl
@[simp] theorem State.updSlot_clk (s : State) (l : Loc) (n : Nat) (h : Slot → Slot) : (s.updSlot l n h).clk = s.clk := rfl
@[simp] theorem State.updSlot_cur (s : State) (l : Loc) (n : Nat) (h : Slot → Slot) : (s.updSlot l n h).cur = s.cur := rfl
@[simp] theorem State.updSlot_note (s : State) (l : Loc) (n : Nat) (h : Slot → Slot) : (s.updSlot l n h).note = s.note := rfl
@[simp] theorem State.updSlot_nextId (s : State) (l : Loc) (n : Nat) (h : Slot → Slot) : (s.updSlot l n h).nextId = s.nextId := rfl
@[simp] theorem State.updSlot_turns (s : State) (l : Loc) (n : Nat) (h : Slot → Slot) : (s.updSlot l n h).turns = s.turns := rfl
@[simp] theorem State.updSlot_outs (s : State) (l : Loc) (n : Nat) (h : Slot → Slot) : (s.updSlot l n h).outs = s.outs := rfl

/-! ### State.updDie -/

@[simp] theorem State.updDie_mem (s : State) (d : DieId) (h : Die → Die) : (s.updDie d h).mem = s.mem := rfl
@[simp] theorem State.updDie_bad (s : State) (d : DieId) (h : Die → Die) : (s.updDie d h).bad = s.bad := rfl
@[simp] theorem State.updDie_frames (s : State) (d : DieId) (h : Die → Die) : (s.updDie d h).frames = s.frames := rfl
@[simp] theorem State.updDie_cores (s : State) (d : DieId) (h : Die → Die) : (s.updDie d h).cores = s.cores := rfl
@[simp] theorem State.updDie_homes (s : State) (d : DieId) (h : Die → Die) : (s.updDie d h).homes = s.homes := rfl
@[simp] theorem State.updDie_mods (s : State) (d : DieId) (h : Die → Die) : (s.updDie d h).mods = s.mods := rfl
@[simp] theorem State.updDie_launches (s : State) (d : DieId) (h : Die → Die) : (s.updDie d h).launches = s.launches := rfl
@[simp] theorem State.updDie_barriers (s : State) (d : DieId) (h : Die → Die) : (s.updDie d h).barriers = s.barriers := rfl
@[simp] theorem State.updDie_gangs (s : State) (d : DieId) (h : Die → Die) : (s.updDie d h).gangs = s.gangs := rfl
@[simp] theorem State.updDie_leases (s : State) (d : DieId) (h : Die → Die) : (s.updDie d h).leases = s.leases := rfl
@[simp] theorem State.updDie_pushes (s : State) (d : DieId) (h : Die → Die) : (s.updDie d h).pushes = s.pushes := rfl
@[simp] theorem State.updDie_cmds (s : State) (d : DieId) (h : Die → Die) : (s.updDie d h).cmds = s.cmds := rfl
@[simp] theorem State.updDie_locks (s : State) (d : DieId) (h : Die → Die) : (s.updDie d h).locks = s.locks := rfl
@[simp] theorem State.updDie_fgroups (s : State) (d : DieId) (h : Die → Die) : (s.updDie d h).fgroups = s.fgroups := rfl
@[simp] theorem State.updDie_holds (s : State) (d : DieId) (h : Die → Die) : (s.updDie d h).holds = s.holds := rfl
@[simp] theorem State.updDie_net (s : State) (d : DieId) (h : Die → Die) : (s.updDie d h).net = s.net := rfl
@[simp] theorem State.updDie_words (s : State) (d : DieId) (h : Die → Die) : (s.updDie d h).words = s.words := rfl
@[simp] theorem State.updDie_evq (s : State) (d : DieId) (h : Die → Die) : (s.updDie d h).evq = s.evq := rfl
@[simp] theorem State.updDie_clk (s : State) (d : DieId) (h : Die → Die) : (s.updDie d h).clk = s.clk := rfl
@[simp] theorem State.updDie_cur (s : State) (d : DieId) (h : Die → Die) : (s.updDie d h).cur = s.cur := rfl
@[simp] theorem State.updDie_note (s : State) (d : DieId) (h : Die → Die) : (s.updDie d h).note = s.note := rfl
@[simp] theorem State.updDie_nextId (s : State) (d : DieId) (h : Die → Die) : (s.updDie d h).nextId = s.nextId := rfl
@[simp] theorem State.updDie_turns (s : State) (d : DieId) (h : Die → Die) : (s.updDie d h).turns = s.turns := rfl
@[simp] theorem State.updDie_outs (s : State) (d : DieId) (h : Die → Die) : (s.updDie d h).outs = s.outs := rfl

/-! ### State.updHome -/

@[simp] theorem State.updHome_mem (s : State) (x : Home) (f : HomeSt → HomeSt) : (s.updHome x f).mem = s.mem := rfl
@[simp] theorem State.updHome_bad (s : State) (x : Home) (f : HomeSt → HomeSt) : (s.updHome x f).bad = s.bad := rfl
@[simp] theorem State.updHome_frames (s : State) (x : Home) (f : HomeSt → HomeSt) : (s.updHome x f).frames = s.frames := rfl
@[simp] theorem State.updHome_cores (s : State) (x : Home) (f : HomeSt → HomeSt) : (s.updHome x f).cores = s.cores := rfl
@[simp] theorem State.updHome_dies (s : State) (x : Home) (f : HomeSt → HomeSt) : (s.updHome x f).dies = s.dies := rfl
@[simp] theorem State.updHome_mods (s : State) (x : Home) (f : HomeSt → HomeSt) : (s.updHome x f).mods = s.mods := rfl
@[simp] theorem State.updHome_launches (s : State) (x : Home) (f : HomeSt → HomeSt) : (s.updHome x f).launches = s.launches := rfl
@[simp] theorem State.updHome_barriers (s : State) (x : Home) (f : HomeSt → HomeSt) : (s.updHome x f).barriers = s.barriers := rfl
@[simp] theorem State.updHome_gangs (s : State) (x : Home) (f : HomeSt → HomeSt) : (s.updHome x f).gangs = s.gangs := rfl
@[simp] theorem State.updHome_leases (s : State) (x : Home) (f : HomeSt → HomeSt) : (s.updHome x f).leases = s.leases := rfl
@[simp] theorem State.updHome_pushes (s : State) (x : Home) (f : HomeSt → HomeSt) : (s.updHome x f).pushes = s.pushes := rfl
@[simp] theorem State.updHome_cmds (s : State) (x : Home) (f : HomeSt → HomeSt) : (s.updHome x f).cmds = s.cmds := rfl
@[simp] theorem State.updHome_locks (s : State) (x : Home) (f : HomeSt → HomeSt) : (s.updHome x f).locks = s.locks := rfl
@[simp] theorem State.updHome_fgroups (s : State) (x : Home) (f : HomeSt → HomeSt) : (s.updHome x f).fgroups = s.fgroups := rfl
@[simp] theorem State.updHome_holds (s : State) (x : Home) (f : HomeSt → HomeSt) : (s.updHome x f).holds = s.holds := rfl
@[simp] theorem State.updHome_net (s : State) (x : Home) (f : HomeSt → HomeSt) : (s.updHome x f).net = s.net := rfl
@[simp] theorem State.updHome_words (s : State) (x : Home) (f : HomeSt → HomeSt) : (s.updHome x f).words = s.words := rfl
@[simp] theorem State.updHome_evq (s : State) (x : Home) (f : HomeSt → HomeSt) : (s.updHome x f).evq = s.evq := rfl
@[simp] theorem State.updHome_clk (s : State) (x : Home) (f : HomeSt → HomeSt) : (s.updHome x f).clk = s.clk := rfl
@[simp] theorem State.updHome_cur (s : State) (x : Home) (f : HomeSt → HomeSt) : (s.updHome x f).cur = s.cur := rfl
@[simp] theorem State.updHome_note (s : State) (x : Home) (f : HomeSt → HomeSt) : (s.updHome x f).note = s.note := rfl
@[simp] theorem State.updHome_nextId (s : State) (x : Home) (f : HomeSt → HomeSt) : (s.updHome x f).nextId = s.nextId := rfl
@[simp] theorem State.updHome_turns (s : State) (x : Home) (f : HomeSt → HomeSt) : (s.updHome x f).turns = s.turns := rfl
@[simp] theorem State.updHome_outs (s : State) (x : Home) (f : HomeSt → HomeSt) : (s.updHome x f).outs = s.outs := rfl

/-! ### State.updModule -/

@[simp] theorem State.updModule_mem (s : State) (m : Nat) (f : Module → Module) : (s.updModule m f).mem = s.mem := rfl
@[simp] theorem State.updModule_bad (s : State) (m : Nat) (f : Module → Module) : (s.updModule m f).bad = s.bad := rfl
@[simp] theorem State.updModule_frames (s : State) (m : Nat) (f : Module → Module) : (s.updModule m f).frames = s.frames := rfl
@[simp] theorem State.updModule_cores (s : State) (m : Nat) (f : Module → Module) : (s.updModule m f).cores = s.cores := rfl
@[simp] theorem State.updModule_homes (s : State) (m : Nat) (f : Module → Module) : (s.updModule m f).homes = s.homes := rfl
@[simp] theorem State.updModule_dies (s : State) (m : Nat) (f : Module → Module) : (s.updModule m f).dies = s.dies := rfl
@[simp] theorem State.updModule_launches (s : State) (m : Nat) (f : Module → Module) : (s.updModule m f).launches = s.launches := rfl
@[simp] theorem State.updModule_barriers (s : State) (m : Nat) (f : Module → Module) : (s.updModule m f).barriers = s.barriers := rfl
@[simp] theorem State.updModule_gangs (s : State) (m : Nat) (f : Module → Module) : (s.updModule m f).gangs = s.gangs := rfl
@[simp] theorem State.updModule_leases (s : State) (m : Nat) (f : Module → Module) : (s.updModule m f).leases = s.leases := rfl
@[simp] theorem State.updModule_pushes (s : State) (m : Nat) (f : Module → Module) : (s.updModule m f).pushes = s.pushes := rfl
@[simp] theorem State.updModule_cmds (s : State) (m : Nat) (f : Module → Module) : (s.updModule m f).cmds = s.cmds := rfl
@[simp] theorem State.updModule_locks (s : State) (m : Nat) (f : Module → Module) : (s.updModule m f).locks = s.locks := rfl
@[simp] theorem State.updModule_fgroups (s : State) (m : Nat) (f : Module → Module) : (s.updModule m f).fgroups = s.fgroups := rfl
@[simp] theorem State.updModule_holds (s : State) (m : Nat) (f : Module → Module) : (s.updModule m f).holds = s.holds := rfl
@[simp] theorem State.updModule_net (s : State) (m : Nat) (f : Module → Module) : (s.updModule m f).net = s.net := rfl
@[simp] theorem State.updModule_words (s : State) (m : Nat) (f : Module → Module) : (s.updModule m f).words = s.words := rfl
@[simp] theorem State.updModule_evq (s : State) (m : Nat) (f : Module → Module) : (s.updModule m f).evq = s.evq := rfl
@[simp] theorem State.updModule_clk (s : State) (m : Nat) (f : Module → Module) : (s.updModule m f).clk = s.clk := rfl
@[simp] theorem State.updModule_cur (s : State) (m : Nat) (f : Module → Module) : (s.updModule m f).cur = s.cur := rfl
@[simp] theorem State.updModule_note (s : State) (m : Nat) (f : Module → Module) : (s.updModule m f).note = s.note := rfl
@[simp] theorem State.updModule_nextId (s : State) (m : Nat) (f : Module → Module) : (s.updModule m f).nextId = s.nextId := rfl
@[simp] theorem State.updModule_turns (s : State) (m : Nat) (f : Module → Module) : (s.updModule m f).turns = s.turns := rfl
@[simp] theorem State.updModule_outs (s : State) (m : Nat) (f : Module → Module) : (s.updModule m f).outs = s.outs := rfl

/-! ### State.updLease -/

@[simp] theorem State.updLease_mem (s : State) (p : Nat) (f : Lease → Lease) : (s.updLease p f).mem = s.mem := rfl
@[simp] theorem State.updLease_bad (s : State) (p : Nat) (f : Lease → Lease) : (s.updLease p f).bad = s.bad := rfl
@[simp] theorem State.updLease_frames (s : State) (p : Nat) (f : Lease → Lease) : (s.updLease p f).frames = s.frames := rfl
@[simp] theorem State.updLease_cores (s : State) (p : Nat) (f : Lease → Lease) : (s.updLease p f).cores = s.cores := rfl
@[simp] theorem State.updLease_homes (s : State) (p : Nat) (f : Lease → Lease) : (s.updLease p f).homes = s.homes := rfl
@[simp] theorem State.updLease_dies (s : State) (p : Nat) (f : Lease → Lease) : (s.updLease p f).dies = s.dies := rfl
@[simp] theorem State.updLease_mods (s : State) (p : Nat) (f : Lease → Lease) : (s.updLease p f).mods = s.mods := rfl
@[simp] theorem State.updLease_launches (s : State) (p : Nat) (f : Lease → Lease) : (s.updLease p f).launches = s.launches := rfl
@[simp] theorem State.updLease_barriers (s : State) (p : Nat) (f : Lease → Lease) : (s.updLease p f).barriers = s.barriers := rfl
@[simp] theorem State.updLease_gangs (s : State) (p : Nat) (f : Lease → Lease) : (s.updLease p f).gangs = s.gangs := rfl
@[simp] theorem State.updLease_pushes (s : State) (p : Nat) (f : Lease → Lease) : (s.updLease p f).pushes = s.pushes := rfl
@[simp] theorem State.updLease_cmds (s : State) (p : Nat) (f : Lease → Lease) : (s.updLease p f).cmds = s.cmds := rfl
@[simp] theorem State.updLease_locks (s : State) (p : Nat) (f : Lease → Lease) : (s.updLease p f).locks = s.locks := rfl
@[simp] theorem State.updLease_fgroups (s : State) (p : Nat) (f : Lease → Lease) : (s.updLease p f).fgroups = s.fgroups := rfl
@[simp] theorem State.updLease_holds (s : State) (p : Nat) (f : Lease → Lease) : (s.updLease p f).holds = s.holds := rfl
@[simp] theorem State.updLease_net (s : State) (p : Nat) (f : Lease → Lease) : (s.updLease p f).net = s.net := rfl
@[simp] theorem State.updLease_words (s : State) (p : Nat) (f : Lease → Lease) : (s.updLease p f).words = s.words := rfl
@[simp] theorem State.updLease_evq (s : State) (p : Nat) (f : Lease → Lease) : (s.updLease p f).evq = s.evq := rfl
@[simp] theorem State.updLease_clk (s : State) (p : Nat) (f : Lease → Lease) : (s.updLease p f).clk = s.clk := rfl
@[simp] theorem State.updLease_cur (s : State) (p : Nat) (f : Lease → Lease) : (s.updLease p f).cur = s.cur := rfl
@[simp] theorem State.updLease_note (s : State) (p : Nat) (f : Lease → Lease) : (s.updLease p f).note = s.note := rfl
@[simp] theorem State.updLease_nextId (s : State) (p : Nat) (f : Lease → Lease) : (s.updLease p f).nextId = s.nextId := rfl
@[simp] theorem State.updLease_turns (s : State) (p : Nat) (f : Lease → Lease) : (s.updLease p f).turns = s.turns := rfl
@[simp] theorem State.updLease_outs (s : State) (p : Nat) (f : Lease → Lease) : (s.updLease p f).outs = s.outs := rfl

/-! ### State.updLaunch -/

@[simp] theorem State.updLaunch_mem (s : State) (id : W32) (m : Nat) (f : Launch → Launch) : (s.updLaunch id m f).mem = s.mem := rfl
@[simp] theorem State.updLaunch_bad (s : State) (id : W32) (m : Nat) (f : Launch → Launch) : (s.updLaunch id m f).bad = s.bad := rfl
@[simp] theorem State.updLaunch_frames (s : State) (id : W32) (m : Nat) (f : Launch → Launch) : (s.updLaunch id m f).frames = s.frames := rfl
@[simp] theorem State.updLaunch_cores (s : State) (id : W32) (m : Nat) (f : Launch → Launch) : (s.updLaunch id m f).cores = s.cores := rfl
@[simp] theorem State.updLaunch_homes (s : State) (id : W32) (m : Nat) (f : Launch → Launch) : (s.updLaunch id m f).homes = s.homes := rfl
@[simp] theorem State.updLaunch_dies (s : State) (id : W32) (m : Nat) (f : Launch → Launch) : (s.updLaunch id m f).dies = s.dies := rfl
@[simp] theorem State.updLaunch_mods (s : State) (id : W32) (m : Nat) (f : Launch → Launch) : (s.updLaunch id m f).mods = s.mods := rfl
@[simp] theorem State.updLaunch_barriers (s : State) (id : W32) (m : Nat) (f : Launch → Launch) : (s.updLaunch id m f).barriers = s.barriers := rfl
@[simp] theorem State.updLaunch_gangs (s : State) (id : W32) (m : Nat) (f : Launch → Launch) : (s.updLaunch id m f).gangs = s.gangs := rfl
@[simp] theorem State.updLaunch_leases (s : State) (id : W32) (m : Nat) (f : Launch → Launch) : (s.updLaunch id m f).leases = s.leases := rfl
@[simp] theorem State.updLaunch_pushes (s : State) (id : W32) (m : Nat) (f : Launch → Launch) : (s.updLaunch id m f).pushes = s.pushes := rfl
@[simp] theorem State.updLaunch_cmds (s : State) (id : W32) (m : Nat) (f : Launch → Launch) : (s.updLaunch id m f).cmds = s.cmds := rfl
@[simp] theorem State.updLaunch_locks (s : State) (id : W32) (m : Nat) (f : Launch → Launch) : (s.updLaunch id m f).locks = s.locks := rfl
@[simp] theorem State.updLaunch_fgroups (s : State) (id : W32) (m : Nat) (f : Launch → Launch) : (s.updLaunch id m f).fgroups = s.fgroups := rfl
@[simp] theorem State.updLaunch_holds (s : State) (id : W32) (m : Nat) (f : Launch → Launch) : (s.updLaunch id m f).holds = s.holds := rfl
@[simp] theorem State.updLaunch_net (s : State) (id : W32) (m : Nat) (f : Launch → Launch) : (s.updLaunch id m f).net = s.net := rfl
@[simp] theorem State.updLaunch_words (s : State) (id : W32) (m : Nat) (f : Launch → Launch) : (s.updLaunch id m f).words = s.words := rfl
@[simp] theorem State.updLaunch_evq (s : State) (id : W32) (m : Nat) (f : Launch → Launch) : (s.updLaunch id m f).evq = s.evq := rfl
@[simp] theorem State.updLaunch_clk (s : State) (id : W32) (m : Nat) (f : Launch → Launch) : (s.updLaunch id m f).clk = s.clk := rfl
@[simp] theorem State.updLaunch_cur (s : State) (id : W32) (m : Nat) (f : Launch → Launch) : (s.updLaunch id m f).cur = s.cur := rfl
@[simp] theorem State.updLaunch_note (s : State) (id : W32) (m : Nat) (f : Launch → Launch) : (s.updLaunch id m f).note = s.note := rfl
@[simp] theorem State.updLaunch_nextId (s : State) (id : W32) (m : Nat) (f : Launch → Launch) : (s.updLaunch id m f).nextId = s.nextId := rfl
@[simp] theorem State.updLaunch_turns (s : State) (id : W32) (m : Nat) (f : Launch → Launch) : (s.updLaunch id m f).turns = s.turns := rfl
@[simp] theorem State.updLaunch_outs (s : State) (id : W32) (m : Nat) (f : Launch → Launch) : (s.updLaunch id m f).outs = s.outs := rfl

/-! ### State.send -/

@[simp] theorem State.send_mem (s : State) (p : Pkt) : (s.send p).mem = s.mem := rfl
@[simp] theorem State.send_bad (s : State) (p : Pkt) : (s.send p).bad = s.bad := rfl
@[simp] theorem State.send_frames (s : State) (p : Pkt) : (s.send p).frames = s.frames := rfl
@[simp] theorem State.send_cores (s : State) (p : Pkt) : (s.send p).cores = s.cores := rfl
@[simp] theorem State.send_homes (s : State) (p : Pkt) : (s.send p).homes = s.homes := rfl
@[simp] theorem State.send_dies (s : State) (p : Pkt) : (s.send p).dies = s.dies := rfl
@[simp] theorem State.send_mods (s : State) (p : Pkt) : (s.send p).mods = s.mods := rfl
@[simp] theorem State.send_launches (s : State) (p : Pkt) : (s.send p).launches = s.launches := rfl
@[simp] theorem State.send_barriers (s : State) (p : Pkt) : (s.send p).barriers = s.barriers := rfl
@[simp] theorem State.send_gangs (s : State) (p : Pkt) : (s.send p).gangs = s.gangs := rfl
@[simp] theorem State.send_leases (s : State) (p : Pkt) : (s.send p).leases = s.leases := rfl
@[simp] theorem State.send_pushes (s : State) (p : Pkt) : (s.send p).pushes = s.pushes := rfl
@[simp] theorem State.send_cmds (s : State) (p : Pkt) : (s.send p).cmds = s.cmds := rfl
@[simp] theorem State.send_locks (s : State) (p : Pkt) : (s.send p).locks = s.locks := rfl
@[simp] theorem State.send_fgroups (s : State) (p : Pkt) : (s.send p).fgroups = s.fgroups := rfl
@[simp] theorem State.send_holds (s : State) (p : Pkt) : (s.send p).holds = s.holds := rfl
@[simp] theorem State.send_words (s : State) (p : Pkt) : (s.send p).words = s.words := rfl
@[simp] theorem State.send_evq (s : State) (p : Pkt) : (s.send p).evq = s.evq := rfl
@[simp] theorem State.send_clk (s : State) (p : Pkt) : (s.send p).clk = s.clk := rfl
@[simp] theorem State.send_cur (s : State) (p : Pkt) : (s.send p).cur = s.cur := rfl
@[simp] theorem State.send_note (s : State) (p : Pkt) : (s.send p).note = s.note := rfl
@[simp] theorem State.send_turns (s : State) (p : Pkt) : (s.send p).turns = s.turns := rfl
@[simp] theorem State.send_outs (s : State) (p : Pkt) : (s.send p).outs = s.outs := rfl

/-! ### State.poke -/

@[simp] theorem State.poke_frames (s : State) (a : Nat) (b : List Byte) : (s.poke a b).frames = s.frames := rfl
@[simp] theorem State.poke_homes (s : State) (a : Nat) (b : List Byte) : (s.poke a b).homes = s.homes := rfl
@[simp] theorem State.poke_dies (s : State) (a : Nat) (b : List Byte) : (s.poke a b).dies = s.dies := rfl
@[simp] theorem State.poke_mods (s : State) (a : Nat) (b : List Byte) : (s.poke a b).mods = s.mods := rfl
@[simp] theorem State.poke_launches (s : State) (a : Nat) (b : List Byte) : (s.poke a b).launches = s.launches := rfl
@[simp] theorem State.poke_barriers (s : State) (a : Nat) (b : List Byte) : (s.poke a b).barriers = s.barriers := rfl
@[simp] theorem State.poke_gangs (s : State) (a : Nat) (b : List Byte) : (s.poke a b).gangs = s.gangs := rfl
@[simp] theorem State.poke_leases (s : State) (a : Nat) (b : List Byte) : (s.poke a b).leases = s.leases := rfl
@[simp] theorem State.poke_pushes (s : State) (a : Nat) (b : List Byte) : (s.poke a b).pushes = s.pushes := rfl
@[simp] theorem State.poke_cmds (s : State) (a : Nat) (b : List Byte) : (s.poke a b).cmds = s.cmds := rfl
@[simp] theorem State.poke_locks (s : State) (a : Nat) (b : List Byte) : (s.poke a b).locks = s.locks := rfl
@[simp] theorem State.poke_fgroups (s : State) (a : Nat) (b : List Byte) : (s.poke a b).fgroups = s.fgroups := rfl
@[simp] theorem State.poke_holds (s : State) (a : Nat) (b : List Byte) : (s.poke a b).holds = s.holds := rfl
@[simp] theorem State.poke_net (s : State) (a : Nat) (b : List Byte) : (s.poke a b).net = s.net := rfl
@[simp] theorem State.poke_words (s : State) (a : Nat) (b : List Byte) : (s.poke a b).words = s.words := rfl
@[simp] theorem State.poke_evq (s : State) (a : Nat) (b : List Byte) : (s.poke a b).evq = s.evq := rfl
@[simp] theorem State.poke_clk (s : State) (a : Nat) (b : List Byte) : (s.poke a b).clk = s.clk := rfl
@[simp] theorem State.poke_cur (s : State) (a : Nat) (b : List Byte) : (s.poke a b).cur = s.cur := rfl
@[simp] theorem State.poke_note (s : State) (a : Nat) (b : List Byte) : (s.poke a b).note = s.note := rfl
@[simp] theorem State.poke_nextId (s : State) (a : Nat) (b : List Byte) : (s.poke a b).nextId = s.nextId := rfl
@[simp] theorem State.poke_turns (s : State) (a : Nat) (b : List Byte) : (s.poke a b).turns = s.turns := rfl
@[simp] theorem State.poke_outs (s : State) (a : Nat) (b : List Byte) : (s.poke a b).outs = s.outs := rfl

/-! ### State.updCmd -/

@[simp] theorem State.updCmd_mem (s : State) (id : Nat) (f : Cmd → Cmd) : (s.updCmd id f).mem = s.mem := rfl
@[simp] theorem State.updCmd_bad (s : State) (id : Nat) (f : Cmd → Cmd) : (s.updCmd id f).bad = s.bad := rfl
@[simp] theorem State.updCmd_frames (s : State) (id : Nat) (f : Cmd → Cmd) : (s.updCmd id f).frames = s.frames := rfl
@[simp] theorem State.updCmd_cores (s : State) (id : Nat) (f : Cmd → Cmd) : (s.updCmd id f).cores = s.cores := rfl
@[simp] theorem State.updCmd_homes (s : State) (id : Nat) (f : Cmd → Cmd) : (s.updCmd id f).homes = s.homes := rfl
@[simp] theorem State.updCmd_dies (s : State) (id : Nat) (f : Cmd → Cmd) : (s.updCmd id f).dies = s.dies := rfl
@[simp] theorem State.updCmd_mods (s : State) (id : Nat) (f : Cmd → Cmd) : (s.updCmd id f).mods = s.mods := rfl
@[simp] theorem State.updCmd_launches (s : State) (id : Nat) (f : Cmd → Cmd) : (s.updCmd id f).launches = s.launches := rfl
@[simp] theorem State.updCmd_barriers (s : State) (id : Nat) (f : Cmd → Cmd) : (s.updCmd id f).barriers = s.barriers := rfl
@[simp] theorem State.updCmd_gangs (s : State) (id : Nat) (f : Cmd → Cmd) : (s.updCmd id f).gangs = s.gangs := rfl
@[simp] theorem State.updCmd_leases (s : State) (id : Nat) (f : Cmd → Cmd) : (s.updCmd id f).leases = s.leases := rfl
@[simp] theorem State.updCmd_pushes (s : State) (id : Nat) (f : Cmd → Cmd) : (s.updCmd id f).pushes = s.pushes := rfl
@[simp] theorem State.updCmd_locks (s : State) (id : Nat) (f : Cmd → Cmd) : (s.updCmd id f).locks = s.locks := rfl
@[simp] theorem State.updCmd_fgroups (s : State) (id : Nat) (f : Cmd → Cmd) : (s.updCmd id f).fgroups = s.fgroups := rfl
@[simp] theorem State.updCmd_holds (s : State) (id : Nat) (f : Cmd → Cmd) : (s.updCmd id f).holds = s.holds := rfl
@[simp] theorem State.updCmd_net (s : State) (id : Nat) (f : Cmd → Cmd) : (s.updCmd id f).net = s.net := rfl
@[simp] theorem State.updCmd_words (s : State) (id : Nat) (f : Cmd → Cmd) : (s.updCmd id f).words = s.words := rfl
@[simp] theorem State.updCmd_evq (s : State) (id : Nat) (f : Cmd → Cmd) : (s.updCmd id f).evq = s.evq := rfl
@[simp] theorem State.updCmd_clk (s : State) (id : Nat) (f : Cmd → Cmd) : (s.updCmd id f).clk = s.clk := rfl
@[simp] theorem State.updCmd_cur (s : State) (id : Nat) (f : Cmd → Cmd) : (s.updCmd id f).cur = s.cur := rfl
@[simp] theorem State.updCmd_note (s : State) (id : Nat) (f : Cmd → Cmd) : (s.updCmd id f).note = s.note := rfl
@[simp] theorem State.updCmd_nextId (s : State) (id : Nat) (f : Cmd → Cmd) : (s.updCmd id f).nextId = s.nextId := rfl
@[simp] theorem State.updCmd_turns (s : State) (id : Nat) (f : Cmd → Cmd) : (s.updCmd id f).turns = s.turns := rfl
@[simp] theorem State.updCmd_outs (s : State) (id : Nat) (f : Cmd → Cmd) : (s.updCmd id f).outs = s.outs := rfl

/-! ### Sparse tables -/

@[simp] theorem SMap.get_put_self {α : Type} (m : SMap α) (d : α) (k : Nat) (x : α) : (m.put k x).get d k = x := by
  induction m with
  | nil => simp [SMap.put, SMap.get]
  | cons e r ih =>
    obtain ⟨j, y⟩ := e
    simp only [SMap.put]
    split
    · simp [SMap.get]
    · split <;> simp_all [SMap.get]

theorem SMap.get_put_other {α : Type} (m : SMap α) (d : α) {k n : Nat} (x : α) (h : k ≠ n) :
    (m.put k x).get d n = m.get d n := by
  induction m with
  | nil => simp [SMap.put, SMap.get, h]
  | cons e r ih =>
    obtain ⟨j, y⟩ := e
    simp only [SMap.put]
    split
    · simp_all [SMap.get]
    · split
      · simp [SMap.get, h]
      · simp only [SMap.get, ih]

@[simp] theorem State.frame_setFrame (s : State) (k : Nat) (f : Frame) : (s.setFrame k f).frame k = f := by
  simp [State.frame, State.setFrame]

theorem State.frame_setFrame_other (s : State) {k n : Nat} (f : Frame) (h : k ≠ n) : (s.setFrame k f).frame n = s.frame n :=
  SMap.get_put_other _ _ _ h

@[simp] theorem State.frame_updFrame (s : State) (k : Nat) (h : Frame → Frame) :
    (s.updFrame k h).frame k = h (s.frame k) := State.frame_setFrame _ _ _

theorem State.frame_updFrame_other (s : State) {k n : Nat} (h : Frame → Frame) (hk : k ≠ n) :
    (s.updFrame k h).frame n = s.frame n := State.frame_setFrame_other _ _ hk

@[simp] theorem State.core_updCore (s : State) (l : Loc) (h : Core → Core) : (s.updCore l h).core l = h (s.core l) := by
  simp [State.core, State.updCore]

theorem State.core_updCore_other (s : State) {l n : Loc} (h : Core → Core) (hl : l ≠ n) :
    (s.updCore l h).core n = s.core n := SMap.get_put_other _ _ _ hl

@[simp] theorem State.die_updDie (s : State) (d : DieId) (h : Die → Die) : (s.updDie d h).die d = h (s.die d) := by
  simp [State.die, State.updDie]

theorem State.die_updDie_other (s : State) {d n : DieId} (h : Die → Die) (hd : d ≠ n) :
    (s.updDie d h).die n = s.die n := SMap.get_put_other _ _ _ hd

@[simp] theorem State.module_updModule (s : State) (m : Nat) (f : Module → Module) :
    (s.updModule m f).module m = f (s.module m) := by
  simp [State.module, State.updModule]

theorem State.module_updModule_other (s : State) {m n : Nat} (f : Module → Module) (h : m ≠ n) :
    (s.updModule m f).module n = s.module n := SMap.get_put_other _ _ _ h

@[simp] theorem State.home_updHome (s : State) (x : Home) (f : HomeSt → HomeSt) : (s.updHome x f).home x = f (s.home x) := by
  simp [State.home, State.updHome]

@[simp] theorem State.lease_updLease (s : State) (p : Nat) (f : Lease → Lease) : (s.updLease p f).lease p = f (s.lease p) := by
  simp [State.lease, State.updLease]

/-! ### The thread in issue -/

@[simp] theorem State.me_updFrame (s : State) (k : Nat) (h : Frame → Frame) : (s.updFrame k h).me = s.me := rfl
@[simp] theorem State.me_updMy (s : State) (h : Frame → Frame) : (s.updMy h).me = s.me := rfl
@[simp] theorem State.me_updCore (s : State) (l : Loc) (h : Core → Core) : (s.updCore l h).me = s.me := rfl
@[simp] theorem State.me_send (s : State) (p : Pkt) : (s.send p).me = s.me := rfl
@[simp] theorem State.my_updMy (s : State) (h : Frame → Frame) : (s.updMy h).my = h s.my := State.frame_updFrame _ _ _
@[simp] theorem State.my_updCore (s : State) (l : Loc) (h : Core → Core) : (s.updCore l h).my = s.my := rfl
@[simp] theorem State.my_send (s : State) (p : Pkt) : (s.send p).my = s.my := rfl
@[simp] theorem State.frame_updCore (s : State) (l : Loc) (h : Core → Core) (k : Nat) : (s.updCore l h).frame k = s.frame k := rfl
@[simp] theorem State.frame_send (s : State) (p : Pkt) (k : Nat) : (s.send p).frame k = s.frame k := rfl
@[simp] theorem State.core_updFrame (s : State) (k : Nat) (h : Frame → Frame) (l : Loc) : (s.updFrame k h).core l = s.core l := rfl
@[simp] theorem State.core_updMy (s : State) (h : Frame → Frame) (l : Loc) : (s.updMy h).core l = s.core l := rfl
@[simp] theorem State.core_send (s : State) (p : Pkt) (l : Loc) : (s.send p).core l = s.core l := rfl
@[simp] theorem State.gangOf_updMy (s : State) (h : Frame → Frame) (k : Nat) : (s.updMy h).gangOf k = s.gangOf k := rfl
@[simp] theorem State.gangOf_updCore (s : State) (l : Loc) (h : Core → Core) (k : Nat) : (s.updCore l h).gangOf k = s.gangOf k := rfl

@[simp] theorem State.frame_updCmd (s : State) (id : Nat) (f : Cmd → Cmd) (k : Nat) : (s.updCmd id f).frame k = s.frame k := rfl
@[simp] theorem State.core_updCmd (s : State) (id : Nat) (f : Cmd → Cmd) (l : Loc) : (s.updCmd id f).core l = s.core l := rfl

end Sys2Proof.Machine
end

