-- ==== Sys2Proof/Laws/Memory.lean ====
section
/-! SUPPORT. Memory reads back what was written, a write leaves every other byte alone, and every operation on memory
keeps its canonical form. -/

namespace Sys2Proof.Machine

open Sys2Proof

namespace Memory

/-! ### Reading after writing -/

@[simp] theorem get_set_self (m : List Host.Cell) (a : Nat) (v : Byte) (h : wfAbove 0 m = true) : get (set m a v) a = v := by
  suffices ∀ lo, wfAbove lo m = true → get (set m a v) a = v from this 0 h
  clear h
  induction m with
  | nil => intro lo _; simp only [set]; split <;> simp_all [get]
  | cons c r ih =>
    obtain ⟨k, b⟩ := c
    intro lo h
    simp only [wfAbove, Bool.and_eq_true, decide_eq_true_eq] at h
    have gap (n : Nat) (hn : n < k) : get r n = memDefault n ∧ get ((k, b) :: r) n = memDefault n := by
      have below : ∀ (l : List Host.Cell) (q : Nat), wfAbove q l = true → n < q → get l n = memDefault n := by
        intro l
        induction l with
        | nil => intros; rfl
        | cons c l ih =>
          intro q hq hn
          obtain ⟨j, x⟩ := c
          simp only [wfAbove, Bool.and_eq_true, decide_eq_true_eq] at hq
          have : j ≠ n := by omega
          simp [get, this, ih (j + 1) hq.2 (by omega)]
      exact ⟨below r (k + 1) h.2 (by omega), below ((k, b) :: r) k (by simp [wfAbove, h.1.2, h.2]) hn⟩
    simp only [set]
    split
    · rename_i hk
      subst hk
      split
      · rename_i hv
        have below : ∀ (l : List Host.Cell) (q : Nat), wfAbove q l = true → k < q → get l k = memDefault k := by
          intro l
          induction l with
          | nil => intros; rfl
          | cons c l ih =>
            intro q hq hn
            obtain ⟨j, x⟩ := c
            simp only [wfAbove, Bool.and_eq_true, decide_eq_true_eq] at hq
            have : j ≠ k := by omega
            simp [get, this, ih (j + 1) hq.2 (by omega)]
        rw [below r (k + 1) h.2 (by omega), hv]
      · simp [get]
    · split
      · split
        · rename_i hlt hv
          rw [(gap a hlt).2, hv]
        · simp [get]
      · simp only [get]
        split
        · contradiction
        · exact ih (k + 1) h.2

theorem get_set_other (m : List Host.Cell) {a n : Nat} (v : Byte) (h : wfAbove 0 m = true) (hn : a ≠ n) :
    get (set m a v) n = get m n := by
  suffices ∀ lo, wfAbove lo m = true → get (set m a v) n = get m n from this 0 h
  clear h
  induction m with
  | nil => intro lo _; simp only [set]; split <;> simp [get, hn]
  | cons c r ih =>
    obtain ⟨k, b⟩ := c
    intro lo h
    simp only [wfAbove, Bool.and_eq_true, decide_eq_true_eq] at h
    simp only [set]
    split
    · rename_i hk
      subst hk
      split <;> simp [get, hn]
    · split
      · split
        · rfl
        · simp [get, hn]
      · simp only [get, ih (k + 1) h.2]

/-! ### The canonical form -/

theorem wfAbove_weaken {m : List Host.Cell} {a b : Nat} (h : wfAbove b m = true) (hab : a ≤ b) : wfAbove a m = true := by
  cases m with
  | nil => rfl
  | cons c r =>
    simp only [wfAbove, Bool.and_eq_true, decide_eq_true_eq] at h ⊢
    exact ⟨⟨by omega, h.1.2⟩, h.2⟩

theorem wfAbove_set {m : List Host.Cell} {lo a : Nat} (v : Byte) (h : wfAbove lo m = true) (ha : lo ≤ a) :
    wfAbove lo (set m a v) = true := by
  induction m generalizing lo with
  | nil => simp only [set]; split <;> simp_all [wfAbove]
  | cons c r ih =>
    obtain ⟨k, b⟩ := c
    simp only [wfAbove, Bool.and_eq_true, decide_eq_true_eq] at h
    simp only [set]
    split
    · rename_i hk
      subst hk
      split
      · exact wfAbove_weaken h.2 (by omega)
      · simp_all [wfAbove]
    · split
      · split
        · simp_all [wfAbove]
        · simp only [wfAbove, Bool.and_eq_true, decide_eq_true_eq]
          refine ⟨⟨ha, by simp_all⟩, ⟨by omega, h.1.2⟩, h.2⟩
      · simp only [wfAbove, Bool.and_eq_true, decide_eq_true_eq]
        exact ⟨⟨h.1.1, h.1.2⟩, ih h.2 (by omega)⟩

theorem wfAbove_filter {m : List Host.Cell} {lo : Nat} (p : Host.Cell → Bool) (h : wfAbove lo m = true) :
    wfAbove lo (m.filter p) = true := by
  induction m generalizing lo with
  | nil => rfl
  | cons c r ih =>
    obtain ⟨k, b⟩ := c
    simp only [wfAbove, Bool.and_eq_true, decide_eq_true_eq] at h
    simp only [List.filter]
    split
    · simp only [wfAbove, Bool.and_eq_true, decide_eq_true_eq]
      exact ⟨h.1, ih h.2⟩
    · exact wfAbove_weaken (ih h.2) (by omega)

theorem wf_set {m : List Host.Cell} (a : Nat) (v : Byte) (h : wf m = true) : wf (set m a v) = true :=
  wfAbove_set v h (Nat.zero_le a)

theorem wf_write {m : List Host.Cell} (a : Nat) (b : List Byte) (h : wf m = true) : wf (write m a b) = true := by
  induction b generalizing m a with
  | nil => exact h
  | cons x r ih => exact ih (a + 1) (wf_set a x h)

theorem wf_filter {m : List Host.Cell} (p : Host.Cell → Bool) (h : wf m = true) : wf (m.filter p) = true :=
  wfAbove_filter p h

/-- A byte outside the written range reads as before. -/
theorem get_write_other {m : List Host.Cell} {a n : Nat} (b : List Byte) (h : wf m = true)
    (hn : n < a ∨ a + b.length ≤ n) : get (write m a b) n = get m n := by
  induction b generalizing m a with
  | nil => rfl
  | cons x r ih =>
    simp only [List.length_cons] at hn
    rw [write, ih (wf_set a x h) (by omega), get_set_other m x h (by omega)]

/-- A byte inside the written range reads as it was written. -/
theorem get_write_inside {m : List Host.Cell} {a i : Nat} (b : List Byte) (h : wf m = true) (hi : i < b.length) :
    get (write m a b) (a + i) = b[i] := by
  induction b generalizing m a i with
  | nil => simp at hi
  | cons x r ih =>
    cases i with
    | zero => rw [write, get_write_other r (wf_set a x h) (by omega)]; exact get_set_self m a x h
    | succ i =>
      have := ih (m := set m a x) (a := a + 1) (i := i) (wf_set a x h) (by simpa using hi)
      rw [write, show a + (i + 1) = a + 1 + i by omega, this]
      rfl

theorem read_length (m : List Host.Cell) (a n : Nat) : (read m a n).length = n := by
  induction n generalizing a with
  | zero => rfl
  | succ n ih => simp [read, ih]

theorem read_congr {m m' : List Host.Cell} {a n : Nat} (h : ∀ i < n, get m' (a + i) = get m (a + i)) :
    read m' a n = read m a n := by
  induction n generalizing a with
  | zero => rfl
  | succ n ih =>
    have h0 := h 0 (by omega)
    simp only [Nat.add_zero] at h0
    rw [read, read, h0, ih fun i hi => by have := h (i + 1) (by omega); rwa [show a + 1 + i = a + (i + 1) by omega]]

/-- What was written is read back. -/
theorem read_write {m : List Host.Cell} (a : Nat) (b : List Byte) (h : wf m = true) : read (write m a b) a b.length = b := by
  induction b generalizing m a with
  | nil => rfl
  | cons x r ih =>
    rw [List.length_cons, read, write, ih (a + 1) (wf_set a x h), get_write_other r (wf_set a x h) (by omega)]
    exact congrArg (· :: r) (get_set_self m a x h)

end Memory

/-! ### The state's memory -/

theorem State.memOk_of_mem {s t : State} (h : t.mem = s.mem) (hs : s.memOk) : t.memOk := by
  unfold State.memOk at *; rwa [h]

theorem State.memOk_poke {s : State} (a : Nat) (b : List Byte) (h : s.memOk) : (s.poke a b).memOk :=
  Memory.wf_write a b h

theorem State.bytes_poke {s : State} (a : Nat) (b : List Byte) (h : s.memOk) : (s.poke a b).bytes a b.length = b :=
  Memory.read_write a b h

theorem State.bytes_poke_other {s : State} {a c n : Nat} (b : List Byte) (h : s.memOk)
    (hd : c + n ≤ a ∨ a + b.length ≤ c) : (s.poke a b).bytes c n = s.bytes c n :=
  Memory.read_congr fun i hi => Memory.get_write_other b h (by omega)

theorem bytesOf_length (n x : Nat) : (bytesOf n x).length = n := by
  induction n generalizing x with
  | zero => rfl
  | succ n ih => simp [bytesOf, ih]

theorem ofBytes_bytesOf (n x : Nat) : ofBytes (bytesOf n x) = x % 256 ^ n := by
  induction n generalizing x with
  | zero => simp [bytesOf, ofBytes, Nat.mod_one]
  | succ n ih =>
    rw [bytesOf, ofBytes, ih]
    have h := Nat.mod_mul (x := x) (a := 256) (b := 256 ^ n)
    rw [pow_succ', h]
    simp

theorem State.reset_memOk : State.reset.memOk := rfl

end Sys2Proof.Machine
end

