-- ==== Sys2Proof/Laws/Operands.lean ====
section
/-! SUPPORT. What the operand operations do, each said once in the terms of Sys2Proof.Claims: a source that gives a
value, a destination that takes one, and an instruction of a thread in no gang. -/

namespace Sys2Proof.Machine

open Sys2Proof Sys2Proof.Claims

/-- Outside a gang an instruction's meaning is its body (R71). -/
theorem issue_alone {s : State} {body : State → Eff} (h : s.gangOf s.me = none) :
    issue body s = .next ((body s).finish s) := by
  simp [issue, h]

theorem portDenied_mayName {f : Frame} {r : Reg} (h : mayName f r = true) : f.portDenied r = false := by
  cases r with
  | port p => cases p <;> simp_all [mayName, Frame.portDenied]
  | _ => rfl

theorem guardPorts_ok {s : State} {rs : List Reg} {k : Unit → Eff} (h : ∀ r ∈ rs, mayName s.my r = true) :
    guardPorts s rs k = k () := by
  have : rs.any s.my.portDenied = false := by
    simp only [List.any_eq_false]
    intro r hr
    simp [portDenied_mayName (h r hr)]
  simp [guardPorts, this]

/-- R215: a source that gives a value hands it on. -/
theorem src_gives {s s1 : State} {r : Reg} {t : Bool} {x : Word} {k : Word → State → Eff}
    (h : gives s r = some (x, s1)) : src s r t k = k x s1 := by
  cases r with
  | z => simp [gives] at h; simp [src, h]
  | g n =>
    simp only [gives] at h
    split at h
    · rename_i h'
      simp only [Option.some.injEq, Prod.mk.injEq] at h
      obtain ⟨rfl, rfl⟩ := h
      simp at h'
      simp [src, h'.1, h'.2]
    · cases h
  | port p => simp [gives] at h; simp [src, h]

theorem pop_cur {s t : State} {p : Port} {w : Word} (h : s.pop p = some (w, t)) : t.cur = s.cur := by
  unfold State.pop at h
  split at h
  · split at h
    · cases h
    · simp at h; rw [← h.2]; rfl
  · dsimp only at h
    split at h
    · split at h
      · cases h
      · simp at h; rw [← h.2]; rfl
    · split at h
      · cases h
      · simp at h; rw [← h.2]; rfl

/-- Reading a source leaves the thread in issue. -/
theorem gives_cur {s s1 : State} {r : Reg} {x : Word} (h : gives s r = some (x, s1)) : s1.cur = s.cur := by
  cases r with
  | z => simp [gives] at h; rw [h.2]
  | g n =>
    simp only [gives] at h
    split at h
    · simp at h; rw [h.2]
    · cases h
  | port p => exact pop_cur h

/-- A source that is no port leaves the state as it was. -/
theorem gives_same {s s1 : State} {r : Reg} {x : Word} (hp : r.np = true) (h : gives s r = some (x, s1)) : s1 = s := by
  cases r with
  | z => simp [gives] at h; exact h.2.symm
  | g n =>
    simp only [gives] at h
    split at h
    · simp at h; exact h.2.symm
    · cases h
  | port p => cases hp

/-- R215: a port that takes the word goes on. -/
theorem pushPort_pushed {s t : State} {p : Port} {v : Word} {k : State → Eff} (h : pushed s p v = some t) :
    pushPort s p v k = k t := by
  cases p <;> simp only [pushed, pushPort, eportOf] at h ⊢
  case qpav =>
    split at h
    · rename_i hc
      obtain ⟨h1, h2, h3⟩ := hc
      rw [if_pos h1]
      simp only [h2, h3, Bool.not_true, Bool.or_false, decide_eq_true_eq]
      simp at h
      simp [h]
    · cases h
  case qevt =>
    cases hr : resolution (s.drain s.me).cur.loc v with
    | none => simp [hr] at h
    | some w => simp [hr] at h; simp [h]
  case qmsg => simp at h; rw [h]
  all_goals
    split at h
    · rename_i hc; simp at h; simp [hc, h]
    · cases h

/-- Outside a gang a result may be written where no earlier one is on its way (R215, R216). -/
theorem canWriteG_settled {s : State} {n : Fin 16} (hf : s.cur.fan = []) (h : settled s (.g n) = true) :
    s.canWriteG n = true := by
  simpa [State.canWriteG, hf, settled, State.my] using h

/-- R215: a destination that takes the result goes on. -/
theorem put_takes {s t : State} {d : Reg} {v : Word} {k : State → Eff} (hf : s.cur.fan = []) (h : takes s d v = some t) :
    put s d v k = k t := by
  cases d with
  | z => simp [takes] at h; simp [put, h]
  | g n =>
    simp only [takes] at h
    split at h
    · rename_i hn
      simp at h
      have e : s.updMy (fun f => f.setG n v) = t := h
      have hc : (s.updMy fun f => f.setG n v).cur = s.cur := rfl
      simp [put, canWriteG_settled hf hn, State.writeG, e]
      rw [← e, hc, hf]; rfl
    · cases h
  | port p => exact pushPort_pushed h

/-- R254: a destination that takes a poisoned result goes on. -/
theorem poisonDest_takes {s t : State} {d : Reg} {k : State → Eff} (hf : s.cur.fan = []) (hd : d.np = true)
    (h : takesPoison s d = some t) : poisonDest s d k = k t := by
  cases d with
  | z => simp [takesPoison] at h; simp [poisonDest, h]
  | g n =>
    simp only [takesPoison] at h
    split at h
    · rename_i hn
      simp at h
      have e : s.updMy (fun f => f.poisonG n) = t := h
      have hc : t.cur.fan = [] := by rw [← e]; exact hf
      simp [poisonDest, canWriteG_settled hf hn, e, hc]
    · cases h
  | port p => cases hd

/-- R216: a destination that takes a result later goes on. -/
theorem putLate_takesLate {s t : State} {rs : List Reg} {d : Reg} {v : Word} {k : State → Eff} (hf : s.cur.fan = [])
    (h : takesLate s rs d v = some t) : putLate s d v (popAcq rs) k = k t := by
  cases d with
  | z => exact put_takes (d := .z) (v := v) hf h
  | port p => exact put_takes (d := .port p) (v := v) hf h
  | g n =>
    simp only [takesLate] at h
    split at h
    · rename_i hn
      simp at h
      have e : s.emptyDest n = emptied s (.g n) := by
        simp [State.emptyDest, hf, emptied, Frame.emptyG]
      simp [putLate, canWriteG_settled hf hn, e, h]
    · cases h

/-- R217, R219: an instruction of one source. -/
theorem aluOne_takes {s s1 t : State} {d a : Reg} {ta : Bool} {f : Word → Word} {x : Word} (hf : s.cur.fan = [])
    (hd : mayName s.my d = true) (ha : mayName s.my a = true) (hx : gives s a = some (x, s1))
    (ht : takes s1 d (f x) = some t) : aluOne s d a ta f = .done t .seq := by
  rw [aluOne, guardPorts_ok (by simp [hd, ha]), src_gives hx, put_takes (by rw [gives_cur hx, hf]) ht]

/-- R217: an instruction of two sources. -/
theorem aluTwo_takes {s s1 s2 t : State} {d a b : Reg} {ta tb : Bool} {f : Word → Word → Word} {x y : Word}
    (hf : s.cur.fan = []) (hd : mayName s.my d = true) (ha : mayName s.my a = true) (hb : mayName s.my b = true)
    (hx : gives s a = some (x, s1)) (hy : gives s1 b = some (y, s2)) (ht : takes s2 d (f x y) = some t) :
    aluTwo s d a b ta tb f = .done t .seq := by
  rw [aluTwo, guardPorts_ok (by simp [hd, ha, hb]), src_gives hx, src_gives hy,
    put_takes (by rw [gives_cur hy, gives_cur hx, hf]) ht]

/-- R216: a long-latency instruction of one source. -/
theorem lateOne_takes {s s1 t : State} {d a : Reg} {ta : Bool} {f : Word → Word} {x : Word} (hf : s.cur.fan = [])
    (hd : mayName s.my d = true) (ha : mayName s.my a = true) (hx : gives s a = some (x, s1))
    (ht : takesLate s1 [a] d (f x) = some t) : lateOne s d a ta f = .done t .seq := by
  rw [lateOne, guardPorts_ok (by simp [hd, ha]), src_gives hx, putLate_takesLate (by rw [gives_cur hx, hf]) ht]

/-- R216: a long-latency instruction of two sources. -/
theorem lateTwo_takes {s s1 s2 t : State} {d a b : Reg} {ta tb : Bool} {f : Word → Word → Word} {x y : Word}
    (hf : s.cur.fan = []) (hd : mayName s.my d = true) (ha : mayName s.my a = true) (hb : mayName s.my b = true)
    (hx : gives s a = some (x, s1)) (hy : gives s1 b = some (y, s2)) (ht : takesLate s2 [a, b] d (f x y) = some t) :
    lateTwo s d a b ta tb f = .done t .seq := by
  rw [lateTwo, guardPorts_ok (by simp [hd, ha, hb]), src_gives hx, src_gives hy,
    putLate_takesLate (by rw [gives_cur hy, gives_cur hx, hf]) ht]

end Sys2Proof.Machine
end

