-- ==== Sys2Proof/Laws/PerInstr.lean ====
section
/-! SUPPORT. What holds of every instruction, one lemma for each constructor. -/

namespace Sys2Proof

theorem Reg.code_lt (r : Reg) : r.code < 32 := by
  cases r with
  | g n => exact Nat.lt_trans n.isLt (by decide)
  | port p => cases p <;> decide
  | z => decide

theorem VSrc.code_lt (r : VSrc) : r.code < 32 := by
  cases r with
  | v n => exact Nat.lt_trans n.isLt (by decide)
  | g n => have := n.isLt; simp only [VSrc.code]; omega

theorem FFmt.code_lt (f : FFmt) : f.code < 4 := by cases f <;> decide
theorem Rnd.code_lt (r : Rnd) : r.code < 5 := by cases r <;> decide
theorem CvtTy.code_lt (t : CvtTy) : t.code < 12 := by cases t <;> decide
theorem VTy.code_lt (t : VTy) : t.code < 6 := by cases t <;> decide
theorem VSize.code_lt (s : VSize) : s.code < 3 := by cases s <;> decide
theorem Scope.code_lt (s : Scope) : s.code < 7 := by cases s <;> decide
theorem CmpCond.code_lt (c : CmpCond) : c.code < 6 := by cases c <;> decide
theorem BrCond.code_lt (c : BrCond) : c.code < 8 := by cases c <;> decide
theorem SReg.code_lt (r : SReg) : r.code < 12 := by cases r <;> decide

end Sys2Proof

namespace Sys2Proof.Laws.Fits

/-- R174: the instruction's encoding fits the word, so that the encoder drops no bit of it. -/
def Statement (i : Instr) : Prop := ∀ n, encodeNat i = some n → n < 2 ^ 32

theorem fits {i : Instr} {m : Nat} (h : encodeNat i = some m) (hm : m < 2 ^ 32) : Statement i :=
  fun _ hn => Option.some.inj (h.symm.trans hn) ▸ hm

theorem noWord {i : Instr} (h : encodeNat i = none) : Statement i :=
  fun _ hn => absurd (h.symm.trans hn) nofun

theorem add (d a b : Reg) (ta tb : Bool) : Statement (.add d a b ta tb) :=
  fits rfl (by have := d.code_lt; have := a.code_lt; have := b.code_lt; have := ta.toNat_lt; have := tb.toNat_lt; unfold encR; omega)
theorem sub (d a b : Reg) (ta tb : Bool) : Statement (.sub d a b ta tb) :=
  fits rfl (by have := d.code_lt; have := a.code_lt; have := b.code_lt; have := ta.toNat_lt; have := tb.toNat_lt; unfold encR; omega)
theorem and (d a b : Reg) (ta tb : Bool) : Statement (.and d a b ta tb) :=
  fits rfl (by have := d.code_lt; have := a.code_lt; have := b.code_lt; have := ta.toNat_lt; have := tb.toNat_lt; unfold encR; omega)
theorem or (d a b : Reg) (ta tb : Bool) : Statement (.or d a b ta tb) :=
  fits rfl (by have := d.code_lt; have := a.code_lt; have := b.code_lt; have := ta.toNat_lt; have := tb.toNat_lt; unfold encR; omega)
theorem xor (d a b : Reg) (ta tb : Bool) : Statement (.xor d a b ta tb) :=
  fits rfl (by have := d.code_lt; have := a.code_lt; have := b.code_lt; have := ta.toNat_lt; have := tb.toNat_lt; unfold encR; omega)
theorem andn (d a b : Reg) (ta tb : Bool) : Statement (.andn d a b ta tb) :=
  fits rfl (by have := d.code_lt; have := a.code_lt; have := b.code_lt; have := ta.toNat_lt; have := tb.toNat_lt; unfold encR; omega)
theorem sll (d a b : Reg) (ta tb : Bool) : Statement (.sll d a b ta tb) :=
  fits rfl (by have := d.code_lt; have := a.code_lt; have := b.code_lt; have := ta.toNat_lt; have := tb.toNat_lt; unfold encR; omega)
theorem srl (d a b : Reg) (ta tb : Bool) : Statement (.srl d a b ta tb) :=
  fits rfl (by have := d.code_lt; have := a.code_lt; have := b.code_lt; have := ta.toNat_lt; have := tb.toNat_lt; unfold encR; omega)
theorem sra (d a b : Reg) (ta tb : Bool) : Statement (.sra d a b ta tb) :=
  fits rfl (by have := d.code_lt; have := a.code_lt; have := b.code_lt; have := ta.toNat_lt; have := tb.toNat_lt; unfold encR; omega)
theorem ror (d a b : Reg) (ta tb : Bool) : Statement (.ror d a b ta tb) :=
  fits rfl (by have := d.code_lt; have := a.code_lt; have := b.code_lt; have := ta.toNat_lt; have := tb.toNat_lt; unfold encR; omega)
theorem mul (d a b : Reg) (ta tb : Bool) : Statement (.mul d a b ta tb) :=
  fits rfl (by have := d.code_lt; have := a.code_lt; have := b.code_lt; have := ta.toNat_lt; have := tb.toNat_lt; unfold encR; omega)
theorem mulh (d a b : Reg) (ta tb : Bool) : Statement (.mulh d a b ta tb) :=
  fits rfl (by have := d.code_lt; have := a.code_lt; have := b.code_lt; have := ta.toNat_lt; have := tb.toNat_lt; unfold encR; omega)
theorem mulhu (d a b : Reg) (ta tb : Bool) : Statement (.mulhu d a b ta tb) :=
  fits rfl (by have := d.code_lt; have := a.code_lt; have := b.code_lt; have := ta.toNat_lt; have := tb.toNat_lt; unfold encR; omega)
theorem div (d a b : Reg) (ta tb : Bool) : Statement (.div d a b ta tb) :=
  fits rfl (by have := d.code_lt; have := a.code_lt; have := b.code_lt; have := ta.toNat_lt; have := tb.toNat_lt; unfold encR; omega)
theorem divu (d a b : Reg) (ta tb : Bool) : Statement (.divu d a b ta tb) :=
  fits rfl (by have := d.code_lt; have := a.code_lt; have := b.code_lt; have := ta.toNat_lt; have := tb.toNat_lt; unfold encR; omega)
theorem rem (d a b : Reg) (ta tb : Bool) : Statement (.rem d a b ta tb) :=
  fits rfl (by have := d.code_lt; have := a.code_lt; have := b.code_lt; have := ta.toNat_lt; have := tb.toNat_lt; unfold encR; omega)
theorem remu (d a b : Reg) (ta tb : Bool) : Statement (.remu d a b ta tb) :=
  fits rfl (by have := d.code_lt; have := a.code_lt; have := b.code_lt; have := ta.toNat_lt; have := tb.toNat_lt; unfold encR; omega)
theorem min (d a b : Reg) (ta tb : Bool) : Statement (.min d a b ta tb) :=
  fits rfl (by have := d.code_lt; have := a.code_lt; have := b.code_lt; have := ta.toNat_lt; have := tb.toNat_lt; unfold encR; omega)
theorem max (d a b : Reg) (ta tb : Bool) : Statement (.max d a b ta tb) :=
  fits rfl (by have := d.code_lt; have := a.code_lt; have := b.code_lt; have := ta.toNat_lt; have := tb.toNat_lt; unfold encR; omega)
theorem minu (d a b : Reg) (ta tb : Bool) : Statement (.minu d a b ta tb) :=
  fits rfl (by have := d.code_lt; have := a.code_lt; have := b.code_lt; have := ta.toNat_lt; have := tb.toNat_lt; unfold encR; omega)
theorem maxu (d a b : Reg) (ta tb : Bool) : Statement (.maxu d a b ta tb) :=
  fits rfl (by have := d.code_lt; have := a.code_lt; have := b.code_lt; have := ta.toNat_lt; have := tb.toNat_lt; unfold encR; omega)
theorem clz (d a : Reg) (ta : Bool) : Statement (.clz d a ta) :=
  fits rfl (by have := d.code_lt; have := a.code_lt; have := ta.toNat_lt; unfold encR; omega)
theorem ctz (d a : Reg) (ta : Bool) : Statement (.ctz d a ta) :=
  fits rfl (by have := d.code_lt; have := a.code_lt; have := ta.toNat_lt; unfold encR; omega)
theorem popc (d a : Reg) (ta : Bool) : Statement (.popc d a ta) :=
  fits rfl (by have := d.code_lt; have := a.code_lt; have := ta.toNat_lt; unfold encR; omega)
theorem brev (d a : Reg) (ta : Bool) : Statement (.brev d a ta) :=
  fits rfl (by have := d.code_lt; have := a.code_lt; have := ta.toNat_lt; unfold encR; omega)
theorem bswap (d a : Reg) (ta : Bool) : Statement (.bswap d a ta) :=
  fits rfl (by have := d.code_lt; have := a.code_lt; have := ta.toNat_lt; unfold encR; omega)
theorem sextB (d a : Reg) (ta : Bool) : Statement (.sextB d a ta) :=
  fits rfl (by have := d.code_lt; have := a.code_lt; have := ta.toNat_lt; unfold encR; omega)
theorem sextH (d a : Reg) (ta : Bool) : Statement (.sextH d a ta) :=
  fits rfl (by have := d.code_lt; have := a.code_lt; have := ta.toNat_lt; unfold encR; omega)
theorem sextW (d a : Reg) (ta : Bool) : Statement (.sextW d a ta) :=
  fits rfl (by have := d.code_lt; have := a.code_lt; have := ta.toNat_lt; unfold encR; omega)
theorem zextB (d a : Reg) (ta : Bool) : Statement (.zextB d a ta) :=
  fits rfl (by have := d.code_lt; have := a.code_lt; have := ta.toNat_lt; unfold encR; omega)
theorem zextH (d a : Reg) (ta : Bool) : Statement (.zextH d a ta) :=
  fits rfl (by have := d.code_lt; have := a.code_lt; have := ta.toNat_lt; unfold encR; omega)
theorem zextW (d a : Reg) (ta : Bool) : Statement (.zextW d a ta) :=
  fits rfl (by have := d.code_lt; have := a.code_lt; have := ta.toNat_lt; unfold encR; omega)
theorem cmpEq (d a b : Reg) (ta tb : Bool) : Statement (.cmpEq d a b ta tb) :=
  fits rfl (by have := d.code_lt; have := a.code_lt; have := b.code_lt; have := ta.toNat_lt; have := tb.toNat_lt; unfold encR; omega)
theorem cmpNe (d a b : Reg) (ta tb : Bool) : Statement (.cmpNe d a b ta tb) :=
  fits rfl (by have := d.code_lt; have := a.code_lt; have := b.code_lt; have := ta.toNat_lt; have := tb.toNat_lt; unfold encR; omega)
theorem cmpLt (d a b : Reg) (ta tb : Bool) : Statement (.cmpLt d a b ta tb) :=
  fits rfl (by have := d.code_lt; have := a.code_lt; have := b.code_lt; have := ta.toNat_lt; have := tb.toNat_lt; unfold encR; omega)
theorem cmpGe (d a b : Reg) (ta tb : Bool) : Statement (.cmpGe d a b ta tb) :=
  fits rfl (by have := d.code_lt; have := a.code_lt; have := b.code_lt; have := ta.toNat_lt; have := tb.toNat_lt; unfold encR; omega)
theorem cmpLtu (d a b : Reg) (ta tb : Bool) : Statement (.cmpLtu d a b ta tb) :=
  fits rfl (by have := d.code_lt; have := a.code_lt; have := b.code_lt; have := ta.toNat_lt; have := tb.toNat_lt; unfold encR; omega)
theorem cmpGeu (d a b : Reg) (ta tb : Bool) : Statement (.cmpGeu d a b ta tb) :=
  fits rfl (by have := d.code_lt; have := a.code_lt; have := b.code_lt; have := ta.toNat_lt; have := tb.toNat_lt; unfold encR; omega)
theorem selz (d a b : Reg) (ta tb : Bool) : Statement (.selz d a b ta tb) :=
  fits rfl (by have := d.code_lt; have := a.code_lt; have := b.code_lt; have := ta.toNat_lt; have := tb.toNat_lt; unfold encR; omega)
theorem lea (d a b : Reg) (ta tb : Bool) : Statement (.lea d a b ta tb) :=
  fits rfl (by have := d.code_lt; have := a.code_lt; have := b.code_lt; have := ta.toNat_lt; have := tb.toNat_lt; unfold encR; omega)
theorem addi (d a : Reg) (ta : Bool) (imm : BitVec 15) : Statement (.addi d a ta imm) :=
  fits rfl (by have := d.code_lt; have := a.code_lt; have := ta.toNat_lt; have := imm.isLt; unfold encI; omega)
theorem andi (d a : Reg) (ta : Bool) (imm : BitVec 15) : Statement (.andi d a ta imm) :=
  fits rfl (by have := d.code_lt; have := a.code_lt; have := ta.toNat_lt; have := imm.isLt; unfold encI; omega)
theorem ori (d a : Reg) (ta : Bool) (imm : BitVec 15) : Statement (.ori d a ta imm) :=
  fits rfl (by have := d.code_lt; have := a.code_lt; have := ta.toNat_lt; have := imm.isLt; unfold encI; omega)
theorem xori (d a : Reg) (ta : Bool) (imm : BitVec 15) : Statement (.xori d a ta imm) :=
  fits rfl (by have := d.code_lt; have := a.code_lt; have := ta.toNat_lt; have := imm.isLt; unfold encI; omega)
theorem muli (d a : Reg) (ta : Bool) (imm : BitVec 15) : Statement (.muli d a ta imm) :=
  fits rfl (by have := d.code_lt; have := a.code_lt; have := ta.toNat_lt; have := imm.isLt; unfold encI; omega)
theorem slli (d a : Reg) (ta : Bool) (n : BitVec 6) : Statement (.slli d a ta n) :=
  fits rfl (by have := d.code_lt; have := a.code_lt; have := ta.toNat_lt; have := n.isLt; unfold encI; omega)
theorem srli (d a : Reg) (ta : Bool) (n : BitVec 6) : Statement (.srli d a ta n) :=
  fits rfl (by have := d.code_lt; have := a.code_lt; have := ta.toNat_lt; have := n.isLt; unfold encI; omega)
theorem srai (d a : Reg) (ta : Bool) (n : BitVec 6) : Statement (.srai d a ta n) :=
  fits rfl (by have := d.code_lt; have := a.code_lt; have := ta.toNat_lt; have := n.isLt; unfold encI; omega)
theorem rori (d a : Reg) (ta : Bool) (n : BitVec 6) : Statement (.rori d a ta n) :=
  fits rfl (by have := d.code_lt; have := a.code_lt; have := ta.toNat_lt; have := n.isLt; unfold encI; omega)
theorem cmpi (c : CmpCond) (d a : Reg) (ta : Bool) (imm : BitVec 12) : Statement (.cmpi c d a ta imm) :=
  fits rfl (by have := c.code_lt; have := d.code_lt; have := a.code_lt; have := ta.toNat_lt; have := imm.isLt; unfold encI; omega)
theorem movi (d : Reg) (imm : BitVec 21) : Statement (.movi d imm) :=
  fits rfl (by have := d.code_lt; have := imm.isLt;  omega)
theorem movk (d : Reg) (hw : BitVec 2) (imm : BitVec 16) : Statement (.movk d hw imm) :=
  fits rfl (by have := d.code_lt; have := hw.isLt; have := imm.isLt;  omega)
theorem fadd (f : FFmt) (r : Rnd) (d a b : Reg) (ta tb : Bool) : Statement (.fadd f r d a b ta tb) :=
  fits rfl (by have := f.code_lt; have := r.code_lt; have := d.code_lt; have := a.code_lt; have := b.code_lt; have := ta.toNat_lt; have := tb.toNat_lt; unfold encR; omega)
theorem fsub (f : FFmt) (r : Rnd) (d a b : Reg) (ta tb : Bool) : Statement (.fsub f r d a b ta tb) :=
  fits rfl (by have := f.code_lt; have := r.code_lt; have := d.code_lt; have := a.code_lt; have := b.code_lt; have := ta.toNat_lt; have := tb.toNat_lt; unfold encR; omega)
theorem fmul (f : FFmt) (r : Rnd) (d a b : Reg) (ta tb : Bool) : Statement (.fmul f r d a b ta tb) :=
  fits rfl (by have := f.code_lt; have := r.code_lt; have := d.code_lt; have := a.code_lt; have := b.code_lt; have := ta.toNat_lt; have := tb.toNat_lt; unfold encR; omega)
theorem fdiv (f : FFmt) (r : Rnd) (d a b : Reg) (ta tb : Bool) : Statement (.fdiv f r d a b ta tb) :=
  fits rfl (by have := f.code_lt; have := r.code_lt; have := d.code_lt; have := a.code_lt; have := b.code_lt; have := ta.toNat_lt; have := tb.toNat_lt; unfold encR; omega)
theorem fsqrt (f : FFmt) (r : Rnd) (d a : Reg) (ta : Bool) : Statement (.fsqrt f r d a ta) :=
  fits rfl (by have := f.code_lt; have := r.code_lt; have := d.code_lt; have := a.code_lt; have := ta.toNat_lt; unfold encR; omega)
theorem fcmpEq (f : FFmt) (d a b : Reg) (ta tb : Bool) : Statement (.fcmpEq f d a b ta tb) :=
  fits rfl (by have := f.code_lt; have := d.code_lt; have := a.code_lt; have := b.code_lt; have := ta.toNat_lt; have := tb.toNat_lt; unfold encR; omega)
theorem fcmpLt (f : FFmt) (d a b : Reg) (ta tb : Bool) : Statement (.fcmpLt f d a b ta tb) :=
  fits rfl (by have := f.code_lt; have := d.code_lt; have := a.code_lt; have := b.code_lt; have := ta.toNat_lt; have := tb.toNat_lt; unfold encR; omega)
theorem fcmpLe (f : FFmt) (d a b : Reg) (ta tb : Bool) : Statement (.fcmpLe f d a b ta tb) :=
  fits rfl (by have := f.code_lt; have := d.code_lt; have := a.code_lt; have := b.code_lt; have := ta.toNat_lt; have := tb.toNat_lt; unfold encR; omega)
theorem fcmpUn (f : FFmt) (d a b : Reg) (ta tb : Bool) : Statement (.fcmpUn f d a b ta tb) :=
  fits rfl (by have := f.code_lt; have := d.code_lt; have := a.code_lt; have := b.code_lt; have := ta.toNat_lt; have := tb.toNat_lt; unfold encR; omega)
theorem fmin (f : FFmt) (d a b : Reg) (ta tb : Bool) : Statement (.fmin f d a b ta tb) :=
  fits rfl (by have := f.code_lt; have := d.code_lt; have := a.code_lt; have := b.code_lt; have := ta.toNat_lt; have := tb.toNat_lt; unfold encR; omega)
theorem fmax (f : FFmt) (d a b : Reg) (ta tb : Bool) : Statement (.fmax f d a b ta tb) :=
  fits rfl (by have := f.code_lt; have := d.code_lt; have := a.code_lt; have := b.code_lt; have := ta.toNat_lt; have := tb.toNat_lt; unfold encR; omega)
theorem fabs (f : FFmt) (d a : Reg) (ta : Bool) : Statement (.fabs f d a ta) :=
  fits rfl (by have := f.code_lt; have := d.code_lt; have := a.code_lt; have := ta.toNat_lt; unfold encR; omega)
theorem fneg (f : FFmt) (d a : Reg) (ta : Bool) : Statement (.fneg f d a ta) :=
  fits rfl (by have := f.code_lt; have := d.code_lt; have := a.code_lt; have := ta.toNat_lt; unfold encR; omega)
theorem fsgnj (f : FFmt) (d a b : Reg) (ta tb : Bool) : Statement (.fsgnj f d a b ta tb) :=
  fits rfl (by have := f.code_lt; have := d.code_lt; have := a.code_lt; have := b.code_lt; have := ta.toNat_lt; have := tb.toNat_lt; unfold encR; omega)
theorem fclass (f : FFmt) (d a : Reg) (ta : Bool) : Statement (.fclass f d a ta) :=
  fits rfl (by have := f.code_lt; have := d.code_lt; have := a.code_lt; have := ta.toNat_lt; unfold encR; omega)
theorem fma (f : FFmt) (r : Rnd) (d a b : Reg) (ta tb : Bool) : Statement (.fma f r d a b ta tb) :=
  fits rfl (by have := f.code_lt; have := r.code_lt; have := d.code_lt; have := a.code_lt; have := b.code_lt; have := ta.toNat_lt; have := tb.toNat_lt; unfold encR; omega)
theorem fms (f : FFmt) (r : Rnd) (d a b : Reg) (ta tb : Bool) : Statement (.fms f r d a b ta tb) :=
  fits rfl (by have := f.code_lt; have := r.code_lt; have := d.code_lt; have := a.code_lt; have := b.code_lt; have := ta.toNat_lt; have := tb.toNat_lt; unfold encR; omega)
theorem fnma (f : FFmt) (r : Rnd) (d a b : Reg) (ta tb : Bool) : Statement (.fnma f r d a b ta tb) :=
  fits rfl (by have := f.code_lt; have := r.code_lt; have := d.code_lt; have := a.code_lt; have := b.code_lt; have := ta.toNat_lt; have := tb.toNat_lt; unfold encR; omega)
theorem fnms (f : FFmt) (r : Rnd) (d a b : Reg) (ta tb : Bool) : Statement (.fnms f r d a b ta tb) :=
  fits rfl (by have := f.code_lt; have := r.code_lt; have := d.code_lt; have := a.code_lt; have := b.code_lt; have := ta.toNat_lt; have := tb.toNat_lt; unfold encR; omega)
theorem fcvt (tt st : CvtTy) (r : Rnd) (d a : Reg) (ta : Bool) : Statement (.fcvt tt st r d a ta) :=
  fits rfl (by have := tt.code_lt; have := st.code_lt; have := r.code_lt; have := d.code_lt; have := a.code_lt; have := ta.toNat_lt; unfold encR; omega)
theorem ldB (d a : Reg) (ta : Bool) (disp : BitVec 12) : Statement (.ldB d a ta disp) :=
  fits rfl (by have := d.code_lt; have := a.code_lt; have := ta.toNat_lt; have := disp.isLt; unfold encM; omega)
theorem ldBz (d a : Reg) (ta : Bool) (disp : BitVec 12) : Statement (.ldBz d a ta disp) :=
  fits rfl (by have := d.code_lt; have := a.code_lt; have := ta.toNat_lt; have := disp.isLt; unfold encM; omega)
theorem ldH (d a : Reg) (ta : Bool) (disp : BitVec 12) : Statement (.ldH d a ta disp) :=
  fits rfl (by have := d.code_lt; have := a.code_lt; have := ta.toNat_lt; have := disp.isLt; unfold encM; omega)
theorem ldHz (d a : Reg) (ta : Bool) (disp : BitVec 12) : Statement (.ldHz d a ta disp) :=
  fits rfl (by have := d.code_lt; have := a.code_lt; have := ta.toNat_lt; have := disp.isLt; unfold encM; omega)
theorem ldW (d a : Reg) (ta : Bool) (disp : BitVec 12) : Statement (.ldW d a ta disp) :=
  fits rfl (by have := d.code_lt; have := a.code_lt; have := ta.toNat_lt; have := disp.isLt; unfold encM; omega)
theorem ldWz (d a : Reg) (ta : Bool) (disp : BitVec 12) : Statement (.ldWz d a ta disp) :=
  fits rfl (by have := d.code_lt; have := a.code_lt; have := ta.toNat_lt; have := disp.isLt; unfold encM; omega)
theorem ldD (d a : Reg) (ta : Bool) (disp : BitVec 12) : Statement (.ldD d a ta disp) :=
  fits rfl (by have := d.code_lt; have := a.code_lt; have := ta.toNat_lt; have := disp.isLt; unfold encM; omega)
theorem stB (d a : Reg) (ta : Bool) (disp : BitVec 12) : Statement (.stB d a ta disp) :=
  fits rfl (by have := d.code_lt; have := a.code_lt; have := ta.toNat_lt; have := disp.isLt; unfold encM; omega)
theorem stH (d a : Reg) (ta : Bool) (disp : BitVec 12) : Statement (.stH d a ta disp) :=
  fits rfl (by have := d.code_lt; have := a.code_lt; have := ta.toNat_lt; have := disp.isLt; unfold encM; omega)
theorem stW (d a : Reg) (ta : Bool) (disp : BitVec 12) : Statement (.stW d a ta disp) :=
  fits rfl (by have := d.code_lt; have := a.code_lt; have := ta.toNat_lt; have := disp.isLt; unfold encM; omega)
theorem stD (d a : Reg) (ta : Bool) (disp : BitVec 12) : Statement (.stD d a ta disp) :=
  fits rfl (by have := d.code_lt; have := a.code_lt; have := ta.toNat_lt; have := disp.isLt; unfold encM; omega)
theorem ldfF32 (d a : Reg) (ta : Bool) (disp : BitVec 12) : Statement (.ldfF32 d a ta disp) :=
  fits rfl (by have := d.code_lt; have := a.code_lt; have := ta.toNat_lt; have := disp.isLt; unfold encM; omega)
theorem ldfBf16 (d a : Reg) (ta : Bool) (disp : BitVec 12) : Statement (.ldfBf16 d a ta disp) :=
  fits rfl (by have := d.code_lt; have := a.code_lt; have := ta.toNat_lt; have := disp.isLt; unfold encM; omega)
theorem ldfF64 (d a : Reg) (ta : Bool) (disp : BitVec 12) : Statement (.ldfF64 d a ta disp) :=
  fits rfl (by have := d.code_lt; have := a.code_lt; have := ta.toNat_lt; have := disp.isLt; unfold encM; omega)
theorem ldfI32 (d a : Reg) (ta : Bool) (disp : BitVec 12) : Statement (.ldfI32 d a ta disp) :=
  fits rfl (by have := d.code_lt; have := a.code_lt; have := ta.toNat_lt; have := disp.isLt; unfold encM; omega)
theorem stfF32 (d a : Reg) (ta : Bool) (disp : BitVec 12) : Statement (.stfF32 d a ta disp) :=
  fits rfl (by have := d.code_lt; have := a.code_lt; have := ta.toNat_lt; have := disp.isLt; unfold encM; omega)
theorem stfBf16 (d a : Reg) (ta : Bool) (disp : BitVec 12) : Statement (.stfBf16 d a ta disp) :=
  fits rfl (by have := d.code_lt; have := a.code_lt; have := ta.toNat_lt; have := disp.isLt; unfold encM; omega)
theorem stfF64 (d a : Reg) (ta : Bool) (disp : BitVec 12) : Statement (.stfF64 d a ta disp) :=
  fits rfl (by have := d.code_lt; have := a.code_lt; have := ta.toNat_lt; have := disp.isLt; unfold encM; omega)
theorem stfI32 (d a : Reg) (ta : Bool) (disp : BitVec 12) : Statement (.stfI32 d a ta disp) :=
  fits rfl (by have := d.code_lt; have := a.code_lt; have := ta.toNat_lt; have := disp.isLt; unfold encM; omega)
theorem ldqW (sc : Scope) (d a : Reg) (ta : Bool) (disp : BitVec 9) : Statement (.ldqW sc d a ta disp) :=
  fits rfl (by have := sc.code_lt; have := d.code_lt; have := a.code_lt; have := ta.toNat_lt; have := disp.isLt; unfold encMS; omega)
theorem ldqD (sc : Scope) (d a : Reg) (ta : Bool) (disp : BitVec 9) : Statement (.ldqD sc d a ta disp) :=
  fits rfl (by have := sc.code_lt; have := d.code_lt; have := a.code_lt; have := ta.toNat_lt; have := disp.isLt; unfold encMS; omega)
theorem stlW (sc : Scope) (d a : Reg) (ta : Bool) (disp : BitVec 9) : Statement (.stlW sc d a ta disp) :=
  fits rfl (by have := sc.code_lt; have := d.code_lt; have := a.code_lt; have := ta.toNat_lt; have := disp.isLt; unfold encMS; omega)
theorem stlD (sc : Scope) (d a : Reg) (ta : Bool) (disp : BitVec 9) : Statement (.stlD sc d a ta disp) :=
  fits rfl (by have := sc.code_lt; have := d.code_lt; have := a.code_lt; have := ta.toNat_lt; have := disp.isLt; unfold encMS; omega)
theorem amoAdd (dbl : Bool) (d a b : Reg) : Statement (.amoAdd dbl d a b) :=
  fits rfl (by have := dbl.toNat_lt; have := d.code_lt; have := a.code_lt; have := b.code_lt; unfold encX; omega)
theorem amoAnd (dbl : Bool) (d a b : Reg) : Statement (.amoAnd dbl d a b) :=
  fits rfl (by have := dbl.toNat_lt; have := d.code_lt; have := a.code_lt; have := b.code_lt; unfold encX; omega)
theorem amoOr (dbl : Bool) (d a b : Reg) : Statement (.amoOr dbl d a b) :=
  fits rfl (by have := dbl.toNat_lt; have := d.code_lt; have := a.code_lt; have := b.code_lt; unfold encX; omega)
theorem amoXor (dbl : Bool) (d a b : Reg) : Statement (.amoXor dbl d a b) :=
  fits rfl (by have := dbl.toNat_lt; have := d.code_lt; have := a.code_lt; have := b.code_lt; unfold encX; omega)
theorem amoMin (dbl : Bool) (d a b : Reg) : Statement (.amoMin dbl d a b) :=
  fits rfl (by have := dbl.toNat_lt; have := d.code_lt; have := a.code_lt; have := b.code_lt; unfold encX; omega)
theorem amoMax (dbl : Bool) (d a b : Reg) : Statement (.amoMax dbl d a b) :=
  fits rfl (by have := dbl.toNat_lt; have := d.code_lt; have := a.code_lt; have := b.code_lt; unfold encX; omega)
theorem amoMinu (dbl : Bool) (d a b : Reg) : Statement (.amoMinu dbl d a b) :=
  fits rfl (by have := dbl.toNat_lt; have := d.code_lt; have := a.code_lt; have := b.code_lt; unfold encX; omega)
theorem amoMaxu (dbl : Bool) (d a b : Reg) : Statement (.amoMaxu dbl d a b) :=
  fits rfl (by have := dbl.toNat_lt; have := d.code_lt; have := a.code_lt; have := b.code_lt; unfold encX; omega)
theorem amoSwap (dbl : Bool) (d a b : Reg) : Statement (.amoSwap dbl d a b) :=
  fits rfl (by have := dbl.toNat_lt; have := d.code_lt; have := a.code_lt; have := b.code_lt; unfold encX; omega)
theorem amoCas (dbl : Bool) (d a b : Reg) : Statement (.amoCas dbl d a b) :=
  fits rfl (by have := dbl.toNat_lt; have := d.code_lt; have := a.code_lt; have := b.code_lt; unfold encX; omega)
theorem amoFadd (dbl : Bool) (d a b : Reg) : Statement (.amoFadd dbl d a b) :=
  fits rfl (by have := dbl.toNat_lt; have := d.code_lt; have := a.code_lt; have := b.code_lt; unfold encX; omega)
theorem amoFmaxa (dbl : Bool) (d a b : Reg) : Statement (.amoFmaxa dbl d a b) :=
  fits rfl (by have := dbl.toNat_lt; have := d.code_lt; have := a.code_lt; have := b.code_lt; unfold encX; omega)
theorem amopAdd (dbl : Bool) (a b : Reg) : Statement (.amopAdd dbl a b) :=
  fits rfl (by have := dbl.toNat_lt; have := a.code_lt; have := b.code_lt; unfold encX; omega)
theorem amopAnd (dbl : Bool) (a b : Reg) : Statement (.amopAnd dbl a b) :=
  fits rfl (by have := dbl.toNat_lt; have := a.code_lt; have := b.code_lt; unfold encX; omega)
theorem amopOr (dbl : Bool) (a b : Reg) : Statement (.amopOr dbl a b) :=
  fits rfl (by have := dbl.toNat_lt; have := a.code_lt; have := b.code_lt; unfold encX; omega)
theorem amopXor (dbl : Bool) (a b : Reg) : Statement (.amopXor dbl a b) :=
  fits rfl (by have := dbl.toNat_lt; have := a.code_lt; have := b.code_lt; unfold encX; omega)
theorem amopMin (dbl : Bool) (a b : Reg) : Statement (.amopMin dbl a b) :=
  fits rfl (by have := dbl.toNat_lt; have := a.code_lt; have := b.code_lt; unfold encX; omega)
theorem amopMax (dbl : Bool) (a b : Reg) : Statement (.amopMax dbl a b) :=
  fits rfl (by have := dbl.toNat_lt; have := a.code_lt; have := b.code_lt; unfold encX; omega)
theorem amopMinu (dbl : Bool) (a b : Reg) : Statement (.amopMinu dbl a b) :=
  fits rfl (by have := dbl.toNat_lt; have := a.code_lt; have := b.code_lt; unfold encX; omega)
theorem amopMaxu (dbl : Bool) (a b : Reg) : Statement (.amopMaxu dbl a b) :=
  fits rfl (by have := dbl.toNat_lt; have := a.code_lt; have := b.code_lt; unfold encX; omega)
theorem amopFadd (dbl : Bool) (a b : Reg) : Statement (.amopFadd dbl a b) :=
  fits rfl (by have := dbl.toNat_lt; have := a.code_lt; have := b.code_lt; unfold encX; omega)
theorem amopFmaxa (dbl : Bool) (a b : Reg) : Statement (.amopFmaxa dbl a b) :=
  fits rfl (by have := dbl.toNat_lt; have := a.code_lt; have := b.code_lt; unfold encX; omega)
theorem go (a : Reg) : Statement (.go a) :=
  fits rfl (by have := a.code_lt; unfold encX; omega)
theorem pin : Statement (.pin) :=
  fits rfl (by unfold encX; omega)
theorem unpin : Statement (.unpin) :=
  fits rfl (by unfold encX; omega)
theorem whereI (d : Reg) : Statement (.whereI d) :=
  fits rfl (by have := d.code_lt; unfold encX; omega)
theorem hops (d : Reg) : Statement (.hops d) :=
  fits rfl (by have := d.code_lt; unfold encX; omega)
theorem spawn (d a b : Reg) : Statement (.spawn d a b) :=
  fits rfl (by have := d.code_lt; have := a.code_lt; have := b.code_lt; unfold encX; omega)
theorem spawna (d a b : Reg) : Statement (.spawna d a b) :=
  fits rfl (by have := d.code_lt; have := a.code_lt; have := b.code_lt; unfold encX; omega)
theorem exit : Statement (.exit) :=
  fits rfl (by unfold encX; omega)
theorem join (a : Reg) : Statement (.join a) :=
  fits rfl (by have := a.code_lt; unfold encX; omega)
theorem yield : Statement (.yield) :=
  fits rfl (by unfold encX; omega)
theorem next (d : Reg) : Statement (.next d) :=
  fits rfl (by have := d.code_lt; unfold encX; omega)
theorem launch (d a : Reg) : Statement (.launch d a) :=
  fits rfl (by have := d.code_lt; have := a.code_lt; unfold encX; omega)
theorem taskDec (d a : Reg) : Statement (.taskDec d a) :=
  fits rfl (by have := d.code_lt; have := a.code_lt; unfold encX; omega)
theorem taskDecp (a : Reg) : Statement (.taskDecp a) :=
  fits rfl (by have := a.code_lt; unfold encX; omega)
theorem sleep (a : Reg) : Statement (.sleep a) :=
  fits rfl (by have := a.code_lt; unfold encX; omega)
theorem barArv (sc : Scope) (id : BitVec 3) : Statement (.barArv sc id) :=
  fits rfl (by have := sc.code_lt; have := id.isLt; unfold encX; omega)
theorem barWait (sc : Scope) (id : BitVec 3) : Statement (.barWait sc id) :=
  fits rfl (by have := sc.code_lt; have := id.isLt; unfold encX; omega)
theorem barArd (sc : Scope) (id : BitVec 3) : Statement (.barArd sc id) :=
  fits rfl (by have := sc.code_lt; have := id.isLt; unfold encX; omega)
theorem barSync (sc : Scope) (id : BitVec 3) : Statement (.barSync sc id) :=
  fits rfl (by have := sc.code_lt; have := id.isLt; unfold encX; omega)
theorem barPhase (sc : Scope) (d : Reg) (id : BitVec 3) : Statement (.barPhase sc d id) :=
  fits rfl (by have := sc.code_lt; have := d.code_lt; have := id.isLt; unfold encX; omega)
theorem fence (sc : Scope) : Statement (.fence sc) :=
  fits rfl (by have := sc.code_lt; unfold encX; omega)
theorem flkJoin (grp : BitVec 4) (a b : Reg) : Statement (.flkJoin grp a b) :=
  fits rfl (by have := grp.isLt; have := a.code_lt; have := b.code_lt; unfold encX; omega)
theorem flkLd (grp : BitVec 4) (a b : Reg) : Statement (.flkLd grp a b) :=
  fits rfl (by have := grp.isLt; have := a.code_lt; have := b.code_lt; unfold encX; omega)
theorem flkLeave (grp : BitVec 4) : Statement (.flkLeave grp) :=
  fits rfl (by have := grp.isLt; unfold encX; omega)
theorem flkTimer (grp : BitVec 4) (a : Reg) : Statement (.flkTimer grp a) :=
  fits rfl (by have := grp.isLt; have := a.code_lt; unfold encX; omega)
theorem leaseAcq : Statement (.leaseAcq) :=
  fits rfl (by unfold encX; omega)
theorem leaseTry (d : Reg) : Statement (.leaseTry d) :=
  fits rfl (by have := d.code_lt; unfold encX; omega)
theorem leaseRel : Statement (.leaseRel) :=
  fits rfl (by unfold encX; omega)
theorem tileAlloc (d a b : Reg) : Statement (.tileAlloc d a b) :=
  fits rfl (by have := d.code_lt; have := a.code_lt; have := b.code_lt; unfold encX; omega)
theorem tileFree (a : Reg) : Statement (.tileFree a) :=
  fits rfl (by have := a.code_lt; unfold encX; omega)
theorem tileFreef (a : Reg) : Statement (.tileFreef a) :=
  fits rfl (by have := a.code_lt; unfold encX; omega)
theorem tileState (d a : Reg) : Statement (.tileState d a) :=
  fits rfl (by have := d.code_lt; have := a.code_lt; unfold encX; omega)
theorem tileMark (a : Reg) (st : BitVec 3) : Statement (.tileMark a st) :=
  fits rfl (by have := a.code_lt; have := st.isLt; unfold encX; omega)
theorem gangForm (n : BitVec 3) : Statement (.gangForm n) :=
  fits rfl (by have := n.isLt; unfold encX; omega)
theorem split : Statement (.split) :=
  fits rfl (by unfold encX; omega)
theorem movs (n : SReg) (a : Reg) : Statement (.movs n a) :=
  fits rfl (by have := n.code_lt; have := a.code_lt; unfold encX; omega)
theorem movfs (d : Reg) (n : SReg) : Statement (.movfs d n) :=
  fits rfl (by have := d.code_lt; have := n.code_lt; unfold encX; omega)
theorem trap (n : BitVec 3) : Statement (.trap n) :=
  fits rfl (by have := n.isLt; unfold encX; omega)
theorem rfe : Statement (.rfe) :=
  fits rfl (by unfold encX; omega)
theorem brk : Statement (.brk) :=
  fits rfl (by unfold encX; omega)
theorem waitev (d : Reg) : Statement (.waitev d) :=
  fits rfl (by have := d.code_lt; unfold encX; omega)
theorem ctxSw (a : Reg) : Statement (.ctxSw a) :=
  fits rfl (by have := a.code_lt; unfold encX; omega)
theorem tlbInv (a : Reg) : Statement (.tlbInv a) :=
  fits rfl (by have := a.code_lt; unfold encX; omega)
theorem secFlush : Statement (.secFlush) :=
  fits rfl (by unfold encX; omega)
theorem preempt (a : Reg) : Statement (.preempt a) :=
  fits rfl (by have := a.code_lt; unfold encX; omega)
theorem resume (a : Reg) : Statement (.resume a) :=
  fits rfl (by have := a.code_lt; unfold encX; omega)
theorem jl (d : Reg) (disp : BitVec 21) : Statement (.jl d disp) :=
  fits rfl (by have := d.code_lt; have := disp.isLt;  omega)
theorem bc (c : BrCond) (a : Reg) (ta : Bool) (disp : BitVec 16) : Statement (.bc c a ta disp) :=
  fits rfl (by have := c.code_lt; have := a.code_lt; have := ta.toNat_lt; have := disp.isLt;  omega)
theorem jr (d a : Reg) (ta : Bool) (imm : BitVec 15) : Statement (.jr d a ta imm) :=
  fits rfl (by have := d.code_lt; have := a.code_lt; have := ta.toNat_lt; have := imm.isLt; unfold encI; omega)
theorem repf (count : BitVec 5) (len : BitVec 4) (sd sa sb : BitVec 2) : Statement (.repf count len sd sa sb) :=
  fits rfl (by have := count.isLt; have := len.isLt; have := sd.isLt; have := sa.isLt; have := sb.isLt;  omega)
theorem solo : Statement (.solo) :=
  fits rfl (by omega)
theorem vadd (t : VTy) (d : Fin 16) (a b : VSrc) (k : Fin 8) : Statement (.vadd t d a b k) :=
  fits rfl (by have := t.code_lt; have := d.isLt; have := a.code_lt; have := b.code_lt; have := k.isLt; unfold encV; omega)
theorem vsub (t : VTy) (d : Fin 16) (a b : VSrc) (k : Fin 8) : Statement (.vsub t d a b k) :=
  fits rfl (by have := t.code_lt; have := d.isLt; have := a.code_lt; have := b.code_lt; have := k.isLt; unfold encV; omega)
theorem vmul (t : VTy) (d : Fin 16) (a b : VSrc) (k : Fin 8) : Statement (.vmul t d a b k) :=
  fits rfl (by have := t.code_lt; have := d.isLt; have := a.code_lt; have := b.code_lt; have := k.isLt; unfold encV; omega)
theorem vmulh (t : VTy) (d : Fin 16) (a b : VSrc) (k : Fin 8) : Statement (.vmulh t d a b k) :=
  fits rfl (by have := t.code_lt; have := d.isLt; have := a.code_lt; have := b.code_lt; have := k.isLt; unfold encV; omega)
theorem vand (t : VTy) (d : Fin 16) (a b : VSrc) (k : Fin 8) : Statement (.vand t d a b k) :=
  fits rfl (by have := t.code_lt; have := d.isLt; have := a.code_lt; have := b.code_lt; have := k.isLt; unfold encV; omega)
theorem vor (t : VTy) (d : Fin 16) (a b : VSrc) (k : Fin 8) : Statement (.vor t d a b k) :=
  fits rfl (by have := t.code_lt; have := d.isLt; have := a.code_lt; have := b.code_lt; have := k.isLt; unfold encV; omega)
theorem vxor (t : VTy) (d : Fin 16) (a b : VSrc) (k : Fin 8) : Statement (.vxor t d a b k) :=
  fits rfl (by have := t.code_lt; have := d.isLt; have := a.code_lt; have := b.code_lt; have := k.isLt; unfold encV; omega)
theorem vandn (t : VTy) (d : Fin 16) (a b : VSrc) (k : Fin 8) : Statement (.vandn t d a b k) :=
  fits rfl (by have := t.code_lt; have := d.isLt; have := a.code_lt; have := b.code_lt; have := k.isLt; unfold encV; omega)
theorem vsll (t : VTy) (d : Fin 16) (a b : VSrc) (k : Fin 8) : Statement (.vsll t d a b k) :=
  fits rfl (by have := t.code_lt; have := d.isLt; have := a.code_lt; have := b.code_lt; have := k.isLt; unfold encV; omega)
theorem vsrl (t : VTy) (d : Fin 16) (a b : VSrc) (k : Fin 8) : Statement (.vsrl t d a b k) :=
  fits rfl (by have := t.code_lt; have := d.isLt; have := a.code_lt; have := b.code_lt; have := k.isLt; unfold encV; omega)
theorem vsra (t : VTy) (d : Fin 16) (a b : VSrc) (k : Fin 8) : Statement (.vsra t d a b k) :=
  fits rfl (by have := t.code_lt; have := d.isLt; have := a.code_lt; have := b.code_lt; have := k.isLt; unfold encV; omega)
theorem vmin (t : VTy) (d : Fin 16) (a b : VSrc) (k : Fin 8) : Statement (.vmin t d a b k) :=
  fits rfl (by have := t.code_lt; have := d.isLt; have := a.code_lt; have := b.code_lt; have := k.isLt; unfold encV; omega)
theorem vmax (t : VTy) (d : Fin 16) (a b : VSrc) (k : Fin 8) : Statement (.vmax t d a b k) :=
  fits rfl (by have := t.code_lt; have := d.isLt; have := a.code_lt; have := b.code_lt; have := k.isLt; unfold encV; omega)
theorem vminu (t : VTy) (d : Fin 16) (a b : VSrc) (k : Fin 8) : Statement (.vminu t d a b k) :=
  fits rfl (by have := t.code_lt; have := d.isLt; have := a.code_lt; have := b.code_lt; have := k.isLt; unfold encV; omega)
theorem vmaxu (t : VTy) (d : Fin 16) (a b : VSrc) (k : Fin 8) : Statement (.vmaxu t d a b k) :=
  fits rfl (by have := t.code_lt; have := d.isLt; have := a.code_lt; have := b.code_lt; have := k.isLt; unfold encV; omega)
theorem vabs (t : VTy) (d : Fin 16) (a : VSrc) (k : Fin 8) : Statement (.vabs t d a k) :=
  fits rfl (by have := t.code_lt; have := d.isLt; have := a.code_lt; have := k.isLt; unfold encV; omega)
theorem vfadd (t : VTy) (d : Fin 16) (a b : VSrc) (k : Fin 8) : Statement (.vfadd t d a b k) :=
  fits rfl (by have := t.code_lt; have := d.isLt; have := a.code_lt; have := b.code_lt; have := k.isLt; unfold encV; omega)
theorem vfsub (t : VTy) (d : Fin 16) (a b : VSrc) (k : Fin 8) : Statement (.vfsub t d a b k) :=
  fits rfl (by have := t.code_lt; have := d.isLt; have := a.code_lt; have := b.code_lt; have := k.isLt; unfold encV; omega)
theorem vfmul (t : VTy) (d : Fin 16) (a b : VSrc) (k : Fin 8) : Statement (.vfmul t d a b k) :=
  fits rfl (by have := t.code_lt; have := d.isLt; have := a.code_lt; have := b.code_lt; have := k.isLt; unfold encV; omega)
theorem vfdiv (t : VTy) (d : Fin 16) (a b : VSrc) (k : Fin 8) : Statement (.vfdiv t d a b k) :=
  fits rfl (by have := t.code_lt; have := d.isLt; have := a.code_lt; have := b.code_lt; have := k.isLt; unfold encV; omega)
theorem vfmin (t : VTy) (d : Fin 16) (a b : VSrc) (k : Fin 8) : Statement (.vfmin t d a b k) :=
  fits rfl (by have := t.code_lt; have := d.isLt; have := a.code_lt; have := b.code_lt; have := k.isLt; unfold encV; omega)
theorem vfmax (t : VTy) (d : Fin 16) (a b : VSrc) (k : Fin 8) : Statement (.vfmax t d a b k) :=
  fits rfl (by have := t.code_lt; have := d.isLt; have := a.code_lt; have := b.code_lt; have := k.isLt; unfold encV; omega)
theorem vfabs (t : VTy) (d : Fin 16) (a : VSrc) (k : Fin 8) : Statement (.vfabs t d a k) :=
  fits rfl (by have := t.code_lt; have := d.isLt; have := a.code_lt; have := k.isLt; unfold encV; omega)
theorem vfneg (t : VTy) (d : Fin 16) (a : VSrc) (k : Fin 8) : Statement (.vfneg t d a k) :=
  fits rfl (by have := t.code_lt; have := d.isLt; have := a.code_lt; have := k.isLt; unfold encV; omega)
theorem vcvt (tt st : VTy) (d : Fin 16) (a : VSrc) (k : Fin 8) : Statement (.vcvt tt st d a k) :=
  fits rfl (by have := tt.code_lt; have := st.code_lt; have := d.isLt; have := a.code_lt; have := k.isLt; unfold encV; omega)
theorem vfma (t : VTy) (d : Fin 16) (a b : VSrc) (k : Fin 8) : Statement (.vfma t d a b k) :=
  fits rfl (by have := t.code_lt; have := d.isLt; have := a.code_lt; have := b.code_lt; have := k.isLt; unfold encV; omega)
theorem vfms (t : VTy) (d : Fin 16) (a b : VSrc) (k : Fin 8) : Statement (.vfms t d a b k) :=
  fits rfl (by have := t.code_lt; have := d.isLt; have := a.code_lt; have := b.code_lt; have := k.isLt; unfold encV; omega)
theorem vfnma (t : VTy) (d : Fin 16) (a b : VSrc) (k : Fin 8) : Statement (.vfnma t d a b k) :=
  fits rfl (by have := t.code_lt; have := d.isLt; have := a.code_lt; have := b.code_lt; have := k.isLt; unfold encV; omega)
theorem vshuf (t : VTy) (d : Fin 16) (a b : VSrc) (k : Fin 8) : Statement (.vshuf t d a b k) :=
  fits rfl (by have := t.code_lt; have := d.isLt; have := a.code_lt; have := b.code_lt; have := k.isLt; unfold encV; omega)
theorem vbcast (t : VTy) (d : Fin 16) (a : VSrc) (k : Fin 8) : Statement (.vbcast t d a k) :=
  fits rfl (by have := t.code_lt; have := d.isLt; have := a.code_lt; have := k.isLt; unfold encV; omega)
theorem vext (t : VTy) (d : Fin 16) (a : Fin 16) (b : Fin 16) : Statement (.vext t d a b) :=
  fits rfl (by have := t.code_lt; have := d.isLt; have := a.isLt; have := b.isLt; unfold encV; omega)
theorem vins (t : VTy) (d : Fin 16) (a b : Fin 16) : Statement (.vins t d a b) :=
  fits rfl (by have := t.code_lt; have := d.isLt; have := a.isLt; have := b.isLt; unfold encV; omega)
theorem vnzs (d : Fin 16) (a : Fin 16) (b : Fin 16) (k : Fin 8) : Statement (.vnzs d a b k) :=
  fits rfl (by have := d.isLt; have := a.isLt; have := b.isLt; have := k.isLt; unfold encV; omega)
theorem vpfx (t : VTy) (d : Fin 16) (a b : VSrc) (k : Fin 8) : Statement (.vpfx t d a b k) :=
  fits rfl (by have := t.code_lt; have := d.isLt; have := a.code_lt; have := b.code_lt; have := k.isLt; unfold encV; omega)
theorem vredAdd (t : VTy) (d : Fin 16) (a : Fin 16) (k : Fin 8) : Statement (.vredAdd t d a k) :=
  fits rfl (by have := t.code_lt; have := d.isLt; have := a.isLt; have := k.isLt; unfold encV; omega)
theorem vredMin (t : VTy) (d : Fin 16) (a : Fin 16) (k : Fin 8) : Statement (.vredMin t d a k) :=
  fits rfl (by have := t.code_lt; have := d.isLt; have := a.isLt; have := k.isLt; unfold encV; omega)
theorem vredMax (t : VTy) (d : Fin 16) (a : Fin 16) (k : Fin 8) : Statement (.vredMax t d a k) :=
  fits rfl (by have := t.code_lt; have := d.isLt; have := a.isLt; have := k.isLt; unfold encV; omega)
theorem vcmpEq (t : VTy) (d : Fin 8) (a b : VSrc) (k : Fin 8) : Statement (.vcmpEq t d a b k) :=
  fits rfl (by have := t.code_lt; have := d.isLt; have := a.code_lt; have := b.code_lt; have := k.isLt; unfold encV; omega)
theorem vcmpNe (t : VTy) (d : Fin 8) (a b : VSrc) (k : Fin 8) : Statement (.vcmpNe t d a b k) :=
  fits rfl (by have := t.code_lt; have := d.isLt; have := a.code_lt; have := b.code_lt; have := k.isLt; unfold encV; omega)
theorem vcmpLt (t : VTy) (d : Fin 8) (a b : VSrc) (k : Fin 8) : Statement (.vcmpLt t d a b k) :=
  fits rfl (by have := t.code_lt; have := d.isLt; have := a.code_lt; have := b.code_lt; have := k.isLt; unfold encV; omega)
theorem vcmpGe (t : VTy) (d : Fin 8) (a b : VSrc) (k : Fin 8) : Statement (.vcmpGe t d a b k) :=
  fits rfl (by have := t.code_lt; have := d.isLt; have := a.code_lt; have := b.code_lt; have := k.isLt; unfold encV; omega)
theorem vcmpLtu (t : VTy) (d : Fin 8) (a b : VSrc) (k : Fin 8) : Statement (.vcmpLtu t d a b k) :=
  fits rfl (by have := t.code_lt; have := d.isLt; have := a.code_lt; have := b.code_lt; have := k.isLt; unfold encV; omega)
theorem vcmpGeu (t : VTy) (d : Fin 8) (a b : VSrc) (k : Fin 8) : Statement (.vcmpGeu t d a b k) :=
  fits rfl (by have := t.code_lt; have := d.isLt; have := a.code_lt; have := b.code_lt; have := k.isLt; unfold encV; omega)
theorem vsel (t : VTy) (d : Fin 16) (a b : VSrc) (k : Fin 8) : Statement (.vsel t d a b k) :=
  fits rfl (by have := t.code_lt; have := d.isLt; have := a.code_lt; have := b.code_lt; have := k.isLt; unfold encV; omega)
theorem mand (d a b : Fin 8) : Statement (.mand d a b) :=
  fits rfl (by have := d.isLt; have := a.isLt; have := b.isLt; unfold encV; omega)
theorem mor (d a b : Fin 8) : Statement (.mor d a b) :=
  fits rfl (by have := d.isLt; have := a.isLt; have := b.isLt; unfold encV; omega)
theorem mnot (d a : Fin 8) : Statement (.mnot d a) :=
  fits rfl (by have := d.isLt; have := a.isLt; unfold encV; omega)
theorem mpopc (d : Fin 16) (a : Fin 8) : Statement (.mpopc d a) :=
  fits rfl (by have := d.isLt; have := a.isLt; unfold encV; omega)
theorem vld (sz : VSize) (d : Fin 16) (a : Fin 16) (b : Reg) (k : Fin 8) : Statement (.vld sz d a b k) :=
  fits rfl (by have := sz.code_lt; have := d.isLt; have := a.isLt; have := b.code_lt; have := k.isLt; unfold encVM; omega)
theorem vst (sz : VSize) (d : Fin 16) (a : Fin 16) (b : Reg) (k : Fin 8) : Statement (.vst sz d a b k) :=
  fits rfl (by have := sz.code_lt; have := d.isLt; have := a.isLt; have := b.code_lt; have := k.isLt; unfold encVM; omega)
theorem vlds (sz : VSize) (d : Fin 16) (a : Fin 16) (b : Reg) (k : Fin 8) : Statement (.vlds sz d a b k) :=
  fits rfl (by have := sz.code_lt; have := d.isLt; have := a.isLt; have := b.code_lt; have := k.isLt; unfold encVM; omega)
theorem vsts (sz : VSize) (d : Fin 16) (a : Fin 16) (b : Reg) (k : Fin 8) : Statement (.vsts sz d a b k) :=
  fits rfl (by have := sz.code_lt; have := d.isLt; have := a.isLt; have := b.code_lt; have := k.isLt; unfold encVM; omega)
theorem vgath (sz : VSize) (d : Fin 16) (a : Fin 16) (b : Fin 16) (k : Fin 8) : Statement (.vgath sz d a b k) :=
  fits rfl (by have := sz.code_lt; have := d.isLt; have := a.isLt; have := b.isLt; have := k.isLt; unfold encVM; omega)
theorem vscat (sz : VSize) (d : Fin 16) (a : Fin 16) (b : Fin 16) (k : Fin 8) : Statement (.vscat sz d a b k) :=
  fits rfl (by have := sz.code_lt; have := d.isLt; have := a.isLt; have := b.isLt; have := k.isLt; unfold encVM; omega)
theorem vldt (d : Fin 16) (a : Fin 16) (b : Reg) (k : Fin 8) : Statement (.vldt d a b k) :=
  fits rfl (by have := d.isLt; have := a.isLt; have := b.code_lt; have := k.isLt; unfold encVM; omega)
theorem vstt (d : Fin 16) (a : Fin 16) (b : Reg) (k : Fin 8) : Statement (.vstt d a b k) :=
  fits rfl (by have := d.isLt; have := a.isLt; have := b.code_lt; have := k.isLt; unfold encVM; omega)
theorem vldfF32 (d : Fin 16) (a : Fin 16) (b : Reg) (k : Fin 8) : Statement (.vldfF32 d a b k) :=
  fits rfl (by have := d.isLt; have := a.isLt; have := b.code_lt; have := k.isLt; unfold encVM; omega)
theorem vldfBf16 (d : Fin 16) (a : Fin 16) (b : Reg) (k : Fin 8) : Statement (.vldfBf16 d a b k) :=
  fits rfl (by have := d.isLt; have := a.isLt; have := b.code_lt; have := k.isLt; unfold encVM; omega)
theorem vldfI32 (d : Fin 16) (a : Fin 16) (b : Reg) (k : Fin 8) : Statement (.vldfI32 d a b k) :=
  fits rfl (by have := d.isLt; have := a.isLt; have := b.code_lt; have := k.isLt; unfold encVM; omega)
theorem instructionFetch (loc slot : Nat) : Statement (.instructionFetch loc slot) := noWord rfl
theorem longLatencyResult (k : Nat) : Statement (.longLatencyResult k) := noWord rfl
theorem loadReply (k : Nat) : Statement (.loadReply k) := noWord rfl
theorem dataReturnRequest (k : Nat) : Statement (.dataReturnRequest k) := noWord rfl
theorem storePerform (loc k : Nat) : Statement (.storePerform loc k) := noWord rfl
theorem atomicPerform (k : Nat) : Statement (.atomicPerform k) := noWord rfl
theorem postedOperation (k : Nat) : Statement (.postedOperation k) := noWord rfl
theorem pageWalk (h : Home) (va : Word) : Statement (.pageWalk h va) := noWord rfl
theorem faultQueueRetry (r : Retrier) : Statement (.faultQueueRetry r) := noWord rfl
theorem retry (h : Home) (q : Nat) : Statement (.retry h q) := noWord rfl
theorem deny (h : Home) (q : Nat) : Statement (.deny h q) := noWord rfl
theorem tlbInvalidateRequest (k : Nat) : Statement (.tlbInvalidateRequest k) := noWord rfl
theorem spreadEntryFetch (k : Nat) : Statement (.spreadEntryFetch k) := noWord rfl
theorem undeliveredReturn (k : Nat) : Statement (.undeliveredReturn k) := noWord rfl
theorem fenceMarker (k : Nat) : Statement (.fenceMarker k) := noWord rfl
theorem departure (loc f : Nat) : Statement (.departure loc f) := noWord rfl
theorem migrationArrival (k : Nat) : Statement (.migrationArrival k) := noWord rfl
theorem migrationRetry (k : Nat) : Statement (.migrationRetry k) := noWord rfl
theorem spillRingTakeFrame (loc : Nat) : Statement (.spillRingTakeFrame loc) := noWord rfl
theorem pinExpiry (loc f : Nat) : Statement (.pinExpiry loc f) := noWord rfl
theorem longWaitUnbind (loc slot : Nat) : Statement (.longWaitUnbind loc slot) := noWord rfl
theorem frameReadyBind (loc : Nat) : Statement (.frameReadyBind loc) := noWord rfl
theorem repeatFrameEnd (loc f : Nat) : Statement (.repeatFrameEnd loc f) := noWord rfl
theorem launchAccept (k : Nat) : Statement (.launchAccept k) := noWord rfl
theorem launchStart (m : Nat) (id : W32) : Statement (.launchStart m id) := noWord rfl
theorem launchCompletion (m : Nat) (id : W32) : Statement (.launchCompletion m id) := noWord rfl
theorem joinCellIncrement (k : Nat) : Statement (.joinCellIncrement k) := noWord rfl
theorem joinCellDecrement (k : Nat) : Statement (.joinCellDecrement k) := noWord rfl
theorem joinComplete (loc f : Nat) : Statement (.joinComplete loc f) := noWord rfl
theorem dependentTaskDecrement (k : Nat) : Statement (.dependentTaskDecrement k) := noWord rfl
theorem nextRescan (loc f : Nat) : Statement (.nextRescan loc f) := noWord rfl
theorem gangFormation (n : Nat) : Statement (.gangFormation n) := noWord rfl
theorem barrierPhaseComplete (n : Nat) : Statement (.barrierPhaseComplete n) := noWord rfl
theorem sleepExpiry (loc f : Nat) : Statement (.sleepExpiry loc f) := noWord rfl
theorem shadeTableRefresh (die : Nat) (samples : List (BitVec 12)) (power : Nat) : Statement (.shadeTableRefresh die samples power) := noWord rfl
theorem thermalStep (die : Nat) : Statement (.thermalStep die) := noWord rfl
theorem sensorFailure (die q : Nat) : Statement (.sensorFailure die q) := noWord rfl
theorem leaseRearbitration (pav : Nat) : Statement (.leaseRearbitration pav) := noWord rfl
theorem mma (r : PavRun) : Statement (.mma r) := noWord rfl
theorem sheafFwd (r : PavRun) : Statement (.sheafFwd r) := noWord rfl
theorem sheafBwd (pav : Nat) : Statement (.sheafBwd pav) := noWord rfl
theorem copy2d (quad : Nat) : Statement (.copy2d quad) := noWord rfl
theorem copyIdx (quad : Nat) : Statement (.copyIdx quad) := noWord rfl
theorem expand24 (quad : Nat) : Statement (.expand24 quad) := noWord rfl
theorem compact24 (quad : Nat) : Statement (.compact24 quad) := noWord rfl
theorem convert (quad : Nat) : Statement (.convert quad) := noWord rfl
theorem fill (quad : Nat) : Statement (.fill quad) := noWord rfl
theorem gather (loc : Nat) : Statement (.gather loc) := noWord rfl
theorem gatherPool (loc : Nat) : Statement (.gatherPool loc) := noWord rfl
theorem scatterAdd (loc : Nat) : Statement (.scatterAdd loc) := noWord rfl
theorem chain (loc : Nat) : Statement (.chain loc) := noWord rfl
theorem route (loc : Nat) : Statement (.route loc) := noWord rfl
theorem walk (quad : Nat) : Statement (.walk quad) := noWord rfl
theorem walkerStepLimit (quad : Nat) : Statement (.walkerStepLimit quad) := noWord rfl
theorem engineCommandStart (r : CmdRun) : Statement (.engineCommandStart r) := noWord rfl
theorem engineCommandComplete (id : Nat) : Statement (.engineCommandComplete id) := noWord rfl
theorem messageDelivery (k : Nat) : Statement (.messageDelivery k) := noWord rfl
theorem messageRetry (k : Nat) : Statement (.messageRetry k) := noWord rfl
theorem eventRetry (k : Nat) : Statement (.eventRetry k) := noWord rfl
theorem flockRequest (k : Nat) : Statement (.flockRequest k) := noWord rfl
theorem flockTimerExpiry (h : Home) (n : Nat) : Statement (.flockTimerExpiry h n) := noWord rfl
theorem flockLateWindowEnd (h : Home) (n : Nat) : Statement (.flockLateWindowEnd h n) := noWord rfl
theorem rehomeGranule (h : Home) (granule : Nat) : Statement (.rehomeGranule h granule) := noWord rfl
theorem epochBoundary (m : Nat) : Statement (.epochBoundary m) := noWord rfl
theorem reductionStepMerge (m w : Nat) : Statement (.reductionStepMerge m w) := noWord rfl
theorem reductionStepTimeout (m w part : Nat) : Statement (.reductionStepTimeout m w part) := noWord rfl
theorem trapQueueEntry (loc slot : Nat) : Statement (.trapQueueEntry loc slot) := noWord rfl
theorem patrolScrub (dword : Nat) : Statement (.patrolScrub dword) := noWord rfl
theorem moduleLost (m : Nat) : Statement (.moduleLost m) := noWord rfl
theorem hedgerowPortFailure (m p : Nat) : Statement (.hedgerowPortFailure m p) := noWord rfl
theorem cxlMemWrite (m : Nat) (off : Word) (size : Nat) (v : Word) : Statement (.cxlMemWrite m off size v) := noWord rfl
theorem cxlMemRead (m : Nat) (off : Word) (size : Nat) : Statement (.cxlMemRead m off size) := noWord rfl
theorem boot (m : Nat) (v : Word) : Statement (.boot m v) := noWord rfl
theorem fwload (m : Nat) (v : Word) : Statement (.fwload m v) := noWord rfl
theorem fallowSet (m : Nat) (v : Word) : Statement (.fallowSet m v) := noWord rfl
theorem fallowClear (m : Nat) (v : Word) : Statement (.fallowClear m v) := noWord rfl
theorem baradd (m : Nat) (v : Word) : Statement (.baradd m v) := noWord rfl
theorem ptrootWrite (m : Nat) (n : Nat) (v : Word) : Statement (.ptrootWrite m n v) := noWord rfl
theorem reductionWindowWrite (m w off : Nat) (v : Word) : Statement (.reductionWindowWrite m w off v) := noWord rfl
theorem registerWindowWrite (m off : Nat) (v : Word) : Statement (.registerWindowWrite m off v) := noWord rfl
theorem roceSend (m qp : Nat) (data : List Byte) : Statement (.roceSend m qp data) := noWord rfl
theorem roceRdmaWrite (m qp : Nat) (region : Nat) (off : Nat) (data : List Byte) : Statement (.roceRdmaWrite m qp region off data) := noWord rfl
theorem roceRdmaRead (m qp : Nat) (region : Nat) (off len : Nat) : Statement (.roceRdmaRead m qp region off len) := noWord rfl
theorem roceAtomicNak (m qp : Nat) : Statement (.roceAtomicNak m qp) := noWord rfl
theorem powerGood (m : Nat) (part : Part) : Statement (.powerGood m part) := noWord rfl
theorem i3cEntdaa (m : Nat) (addr : BitVec 7) : Statement (.i3cEntdaa m addr) := noWord rfl
theorem i3cRead (m : Nat) (what : Reading) : Statement (.i3cRead m what) := noWord rfl
theorem mgmtFirmwareLoad (m : Nat) (image : Nat) (len : Nat) : Statement (.mgmtFirmwareLoad m image len) := noWord rfl
theorem mgmtRead (m : Nat) (what : Reading) : Statement (.mgmtRead m what) := noWord rfl
theorem powerLoss (m : Nat) : Statement (.powerLoss m) := noWord rfl
theorem ideKeyProgramming (m : Nat) : Statement (.ideKeyProgramming m) := noWord rfl
theorem hedgerowLinkTraining (m number : Nat) : Statement (.hedgerowLinkTraining m number) := noWord rfl
theorem linkLevelRetry (m p : Nat) : Statement (.linkLevelRetry m p) := noWord rfl
theorem soloResultArrival (k : Nat) : Statement (.soloResultArrival k) := noWord rfl

end Sys2Proof.Laws.Fits
end

