-- ==== Sys2Proof/Tests/Slice0.lean ====
section
/-! SUPPORT. The model's own tests: for each obligation small states and operands that meet its hypotheses, one word of
each row written out from the spec's encoding tables, terms that are no word of the manual, and single steps with the
manual's own numbers. -/

open Sys2Proof Sys2Proof.Machine Sys2Proof.Claims
namespace Sys2Proof.Tests

/-! ## Small machines -/

/-- An anchored supervisor thread. -/
def thread : Frame := { used := true, uid := 7, tstat := 3, pc := 0x10000 }
/-- A light user thread. -/
def light : Frame := { used := true, uid := 7, pc := 0x10000 }
/-- The translation of core 0's first 64 KiB, with A and D set. -/
def bankPage : TlbEntry := { base := 2 ^ 55, size := 65536, pte := 0xBF }
/-- The translation of the first GiB of die 0, with A and D set. -/
def dramPage : TlbEntry := { base := 0, size := 2 ^ 30, pte := 0x7F }
/-- Core 0 with a thread in frame 0 on slot 0, whose turn it is, and with the two translations. -/
def alone (f : Frame) : State :=
  { frames := [(0, f)], cores := [(0, { slots := (Vector.replicate 8 {}).set 0 { bound := some 0 } })]
    homes := [(homeKey (.core 0), { tlb := [bankPage] }), (homeKey (.slice 0 0), { tlb := [dramPage] })]
    cur := { loc := 0, frame := 0, slot := 0 }, clk := 100, nextId := 10 }
/-- The thread with a register written. -/
def withG (f : Frame) (n : Fin 16) (v : Word) : Frame := { f with g := f.g.set n v }

/-! ## The hypotheses of the claims can be met -/

theorem met_DivisionResults : ∃ i d a b f s s1 s2 t x y, division i = some (d, a, b, f) ∧ Alone s ∧ mayName s.my d ∧
    mayName s.my a ∧ mayName s.my b ∧ gives s a = some (x, s1) ∧ gives s1 b = some (y, s2) ∧
    takesLate s2 [a, b] d (f x y) = some t :=
  ⟨.div (.g 3) (.g 1) (.g 2) false false, .g 3, .g 1, .g 2, _, alone (withG thread 1 7), _, _, _, 7, 0, rfl, ⟨rfl, rfl⟩,
    by decide, by decide, by decide, rfl, rfl, rfl⟩

/-- A thread with a completion word at `qgln`. -/
def popping : Frame := { thread with gln := { words := [(5, none)] } }

theorem met_IntegerResults_two : ∃ i d a b f s s1 s2 t x y, intTwo i = some (d, a, b, f) ∧ Alone s ∧ mayName s.my d ∧
    mayName s.my a ∧ mayName s.my b ∧ gives s a = some (x, s1) ∧ gives s1 b = some (y, s2) ∧ takes s2 d (f x y) = some t :=
  ⟨.sub .z (.port .qgln) (.g 2) false true, .z, .port .qgln, .g 2, _, alone popping, _, _, _, 5, 0, rfl, ⟨rfl, rfl⟩,
    by decide, by decide, by decide, rfl, rfl, rfl⟩

theorem met_IntegerResults_one : ∃ i d a f s s1 t x, intOne i = some (d, a, f) ∧ Alone s ∧ mayName s.my d ∧ mayName s.my a ∧
    gives s a = some (x, s1) ∧ takes s1 d (f x) = some t :=
  ⟨.addi (.port .qmsg) (.g 1) false 0x4000, _, _, _, alone (withG thread 1 7), _, _, _, rfl, ⟨rfl, rfl⟩, by decide,
    by decide, rfl, rfl⟩

theorem met_IntegerResults_moves : ∃ (s : State) (d : Reg) (t : State) (x v : Word), Alone s ∧ mayName s.my d ∧ takes s d (wrap (1#21).toInt) = some t ∧ d.np ∧
    gives s d = some (x, s) ∧ (∀ j < 64, v.getLsbD j =
      if 16 * (3#2).toNat ≤ j ∧ j < 16 * (3#2).toNat + 16 then (5#16).getLsbD (j - 16 * (3#2).toNat) else x.getLsbD j) ∧
    ∃ u, takes s d v = some u :=
  ⟨alone thread, .g 15, _, 0, 0x5000000000000, ⟨rfl, rfl⟩, by decide, rfl, by decide, rfl, by decide, _, rfl⟩

theorem met_IntegerResults_reserved :
    (∃ w : W32, fld w.toNat 26 6 = 9 ∧ fld w.toNat 16 3 ≠ 0) ∧
    (∃ w : W32, fld w.toNat 26 6 = 9 ∧ 16 ≤ fld w.toNat 21 5 ∧ fld w.toNat 21 5 ≤ 21) ∧
    (∃ w : W32, fld w.toNat 26 6 = 6 ∧ fld w.toNat 6 7 ≠ 0) ∧ (∃ w : W32, fld w.toNat 26 6 = 7 ∧ 6 ≤ fld w.toNat 12 3) :=
  ⟨⟨0x24010000, by decide⟩, ⟨0x26000000, by decide⟩, ⟨0x18000040, by decide⟩, ⟨0x1C006000, by decide⟩⟩

theorem met_FloatingPointResults_two : ∃ i d a b f s t x y, i.wf ∧ Alone s ∧ floatTwo s.my i = some (d, a, b, f) ∧
    gives s a = some (x, s) ∧ gives s b = some (y, s) ∧ takes s d (f x y) = some t :=
  ⟨.fadd .f16 .rup (.g 3) (.g 1) (.g 2) false false, _, _, _, _, alone (withG thread 1 0x3C00), _, _, _, by decide,
    ⟨rfl, rfl⟩, rfl, rfl, rfl, rfl⟩

theorem met_FloatingPointResults_one : ∃ i d a f s t x, i.wf ∧ Alone s ∧ floatOne s.my i = some (d, a, f) ∧
    gives s a = some (x, s) ∧ takes s d (f x) = some t :=
  ⟨.fcvt .i32 .f16 .rtz (.g 3) (.g 1) false, _, _, _, alone (withG thread 1 0x3C00), _, _, by decide, ⟨rfl, rfl⟩, rfl, rfl, rfl⟩

theorem met_FloatingPointResults_fused : ∃ i np nd f r d a b s t x y z, i.wf ∧ Alone s ∧
    fused i = some (np, nd, f, r, d, a, b) ∧ gives s a = some (x, s) ∧ gives s b = some (y, s) ∧ gives s d = some (z, s) ∧
    takes s d (high (fmtOf f) ((fmtOf f).fma (modeFor s.my r) np nd (low (fmtOf f) x) (low (fmtOf f) y) (low (fmtOf f) z))) = some t :=
  ⟨.fnms .f16 .dyn (.g 3) (.g 1) (.g 2) false false, _, _, _, _, _, _, _, alone (withG thread 1 0x3C00), _, _, _, _, by decide,
    ⟨rfl, rfl⟩, rfl, rfl, rfl, rfl, rfl⟩

theorem met_FloatingPointResults_late : ∃ (d a : Reg) (s t u : State) (x : Word) (y : Nat), d.np ∧ a.np ∧ Alone s ∧ gives s a = some (x, s) ∧
    takesLate s [a, .g 2] d (high (fmtOf .f16) ((fmtOf .f16).div (modeFor s.my .rne) (low (fmtOf .f16) x) y)) = some t ∧
    takesLate s [a] d (high (fmtOf .f16) ((fmtOf .f16).sqrt (modeFor s.my .rne) (low (fmtOf .f16) x))) = some u :=
  ⟨.g 3, .g 1, alone (withG thread 1 0x3C00), _, _, _, 0, by decide, by decide, ⟨rfl, rfl⟩, rfl, rfl, rfl⟩

/-- F16, as R86 has it. -/
def half : Fmt := ⟨5, 10⟩

theorem half_ieee : ieee half := .inr (.inr (.inl rfl))
theorem half_one : rational (half.value 0x3C00) = some 1 := by
  have : half.value 0x3C00 = .fin false 1024 (-10) := by decide
  rw [this]; norm_num [rational]
theorem half_next : rational (half.value 0x3C01) = some (1025 / 1024) := by
  have : half.value 0x3C01 = .fin false 1025 (-10) := by decide
  rw [this]; norm_num [rational]
theorem half_minus : rational (half.value 0xBC00) = some (-1) := by
  have : half.value 0xBC00 = .fin true 1024 (-10) := by decide
  rw [this]; norm_num [rational]
theorem half_zero : rational (half.value 0) = some 0 ∧ rational (half.value 0x8000) = some 0 := by
  have a : half.value 0 = .fin false 0 (-24) := by decide
  have b : half.value 0x8000 = .fin true 0 (-24) := by decide
  rw [a, b]; norm_num [rational]

theorem met_MinMaxAndCompareRules : ieee half ∧ 0x7C01 < 2 ^ half.width ∧ half.isNaN 0x7C01 ∧ !half.isNaN 0 ∧
    (∃ u v, rational (half.value 0xBC00) = some u ∧ rational (half.value 0x3C00) = some v ∧ u < v) :=
  ⟨half_ieee, by decide, by decide, by decide, -1, 1, half_minus, half_one, by norm_num⟩

theorem met_NanRules : ieee half ∧ half.isNaN 0x7C01 ∧ (!half.isNaN 0x8001 ∧ half.signBit < 0x8001) ∧
    ∃ u, rational (half.value 0xBC00) = some u ∧ u ≠ 0 :=
  ⟨half_ieee, by decide, by decide, -1, half_minus, by norm_num⟩

theorem met_ZeroSumSigns : (∃ u, rational (half.value 0x8000) = some u ∧ rational (half.value 0) = some (-u) ∧
      rational (half.value 0) = some u) ∧
    ∃ u, rational (half.value 0x3C00) = some u ∧ rational (half.value 0xBC00) = some (-u) :=
  ⟨⟨0, half_zero.2, by simpa using half_zero.1, half_zero.1⟩, 1, half_one, half_minus⟩

theorem met_RoundingOfValues : ieee half ∧ half.isNaN 0x7C00 = false ∧ 0x3C00 + 1 < half.infBits ∧
    ∃ (lo hi v : ℚ) (m : Nat) (e : Int), rational (half.value 0x3C00) = some lo ∧ rational (half.value (0x3C00 + 1)) = some hi ∧
      v = m * 2 ^ e ∧ lo < v ∧ v < hi :=
  ⟨half_ieee, by decide, by decide, 1, 1025 / 1024, 2049 / 2048, 2049, -11, half_one, half_next, by norm_num, by norm_num,
    by norm_num⟩

theorem met_RoundingOfValues_arithmetic : ∃ u v w p q : ℚ, ieee half ∧ (3 : Nat) < 4 ∧ 0x3C00 < 2 ^ half.width ∧ 0x8000 < 2 ^ half.width ∧
    rational (half.value 0x3C00) = some u ∧ rational (half.value 0x3C01) = some v ∧ rational (half.value 0x8000) = some w ∧
    u + v ≠ 0 ∧ u - v ≠ 0 ∧ u * v ≠ 0 ∧ 0 < u ∧ w = 0 ∧ p = -(u * v) ∧ q = -w ∧ p + q ≠ 0 ∧
    -(u * u) + u = 0 ∧ w * u = 0 :=
  ⟨1, 1025 / 1024, 0, -(1025 / 1024), 0, half_ieee, by decide, by decide, by decide, half_one, half_next, half_zero.2, by norm_num, by norm_num,
    by norm_num, by norm_num, rfl, by norm_num, by norm_num, by norm_num, by norm_num, by norm_num⟩

/-- A thread whose g1 is empty, and one whose g1 is poisoned. -/
def empty1 : Frame := { thread with full := 0xFFFD }
/-- A thread whose g1 is poisoned. -/
def poisoned1 : Frame := { thread with poisoned := 2 }

theorem met_OperandStops : ∃ i d rest, registerForm i = some (d, (.g 1, false) :: rest) ∧ i.wf ∧ Alone (alone empty1) ∧
    mayName (alone empty1).my d ∧ mayName (alone empty1).my (.g 1) ∧ rest.all (fun r => mayName (alone empty1).my r.1) ∧
    (alone empty1).my.full.getLsbD 1 = false ∧ (alone empty1).my.fe = false ∧ (alone poisoned1).my.full.getLsbD 1 ∧
    (alone poisoned1).my.poisoned.getLsbD 1 :=
  ⟨.add (.g 3) (.g 1) (.g 2) false false, _, _, rfl, by decide, ⟨rfl, rfl⟩, by decide, by decide, by decide, by decide, by decide,
    by decide, by decide⟩

theorem met_OperandStops_ports : ∃ i d rest, registerForm i = some (d, (.port .qgln, true) :: rest) ∧ i.wf ∧
    Alone (alone light) ∧ (alone light).pop .qgln = none ∧ mayName (alone light).my (.port .qpav) = false ∧
    mayName (alone light).my (.port .qgln) :=
  ⟨.add (.g 3) (.port .qgln) (.g 2) true false, _, _, rfl, by decide, ⟨rfl, rfl⟩, by decide, by decide, by decide⟩

theorem met_RegisterInstructionFrame : ∃ i d rs s t, registerForm i = some (d, rs) ∧ i.wf ∧ Alone s ∧ d.np ∧
    rs.all (fun r => r.1.np) ∧ s.my.late = [] ∧ exec i s = .next t ∧ t.note = .retired :=
  ⟨.add (.g 3) (.g 1) (.g 2) false false, _, _, alone thread, _, rfl, by decide, ⟨rfl, rfl⟩, by decide, by decide, rfl, rfl, rfl⟩

theorem met_ControlTransfers : ∃ (s : State) (x : Word), Alone s ∧ (.g 1 : Reg).np ∧ gives s (.g 1) = some (x, s) ∧
    (∃ t, takes s (.g 15) (s.my.pc + 4) = some t) ∧ branches .ltz x ∧ ¬branches .even x ∧
    (x + wrap (1#15).toInt).toNat % 4 = 0 ∧ (x + wrap (0#15).toInt).toNat % 4 ≠ 0 :=
  ⟨alone (withG thread 1 (-1)), -1, ⟨rfl, rfl⟩, by decide, rfl, ⟨_, rfl⟩, (by decide : (-1 : Word).toInt < 0),
    (by decide : ¬(-1 : Word).toInt % 2 = 0), by decide, by decide⟩

/-- A thread with `solo` set. -/
def soloed : Frame := thread.setT 25 1 1

/-- A thread in core 0's local store, with `add g3, g1, g2` as the word after its own. -/
def inBank : State :=
  { alone { thread with pc := 0x80000000000100 } with
    mem := [(2 ^ 60 + 0x105, 0x10), (2 ^ 60 + 0x106, 0x61), (2 ^ 60 + 0x107, 0x04)] }

theorem met_ThreadStateInstructions_repeat : ∃ s s1 ws w, Alone s ∧ s.my.solo = false ∧ s.my.late = [] ∧
    capture s (s.my.pc + 4) ((0#4).toNat + 1) = (s1, .ok ws) ∧ encode (.repf 31 0 1 0 0) = some w ∧
    Alone (alone soloed) ∧ (alone soloed).my.solo :=
  ⟨inBank, _, _, _, ⟨rfl, rfl⟩, by decide, rfl, rfl, rfl, ⟨rfl, rfl⟩, by decide⟩

theorem met_ThreadStateInstructions_go : ∃ (s : State) (va wa : Word) (t : State), Alone s ∧ s.my.late = [] ∧ s.my.anch = false ∧
    gives s (.g 1) = some (va, s) ∧ vaBad va = false ∧ spaceOf va = .ls ∧ lsOwner va = s.cur.loc ∧
    gives s (.g 2) = some (wa, s) ∧ vaBad wa = false ∧ spaceOf wa = .ls ∧ lsOwner wa ≠ s.cur.loc ∧
    gives s .z = some (0, s) ∧ spaceOf 0 ≠ .ls ∧
    takes s (.g 3) (s.my.hops.setWidth 64) = some t ∧ (alone thread).my.anch :=
  ⟨alone (withG (withG light 1 0x80000000000000) 2 0x80000200000000), _, _, _, ⟨rfl, rfl⟩, rfl, by decide, rfl, by decide, by decide,
    by decide, rfl, by decide, by decide, by decide, rfl, by decide, rfl, by decide⟩

/-- A thread with a DM address in g1 and an address of its own bank in g2. -/
def addressed : Frame := withG (withG (withG thread 1 0x40) 2 0x80000000000100) 4 9
/-- A buffered store of the thread of n bytes at an address. -/
def storeOf (va : Word) (n : Nat) (h : Home) (p : Option Nat) : SEntry :=
  { id := 3, va := va, size := n, v := 0x1122334455667788, home := h, key := 0, uid := 7, user := false, launch := 0, lmod := 0, phys := p }
/-- A machine with one more store in core 0's store buffer. -/
def behind (e : SEntry) (s : State) : State := s.updCore 0 fun c => { c with sb := [e] }
/-- A machine with one more store in the task store buffer of slot 0. -/
def tasked (e : SEntry) (s : State) : State := s.updCore 0 fun c => c.updSlot 0 fun x => { x with tsb := [e] }
/-- The thread's store to the DM address is buffered. -/
def storing : State := behind (storeOf 0x40 8 (.slice 0 0) none) (alone addressed)
/-- The thread runs an idempotent task. -/
def idempotent : State := alone { addressed with tstat := 0x8003 }

theorem met_LoadAndStoreResults_load : ∃ i n sgn acq d disp s x va h, loads i = some (n, sgn, acq, d, .g 1, disp) ∧ i.wf ∧
    Alone s ∧ gives s (.g 1) = some (x, s) ∧ va = address x n disp ∧ Reaches s va n h ∧ Stays s va h true ∧ settled s d ∧
    s.forwarded va n none = .none ∧ h ≠ .core s.cur.loc ∧ (∃ v, storing.forwarded va n none = .value v) ∧ acq.isSome ∧
    idempotent.my.idem :=
  ⟨.ldqW .pod (.g 3) (.g 1) false 0, _, _, _, .g 3, _, alone addressed, _, _, .slice 0 0, rfl, by decide, ⟨rfl, rfl⟩, rfl, rfl,
    ⟨by decide, by decide, by decide, rfl, by decide⟩, .inr (.inl (by decide)), by decide, by decide, by decide, ⟨_, rfl⟩, by decide, by decide⟩

/-- A store of the thread covers half of what it loads. -/
theorem met_LoadAndStoreResults_partly : ∃ i, loads i = some (4, true, none, .g 3, .g 1, 0) ∧ i.wf ∧
    Reaches (alone addressed) 0x40 4 (.slice 0 0) ∧
    (behind (storeOf 0x40 2 (.slice 0 0) none) (alone addressed)).forwarded 0x40 4 none = .partly ∧
    (tasked (storeOf 0x40 2 (.slice 0 0) none) idempotent).forwarded 0x40 4 none = .partly ∧
    (tasked (storeOf 0x40 2 (.slice 0 0) none) idempotent).taskHeld 0 0x40 4 none ∧
    (behind (storeOf 0x40 2 (.slice 0 0) none) (alone addressed)).taskHeld 0 0x40 4 none = false :=
  ⟨.ldW (.g 3) (.g 1) false 0, rfl, by decide, ⟨by decide, by decide, by decide, rfl, by decide⟩, by decide, by decide, by decide, by decide⟩

theorem met_LoadAndStoreResults_drain : ∃ n, idempotent.my.idem ∧ idempotent.slotOf idempotent.me = some n ∧ n < 8 ∧
    (idempotent.core (keyLoc idempotent.me)).sb.length ≤ 16 ∧
    ∀ x ∈ (idempotent.core (keyLoc idempotent.me)).slots.toList, x.draining = false :=
  ⟨0, by decide, rfl, by decide, by decide, by decide⟩

theorem met_LoadAndStoreResults_ownLoad : ∃ i n sgn acq d disp s s1 x va p e b z, ∃ h : Home,
    loads i = some (n, sgn, acq, d, .g 2, disp) ∧ i.wf ∧ Alone s ∧ gives s (.g 2) = some (x, s) ∧ va = address x n disp ∧
    Reaches s va n (.core s.cur.loc) ∧ Stays s va (.core s.cur.loc) true ∧ settled s d ∧
    s.check (s.myReq (.core s.cur.loc) va n false) = (s1, .ok p e b z) ∧ s1.forwarded va n (some p) = .none ∧
    s1.myTurn = true ∧ s1.isBad p n = false ∧ (∃ v, (behind (storeOf va n h (some p)) s1).forwarded va n (some p) = .value v) ∧
    (behind (storeOf va 1 h (some p)) s1).forwarded va n (some p) = .partly :=
  ⟨.ldH (.g 3) (.g 2) false (-1), _, _, _, .g 3, _, alone addressed, _, _, _, _, _, _, _, .core 0, rfl, by decide, ⟨rfl, rfl⟩, rfl, rfl,
    ⟨by decide, by decide, by decide, rfl, by decide⟩, .inl rfl, by decide, rfl, by decide, by decide, by decide, ⟨_, rfl⟩,
    by decide⟩

theorem met_LoadAndStoreResults_store : ∃ i n rel disp s x y va h t, stores i = some (n, rel, .g 4, .g 1, disp) ∧ i.wf ∧
    Alone s ∧ gives s (.g 1) = some (x, s) ∧ gives s (.g 4) = some (y, s) ∧ va = address x n disp ∧ Reaches s va n h ∧
    Stays s va h true ∧ s.my.idem = false ∧ h ≠ .core s.cur.loc ∧ queued s (s.mkStore va n y h rel) = some t :=
  ⟨.stlD .die (.g 4) (.g 1) false 3, _, _, _, alone addressed, _, _, _, .slice 0 0, _, rfl, by decide, ⟨rfl, rfl⟩, rfl, rfl, rfl,
    ⟨by decide, by decide, by decide, rfl, by decide⟩, .inr (.inl (by decide)), by decide, by decide, rfl⟩

theorem met_LoadAndStoreResults_ownStore : ∃ i n rel disp s s1 x y va p e b z t,
    stores i = some (n, rel, .g 4, .g 2, disp) ∧ i.wf ∧ Alone s ∧ gives s (.g 2) = some (x, s) ∧ gives s (.g 4) = some (y, s) ∧
    va = address x n disp ∧ Reaches s va n (.core s.cur.loc) ∧ s.my.idem = false ∧
    s.check (s.myReq (.core s.cur.loc) va n true) = (s1, .ok p e b z) ∧
    queued s1 { s1.mkStore va n y (.core 0) rel with phys := some p } = some t :=
  ⟨.stB (.g 4) (.g 2) false 2047, _, _, _, alone addressed, _, _, _, _, _, _, _, _, _, rfl, by decide, ⟨rfl, rfl⟩, rfl, rfl, rfl,
    ⟨by decide, by decide, by decide, rfl, by decide⟩, by decide, rfl, rfl⟩

theorem met_LoadStoreFrame : ∃ i sgn acq disp s t x va, loads i = some (4, sgn, acq, .g 3, .g 1, disp) ∧ i.wf ∧ Alone s ∧
    s.memOk ∧ s.my.late = [] ∧ gives s (.g 1) = some (x, s) ∧ va = address x 4 disp ∧ exec i s = .next t ∧ t.note = .retired ∧
    windowAt va = none :=
  ⟨.ldW (.g 3) (.g 1) false 0, _, _, _, alone addressed, _, _, _, rfl, by decide, ⟨rfl, rfl⟩, rfl, rfl, rfl, rfl, rfl, rfl, by decide⟩

theorem met_LoadStoreFrame_store : ∃ i rel disp s t x va, stores i = some (8, rel, .g 4, .g 2, disp) ∧ i.wf ∧ Alone s ∧
    s.memOk ∧ s.my.late = [] ∧ gives s (.g 2) = some (x, s) ∧ va = address x 8 disp ∧ exec i s = .next t ∧ t.note = .retired ∧
    windowAt va = none :=
  ⟨.stD (.g 4) (.g 2) false 0, _, _, alone addressed, _, _, _, rfl, by decide, ⟨rfl, rfl⟩, rfl, rfl, rfl, rfl, rfl, rfl, by decide⟩

/-- A thread with a forbidden, a misaligned and a distant address in g1 to g3. -/
def astray (f : Frame) : Frame := withG (withG (withG f 1 0x200000000000000) 2 0x41) 3 0x80000200000000

theorem met_AccessTraps : ∃ i n sgn acq disp x va y wa z xa, loads i = some (n, sgn, acq, .g 5, .g 1, disp) ∧ i.wf ∧
    Alone (alone (astray thread)) ∧ (alone (astray thread)).my.idem = false ∧
    gives (alone (astray thread)) (.g 1) = some (x, alone (astray thread)) ∧ va = address x n disp ∧ vaBad va ∧
    gives (alone (astray thread)) (.g 2) = some (y, alone (astray thread)) ∧ wa = address y n disp ∧ vaBad wa = false ∧
    wa.toNat % n ≠ 0 ∧
    gives (alone (astray thread)) (.g 3) = some (z, alone (astray thread)) ∧ xa = address z n disp ∧ vaBad xa = false ∧
    xa.toNat % n = 0 ∧ windowAt xa = none ∧ spaceOf xa = .ls ∧ lsOwner xa ≠ 0 ∧ (alone (astray thread)).cur.frame ≠ 32 ∧
    (alone (astray thread)).acqHeld (.core (lsOwner xa)) xa = false ∧ (alone (astray thread)).my.anch ∧
    (alone (astray thread)).myRegion (lsOwner xa) = false ∧ (alone (astray light)).my.anch = false ∧
    (alone (astray light)).my.pin = false ∧ (alone (astray light)).acqHeld (.core (lsOwner xa)) xa = false :=
  ⟨.ldW (.g 5) (.g 1) false 0, _, _, _, _, _, _, _, _, _, _, rfl, by decide, ⟨rfl, rfl⟩, by decide, rfl, rfl, by decide, rfl, rfl,
    by decide, by decide, rfl, rfl, by decide, by decide, by decide, by decide, by decide, by decide, by decide, by decide,
    by decide, by decide, by decide, by decide⟩

theorem met_AtomicResults_posted : ∃ i op w s va y h, postings i = some (op, w, .g 1, .g 4) ∧ i.wf ∧ Alone s ∧
    gives s (.g 1) = some (va, s) ∧ gives s (.g 4) = some (y, s) ∧ Reaches s va (atomicBytes op w) h ∧ Stays s va h false ∧
    spaceOf va ≠ .host ∧ s.my.idem = false ∧ h ≠ .core s.cur.loc :=
  ⟨.amopFadd false (.g 1) (.g 4), _, _, alone addressed, _, _, .slice 0 0, rfl, by decide, ⟨rfl, rfl⟩, rfl, rfl,
    ⟨by decide, by decide, by decide, rfl, by decide⟩, .inr (.inl (by decide)), by decide, by decide, by decide⟩

theorem met_AtomicResults_ownPosted : ∃ i op w s s1 va y p e b z, postings i = some (op, w, .g 2, .g 4) ∧ i.wf ∧ Alone s ∧
    gives s (.g 2) = some (va, s) ∧ gives s (.g 4) = some (y, s) ∧ Reaches s va (atomicBytes op w) (.core s.cur.loc) ∧
    Stays s va (.core s.cur.loc) false ∧ spaceOf va ≠ .host ∧ s.my.idem = false ∧
    s.check (s.myReq (.core s.cur.loc) va (atomicBytes op w) true) = (s1, .ok p e b z) :=
  ⟨.amopAdd true (.g 2) (.g 4), _, _, alone addressed, _, _, _, _, _, _, _, rfl, by decide, ⟨rfl, rfl⟩, rfl, rfl,
    ⟨by decide, by decide, by decide, rfl, by decide⟩, .inl rfl, by decide, by decide, rfl⟩

theorem met_AtomicResults_returning : ∃ i op w s va y z h, atomics i = some (op, w, .g 3, .g 1, .g 4) ∧ i.wf ∧ Alone s ∧
    s.my.pend = .idle ∧ gives s (.g 1) = some (va, s) ∧ gives s (.g 4) = some (y, s) ∧
    (if op = .cas then gives s (.g 3) = some (z, s) else z = 0) ∧ Reaches s va (atomicBytes op w) h ∧ Stays s va h true ∧
    spaceOf va ≠ .host ∧ s.my.idem = false ∧ s.myStoresDone ∧ s.loadsDone s.my.uid s.nextId ∧ settled s (.g 3) ∧
    h ≠ .core s.cur.loc :=
  ⟨.amoCas true (.g 3) (.g 1) (.g 4), _, _, alone addressed, _, _, 0, .slice 0 0, rfl, by decide, ⟨rfl, rfl⟩, rfl, rfl, rfl,
    rfl, ⟨by decide, by decide, by decide, rfl, by decide⟩, .inr (.inl (by decide)), by decide, by decide, by decide,
    by decide, by decide, by decide⟩

theorem met_AtomicResults_own : ∃ i op w s s1 va y p e b z t, atomics i = some (op, w, .g 3, .g 2, .g 4) ∧ i.wf ∧ Alone s ∧
    gives s (.g 2) = some (va, s) ∧ gives s (.g 4) = some (y, s) ∧ Reaches s va (atomicBytes op w) (.core s.cur.loc) ∧
    s.myStoresDone ∧ s.loadsDone s.my.uid s.nextId ∧ s.ownClear ∧
    s.check (s.myReq (.core s.cur.loc) va (atomicBytes op w) true) = (s1, .ok p e b z) ∧
    s1.isBad p (atomicBytes op w) = false ∧
    takes ((s1.writeAt (.core s.cur.loc) va p (bytesOf (atomicBytes op w)
        (amoApply op w (s1.num p (atomicBytes op w)) y.toNat 0))).addPath (.core s.cur.loc)) (.g 3)
      (BitVec.ofNat 64 (s1.num p (atomicBytes op w))) = some t ∧
    (∃ s2 t, { alone addressed with bad := [2 ^ 57 + 32] }.check (s.myReq (.core s.cur.loc) va (atomicBytes op w) true) =
      (s2, .ok p e b z) ∧ s2.isBad p (atomicBytes op w) ∧ takesPoison s2 (.g 3) = some t) :=
  ⟨.amoAdd true (.g 3) (.g 2) (.g 4), _, _, alone addressed, _, _, _, _, _, _, _, _, rfl, by decide, ⟨rfl, rfl⟩, rfl, rfl,
    ⟨by decide, by decide, by decide, rfl, by decide⟩, by decide, by decide, by decide, rfl, by decide, rfl, _, _, rfl, by decide, rfl⟩

theorem met_AtomicResults_floats : (0x3F800000 : Nat) < 2 ^ 32 ∧ (0xC00000003F800000 : Nat) < 2 ^ 64 := ⟨by decide, by decide⟩

theorem met_DecodedAccesses_remote : ∃ s va, Alone s ∧ s.my.pend = .idle ∧ gives s (.g 1) = some (va, s) ∧
    Reaches s va 1 (.slice 0 0) ∧ Stays s va (.slice 0 0) true ∧ spaceOf va ≠ .host ∧ settled s (.g 3) ∧
    s.my.idem = false ∧ s.myStoresDone ∧ s.loadsDone s.my.uid s.nextId ∧ idempotent.my.idem :=
  ⟨alone addressed, _, ⟨rfl, rfl⟩, rfl, rfl, ⟨by decide, by decide, by decide, rfl, by decide⟩, .inr (.inl (by decide)),
    by decide, by decide, by decide, by decide, by decide, by decide⟩

/-- The translation of the bank as a page of F32 elements, and as a page of L6. -/
def typed (fmt : Nat) : State :=
  { alone addressed with
    homes := [(homeKey (.core 0), { tlb := [{ bankPage with pte := BitVec.ofNat 64 (0xBF + fmt * 2 ^ 8) }] })] }

theorem met_DecodedAccesses_own : ∃ s s1 s2 va p e b z v t bs u, Alone s ∧ gives s (.g 2) = some (va, s) ∧
    Reaches s va 1 (.core s.cur.loc) ∧
    s.check (s.myReq (.core s.cur.loc) va (decSize .f32) false).decoded = (s1, .ok p e b z) ∧
    s1.decStop (s.myReq (.core s.cur.loc) va (decSize .f32) false) .f32 e b z p = none ∧
    decFwd s1.forwarded va p true (scalePlace e b z va p) (decElem (pteFmt e) (decSize .f32)) = .none ∧ s1.myTurn ∧ decLoad s1 .f32 s1.my.rmode e z p (va.toNat - b) none = .ok v ∧ takes s1 (.g 3) v = some t ∧
    s.check (s.myReq (.core s.cur.loc) va (decSize .f32) true).decoded = (s2, .ok p e b z) ∧
    s2.decStop (s.myReq (.core s.cur.loc) va (decSize .f32) true) .f32 e b z p = none ∧ s2.scaleOwed e b z va p = none ∧
    decStore s2 .f32 s2.my.rmode e z p (va.toNat - b) 9 = some bs ∧
    queued s2 { s2.mkStore va bs.length (BitVec.ofNat 64 (ofBytes bs)) (.core s.cur.loc) none with phys := some p } = some u :=
  ⟨typed 7, _, _, _, _, _, _, _, _, _, _, _, ⟨rfl, rfl⟩, rfl, ⟨by decide, by decide, by decide, rfl, by decide⟩, rfl, rfl,
    rfl, by decide, rfl, rfl, rfl, rfl, rfl, rfl, rfl⟩

/-- The bank as a page of F32 elements with scales. -/
def scaledBank : State := typed 0x47

/-- What the checks of a decoded access there leave. -/
def scaledAfter (write : Bool) : State :=
  (scaledBank.check (scaledBank.myReq (.core 0) 0x80000000000100 4 write).decoded).1
/-- A store of the thread over the scale byte of its element. -/
def scaleStore : SEntry := storeOf 0x8000000000FC04 1 (.core 0) (some (2 ^ 60 + 0xFC04))

theorem met_DecodedAccesses_owed : ∃ e b z, gives scaledBank (.g 2) = some (0x80000000000100, scaledBank) ∧
    scaledBank.check (scaledBank.myReq (.core 0) 0x80000000000100 4 false).decoded = (scaledAfter false, .ok (2 ^ 60 + 0x100) e b z) ∧
    (scaledAfter false).decStop (scaledBank.myReq (.core 0) 0x80000000000100 4 false) .f32 e b z (2 ^ 60 + 0x100) = none ∧
    decFwd (behind scaleStore (scaledAfter false)).forwarded 0x80000000000100 (2 ^ 60 + 0x100) true
      (scalePlace e b z 0x80000000000100 (2 ^ 60 + 0x100)) (decElem (pteFmt e) 4) = .after 0x8000000000FC04 1 (some (2 ^ 60 + 0xFC04)) ∧
    scaledBank.check (scaledBank.myReq (.core 0) 0x80000000000100 4 true).decoded = (scaledAfter true, .ok (2 ^ 60 + 0x100) e b z) ∧
    (scaledAfter true).decStop (scaledBank.myReq (.core 0) 0x80000000000100 4 true) .f32 e b z (2 ^ 60 + 0x100) = none ∧
    (scaledAfter true).scaleOwed e b z 0x80000000000100 (2 ^ 60 + 0x100) = none ∧
    (behind scaleStore (scaledAfter true)).scaleOwed e b z 0x80000000000100 (2 ^ 60 + 0x100) =
      some (0x8000000000FC04, some (2 ^ 60 + 0xFC04)) :=
  ⟨BitVec.ofNat 64 (0xBF + 0x47 * 2 ^ 8), 2 ^ 55, 65536, rfl, by decide +kernel, by decide +kernel, by decide +kernel, by decide +kernel,
    by decide +kernel, by decide +kernel, by decide +kernel⟩

theorem met_DecodedAccesses_fault : ∃ s s1 s2 va p e b z c d, gives s (.g 2) = some (va, s) ∧
    s.check (s.myReq (.core s.cur.loc) va (decSize .f32) false).decoded = (s1, .ok p e b z) ∧
    s1.decStop (s.myReq (.core s.cur.loc) va (decSize .f32) false) .f32 e b z p = some c ∧
    s.check (s.myReq (.core s.cur.loc) va (decSize .f32) true).decoded = (s2, .ok p e b z) ∧
    s2.decStop (s.myReq (.core s.cur.loc) va (decSize .f32) true) .f32 e b z p = some d :=
  ⟨typed 11, _, _, _, _, _, _, _, _, _, rfl, rfl, rfl, rfl, rfl⟩

/-- A thread that has an answer, and one that waits for one. -/
def answering (a : Ans) : State := alone { thread with pend := .got a }

theorem met_AnswersComplete : ∃ t u, (answered (.amoAdd true (.g 3) (.g 1) (.g 2)) = some (.g 3)) ∧ Alone (answering (.val 5)) ∧
    (answering (.val 5)).my.pend = .got (.val 5) ∧ takes (answering (.val 5)) (.g 3) 5 = some t ∧
    (answering .poison).my.pend = .got .poison ∧ takesPoison (answering .poison) (.g 3) = some u ∧
    (answering (.fail .rangeLocked 8)).my.pend = .got (.fail .rangeLocked 8) ∧ (answered (.launch (.g 3) (.g 1))).isSome ∧
    (decodedStores (.stfI32 (.g 3) (.g 1) false 0)).isSome ∧ (alone { thread with pend := .sent 4 }).my.pend = .sent 4 :=
  ⟨_, _, rfl, ⟨rfl, rfl⟩, rfl, rfl, rfl, rfl, rfl, by decide, by decide, rfl⟩

theorem met_AnswersComplete_idempotent : ∃ t, Alone (answering (.again 0x40)) ∧
    (answering (.again 0x40)).my.pend = .got (.again 0x40) ∧ (answering (.again 0x40)).my.idem = false ∧
    (alone { thread with pend := .got (.again 0x40), tstat := 0x8003 }).my.idem ∧
    (answering (.restore 0x40 9)).my.pend = .got (.restore 0x40 9) ∧ (answering (.restore 0x40 9)).my.idem = false ∧
    (alone { thread with pend := .got (.restore 0x40 9), tstat := 0x8003 }).my.idem ∧
    Reaches (answering (.restore 0x40 9)) 0x40 1 (.slice 0 0) ∧ Stays (answering (.restore 0x40 9)) 0x40 (.slice 0 0) false ∧
    (answering (.restore 0x40 9)).myStoresDone ∧ (answering (.restore 0x40 9)).loadsDone 7 10 ∧
    Reaches (answering (.again 0x40)) 0x40 1 (.slice 0 0) ∧ Stays (answering (.again 0x40)) 0x40 (.slice 0 0) false ∧
    (answering (.buffer 0x40 [1, 2])).my.pend = .got (.buffer 0x40 [1, 2]) ∧
    queued (answering (.buffer 0x40 [1, 2]))
      ((answering (.buffer 0x40 [1, 2])).mkStore 0x40 2 (BitVec.ofNat 64 (ofBytes [1, 2])) (.slice 0 0) none) = some t :=
  ⟨_, ⟨rfl, rfl⟩, rfl, rfl, rfl, rfl, rfl, rfl, ⟨by decide, by decide, by decide, rfl, by decide⟩, .inr (.inl (by decide)),
    by decide, by decide, ⟨by decide, by decide, by decide, rfl, by decide⟩, .inr (.inl (by decide)), rfl, rfl⟩

/-- A thread with a task's entry in g4, its arguments in g5 and g6, and a join cell in another core of the die in g1. -/
def spawning : Frame := withG (withG (withG thread 4 0x20000) 1 0x80000200000100) 2 0x80000000000100
/-- A light one. -/
def lightSpawning : Frame := { spawning with tstat := 0 }

theorem met_ThreadsBeginAndEnd_spawn : ∃ i anch s a0 a1 pc jc, spawns i = some (anch, .g 4, .g 1, 5) ∧ i.wf ∧ Alone s ∧
    s.my.idem = false ∧ gives s (.g 1) = some (jc, s) ∧ gives s (.g 5) = some (a0, s) ∧ gives s (.g (5 + 1)) = some (a1, s) ∧
    gives s (.g 4) = some (pc, s) ∧ pc ≠ 0 ∧ pc.toNat % 4 = 0 ∧ jc ≠ 0 ∧ spaceOf jc = .ls ∧ s.my.pend = .idle ∧
    (s.core s.cur.loc).deque.length < 1088 ∧ s.myStoresDone ∧ Reaches s jc 8 (.core 1) ∧ Stays s jc (.core 1) false :=
  ⟨.spawna (.g 4) (.g 1) (.g 5), _, alone lightSpawning, _, _, _, _, rfl, by decide, ⟨rfl, rfl⟩, by decide, rfl, rfl, rfl, rfl,
    by decide, by decide, by decide, by decide, rfl, by decide, by decide, ⟨by decide, by decide, by decide, rfl, by decide⟩,
    .inr (.inr (.inr (.inr ⟨by decide, nofun⟩)))⟩

theorem met_ThreadsBeginAndEnd_ownCell : ∃ s s1 jc p e b z, gives s (.g 2) = some (jc, s) ∧ s.myStoresDone ∧ s.myTurn ∧
    Reaches s jc 8 (.core s.cur.loc) ∧ s.check (s.myReq (.core s.cur.loc) jc 8 true) = (s1, .ok p e b z) ∧
    s1.isBad p 8 = false :=
  ⟨alone lightSpawning, _, _, _, _, _, _, rfl, by decide, by decide, ⟨by decide, by decide, by decide, rfl, by decide⟩, rfl, by decide⟩

/-- The machine of `alone` with a deque and overflow of n entries. -/
def full (n : Nat) : State := (alone lightSpawning).updCore 0 fun c => { c with deque := List.replicate n {} }

theorem full_length (n : Nat) : ((full n).core (full n).cur.loc).deque.length = n := List.length_replicate

theorem met_ThreadsBeginAndEnd_full : 1088 ≤ ((full 1088).core (full 1088).cur.loc).deque.length ∧
    (full 1088).my.inld < 2 ^ 20 - 1 ∧ (full 1088).my.full.getLsbD 1 ∧ (full 1088).my.full.getLsbD 2 ∧
    (full 1088).my.full.getLsbD 15 ∧ gives (full 1088) .z = some (0, full 1088) ∧ spaceOf 8 ≠ .ls := by
  refine ⟨Nat.le_of_eq (full_length 1088).symm, by decide, by decide, by decide, by decide, rfl, by decide⟩

/-- A thread in an inline call, and a worker with a task in its core's deque. -/
def inlined : Frame := (withG light 15 0x30000).setT 41 20 1
/-- A worker with a task in its core's deque. -/
def working : State :=
  (alone (light.setT 16 1 1)).updCore 0 fun c => { c with deque := [{ pc := 0x40000 }] }

theorem met_ThreadsBeginAndEnd_exit : Alone (alone inlined) ∧ (alone inlined).my.pend = .idle ∧ (alone inlined).my.inld ≠ 0 ∧
    gives (alone inlined) (.g 15) = some (0x30000, alone inlined) ∧ (0x30000 : Word).toNat % 4 = 0 ∧
    (alone light).my.inld = 0 ∧ (alone { light with full := 1 }).my.settled = false ∧ (alone light).my.settled ∧
    (alone light).my.idem = false ∧ (alone light).my.jcell = 0 ∧
    (taskEnded (alone light)).my.worker = false :=
  ⟨⟨rfl, rfl⟩, rfl, by decide, rfl, by decide, by decide, by decide, by decide, by decide, rfl, by decide⟩

theorem met_ThreadsBeginAndEnd_worker : ∃ s s1 s2 t s3, s = working ∧ s.my.settled ∧ s.my.idem = false ∧ s.my.jcell = 0 ∧
    s1 = taskEnded s ∧ s1.my.worker ∧
    s1.search s1.cur.loc s1.my.actor [] = (s2, .task t) ∧
    ((alone (light.setT 16 1 1)).search 0 (light.setT 16 1 1).actor [] = (s3, .over)) :=
  ⟨_, _, _, _, _, rfl, by decide, by decide, by decide, rfl, by decide, rfl, rfl⟩

theorem met_WaitingThreads_join : ∃ s s1 va wa p e b z, Alone s ∧ s.my.pend = .idle ∧ gives s (.g 1) = some (va, s) ∧
    spaceOf va = .ls ∧ Reaches s va 8 (.core 1) ∧ Stays s va (.core 1) false ∧ gives s (.g 2) = some (wa, s) ∧
    Reaches s wa 8 (.core s.cur.loc) ∧ s.check (s.myReq (.core s.cur.loc) wa 8 false) = (s1, .ok p e b z) ∧ s1.myTurn ∧
    s1.forwarded wa 8 (some p) = .none ∧ (behind (storeOf wa 8 (.core 0) (some p)) s1).forwarded wa 8 (some p) ≠ .none ∧
    s1.isBad p 8 = false ∧ s1.num p 8 = 0 ∧ gives s (.g 4) = some (0x20000, s) ∧
    vaBad 0x20000 = false ∧ (0x20000 : Word).toNat % 8 = 0 ∧ spaceOf 0x20000 ≠ .ls :=
  ⟨alone lightSpawning, _, _, _, _, _, _, _, ⟨rfl, rfl⟩, rfl, rfl, by decide, ⟨by decide, by decide, by decide, rfl, by decide⟩,
    .inr (.inr (.inr (.inr ⟨by decide, nofun⟩))), rfl, ⟨by decide, by decide, by decide, rfl, by decide⟩, rfl, by decide,
    by decide, by decide, by decide, by decide, rfl, by decide, by decide, by decide⟩

/-- A launch of one light thread with id 0 on module 0, in one quad, with tasks outstanding. -/
def oneLaunch (tasks : Nat) : Launch :=
  { id := 0, mod := 0, order := 0, status := .running, live := 1, tasks := tasks
    lr := { entry := 0x10000, count := 1, smask := 1, dmask := 1, cap := 1 } }

theorem met_WaitingThreads_next : ∃ s1 t s2 s3 s4 s5, Alone working ∧ working.my.pend = .idle ∧ settled working (.g 3) ∧
    working.my.full.getLsbD 1 ∧ working.my.full.getLsbD 2 ∧
    working.search working.cur.loc working.my.actor [] = (s1, .task t) ∧ takes s1 (.g 3) 1 = some s2 ∧
    (alone light).search 0 light.actor [] = (s3, .over) ∧ takes s3 (.g 3) 0 = some s4 ∧
    { alone light with launches := [oneLaunch 1] }.search 0 light.actor [] = (s5, .nothing) :=
  ⟨_, _, _, _, _, _, ⟨rfl, rfl⟩, rfl, by decide, by decide, by decide, rfl, rfl, rfl, rfl, rfl⟩

/-- A thread asleep. -/
def asleep (till : Nat) : State := alone (withG { light with wait := some (.sleep till) } 1 5)

theorem met_WaitingThreads_sleep : Alone (asleep 100) ∧ gives (asleep 100) (.g 1) = some (5, asleep 100) ∧
    (asleep 100).my.wait = some (.sleep 100) ∧ 100 ≤ (asleep 100).clk ∧ (asleep 101).clk < 101 ∧
    (alone (withG light 1 5)).my.wait = none ∧ (5 : Word).toNat % 2 ^ 48 ≠ 0 ∧ (0 : Word).toNat % 2 ^ 48 = 0 ∧
    Alone (alone { light with pend := .got (.val 0) }) :=
  ⟨⟨rfl, rfl⟩, rfl, rfl, by decide, by decide, rfl, by decide, by decide, ⟨rfl, rfl⟩⟩

theorem met_LaunchAndDependentTasks_launch : ∃ s va, Alone s ∧ s.my.pend = .idle ∧ gives s (.g 4) = some (va, s) ∧
    spaceOf va ≠ .host ∧ Reaches s va 128 (.slice 0 0) ∧ Stays s va (.slice 0 0) false ∧ s.my.idem = false ∧
    s.myStoresDone ∧ settled s (.g 3) ∧ spaceOf va ≠ .ls :=
  ⟨alone lightSpawning, _, ⟨rfl, rfl⟩, rfl, rfl, by decide, ⟨by decide, by decide, by decide, rfl, by decide⟩,
    .inr (.inl (by decide)), by decide, by decide, by decide, by decide⟩

theorem met_LaunchAndDependentTasks_remote : ∃ s va, Alone s ∧ gives s (.g 1) = some (va, s) ∧ spaceOf va = .ls ∧
    Reaches s va 64 (.core 1) ∧ Stays s va (.core 1) false ∧ s.my.idem = false ∧ s.myStoresDone :=
  ⟨alone lightSpawning, _, ⟨rfl, rfl⟩, rfl, by decide, ⟨by decide, by decide, by decide, rfl, by decide⟩,
    .inr (.inr (.inr (.inr ⟨by decide, nofun⟩))), by decide, by decide⟩

/-- The machine of `alone` with a task record's counter in core 0's bank. -/
def counted (n : Byte) : State := { alone lightSpawning with mem := if n = 0 then [] else [(2 ^ 60 + 0x100, n)] }

theorem met_LaunchAndDependentTasks_own : ∃ s1 s2 n t p e b z s3, gives (counted 2) (.g 2) = some (0x80000000000100, counted 2) ∧
    Reaches (counted 2) 0x80000000000100 64 (.core 0) ∧ (counted 2).myTurn ∧
    (counted 2).decrement 0 (counted 2).my.actor 0x80000000000100 = (s1, .done n) ∧
    takes ((s1.addPath (.core 0)).wakeNext s1.my.launch s1.my.lmod) (.g 3) (BitVec.ofNat 64 n) = some t ∧
    (counted 0).decrement 0 (counted 0).my.actor 0x80000000000100 = (s2, .underflow) ∧
    (counted 2).check ((counted 2).myReq (.core 0) 0x80000000000100 64 true) = (s3, .ok p e b z) ∧
    (0x80000000000120 : Word).toNat % 64 ≠ 0 :=
  ⟨_, _, _, _, _, _, _, _, _, rfl, ⟨by decide, by decide, by decide, rfl, by decide⟩, by decide, rfl, rfl, rfl, rfl, by decide⟩

/-- The machine with the thread's launch, whose region is the core. -/
def homed : State := { alone lightSpawning with launches := [oneLaunch 1] }

theorem met_LaunchAndDependentTasks_local : ∃ s1 p e b z, (alone { lightSpawning with tstat := 0x8000 }).my.idem ∧
    Reaches homed 0x80000000000100 128 (.core 0) ∧ homed.myRegion (lsOwner 0x80000000000100) ∧
    Stays homed 0x80000000000100 (.core 0) false ∧ homed.my.idem = false ∧ homed.my.pend = .idle ∧
    homed.check (homed.myReq (.core 0) 0x80000000000100 128 false) = (s1, .ok p e b z) ∧ s1.myStoresDone ∧
    settled s1 (.g 3) :=
  ⟨_, _, _, _, _, by decide, ⟨by decide, by decide, by decide, rfl, by decide⟩, by decide, .inl rfl, rfl, rfl, rfl, by decide, by decide⟩

/-- A record whose counter is uncorrectable. -/
def spoiltRecord : State := { counted 2 with bad := [2 ^ 57 + 32] }

theorem met_LaunchAndDependentTasks_uncorrectable : ∃ s1 s2 p e b z, spoiltRecord.myTurn ∧ spoiltRecord.myStoresDone ∧
    spoiltRecord.decrement 0 spoiltRecord.my.actor 0x80000000000100 = (s1, .bad) ∧
    spoiltRecord.check (spoiltRecord.myReq (.core 0) 0x80000000000100 8 true) = (s2, .ok p e b z) ∧ s2.isBad p 8 :=
  ⟨_, _, _, _, _, _, by decide, by decide, rfl, rfl, by decide⟩

/-- A thread of a launch with a barrier. -/
def atBarrier (b : Barrier) : State := { alone thread with launches := [oneLaunch 0], barriers := [b] }
/-- Its barrier of the die, before and after its arrival. -/
def dieBarrier (arrived : List (Nat × Nat)) : Barrier :=
  { launch := 0, lmod := 0, sc := .die, inst := 0, id := 7, members := [7], arrived := arrived }

theorem met_BarriersAndFences_barriers : ∃ b c, barScope .die ∧ Alone (atBarrier (dieBarrier [])) ∧
    (atBarrier (dieBarrier [])).my.anch ∧
    (atBarrier (dieBarrier [])).barrierOf 0 .die (7#3).toNat = some b ∧ b.members.contains 7 ∧
    (b.arrived.any fun e => e.1 == 7) = false ∧ (atBarrier (dieBarrier [])).my.pend = .idle ∧
    (atBarrier (dieBarrier [(7, 1)])).barrierOf 0 .die (7#3).toNat = some c ∧ (c.arrived.any fun e => e.1 == 7) ∧
    (atBarrier (dieBarrier [])).hasArrived .die (7#3).toNat = false ∧
    (atBarrier (dieBarrier [(7, 1)])).hasArrived .die (7#3).toNat ∧ (alone light).my.anch = false ∧
    ∃ t, takes (atBarrier (dieBarrier [])) (.g 3) (b.phase.setWidth 64) = some t :=
  ⟨_, _, by decide, ⟨rfl, rfl⟩, by decide, rfl, by decide, by decide, rfl, rfl, by decide, by decide, by decide, by decide, _, rfl⟩

/-- A thread that has stored through a slice. -/
def stored : State := alone { thread with path := [.slice 0 5] }

theorem met_BarriersAndFences_fences : Alone stored ∧ stored.my.idem = false ∧
    (∀ p ∈ stored.net, p.uid = stored.my.uid → ∀ op w b, p.kind ≠ .post op w b) ∧ stored.my.pend = .idle ∧
    stored.loadsBack stored.my.uid stored.nextId ∧
    ((stored.core stored.cur.loc).buffered.any fun e => e.uid == stored.my.uid) = false ∧
    fenceTargets stored .core = [] ∧ fenceTargets stored .pod ≠ [] ∧ (storing.core 0).buffered.any fun e => e.uid == 7 := by
  refine ⟨⟨rfl, rfl⟩, by decide, fun p hp => absurd (show p ∈ [] from hp) List.not_mem_nil, rfl, by decide, by decide, ?_, ?_, by decide⟩
  · decide
  · decide

/-- A thread in group 5, with a mask in g1 and a member in g2. -/
def grouped (f : Frame) (g : List FGroup) : State := { alone (withG (withG f 1 0x8) 2 3) with fgroups := g }
/-- Group 5 with member 3, and with another member. -/
def group (u k : Nat) : FGroup := { launch := 0, lmod := 0, die := 0, grp := 5, mask := 0x8, enrolled := [(u, k)] }

theorem met_FlockInstructions_groups : Alone (grouped thread []) ∧ (grouped thread []).my.anch ∧
    gives (grouped thread []) (.g 1) = some (8, grouped thread []) ∧ gives (grouped thread []) (.g 2) = some (3, grouped thread []) ∧
    (grouped thread []).fgroup (5#4).toNat = none ∧ (3 : Word).toNat < 64 ∧ (8 : Word).getLsbD (3 : Word).toNat ∧
    (grouped thread [group 9 2]).fgroup (5#4).toNat = some (group 9 2) ∧ (group 9 2).mask = 8 ∧
    ((group 9 2).enrolled.any fun e => e.2 == 3) = false ∧ (group 9 2).member 7 = none ∧
    (grouped thread [group 7 3]).fgroup (5#4).toNat = some (group 7 3) ∧ ((group 7 3).member 7).isSome ∧
    1 ≤ (8 : Word).toNat ∧ (8 : Word).toNat ≤ 256 ∧ 256 < (257 : Word).toNat :=
  ⟨⟨rfl, rfl⟩, by decide, rfl, rfl, by decide, by decide, by decide, rfl, rfl, by decide, rfl, rfl, by decide, by decide,
    by decide, by decide⟩

theorem met_FlockInstructions_refused : (grouped thread []).fgroup (5#4).toNat = none ∧ (64 ≤ (64 : Word).toNat) ∧
    (8 : Word).getLsbD (2 : Word).toNat = false ∧ (group 9 2).mask ≠ 9 ∧ ((group 9 3).enrolled.any fun e => e.2 == 3) ∧
    (group 7 3).member 7 ≠ none ∧ (group 9 3).member 7 = none :=
  ⟨by decide, by decide, by decide, by decide, by decide, by decide, rfl⟩

/-- A ready tile of 4 rows of 64 I8 elements in slot 1 of core 0. -/
def readyTile : Tile := { base := 0x1000, rows := 4, cols := 64, fmt := 1, state := 2 }

/-- A group's member that asks for 256 bytes at 0 into that tile, whose handle it has in g5. -/
def asking : State :=
  (grouped (withG (withG thread 4 256) 5 1) [group 7 3]).updCore 0 fun c => { c with tiles := [(1, readyTile)] }

theorem met_FlockInstructions_load : ∃ k g m, Alone asking ∧ asking.my.anch ∧ gives asking (.g 3) = some (0, asking) ∧
    gives asking (.g 4) = some (256, asking) ∧ gives asking (.g (4 + 1)) = some (1, asking) ∧
    asking.handle asking.cur.loc 1 = some k ∧ asking.fgroup (5#4).toNat = some g ∧ g.member asking.my.uid = some m ∧
    spaceOf 0 = .dm ∧ vaBad 0 = false ∧ asking.homeAt 0 asking.my.launch asking.my.lmod 0 = .home (.slice 0 0) ∧
    (0 : Word).toNat + (256 : Word).toNat ≤ (asking.pageOf (.slice 0 0) 0).1 + (asking.pageOf (.slice 0 0) 0).2 ∧
    (256 : Word).toNat ≤ ((asking.core asking.cur.loc).tile k).bytes ∧ ((asking.core asking.cur.loc).tile k).state = 2 ∧
    asking.acqHeld (.slice 0 0) 0 = false ∧ asking.bankLocks asking.cur.loc < 64 ∧
    asking.handle asking.cur.loc 0x41 = none :=
  ⟨_, _, _, ⟨rfl, rfl⟩, by decide, rfl, rfl, rfl, rfl, rfl, rfl, by decide, by decide, rfl, by decide, by decide, by decide,
    by decide, by decide, by decide⟩

theorem met_FlockInstructions_loadRefused : ∃ k, asking.handle asking.cur.loc 1 = some k ∧
    { asking with fgroups := [] }.handle asking.cur.loc 1 = some k ∧ { asking with fgroups := [] }.fgroup (5#4).toNat = none ∧
    { asking with fgroups := [group 9 2] }.fgroup (5#4).toNat = some (group 9 2) ∧ (group 9 2).member 7 = none ∧
    spaceOf 0x80000000000000 ≠ .dm ∧ spaceOf 0x80000000000000 ≠ .spread ∧ 65536 < (65537 : Word).toNat ∧
    ((asking.core asking.cur.loc).tile k).bytes < (512 : Word).toNat ∧ (256 : Word).toNat ≤ ((asking.core asking.cur.loc).tile k).bytes ∧
    asking.homeAt 0 asking.my.launch asking.my.lmod 0x80 = .home (.slice 0 0) ∧
    (asking.pageOf (.slice 0 0) 0x3FFFFFC0).1 + (asking.pageOf (.slice 0 0) 0x3FFFFFC0).2 < (0x3FFFFFC0 : Word).toNat + 256 ∧
    (0x80 : Word).toNat % 256 ≠ 0 :=
  ⟨_, rfl, rfl, by decide, rfl, rfl, by decide, by decide, by decide, by decide, by decide, rfl, by decide, by decide⟩

/-- The machine of `alone` with the lease of its Pavilion held by a thread. -/
def leased (u : Option Nat) : State :=
  { alone thread with leases := [(0, { holder := u, left := 3 })] }

theorem met_LeaseResults : ∃ t, Alone (leased none) ∧ (leased none).my.anch ∧ (leased none).my.away = false ∧ (leased none).my.late = [] ∧ Loc.pav (leased none).cur.loc = 0 ∧
    ((leased none).lease 0).holder = none ∧ ((leased none).lease 0).waiters = [] ∧ settled (leased none) (.g 3) ∧
    ((leased (some 7)).lease 0).holder = some (leased (some 7)).my.uid ∧ ((leased (some 9)).lease 0).holder = some 9 ∧
    9 ≠ (leased (some 9)).my.uid ∧ takes (leased (some 9)) (.g 3) 0 = some t :=
  ⟨_, ⟨rfl, rfl⟩, by decide, rfl, rfl, by decide, rfl, rfl, by decide, rfl, rfl, by decide, rfl⟩

/-- A thread with a tile's handle in g1. -/
def tiled (t : Tile) : State := (alone (withG thread 1 1)).updCore 0 fun c => { c with tiles := [(1, t)] }

theorem met_TileResults : ∃ t, Alone (tiled readyTile) ∧ (tiled readyTile).my.anch ∧ (tiled readyTile).my.late = [] ∧
    gives (tiled readyTile) (.g 1) = some (1, tiled readyTile) ∧ (tiled readyTile).handle 0 1 = some 1 ∧
    takes (tiled readyTile) (.g 3) readyTile.word = some t ∧ readyTile.busy = false ∧
    (tiled { readyTile with state := 3 }).handle 0 1 = some 1 ∧ { readyTile with state := 3 : Tile }.busy ∧
    (tiled { readyTile with state := 3 }).my.fe = false ∧ (tiled readyTile).my.priv ∧ (alone light).my.priv = false ∧
    (tiled { readyTile with gen := 1 }).handle 0 1 = none :=
  ⟨_, ⟨rfl, rfl⟩, by decide, rfl, rfl, rfl, rfl, by decide, rfl, by decide, by decide, by decide, by decide, by decide⟩

/-- A thread with a bank address in g1 and a tile's shape in g2. -/
def shaping : State := alone (withG (withG thread 1 0x80000000001000) 2 (BitVec.ofNat 64 (4 + 64 * 2 ^ 9 + 2 ^ 18)))

theorem met_TileResults_alloc : ∃ shape s1 p e pb z n, gives shaping (.g 2) = some (shape, shaping) ∧ shapeOk shape ∧
    gives shaping (.g 1) = some (0x80000000001000, shaping) ∧ (0x80000000001000 : Word).toNat % 64 = 0 ∧
    vaBad 0x80000000001000 = false ∧ lsOwner 0x80000000001000 = shaping.cur.loc ∧ windowAt 0x80000000001000 = none ∧
    settled shaping (.g 3) ∧
    shaping.check { shaping.myReq (.core 0) 0x80000000001000 1 false with locks := false } = (s1, .ok p e pb z) ∧
    (0x80000000001000 : Word).toNat + shape.toNat % 2 ^ 9 * tilePitch (shape.toNat / 2 ^ 9 % 2 ^ 9) (shape.toNat / 2 ^ 18 % 2 ^ 6) ≤ pb + z ∧
    inArea (p % 2 ^ 22) (shape.toNat % 2 ^ 9 * tilePitch (shape.toNat / 2 ^ 9 % 2 ^ 9) (shape.toNat / 2 ^ 18 % 2 ^ 6)) = false ∧
    (pteFmt e = 0 ∧ pteGeo e = 0) ∧ (s1.core 0).freeSlot = some n :=
  ⟨_, _, _, _, _, _, _, rfl, by decide, rfl, by decide, by decide, by decide, by decide, by decide, rfl, by decide, by decide,
    by decide, rfl⟩

/-- A gang of two threads on cores 0 and 1. -/
def ganged : State :=
  { alone thread with
    frames := [(0, thread), (64, { thread with uid := 8 })]
    cores := [(0, { slots := (Vector.replicate 8 {}).set 0 { bound := some 0 } }),
              (1, { slots := (Vector.replicate 8 {}).set 0 { bound := some 0 } })]
    gangs := [{ id := 1, die := 0, x := 0, y := 0, size := 0, launch := 0, lmod := 0, formed := true, members := [0, 64] }] }

theorem met_GangInstructions : ∃ g rest, (3#3).toNat < 4 ∧ (alone thread).gangOf 0 = none ∧ (alone thread).my.anch ∧
    (alone thread).gangs = [] ∧ ganged.gangs = [g] ∧ g.formed ∧ g.members = ganged.me :: rest ∧ ganged.my.solo = false ∧
    g.members.Nodup ∧
    (∀ k ∈ g.members, (ganged.frame k).anch ∧ (ganged.slotOf k).isSome ∧ (ganged.frame k).full.getLsbD 3 ∧
      (ganged.frame k).used ∧ (ganged.frame k).late = []) ∧
    { ganged with cur := { loc := 1, frame := 0, slot := 0 } }.gangOf 64 = some g ∧ g.members.head? ≠ some 64 ∧
    (encode .yield).isSome :=
  ⟨_, _, by decide, by decide, by decide, rfl, rfl, by decide, rfl, by decide, by decide, by decide, rfl, by decide, by decide⟩

/-- The gang with another value, or poison, in g1 of its second member. -/
def parting (f : Frame) : State := { ganged with frames := [(0, thread), (64, f)] }

theorem met_GangInstructions_diverge : ∃ g, (parting { withG thread 1 1 with uid := 8 }).gangOf 0 = some g ∧ g.members.head? = some 0 ∧
    (parting { withG thread 1 1 with uid := 8 }).my.solo = false ∧
    (∀ k ∈ g.members, ((parting { withG thread 1 1 with uid := 8 }).slotOf k).isSome ∧
      ((parting { withG thread 1 1 with uid := 8 }).frame k).full.getLsbD 1 ∧
      ((parting { withG thread 1 1 with uid := 8 }).frame k).poisoned.getLsbD 1 = false ∧
      ((parting { withG thread 1 1 with uid := 8 }).frame k).anch ∧ ((parting { withG thread 1 1 with uid := 8 }).frame k).pend = .idle) ∧
    (∃ k ∈ g.members, branches .even ((parting { withG thread 1 1 with uid := 8 }).frame k).g[(1 : Fin 16)]) ∧
    (∃ k ∈ g.members, ¬branches .even ((parting { withG thread 1 1 with uid := 8 }).frame k).g[(1 : Fin 16)]) ∧
    (g.members.filter fun j => ((parting { poisoned1 with uid := 8 }).frame j).poisoned.getLsbD 1) = [64] :=
  ⟨_, rfl, rfl, by decide, by decide, ⟨0, by decide, (by decide : (0 : Word).toInt % 2 = 0)⟩, ⟨64, by decide, (by decide : ¬(1 : Word).toInt % 2 = 0)⟩,
    by decide⟩

/-- A thread that meets a reservation of another shape over its core. -/
def crowded : State :=
  { alone thread with gangs := [{ id := 1, die := 0, x := 0, y := 0, size := 1, launch := 0, lmod := 0, members := [64] }] }

theorem met_GangInstructions_crowded : crowded.gangOf crowded.me = none ∧ crowded.my.pend = .idle ∧
    (∀ g ∈ crowded.gangs, g.members.contains crowded.me = false) ∧
    (∃ g ∈ crowded.gangs, g.formed = false ∧ g.launch = crowded.my.launch ∧ g.lmod = crowded.my.lmod ∧ g.die = Loc.dieId crowded.cur.loc ∧
      rectsMeet g.x g.y g.size (gangCorner 0 crowded.cur.loc).1 (gangCorner 0 crowded.cur.loc).2 0 ∧
      ¬(g.x = (gangCorner 0 crowded.cur.loc).1 ∧ g.y = (gangCorner 0 crowded.cur.loc).2 ∧ g.size = 0)) :=
  ⟨rfl, rfl, by decide, ⟨_, .head _, rfl, rfl, rfl, by decide, by decide, by decide⟩⟩

/-- A supervisor with a value in g1. -/
def holding (v : Word) : State := alone (withG thread 1 v)

theorem met_SystemRegisters : ∃ t, Alone (holding 77) ∧ (Reg.g 1).np ∧ (holding 77).my.priv ∧
    gives (holding 77) (.g 1) = some (77, holding 77) ∧ (alone (withG light 1 77)).my.priv = false ∧
    takes (alone light) (.g 3) ((alone light).readS .clock) = some t ∧ ((alone light).module 0).ready ∧ SReg.trapcause ∉ fixedS ∧ SReg.clock ∈ openS :=
  ⟨_, ⟨rfl, rfl⟩, rfl, by decide, rfl, by decide, rfl, by decide, by decide, by decide⟩

/-- The machine of `alone` with the handler of core 0 serving frame 5 and an entry in the trap queue. -/
def serving : State := (alone thread).updCore 0 fun c =>
  { c with serving := some 5, trapq := [{ frame := 5, cause := .break, va := 0, pc := 0x8000, tcode := 0 }] }

theorem met_TrapsTaken : (alone thread).gangOf (alone thread).me = none ∧ (alone thread).cur.frame < 32 ∧
    (alone thread).my.away = false ∧ (alone thread).slotOf (alone thread).me = some 0 ∧
    ((alone thread).core 0).serving = none ∧ ((alone thread).core 0).trapq = [] ∧ ((alone thread).core 0 |>.slot 0).enabled ∧
    (alone thread).my.late = [] ∧ serving.gangOf serving.me = none ∧ serving.my.away = false ∧ serving.slotOf serving.me = some 0 ∧
    (serving.core 0).serving ≠ none ∧ (serving.core 0).trapq ≠ [] :=
  ⟨rfl, by decide, by decide, rfl, rfl, rfl, rfl, rfl, rfl, by decide, rfl, by decide, by decide⟩

/-- The handler of core 0 on slot 0, in issue, serving frame 1, where `ctx.sw` named the frame r and the queue is q. -/
def handling (r : Option Nat) (q : List TrapEntry) : State :=
  { frames := [(1, light), (2, { light with uid := 9 }), (32, { thread with uid := 2 ^ 60 + 32 })]
    cores := [(0, { slots := (Vector.replicate 8 {}).set 0 { bound := some 32 }, serving := some 1, retFrame := r
                    trappc := 0x8000, trapq := q })]
    cur := { loc := 0, frame := 32, slot := 0 }, clk := 100, nextId := 10 }

theorem met_TrapsTaken_handler : ∃ x, (handling none []).cur.frame = 32 ∧ (handling none []).slotOf (handling none []).me = some 0 ∧
    ((handling none []).core 0).serving = some 1 ∧ (∀ e ∈ ((handling none []).core 0).trapq, e.frame ≠ 1) ∧
    ((handling none []).core 0).trapq = [] ∧
    (∀ e ∈ ((handling none [{ frame := 3, cause := .break, va := 0, pc := 0, tcode := 0 }]).core 0).trapq, e.frame ≠ 1) ∧
    { handling none [] with launches := [oneLaunch 0] }.launchOf light.launch light.lmod = some x ∧
    ((handling none []).core ((handling none []).supLoc 0)).qevt.length + 5 ≤ 1024 ∧
    ((handling none []).evq.all fun e => e.src != homeKey (.core 0)) :=
  ⟨_, rfl, rfl, rfl, by decide, rfl, by decide, rfl, by decide, rfl⟩

theorem met_TrapReturn : ∃ f, Alone (handling none []) ∧ (handling none []).cur.slot < 8 ∧ (alone thread).cur.frame ≠ 32 ∧
    (handling none []).cur.frame = 32 ∧ (handling none []).my.priv ∧
    ((handling none []).core 0 |>.slot 0).bound = some 32 ∧ ((handling none []).core 0).serving = some f ∧ f < 32 ∧
    ((handling none []).frame (keyOf 0 f)).used ∧ ((handling none []).frame (keyOf 0 f)).away = false ∧
    ((handling none []).core 0).trapq = [] ∧ ((handling none []).core 0).retFrame = none ∧
    (handling (some 2) []).canSwitch 0 2 ∧
    ((handling none [{ frame := 3, cause := .break, va := 0, pc := 0, tcode := 0 }]).core 0).trapq ≠ [] :=
  ⟨1, ⟨rfl, rfl⟩, by decide, by decide, rfl, by decide, rfl, rfl, by decide, rfl, by decide, rfl, rfl, by decide, by decide⟩

theorem met_TrapReturn_pair : Alone (alone thread) ∧ (alone thread).cur.frame < 32 ∧ (alone thread).cur.slot < 8 ∧
    (alone thread).my.used ∧ (alone thread).my.away = false ∧ (alone thread).slotOf (alone thread).me = some (alone thread).cur.slot ∧
    ((alone thread).core 0 |>.slot 0).enabled ∧ ((alone thread).core 0).serving = none ∧ ((alone thread).core 0).trapq = [] ∧
    ((alone thread).frame (keyOf 0 32)).tstat.getLsbD 0 ∧ (alone thread).my.idem = false ∧
    (alone thread).my.late = [] ∧ (alone thread).gangOf (keyOf 0 32) = none ∧ (alone thread).my.pc &&& 3#64 = 0#64 :=
  ⟨⟨rfl, rfl⟩, by decide, by decide, rfl, by decide, rfl, rfl, rfl, rfl, by decide, by decide, rfl, rfl, rfl⟩

/-- A supervisor with a DM address in g1. -/
def naming : State := holding 0x40

theorem met_InvalidateAndFlush : Alone naming ∧ gives naming (.g 1) = some (0x40, naming) ∧ naming.my.priv ∧
    naming.my.pend = .idle ∧ vaBad 0x40 = false ∧ naming.myStoresDone ∧
    naming.homeAt 0 naming.my.launch naming.my.lmod 0x40 = .home (.slice 0 0) ∧ vaBad 0x200000000000000 ∧
    gives (holding 0x200000000000000) (.g 1) = some (0x200000000000000, holding 0x200000000000000) ∧
    (alone { withG thread 1 0x40 with pend := .sent 4 }).net = [] ∧
    (alone { withG thread 1 0x40 with pend := .sent 4 }).my.pend = .sent 4 ∧
    (naming.core 0).sb = [] ∧ (∀ x ∈ (naming.core 0).slots.toList, x.tsb = []) ∧ naming.my.used ∧ naming.my.late = [] :=
  ⟨⟨rfl, rfl⟩, rfl, by decide, rfl, by decide, by decide, rfl, by decide, rfl, rfl, rfl, rfl, by decide, rfl, rfl⟩

/-- A supervisor of launch 3 that names launch 0 of its module, whose status is st. -/
def managing (st : LStatus) : State :=
  { alone { thread with launch := 3 } with launches := [{ oneLaunch 0 with status := st }] }

/-- What `preempt` makes of the machine that runs launch x. -/
def puttingAway (s : State) (x : Launch) : State := (s.freeze x s.me).putAllAway x s.me

theorem met_PreemptAndResume : ∃ s1, Alone (managing .running) ∧
    gives (managing .running) .z = some (0, managing .running) ∧ Reg.z.np ∧ (managing .running).my.priv ∧
    (managing .running).launchOf 0 0 = some { oneLaunch 0 with status := .running } ∧
    (managing .pending).launchOf 0 0 = some { oneLaunch 0 with status := .pending } ∧
    (managing .held).launchOf 0 0 = some { oneLaunch 0 with status := .held } ∧
    (managing .done).launchOf 0 0 = some { oneLaunch 0 with status := .done } ∧
    (managing .preempted).launchOf 0 0 = some { oneLaunch 0 with status := .preempted } ∧
    (alone thread).launchOf 0 0 = none ∧ s1.my.launch ≠ 0 ∧
    (puttingAway (managing .running) { oneLaunch 0 with status := .running }).allAway { oneLaunch 0 with status := .running } 0 ∧
    (puttingAway (managing .running) { oneLaunch 0 with status := .running }).savePavs { oneLaunch 0 with status := .running } = (s1, true) :=
  ⟨_, ⟨rfl, rfl⟩, rfl, rfl, by decide, rfl, rfl, rfl, rfl, rfl, rfl, by decide, by decide, rfl⟩

/-- A supervisor of the launch that it names. -/
def leading : State := { alone thread with launches := [oneLaunch 0] }
/-- A supervisor of another launch beside a command of the one that it names. -/
def multiplying (st : LStatus) : State :=
  { managing st with
    cmds := [{ id := 5, eng := .pavilion 0, code := 0x0101, va := 0, block := [], src := 0, key := 64, uid := 9, user := false, seq := 1
               launch := 0, lmod := 0, begun := true }] }

theorem met_PreemptAndResume_own : ∃ x s1, leading.launchOf 0 0 = some x ∧ x.status = .running ∧ (puttingAway leading x).allAway x 0 ∧
    (puttingAway leading x).savePavs x = (s1, true) ∧ s1.my.launch = x.id ∧ s1.my.lmod = x.mod ∧ s1.cur.frame < 32 :=
  ⟨_, _, rfl, rfl, by decide, rfl, rfl, rfl, by decide⟩

/-- A supervisor whose `preempt` goes on, with the threads of the launch put away. -/
def preempting : State := { managing .preempted with frames := [(0, { thread with launch := 3, pend := .got (.val 0) })] }

theorem met_PreemptAndResume_waits : ∃ x y s1 s2, (multiplying .running).launchOf 0 0 = some x ∧ x.status = .running ∧
    (multiplying .running).my.pend = .idle ∧ (puttingAway (multiplying .running) x).allAway x 0 ∧
    (puttingAway (multiplying .running) x).savePavs x = (s1, false) ∧ preempting.launchOf 0 0 = some y ∧ y.status = .preempted ∧
    preempting.my.pend = .got (.val 0) ∧ (preempting.putAllAway y preempting.me).allAway y 0 ∧
    (preempting.putAllAway y preempting.me).savePavs y = (s2, true) ∧ s2.my.launch ≠ y.id :=
  ⟨_, _, _, _, rfl, rfl, rfl, by decide, rfl, rfl, rfl, rfl, by decide, rfl, by decide⟩

/-- The same beside a thread of the launch in slot 1 whose atomic is on its way. -/
def busyBeside : State :=
  { managing .running with
    frames := [(0, { thread with launch := 3 }), (1, { light with uid := 9, pend := .sent 4 })]
    cores := [(0, { slots := ((Vector.replicate 8 {}).set 0 { bound := some 0 }).set 1 { bound := some 1 } })]
    net := [{ id := 4, kind := .amo .add true 5 0, src := 0, key := 1, uid := 9, home := .slice 0 0, va := 0x40 }] }

theorem met_PreemptAndResume_inIssue : ∃ x, Alone busyBeside ∧ busyBeside.launchOf 0 0 = some x ∧ x.status = .running ∧ busyBeside.my.pend = .idle ∧
    (puttingAway busyBeside x).allAway x 0 = false ∧ (1 ∈ busyBeside.threadsOf x.id x.mod) ∧ (busyBeside.freeze x 0).inIssue 1 :=
  ⟨_, ⟨rfl, rfl⟩, rfl, rfl, rfl, by decide, by decide, by decide⟩

/-- A supervisor that names frame 1, which holds a ready thread, where qevt is q. -/
def switching (q : List (Word × Bool)) : State :=
  { (holding 1).updCore 0 fun c => { c with evtmask := 0xFFFF, qevt := q } with
    frames := [(0, withG thread 1 1), (1, { light with uid := 9 })] }

theorem met_ContextAndFrames : ∃ t, Alone (switching [(0x13, true)]) ∧ gives (switching [(0x13, true)]) (.g 1) = some (1, switching [(0x13, true)]) ∧
    (switching [(0x13, true)]).my.priv ∧ (∃ w ∈ ((switching [(0x13, true)]).core 0).qevt, w.2 ∧ ((switching [(0x13, true)]).core 0).evtmask.getLsbD (w.1.toNat / 16 % 16)) ∧
    takes (switching [(0x13, true)]) (.g 3) 1 = some t ∧ ((switching []).core 0).qevt = [] ∧
    (handling none []).cur.frame = 32 ∧ (switching []).cur.frame ≠ 32 ∧ (switching []).canSwitch 0 1 ∧
    (switching []).canSwitch 0 2 = false ∧ (switching []).slotOf (switching []).me = some 0 ∧ (switching []).my.idem = false ∧
    (switching []).my.used ∧ (switching []).my.away = false ∧ (switching []).inTrapq (switching []).me = false ∧
    ((switching []).core 0).serving ≠ some 0 ∧ settled (switching [(0x13, true)]) (.g 3) ∧ (alone light).my.priv = false :=
  ⟨_, ⟨rfl, rfl⟩, rfl, by decide, ⟨(0x13, true), by decide, by decide, by decide⟩, rfl, rfl, rfl, by decide, by decide, by decide, rfl, by decide,
    rfl, by decide, by decide, by decide, by decide, by decide⟩

theorem met_ContextAndFrames_window : ∃ i n sgn acq t va f o, loads i = some (n, sgn, acq, .g 3, .g 1, 0) ∧ i.wf ∧
    va = address 0x80000100000010 n 0 ∧
    Alone (holding 0x80000100000010) ∧ gives (holding 0x80000100000010) (.g 1) = some (0x80000100000010, holding 0x80000100000010) ∧
    vaBad va = false ∧ va.toNat % n = 0 ∧ windowAt va = some (f, o) ∧ (holding 0x80000100000010).my.idem = false ∧
    (holding 0x80000100000010).acqHeld (.core 0) va = false ∧ (holding 0x80000100000010).my.priv ∧
    lsOwner va = (holding 0x80000100000010).cur.loc ∧ settled (holding 0x80000100000010) (.g 3) ∧
    takes (holding 0x80000100000010) (.g 3) 5 = some t ∧ (alone (withG light 1 0x80000100000010)).my.priv = false :=
  ⟨.ldD (.g 3) (.g 1) false 0, _, _, _, _, _, _, _, rfl, by decide, rfl, ⟨rfl, rfl⟩, rfl, by decide, by decide, rfl, by decide,
    by decide, by decide, by decide, by decide, rfl, by decide⟩

/-- Stores to the issuer's own `tstat` and to the frame beside it, and frames whose instruction is or is not under way. -/
theorem met_ContextAndFrames_windowStores : ∃ i n rel y va wa o q, stores i = some (n, rel, .g 3, .g 1, 0) ∧ i.wf ∧
    gives (holding 0x80000100000090) (.g 3) = some (y, holding 0x80000100000090) ∧ va = address 0x80000100000090 n 0 ∧
    windowAt va = some (0, o) ∧ o ≤ 147 ∧ 148 < o + n ∧ (holding 0x80000100000090).cur.frame = 0 ∧ (holding 0x80000100000090).my.pend = .idle ∧
    (holding 0x80000100000090).my.late = [] ∧ (holding 0x80000100000090).acqHeld (.core 0) va = false ∧
    wa = address 0x80000100000810 n 0 ∧ windowAt wa = some (1, q) ∧ (holding 0x80000100000810).cur.frame ≠ 1 ∧
    lsOwner wa = (holding 0x80000100000810).cur.loc ∧ ((alone thread).frame (keyOf 0 1)).pend = .idle ∧
    (busyBeside.frame (keyOf 0 1)).pend ≠ .idle :=
  ⟨.stD (.g 3) (.g 1) false 0, _, _, _, _, _, _, _, rfl, by decide, rfl, rfl, rfl, by decide, by decide, rfl, rfl, rfl, by decide, rfl, rfl,
    by decide, by decide, rfl, by decide⟩

/-- The machine of `alone` with an anchored thread's vectors 1 and 2 filled and lanes 0 and 3 in mask 5. -/
def vectors (f : Frame) : State :=
  alone { f with v := (f.v.set 1 0x7000000080000001FFFFFFFF00000002).set 2 0x300000001, m := f.m.set 5 9 }

theorem met_VectorElementResults : ∃ i ty f x y z r q, vecTwoOps (vectors thread).my.rmode i = some (ty, 3, .v 1, .v 2, 5, f) ∧
    i.wf ∧ Alone (vectors thread) ∧ (vectors thread).my.anch ∧ vgives (vectors thread) (vtyBits ty) (.v 1) = some x ∧
    vgives (vectors thread) (vtyBits ty) (.v 2) = some y ∧ vsettled (vectors thread) 3 5 ∧ vwhole (vectors thread) 3 ∧
    (∀ e < count (vtyBits ty), elemOf (vtyBits ty) r e =
      if (vectors thread).my.active 5 (vtyBits ty) e then
        f (elemOf (vtyBits ty) x e) (elemOf (vtyBits ty) y e) (elemOf (vtyBits ty) (vectors thread).my.v[(3 : Fin 16)] e)
      else elemOf (vtyBits ty) (vectors thread).my.v[(3 : Fin 16)] e) ∧
    vecOneOps (.vabs .i8 3 (.g 4) 0) = some (.i8, 3, .g 4, 0, z) ∧ vgives (vectors thread) 8 (.g 4) = some q ∧
    (∀ e < 64, elemOf 8 (0 : BitVec 512) e = z (elemOf 8 q e)) :=
  ⟨.vsub .i32 3 (.v 1) (.v 2) 5, _, _, _, _, _, 0x70000000000000000000000000000001, _, rfl, by decide +kernel, ⟨rfl, rfl⟩, by decide +kernel, rfl, rfl,
    by decide +kernel, by decide +kernel, by decide +kernel, rfl, rfl, by decide +kernel⟩

theorem met_VectorElementResults_wide : ∃ x y r q, vtFloat .f32 ∧ vgives (vectors thread) 32 (.v 1) = some x ∧
    vgives (vectors thread) 32 (.v 2) = some y ∧ vsettled (vectors thread) 3 5 ∧
    (∀ e < 16, elemOf 32 r e =
      if (vectors thread).my.active 5 32 e then (vfmt .f32).div (vectors thread).my.rmode (elemOf 32 x e) (elemOf 32 y e)
      else elemOf 32 (vectors thread).my.v[(3 : Fin 16)] e) ∧
    (∀ e < 64, elemOf 8 q e = if e < 16 then vcvtElem 0 .i8 .i32 (elemOf 32 x e) % 2 ^ 8 else 0) := by
  refine ⟨_, _, buildVec 32 fun e =>
    if (vectors thread).my.active 5 32 e then (vfmt .f32).div (vectors thread).my.rmode
        (elemOf 32 (vectors thread).my.v[(1 : Fin 16)] e) (elemOf 32 (vectors thread).my.v[(2 : Fin 16)] e)
      else elemOf 32 (vectors thread).my.v[(3 : Fin 16)] e, buildVec 8 fun e =>
    if e < 16 then vcvtElem 0 .i8 .i32 (elemOf 32 (vectors thread).my.v[(1 : Fin 16)] e) % 2 ^ 8 else 0,
    by decide +kernel, rfl, rfl, by decide +kernel, by decide +kernel, by decide +kernel⟩

/-- A thread whose vector 1 awaits a result, and one whose vector 1 has bad parity. -/
def unread (busy : Bool) : State :=
  alone (if busy then { thread with vbusy := 2 } else { thread with par := { v := 2 } })

theorem met_VectorElementResults_stops : ∃ i ty f g, vecTwoOps (unread true).my.rmode i = some (ty, 3, .v 1, .v 2, 5, f) ∧ i.wf ∧
    Alone (unread true) ∧ (unread true).my.anch ∧ (unread true).my.vbusy.getLsbD 1 ∧
    vecTwoOps (unread false).my.rmode i = some (ty, 3, .v 1, .v 2, 5, g) ∧ Alone (unread false) ∧ (unread false).my.anch ∧
    (unread false).my.vbusy.getLsbD 1 = false ∧ (unread false).my.par.v.getLsbD 1 :=
  ⟨.vsub .i32 3 (.v 1) (.v 2) 5, _, _, _, rfl, by decide +kernel, ⟨rfl, rfl⟩, by decide +kernel, by decide +kernel, rfl, ⟨rfl, rfl⟩,
    by decide +kernel, by decide +kernel, by decide +kernel⟩

theorem met_VectorElementResults_old : ∃ i ty f g x y z w, vecTwoOps (unread true).my.rmode i = some (ty, 1, .v 3, .v 4, 0, f) ∧
    readsD i ∧ i.wf ∧ vgives (unread true) (vtyBits ty) (.v 3) = some x ∧ vgives (unread true) (vtyBits ty) (.v 4) = some y ∧
    (unread true).my.vbusy.getLsbD 1 ∧ vecTwoOps (unread false).my.rmode i = some (ty, 1, .v 3, .v 4, 0, g) ∧
    vgives (unread false) (vtyBits ty) (.v 3) = some z ∧ vgives (unread false) (vtyBits ty) (.v 4) = some w ∧
    (unread false).my.vbusy.getLsbD 1 = false ∧ (unread false).my.par.v.getLsbD 1 :=
  ⟨.vfma .f32 1 (.v 3) (.v 4) 0, _, _, _, _, _, _, _, rfl, rfl, by decide +kernel, rfl, rfl, by decide +kernel, rfl, rfl, rfl,
    by decide +kernel, by decide +kernel⟩

theorem met_VectorLaneResults : ∃ i ty p x y m r, vecConds i = some (ty, 2, .v 1, .v 2, 0, p) ∧ i.wf ∧
    Alone (vectors thread) ∧ (vectors thread).my.anch ∧
    vgives (vectors thread) (vtyBits ty) (.v 1) = some x ∧ vgives (vectors thread) (vtyBits ty) (.v 2) = some y ∧
    (∀ j < 16, (m : BitVec 16).getLsbD j = ((vectors thread).my.active 0 32 j && (List.range (32 / vtyBits ty)).all fun q =>
      p (elemOf (vtyBits ty) x (j * (32 / vtyBits ty) + q)) (elemOf (vtyBits ty) y (j * (32 / vtyBits ty) + q)))) ∧
    (5 : Fin 8) ≠ 0 ∧ vsettled (vectors thread) 3 0 ∧
    (∀ j < 16, elemOf 32 r j = if (vectors thread).my.m[(5 : Fin 8)].getLsbD j then elemOf 32 x j else elemOf 32 y j) ∧
    ∃ t, takes (vectors thread) (.g 4) (wrap ((List.range 16).countP fun j => (vectors thread).my.m[(5 : Fin 8)].getLsbD j)) = some t :=
  ⟨.vcmpLt .i16 2 (.v 1) (.v 2) 0, _, _, _, _, 2, buildVec 32 fun j => [2, 3, 0, 0x70000000].getD j 0, rfl, by decide +kernel,
    ⟨rfl, rfl⟩, by decide +kernel, rfl, rfl, by decide +kernel, by decide +kernel, by decide +kernel, by decide +kernel, _, rfl⟩

/-- The machine of `vectors` with an index in g6. -/
def indexed : State := vectors (withG thread 6 0xFFFFFFFFFFFFFFFF)

theorem met_VectorLaneResults_elements : ∃ x i y r q t u w b hits n, vgives indexed 32 (.v 1) = some x ∧
    gives indexed (.g 6) = some (i, indexed) ∧ vsettled indexed 3 5 ∧ vwhole indexed 3 ∧ vsettled indexed 3 0 ∧
    (∀ e < 16, elemOf 32 r e = if indexed.my.active 5 32 e then elemOf 32 x (elemOf 32 x e % 16) else elemOf 32 indexed.my.v[(3 : Fin 16)] e) ∧
    takes indexed (.g 4) (asWord .i32 (elemOf 32 x (i.toNat % 16))) = some t ∧ gives indexed (.g 6) = some (y, indexed) ∧
    (∀ e < 16, elemOf 32 q e = if e = i.toNat % 16 then y.toNat % 2 ^ 32 else elemOf 32 indexed.my.v[(3 : Fin 16)] e) ∧
    takes indexed (.g 4) (wrap ((activeElems indexed 32 5 x).map (signedOf 32)).sum) = some u ∧
    takes indexed (.g 4) (asWord .f32 (combined ((vfmt .f32).minmax false) (vfmt .f32).infBits (activeElems indexed 32 5 x))) = some w ∧
    gives indexed (.g 7) = some (b, indexed) ∧
    hits = (List.range 16).filter (fun j => indexed.my.active 5 32 j && elemOf 32 x j != 0) ∧
    (∀ j < 16, elemOf 32 n j = match hits[j]? with | some p => (b.toNat + p) % 2 ^ 32 | none => 2 ^ 32 - 1) := by
  refine ⟨_, _, _, buildVec 32 fun j => [0x80000001, 0, 0, 2].getD j 0, buildVec 32 fun j => if j = 15 then 0xFFFFFFFF else 0, _, _, _, _,
    [0, 3], buildVec 32 fun j => if j < 2 then 3 * j else 0xFFFFFFFF, rfl, rfl, by decide +kernel, by decide +kernel, by decide +kernel, ?_, rfl, rfl, by decide +kernel, rfl, rfl, rfl,
    by decide +kernel, by decide +kernel⟩
  decide +kernel

/-- A thread with an address in g2, an offset in g6 and lane 1 alone in mask 5. -/
def strided (va : Word) : State :=
  alone { withG (withG thread 2 va) 6 0xFFFFFFFFFFFFFFFE with m := (Vector.replicate 8 0xFFFF).set 5 2 }

theorem lanesLoaded_idle (n : Nat) (k : Fin 8) (addr : Nat → Word) (s : State) (acc : BitVec 512) :
    ∀ js, (∀ j ∈ js, s.my.active k 32 j = false) → lanesLoaded n k addr js s acc s acc
  | [], _ => ⟨rfl, rfl⟩
  | j :: r, h => by
    unfold lanesLoaded
    rw [if_neg (by simp [h j])]
    exact lanesLoaded_idle n k addr s acc r fun x hx => h x (List.mem_cons_of_mem _ hx)

theorem lanesStored_idle (n : Nat) (k : Fin 8) (addr : Nat → Word) (v : BitVec 512) (s : State) :
    ∀ js, (∀ j ∈ js, s.my.active k 32 j = false) → lanesStored n k addr v js s s
  | [], _ => rfl
  | j :: r, h => by
    unfold lanesStored
    rw [if_neg (by simp [h j])]
    exact lanesStored_idle n k addr v s r fun x hx => h x (List.mem_cons_of_mem _ hx)

/-- Its address is in its own bank. -/
def stridedOwn : State := strided 0x80000000000100

theorem met_VectorLoadsAndStores_own : ∃ i t r, vecLoads i = some (.h, 3, 2, .inl (.g 6), 5) ∧ i.wf ∧
    Alone stridedOwn ∧ stridedOwn.my.anch ∧ gives stridedOwn (.g 2) = some (0x80000000000100, stridedOwn) ∧
    bGives stridedOwn 0xFFFFFFFFFFFFFFFE 0 (.inl (.g 6)) ∧ stridedOwn.laneOut = none ∧ vsettled stridedOwn 3 5 ∧
    stridedOwn.my.pend = .idle ∧ stridedOwn.my.lrv = false ∧
    lanesLoaded 2 5 (laneAddress i 2 0x80000000000100 0xFFFFFFFFFFFFFFFE 0) (List.range 16) stridedOwn
      stridedOwn.my.v[(3 : Fin 16)] t r ∧ t.my.vbusy.getLsbD 3 = false ∧ t.cur.fan = [] := by
  refine ⟨.vlds .h 3 2 (.g 6) 5, (stridedOwn.check (stridedOwn.myReq (.core 0) 0x800000000000FE 2 false)).1,
    setLane 0 1 ((stridedOwn.check (stridedOwn.myReq (.core 0) 0x800000000000FE 2 false)).1.num (2 ^ 60 + 0xFE) 2),
    rfl, by decide, ⟨rfl, rfl⟩, by decide, rfl, rfl, rfl, by decide, rfl, rfl, ?_, by decide, rfl⟩
  show lanesLoaded 2 5 _ (0 :: 1 :: (List.range 14).map (· + 2)) _ _ _ _
  unfold lanesLoaded
  rw [if_neg (by decide)]
  unfold lanesLoaded
  rw [if_pos (by decide)]
  exact ⟨⟨⟨by decide, by decide, by decide, rfl, by decide⟩, .inl rfl, by decide⟩, _, _, _, _, _, _, rfl,
    .inr ⟨rfl, by decide, by decide, rfl⟩, lanesLoaded_idle 2 5 _ _ _ _ (by decide)⟩

theorem met_VectorLoadsAndStores_away : ∃ i, vecLoads i = some (.w, 3, 2, .inl (.g 6), 5) ∧ (strided 0x44).my.active 5 32 1 ∧
    (∀ q < 1, (strided 0x44).my.active 5 32 q = false) ∧
    LaneGoes (strided 0x44) (laneAddress i 4 0x44 0xFFFFFFFFFFFFFFFC 0 1) 4 (.slice 0 0) ∧ Home.slice 0 0 ≠ .core 0 ∧
    (strided 0x44).forwarded (laneAddress i 4 0x44 0xFFFFFFFFFFFFFFFC 0 1) 4 none = .none ∧
    (alone { thread with pend := .lanes 16 5 }).my.pend = .lanes 16 5 :=
  ⟨.vlds .w 3 2 (.g 6) 5, rfl, by decide, by decide, ⟨⟨by decide, by decide, by decide, rfl, by decide⟩,
    .inr (.inl (by decide)), by decide⟩, by decide, by decide, rfl⟩

/-- The launch of another thread that has closed core 0, or core 1 too. -/
def closedTo : Launch := { oneLaunch 0 with id := 9, lr := { (oneLaunch 0).lr with flags := 2 } }
/-- The thread of `strided` as a user, with the leaf of its bank. -/
def barredLane (va : Word) (ls : List Launch) (pte : Word) : State :=
  { alone { (strided va).my with tstat := 2 } with
    launches := ls, homes := [(homeKey (.core 0), { tlb := [{ bankPage with pte := pte }] })] }

theorem met_VectorLoadsAndStores_refused : ∃ i s1 s2, vecLoads i = some (.w, 3, 2, .inl (.g 6), 5) ∧
    Alone (barredLane 0x80000000000100 [closedTo] 0xBF) ∧ (barredLane 0x80000000000100 [closedTo] 0xBF).my.anch ∧
    (barredLane 0x80000000000100 [closedTo] 0xBF).my.pend = .idle ∧ (barredLane 0x80000000000100 [closedTo] 0xBF).my.lrv = false ∧
    (barredLane 0x80000000000100 [closedTo] 0xBF).my.active 5 32 1 ∧ (∀ q < 1, (barredLane 0x80000000000100 [closedTo] 0xBF).my.active 5 32 q = false) ∧
    LaneGoes (barredLane 0x80000000000100 [closedTo] 0xBF) (laneAddress i 4 0x80000000000100 0xFFFFFFFFFFFFFFFC 0 1) 4 (.core 0) ∧
    (barredLane 0x80000000000100 [closedTo] 0xBF).check
      ((barredLane 0x80000000000100 [closedTo] 0xBF).myReq (.core 0) (laneAddress i 4 0x80000000000100 0xFFFFFFFFFFFFFFFC 0 1) 4 false) = (s1, .isol) ∧
    LaneGoes (barredLane 0x80000000008008 [] 0x1F000000BF) (laneAddress i 4 0x80000000008008 0xFFFFFFFFFFFFFFFC 0 1) 4 (.core 0) ∧
    (barredLane 0x80000000008008 [] 0x1F000000BF).check
      ((barredLane 0x80000000008008 [] 0x1F000000BF).myReq (.core 0) (laneAddress i 4 0x80000000008008 0xFFFFFFFFFFFFFFFC 0 1) 4 false) = (s2, .area) :=
  ⟨.vlds .w 3 2 (.g 6) 5, _, _, rfl, ⟨rfl, rfl⟩, by decide, rfl, rfl, by decide, by decide,
    ⟨⟨by decide, by decide, by decide, rfl, by decide⟩, .inl rfl, by decide⟩, rfl,
    ⟨⟨by decide, by decide, by decide, rfl, by decide⟩, .inl rfl, by decide⟩, rfl⟩

/-- A lane of a user's vector load on its way to core 1, whose region is closed or whose page is a hardware area. -/
def farLane (ls : List Launch) (pte : Word) : State :=
  { alone { thread with tstat := 2, pend := .lanes 3 9 } with
    launches := ls, homes := [(homeKey (.core 1), { tlb := [{ bankPage with base := 2 ^ 55 + 2 ^ 33, pte := pte }] })]
    net := [{ id := 4, kind := .lane 3 3 4, src := 0, key := 0, uid := 7, user := true, home := .core 1, va := 0x80000200008000 }] }

theorem met_VectorLoadsAndStores_refusedFar : ∃ p t u, (farLane [closedTo] 0xBF).pkt 0 = some p ∧ p.kind = .lane 3 3 4 ∧
    (farLane [closedTo] 0xBF).mayPerform 0 p ∧ ((farLane [closedTo] 0xBF).dropPkt 0).check (p.req 4 false) = (t, .isol) ∧
    (t.frame p.key).used ∧ (t.frame p.key).uid = p.uid ∧ (t.frame p.key).pend = .lanes 3 9 ∧
    (farLane [] 0x1F000000BF).pkt 0 = some p ∧ (farLane [] 0x1F000000BF).mayPerform 0 p ∧
    ((farLane [] 0x1F000000BF).dropPkt 0).check (p.req 4 false) = (u, .area) ∧ (u.frame p.key).pend = .lanes 3 9 :=
  ⟨_, _, _, rfl, rfl, by decide, rfl, rfl, rfl, rfl, rfl, by decide, rfl, rfl⟩

theorem met_VectorLoadsAndStores_store : ∃ i t, vecStores i = some (.b, 3, 2, .inl (.g 6), 5) ∧ i.wf ∧
    vwhole stridedOwn 3 ∧
    lanesStored 1 5 (laneAddress i 1 0x80000000000100 0xFFFFFFFFFFFFFFFE 0) stridedOwn.my.v[(3 : Fin 16)] (List.range 16) stridedOwn t := by
  have ⟨u, hu, hq⟩ : ∃ u, (∀ j ∈ (List.range 14).map (· + 2), u.my.active 5 32 j = false) ∧
      ∃ s1 p e b z, stridedOwn.check (stridedOwn.myReq (.core 0) 0x800000000000FF 1 true) = (s1, .ok p e b z) ∧
        queued s1 { s1.mkStore 0x800000000000FF 1 (BitVec.ofNat 64 (elemOf 32 stridedOwn.my.v[(3 : Fin 16)] 1)) (.core 0) none with
          phys := some p } = some u := ⟨_, ?_, _, _, _, _, _, rfl, rfl⟩
  · refine ⟨.vst .b 3 2 (.g 6) 5, u, rfl, by decide, by decide, ?_⟩
    show lanesStored 1 5 _ _ (0 :: 1 :: (List.range 14).map (· + 2)) _ _
    unfold lanesStored
    rw [if_neg (by decide)]
    unfold lanesStored
    rw [if_pos (by decide)]
    exact ⟨.core 0, u, ⟨⟨by decide, by decide, by decide, rfl, by decide⟩, .inl rfl, by decide⟩,
      lanesStored_idle 1 5 _ _ _ _ hu, .inr ⟨rfl, hq⟩⟩
  · decide

theorem met_VectorTilesAndRights : ∃ n p e r, gives asking (.g 5) = some (1, asking) ∧ gives asking (.g 3) = some (0, asking) ∧
    asking.handle 0 1 = some n ∧ e = (asking.core 0).tile n ∧ e.state = 2 ∧ e.chunk 0 0 = some p ∧
    asking.locks = [] ∧ asking.acqHeld (.core 0) 0 = false ∧ vsettled asking 3 0 ∧ vwhole asking 3 ∧
    ((asking.core 0).buffered.any fun q => q.covers 7 p 64) = false ∧ asking.pouring = false ∧ asking.myTurn ∧ asking.isBad p 64 = false ∧ idempotent.pouring = false ∧ ((idempotent.core 0).slot 0).tsb.length ≤ 48 ∧
    (∀ j < 16, elemOf 32 r j = if asking.my.active 0 32 j then asking.num (p + 4 * j) 4 else elemOf 32 asking.my.v[(3 : Fin 16)] j) ∧
    asking.my.idem = false ∧ (asking.core 0).sb = [] ∧ Instr.wf (.vld .w 3 2 (.g 4) 0) ∧
    (∃ w, encode (.vld .w 3 2 (.g 4) 0) = some w ∧ 0x30 ≤ w.toNat / 2 ^ 26 ∧ w.toNat / 2 ^ 26 ≤ 0x35) ∧ (alone light).my.anch = false :=
  ⟨_, _, _, 0, rfl, rfl, rfl, rfl, rfl, rfl, rfl, by decide, by decide, by decide, by decide, by decide, by decide, by decide,
    by decide, by decide, by decide +kernel, by decide, by decide, by decide, ⟨_, rfl, by decide, by decide⟩, by decide⟩

theorem met_VectorTilesAndRights_decoded : ∃ v, (answering (.vec 5)).my.pend = .got (.vec v) ∧
    (answering (.fail .formatSplit 0x40)).my.pend = .got (.fail .formatSplit 0x40) ∧ (strided 0x44).my.pend = .idle ∧
    (strided 0x44).laneOut = none ∧ spaceOf (0x44 + 0) ≠ .host ∧ spaceOf (0x44 + 0 + 127) ≠ .spread ∧
    Reaches (strided 0x44) (0x44 + 0) 1 (.slice 0 0) ∧ Stays (strided 0x44) (0x44 + 0) (.slice 0 0) false ∧
    (∀ j < 16, elemOf 32 (5 : BitVec 512) j = if (answering (.vec 5)).my.active 0 32 j then elemOf 32 v j else 0) :=
  ⟨5, rfl, rfl, rfl, rfl, by decide, by decide, ⟨by decide, by decide, by decide, rfl, by decide⟩, .inr (.inl (by decide)), by decide +kernel⟩

/-- The thread of `strided` with its bank a page of F32. -/
def stridedTyped : State := { typed 7 with frames := stridedOwn.frames }

theorem met_VectorTilesAndRights_ownDecoded : ∃ s1 v, stridedTyped.my.pend = .idle ∧ stridedTyped.laneOut = none ∧
    gives stridedTyped (.g 2) = some (0x80000000000100, stridedTyped) ∧
    Reaches stridedTyped 0x80000000000100 1 (.core 0) ∧ Stays stridedTyped 0x80000000000100 (.core 0) false ∧ stridedTyped.myTurn ∧
    vldfRead stridedTyped .f32 stridedTyped.my.rmode (stridedTyped.reader stridedTyped.me stridedTyped.nextId) 0x80000000000100
      (stridedTyped.my.activeLanes 5) stridedTyped.my.v[(3 : Fin 16)] = (s1, .ok (.lanes v)) ∧
    s1.my.vbusy.getLsbD 3 = false ∧ s1.cur.fan = [] :=
  ⟨_, _, rfl, rfl, rfl, ⟨by decide, by decide, by decide, rfl, by decide⟩, .inl rfl, by decide, rfl, by decide, rfl⟩

/-- A packet of the thread of `alone`. -/
def packet (k : PKind) (h : Home) (va : Word) : Pkt := { id := 4, kind := k, src := 0, key := 0, uid := 7, home := h, va := va }
/-- The machine of `alone` with one packet on its way, whose thread holds its slot for it. -/
def sending (p : Pkt) : State := { alone { thread with pend := .sent 4 } with net := [p] }

theorem met_ResultsArrive : ∃ p, (sending (packet (.result 3 5 false true none) (.core 0) 0)).pkt 0 = some p ∧
    Resident (sending (packet (.result 3 5 false true none) (.core 0) 0)) p ∧
    (sending { packet (.result 3 0 true false none) (.core 0) 0 with uid := 8 }).pkt 0 =
      some { packet (.result 3 0 true false none) (.core 0) 0 with uid := 8 } ∧
    ¬Resident (sending p) { packet (.result 3 0 true false none) (.core 0) 0 with uid := 8 } ∧
    (sending (packet (.vresult 3 5) (.core 0) 0)).pkt 0 = some (packet (.vresult 3 5) (.core 0) 0) ∧
    (sending (packet (.soloG 3 5 false) (.core 0) 0)).pkt 0 = some (packet (.soloG 3 5 false) (.core 0) 0) ∧
    (sending (packet (.soloV 3 5) (.core 0) 0)).pkt 0 = some (packet (.soloV 3 5) (.core 0) 0) :=
  ⟨_, rfl, ⟨rfl, rfl⟩, rfl, (fun h => nomatch h.2), rfl, rfl, rfl⟩

theorem met_ReadsPerformed : ∃ p t a e b z, (sending p).pkt 0 = some p ∧ p.kind = .load 4 true (some 3) none ∧
    4 ∈ [1, 2, 4, 8] ∧ Admitted (sending p) 0 p 4 false t a e b z ∧ t.isBad a 4 = false :=
  ⟨packet (.load 4 true (some 3) none) (.slice 0 0) 0x40, _, _, _, _, _, rfl, rfl, by decide, ⟨rfl, rfl, _, rfl, rfl⟩, by decide⟩

/-- The first doubleword of die 0 is uncorrectable, and the page of its first GiB holds F32 elements. -/
def spoilt (p : Pkt) : State :=
  { sending p with bad := [0], homes := [(homeKey (.slice 0 0), { tlb := [{ dramPage with pte := 0x77F }] })] }

theorem met_ReadsPerformed_poison : ∃ t a e b z,
    Admitted (spoilt (packet (.load 8 true (some 3) none) (.slice 0 0) 0)) 0 (packet (.load 8 true (some 3) none) (.slice 0 0) 0) 8
      false t a e b z ∧ t.isBad a 8 :=
  ⟨_, _, _, _, _, ⟨rfl, rfl, _, rfl, rfl⟩, by decide⟩

/-- `spoilt` with a buffered store of the thread at the address of its packet. -/
def shadowed (p : Pkt) (n : Nat) : State :=
  (spoilt p).updCore 0 fun c => { c with sb := [{ id := 3, va := p.va, size := n, v := 9, home := .slice 0 0, key := 0, uid := 7
                                                  user := false, launch := 0, lmod := 0 }] }

theorem met_ReadsPerformed_decoded : ∃ s t u p q a e b z a' e' b' z' v, s = spoilt p ∧ p.kind = .ldf .f32 ∧
    AdmittedDec s 0 p .f32 false t a e b z ∧ decStops t p .f32 false a e b z = none ∧ Awaits t p ∧
    decFound t p .f32 a e b z = .none ∧ t.owes p.uid p.id p.va (decElem (pteFmt e) 4) = false ∧ scaleCome t p a e b z ∧
    decLoad t .f32 (t.frame p.key).rmode e z a (p.va.toNat - b) none = .ok v ∧ q.kind = .ldf .f32 ∧
    AdmittedDec (spoilt q) 0 q .f32 false u a' e' b' z' ∧ decStops u q .f32 false a' e' b' z' = none ∧ Awaits u q ∧
    decFound u q .f32 a' e' b' z' = .none ∧ decLoad u .f32 (u.frame q.key).rmode e' z' a' (q.va.toNat - b') none = .poison :=
  ⟨_, _, _, packet (.ldf .f32) (.slice 0 0) 0x40, packet (.ldf .f32) (.slice 0 0) 0, _, _, _, _, _, _, _, _, _, rfl, rfl,
    ⟨rfl, rfl, _, rfl, rfl⟩, rfl, ⟨⟨rfl, rfl⟩, rfl⟩, rfl, by decide, (by rintro _ ⟨⟩), rfl, rfl, ⟨rfl, rfl, _, rfl, rfl⟩, rfl, ⟨⟨rfl, rfl⟩, rfl⟩,
    rfl, rfl⟩

theorem met_ReadsPerformed_forwarded : ∃ t u p a e b z x n o, p.kind = .ldf .f32 ∧
    AdmittedDec (shadowed p 4) 0 p .f32 false t a e b z ∧ decStops t p .f32 false a e b z = none ∧ Awaits t p ∧
    decFound t p .f32 a e b z = .value 9 ∧ AdmittedDec (shadowed p 2) 0 p .f32 false u a e b z ∧
    decStops u p .f32 false a e b z = none ∧ Awaits u p ∧ decFound u p .f32 a e b z = .after x n o ∧
    u.heldFor p x n o = false ∧ (shadowed p 2).frames = [(0, { thread with pend := .sent 4 })] :=
  ⟨_, _, packet (.ldf .f32) (.slice 0 0) 0x40, _, _, _, _, _, _, _, rfl, ⟨rfl, rfl, _, rfl, rfl⟩, rfl, ⟨⟨rfl, rfl⟩, rfl⟩, rfl,
    ⟨rfl, rfl, _, rfl, rfl⟩, rfl, ⟨⟨rfl, rfl⟩, rfl⟩, rfl, by decide, rfl⟩

/-- `spoilt` with half of its packet's element in the task store buffer of the thread, which runs an idempotent task. -/
def shadowedTask (p : Pkt) : State :=
  { tasked { storeOf p.va 2 (.slice 0 0) none with uid := 7 } (spoilt p) with frames := [(0, { thread with pend := .sent 4, tstat := 0x8003 })] }

theorem met_ReadsPerformed_held : ∃ t p a e b z x n o, p.kind = .ldf .f32 ∧ AdmittedDec (shadowedTask p) 0 p .f32 false t a e b z ∧
    decStops t p .f32 false a e b z = none ∧ Awaits t p ∧ decFound t p .f32 a e b z = .after x n o ∧ t.heldFor p x n o :=
  ⟨_, packet (.ldf .f32) (.slice 0 0) 0x40, _, _, _, _, _, _, _, rfl, ⟨rfl, rfl, _, rfl, rfl⟩, rfl, ⟨⟨rfl, rfl⟩, rfl⟩, rfl, by decide⟩

/-- `spoilt` with a store of the thread ahead of its packet on another route. -/
def owing (p : Pkt) : State :=
  { spoilt p with net := [p, { packet (.store 4 9) (.slice 1 0) p.va with id := 3 }] }

theorem met_ReadsPerformed_owed : ∃ t p a e b z, p.kind = .ldf .f32 ∧ AdmittedDec (owing p) 0 p .f32 false t a e b z ∧
    decStops t p .f32 false a e b z = none ∧ Awaits t p ∧ decFound t p .f32 a e b z = .none ∧
    t.owes p.uid p.id p.va (decElem (pteFmt e) 4) :=
  ⟨_, packet (.ldf .f32) (.slice 0 0) 0x40, _, _, _, _, rfl, ⟨rfl, rfl, _, rfl, rfl⟩, rfl, ⟨⟨rfl, rfl⟩, rfl⟩, rfl, by decide⟩

/-- `spoilt` with a range lock on the first kibibyte of die 0. -/
def barred (p : Pkt) : State :=
  { spoilt p with locks := [{ cmd := 3, dst := true, rng := .va 0 1024, homes := [.slice 0 0] }] }

theorem met_ReadsPerformed_stopped : ∃ t u p q a e b z a' e' b' z', p.kind = .ldf .f32 ∧
    AdmittedDec (spoilt p) 0 p .f32 false t a e b z ∧ decStops t p .f32 false a e b z = some .misaligned ∧ Awaits t p ∧
    q.kind = .ldf .f32 ∧ AdmittedDec (barred q) 0 q .f32 false u a' e' b' z' ∧
    decStops u q .f32 false a' e' b' z' = some .rangeLocked ∧ Awaits (u.record q.home 0x04 .lock q.va q.launch q.lmod) q :=
  ⟨_, _, packet (.ldf .f32) (.slice 0 0) 0x42, packet (.ldf .f32) (.slice 0 0) 0x40, _, _, _, _, _, _, _, _, rfl,
    ⟨rfl, rfl, _, rfl, rfl⟩, rfl, ⟨⟨rfl, rfl⟩, rfl⟩, rfl, ⟨rfl, rfl, _, rfl, rfl⟩, rfl, ⟨⟨rfl, rfl⟩, rfl⟩⟩

/-- A thread that waits for its lanes from lane 3 on. -/
def laning (p : Pkt) : State := { spoilt p with frames := [(0, { thread with pend := .lanes 3 9 })] }

theorem met_ReadsPerformed_lane : ∃ p q t u a e b z a' e' b' z', p.kind = .lane 3 3 4 ∧ Admitted (laning p) 0 p 4 false t a e b z ∧
    Resident t p ∧ (t.frame p.key).pend = .lanes 3 9 ∧ t.isBad a 4 = false ∧ q.kind = .lane 3 3 4 ∧
    Admitted (laning q) 0 q 4 false u a' e' b' z' ∧ u.isBad a' 4 :=
  ⟨packet (.lane 3 3 4) (.slice 0 0) 0x40, packet (.lane 3 3 4) (.slice 0 0) 4, _, _, _, _, _, _, _, _, _, _, rfl,
    ⟨rfl, rfl, _, rfl, rfl⟩, ⟨rfl, rfl⟩, rfl, by decide, rfl, ⟨rfl, rfl, _, rfl, rfl⟩, by decide⟩

theorem met_ReadsPerformed_vldf : ∃ p t v, p.kind = .vldf .f32 1 ∧ (spoilt p).pkt 0 = some p ∧ (spoilt p).mayPerform 0 p ∧
    vldfRead ((spoilt p).dropPkt 0) .f32 ((spoilt p).frame p.key).rmode
      { ((spoilt p).dropPkt 0).reader p.key p.id with
        loc := p.src, user := p.user, launch := p.launch, lmod := p.lmod } p.va 1 0 = (t, .ok (.lanes v)) ∧ Awaits t p :=
  ⟨packet (.vldf .f32 1) (.slice 0 0) 0x40, _, _, rfl, rfl, by decide, rfl, ⟨⟨rfl, rfl⟩, rfl⟩⟩

theorem met_HomesPerformWrites_stores : ∃ p q r t u w a e b z a' e' b' z' bs, p.kind = .store 4 9 ∧
    Admitted (spoilt p) 0 p 4 true t a e b z ∧ t.badUnder a 4 = false ∧ q.kind = .stf .f32 9 false ∧
    AdmittedDec (spoilt q) 0 q .f32 true u a' e' b' z' ∧ Awaits u q ∧ decStops u q .f32 true a' e' b' z' = none ∧
    decStore u .f32 (u.frame q.key).rmode e' z' a' (q.va.toNat - b') 9 = some bs ∧ scaleCome u q a' e' b' z' ∧
    (∀ x ∈ scalePlace e' b' z' q.va a', (u.core q.src).forwarded q.uid x.1 1 none = .none) ∧
    (∀ x ∈ scalePlace e' b' z' q.va a', u.heldFor q x.1 1 none = false) ∧ u.badUnder a' bs.length = false ∧
    r.kind = .store 4 9 ∧ (∃ a e b z, Admitted (spoilt r) 0 r 4 true w a e b z ∧ w.badUnder a 4) ∧
    AtItsHome { p with kind := .word 9 } :=
  ⟨packet (.store 4 9) (.slice 0 0) 0x40, packet (.stf .f32 9 false) (.slice 0 0) 0x40, packet (.store 4 9) (.slice 0 0) 4,
    _, _, _, _, _, _, _, _, _, _, _, _, rfl,
    ⟨rfl, rfl, _, rfl, rfl⟩, by decide, rfl, ⟨rfl, rfl, _, rfl, rfl⟩, ⟨⟨rfl, rfl⟩, rfl⟩, rfl, rfl, (by rintro _ ⟨⟩), (by rintro _ ⟨⟩),
    (by rintro _ ⟨⟩), by decide, rfl,
    ⟨_, _, _, _, ⟨rfl, rfl, _, rfl, rfl⟩, by decide⟩, .inr ⟨by decide, by decide, rfl⟩⟩

theorem met_HomesPerformWrites_probe : ∃ q u a e b z bs, q.kind = .stf .f32 9 true ∧
    AdmittedDec (spoilt q) 0 q .f32 true u a e b z ∧ Awaits u q ∧ decStops u q .f32 true a e b z = none ∧
    decStore u .f32 (u.frame q.key).rmode e z a (q.va.toNat - b) 9 = some bs :=
  ⟨packet (.stf .f32 9 true) (.slice 0 0) 0x40, _, _, _, _, _, _, rfl, ⟨rfl, rfl, _, rfl, rfl⟩, ⟨⟨rfl, rfl⟩, rfl⟩, rfl, rfl⟩

/-- The machine of `sending` with the page of its first GiB one of F32 elements with scales. -/
def scaled (p : Pkt) : State :=
  { sending p with homes := [(homeKey (.slice 0 0), { tlb := [{ dramPage with pte := 0x477F }] })] }
/-- A store of the thread over the scale byte of the element at 0x40, in the buffer of its idempotent task. -/
def scaledTask (p : Pkt) : State :=
  { tasked (storeOf 0x3F03F001 1 (.slice 0 0) none) (scaled p) with frames := [(0, { thread with pend := .sent 4, tstat := 0x8003 })] }
/-- The same store on its way. -/
def scaledAhead (p : Pkt) : State := { scaled p with net := [p, { packet (.store 1 9) (.slice 1 0) 0x3F03F001 with id := 3 }] }

theorem met_HomesPerformWrites_scales : ∃ t u p a e b z, p.kind = .stf .f32 9 false ∧ AdmittedDec (scaledTask p) 0 p .f32 true t a e b z ∧
    decStops t p .f32 true a e b z = none ∧ (∃ x ∈ scalePlace e b z p.va a, t.heldFor p x.1 1 none) ∧ Awaits t p ∧
    AdmittedDec (scaledAhead p) 0 p .f32 true u a e b z ∧ decStops u p .f32 true a e b z = none ∧
    (∀ x ∈ scalePlace e b z p.va a, u.heldFor p x.1 1 none = false) ∧ ¬scaleCome u p a e b z :=
  ⟨_, _, packet (.stf .f32 9 false) (.slice 0 0) 0x40, _, _, _, _, rfl, ⟨rfl, rfl, _, rfl, rfl⟩, rfl, ⟨(0x3F03F001, 0x3F03F001), by decide +kernel, by decide +kernel⟩,
    ⟨⟨rfl, rfl⟩, rfl⟩, ⟨rfl, rfl, _, rfl, rfl⟩, rfl, by decide +kernel, fun h => absurd (h (0x3F03F001, 0x3F03F001) (by decide +kernel)) (by decide +kernel)⟩

/-- A tile's store. -/
def tileStore : SEntry :=
  { id := 3, va := 0, size := 8, v := 5, home := .core 0, key := 0, uid := 7, user := false, launch := 0, lmod := 0
    phys := some (2 ^ 60 + 0x1000), tile := true }
/-- The machine of `alone` with a tile's store at the head. -/
def tileStoring : State := (alone thread).updCore 0 fun c => { c with sb := [tileStore] }

theorem met_HomesPerformWrites_buffer : ∃ x y r t a e b z, storing.pkt 0 = none ∧ (storing.core 0).sb = x :: r ∧ storing.mayStore 0 x ∧
    x.tile = false ∧ storing.farStore 0 x = false ∧ storing.farStore 0 { x with home := .slice 256 0 } ∧
    storing.mayStore 0 { x with home := .slice 256 0 } ∧
    (storing.updCore 0 fun c => { c with sb := r }.pour).check (bufferReq 0 x) = (t, .ok a e b z) ∧
    (t.countReq x.home 0 x.va true).badUnder a x.size = false ∧
    (tileStoring.core 0).sb = y :: [] ∧ tileStoring.mayStore 0 y ∧ y.tile ∧ y.phys = some (2 ^ 60 + 0x1000) ∧
    tileStoring.badUnder (2 ^ 60 + 0x1000) y.size = false :=
  ⟨_, _, _, _, _, _, _, _, rfl, rfl, by decide, rfl, by decide, by decide, by decide, rfl, by decide, rfl, by decide, rfl, rfl, by decide⟩

theorem met_HomesPerformWrites_atomics : ∃ p q t u a e b z a' e' b' z', p.kind = .amo .add true 5 0 ∧
    Admitted (spoilt p) 0 p (atomicBytes .add true) true t a e b z ∧ pteKind e ≠ 3 ∧ t.isBad a (atomicBytes .add true) = false ∧
    Awaits t p ∧ q.kind = .post .fadd false 5 ∧ Admitted (spoilt q) 0 q (atomicBytes .fadd false) true u a' e' b' z' ∧
    ((spoilt q).dropPkt 0).windowFor q .fadd false = none ∧ ¬Awaits u q ∧ u.isBad a' (atomicBytes .fadd false) = false :=
  ⟨packet (.amo .add true 5 0) (.slice 0 0) 0x40, { packet (.post .fadd false 5) (.slice 0 0) 0x40 with uid := 9 }, _, _, _, _, _, _, _,
    _, _, _, rfl, ⟨rfl, rfl, _, rfl, rfl⟩, by decide, by decide, ⟨⟨rfl, rfl⟩, rfl⟩, rfl, ⟨rfl, rfl, _, rfl, rfl⟩, rfl,
    (fun h => nomatch h.1.2), by decide⟩

theorem met_HomesPerformWrites_cells : ∃ p q t u a e b z a' e' b' z', p.kind = .joinInc ∧ Admitted (sending p) 0 p 8 true t a e b z ∧
    t.isBad a 8 = false ∧ Awaits t p ∧ q.kind = .joinDec ∧ Admitted (sending q) 0 q 8 true u a' e' b' z' ∧ u.isBad a' 8 = false ∧
    ¬Awaits u q :=
  ⟨packet .joinInc (.core 0) 0x80000000000100, { packet .joinDec (.core 0) 0x80000000000100 with uid := 9 }, _, _, _, _, _, _, _,
    _, _, _, rfl, ⟨rfl, rfl, _, rfl, rfl⟩, by decide, ⟨⟨rfl, rfl⟩, rfl⟩, rfl, ⟨rfl, rfl, _, rfl, rfl⟩, by decide, (fun h => nomatch h.1.2)⟩

/-- A task's decrement on its way to the record of `counted`. -/
def lowering (n : Byte) (ret : Bool) : State :=
  { counted n with net := [packet (.taskDec ret) (.core 0) 0x80000000000100], frames := [(0, { lightSpawning with pend := .sent 4 })] }

theorem met_HomesPerformWrites_records : ∃ p t u n, (lowering 2 true).pkt 0 = some p ∧ p.kind = .taskDec true ∧
    (lowering 2 true).mayPerform 0 p ∧ p.home = .core 0 ∧
    ((lowering 2 true).dropPkt 0).decrement 0 (sender p) p.va = (t, .done n) ∧
    u = (t.countDown p.launch p.lmod).wakeNext p.launch p.lmod ∧ Awaits u p :=
  ⟨_, _, _, _, rfl, rfl, by decide, rfl, rfl, rfl, ⟨⟨rfl, rfl⟩, rfl⟩⟩

theorem met_HomesPerformWrites_counter : ∃ p e b z t0 t1 t2,
    (counted 0).check ((counted 0).my.actor.req 0 0x80000000000100 64 true) = (t0, .ok p e b z) ∧ t0.isBad p 8 = false ∧ t0.num p 4 = 0 ∧
    (counted 1).check ((counted 1).my.actor.req 0 0x80000000000100 64 true) = (t1, .ok p e b z) ∧ t1.num p 4 = 1 ∧
    ((t1.core 0).queue (t1.num (p + 4) 1 % 4)).tail = 0 ∧
    (counted 2).check ((counted 2).my.actor.req 0 0x80000000000100 64 true) = (t2, .ok p e b z) ∧ 2 ≤ t2.num p 4 :=
  ⟨_, _, _, _, _, _, _, rfl, by decide, by decide, rfl, by decide, by decide, rfl, by decide⟩

/-- The machine of `alone` with a page table whose first level-3 entry maps die 0's first GiB, no translation cached,
and a load of the DM address 0x40 on its way. -/
def unwalked : State :=
  { sending (packet (.load 4 true (some 3) none) (.slice 0 0) 0x40) with
    homes := [], mem := [(0x41, 0x40), (0x4000, 0x4F)], dies := [(0, { ptroot := 0x41 })] }

theorem met_WalksAndFetches : ∃ e b z a, (∃ p ∈ unwalked.net, p.kind.isRequest ∧ p.home = .slice 0 0 ∧ p.va = 0x40) ∧
    unwalked.memOk ∧ unwalked.tlbHit (.slice 0 0) 0x40 = none ∧ walk unwalked (.slice 0 0) 0x40 = .leaf b z e a :=
  ⟨_, _, _, _, ⟨_, List.mem_singleton.2 rfl, rfl, rfl, rfl⟩, rfl, rfl, rfl⟩

theorem met_WalksAndFetches_fetch : ∃ t w p, ((alone thread).core 0 |>.slot 0).bound = some 0 ∧
    (alone thread) = { alone thread with cur := { loc := 0, frame := 0, slot := 0 } } ∧ (alone thread).my.wait = none ∧
    (alone thread).my.pend = .idle ∧ (alone thread).my.rfa = false ∧
    (((alone thread).core 0 |>.slot 0).ibuf.any fun i => i.va == (alone thread).my.pc) = false ∧
    (alone thread).fetch (alone thread).my.pc = (t, .word w p) :=
  ⟨_, _, _, rfl, rfl, rfl, rfl, rfl, by decide, rfl⟩

/-- A request for a spread table's entry, where the table's first byte is n. -/
def spreading (n : Byte) : State :=
  { sending (packet .spread (.slice 0 0) 0x40) with mem := if n = 0 then [] else [(0, n)] }

theorem met_WalksAndFetches_spread : ∃ p t0 t1 m e b z u a e' b' z', (spreading 0).pkt 0 = some p ∧ p.kind = .spread ∧
    (spreading 0).mayPerform 0 p ∧ (spreading 1).pkt 0 = some p ∧ (spreading 1).mayPerform 0 p ∧
    (spreading 0).spreadPtr p.launch p.lmod = 0 ∧ (p.va - 0 - 64).toNat / 4 = 0 ∧
    ((spreading 0).dropPkt 0).check { p.req 4 false with home := homeOf 0 0, va := 0 } = (t0, .ok m e b z) ∧ t0.num m 4 ≤ 0 ∧
    ((spreading 1).dropPkt 0).check { p.req 4 false with home := homeOf 0 0, va := 0 } = (t1, .ok m e b z) ∧ 0 < t1.num m 4 ∧
    t1.isBad m 4 = false ∧ t1.check (p.req 4 false) = (u, .ok a e' b' z') ∧ (u.countReq p.home p.src p.va false).isBad a 4 = false :=
  ⟨_, _, _, _, _, _, _, _, _, _, _, _, rfl, rfl, by decide, rfl, by decide, rfl, by decide, rfl, by decide, rfl, by decide, by decide,
    rfl, by decide⟩

/-- A core with a parked item, a word of the outside for it, and one translation. -/
def parking (i : Parked) (deny : Bool) : State :=
  { alone thread with
    words := [(.slice 0 0, 3, deny)]
    homes := [(homeKey (.slice 0 0), { tlb := [dramPage], faults := [{ idx := 3, base := 0, size := 65536, reason := .permission, item := i, va := 0x40 }] })] }

theorem met_WalksAndFetches_spreadBad : ∃ p t t1 m e b z u a e' b' z' x, { spreading 1 with bad := [0] }.pkt 0 = some p ∧ p.kind = .spread ∧
    { spreading 1 with bad := [0] }.mayPerform 0 p ∧
    ({ spreading 1 with bad := [0] }.dropPkt 0).check { p.req 4 false with home := homeOf 0 0, va := 0 } = (t, .ok m e b z) ∧ t.isBad m 4 ∧
    { spreading 1 with bad := [8] }.mayPerform 0 p ∧
    ({ spreading 1 with bad := [8] }.dropPkt 0).check { p.req 4 false with home := homeOf 0 0, va := 0 } = (t1, .ok m e b z) ∧
    t1.isBad m 4 = false ∧ 0 < t1.num m 4 ∧ t1.check (p.req 4 false) = (u, .ok a e' b' z') ∧
    (u.countReq p.home p.src p.va false).isBad a 4 ∧ Resolves (parking (.request p) true) (.slice 0 0) 3 true [] x ∧ x.item = .request p :=
  ⟨_, _, _, _, _, _, _, _, _, _, _, _, _, rfl, rfl, by decide, rfl, by decide, by decide, rfl, by decide, by decide, rfl, by decide, ⟨rfl, rfl, rfl⟩, rfl⟩

/-- An invalidation at a slice that holds a dirty sector of the page. -/
def holding2 : State :=
  { sending (packet (.tlbInv 4) (.slice 0 0) 0x40) with
    homes := [(homeKey (.slice 0 0), { l2 := [{ key := 2 ^ 60 + 0x100, pages := [(0, 65536)], dirty := true }] })], mem := [(2 ^ 62 + 2 ^ 60 + 0x105, 9)] }

theorem met_WalksAndFetches_sector : ∃ p e, holding2.pkt 0 = some p ∧ holding2.mayPerform 0 p ∧ p.kind = .tlbInv 4 ∧ holding2.memOk ∧
    (holding2.home p.home).l2 = [e] ∧ (∃ g ∈ e.pages, g.1 ≤ p.va.toNat ∧ p.va.toNat < g.1 + g.2) ∧ e.dirty :=
  ⟨_, _, rfl, by decide, rfl, (by decide +kernel : Memory.wf holding2.mem = true), rfl, ⟨_, .head _, by decide, by decide⟩, rfl⟩

theorem met_WalksAndFetches_invalidate : ∃ p q, (sending p).pkt 0 = some p ∧ (sending p).mayPerform 0 p ∧ p.kind = .tlbInv 4 ∧
    (sending q).pkt 0 = some q ∧ (sending q).mayPerform 0 q ∧ q.kind = .marker .pod :=
  ⟨packet (.tlbInv 4) (.slice 0 0) 0x40, packet (.marker .pod) (.slice 0 0) 0, rfl, by decide, rfl, rfl, by decide, rfl⟩

theorem met_FaultOutcomes : ∃ p x y z t, (sending { p with refused := true }).pkt 0 = some { p with refused := true } ∧
    FirstTry { p with refused := true } 0 (.dataReturnRequest 0) ∧
    (offered (sending { p with refused := true }) 0 p).mayPerform 0 { p with refused := false } ∧
    Resolves (parking (.thread 0) false) (.slice 0 0) 3 false [] x ∧ x.item = .thread 0 ∧
    Resolves (parking (.request p) false) (.slice 0 0) 3 false [] y ∧ y.item = .request p ∧
    (resolved (parking (.request p) false) (.slice 0 0) [] y).perform p = (t, none) ∧
    Resolves (parking (.request p) true) (.slice 0 0) 3 true [] z ∧ z.item = .request p ∧
    Resolves (parking (.thread 0) true) (.slice 0 0) 3 true [] x :=
  ⟨packet (.load 4 true (some 3) none) (.slice 0 0) 0x40, _, _, _, _, rfl, rfl, by decide, ⟨rfl, rfl, rfl⟩, rfl, ⟨rfl, rfl, rfl⟩, rfl, rfl,
    ⟨rfl, rfl, rfl⟩, rfl, ⟨rfl, rfl, rfl⟩⟩

/-- A thread that met the full fault queue of its home. -/
def turnedAway : State := alone { thread with wait := some (.queued 90) }

/-- A decoded load that is parked while half of its element stands in the thread's buffer. -/
def parkedRead (p : Pkt) : State :=
  { shadowed p 2 with
    net := [], words := [(.slice 0 0, 3, false)]
    homes := [(homeKey (.slice 0 0), { tlb := [{ dramPage with pte := 0x77F }]
                                       faults := [{ idx := 3, base := 0, size := 65536, reason := .permission, item := .request p, va := 0x40 }] })] }

theorem met_FaultOutcomes_others : ∃ w x y z p t q, turnedAway.my.used ∧ turnedAway.my.wait = some (.queued 90) ∧ 90 ≤ turnedAway.clk ∧
    Resolves (parking (.task {} 0) false) (.slice 0 0) 3 false [] w ∧ w.item = .task {} 0 ∧
    Resolves (parking (.fetch 0) true) (.slice 0 0) 3 true [] x ∧ x.item = .fetch 0 ∧
    Resolves (parking (.task {} 0) true) (.slice 0 0) 3 true [] y ∧ y.item = .task {} 0 ∧
    Resolves (parkedRead p) (.slice 0 0) 3 false [] z ∧ z.item = .request p ∧
    (resolved (parkedRead p) (.slice 0 0) [] z).perform p = (t, some q) :=
  ⟨_, _, _, _, packet (.ldf .f32) (.slice 0 0) 0x40, _, _, rfl, rfl, by decide, ⟨rfl, rfl, rfl⟩, rfl,
    ⟨rfl, rfl, rfl⟩, rfl, ⟨rfl, rfl, rfl⟩, rfl, ⟨rfl, rfl, rfl⟩, rfl, rfl⟩

theorem met_FaultOutcomes_undelivered : ∃ p q fr l, (sending p).pkt 0 = some p ∧ (sending p).goneFrom p.origin (homeMod p.home) ∧
    p.kind = .load 8 true (some 3) none ∧ (sending q).pkt 0 = some q ∧ (sending q).goneFrom q.origin (homeMod q.home) ∧
    q.kind = .migrate fr ∧ q.home = .core l ∧ Awaits (sending q) q :=
  ⟨packet (.load 8 true (some 3) none) (.slice 64 0) 0x40, packet (.migrate light) (.core 16384) 0, light, _, rfl, by decide, rfl, rfl,
    by decide, rfl, rfl, ⟨⟨rfl, rfl⟩, rfl⟩⟩

/-- The machine of `alone` whose thread, which is light, waits. -/
def waitingOn (w : Wait) : State := alone { light with wait := some w }

theorem met_ThreadsTravel_departure : ((waitingOn (.depart 0x80000200000000 true)).frame (keyOf 0 0)).wait = some (.depart 0x80000200000000 true) ∧
    ((waitingOn (.depart 0x80000200000000 true)).frame (keyOf 0 0)).idem = false ∧
    (waitingOn (.depart 0x80000200000000 true)).mayLeave (keyOf 0 0) :=
  ⟨rfl, by decide, by decide⟩

/-- A thread on its way to core 1, which has n frames in use. -/
def travelling (n : Nat) (p : Pkt) : State :=
  { alone { thread with pend := .sent 4 } with net := [p], frames := (0, { thread with pend := .sent 4 }) :: (List.range n).map fun i => (64 + i, light) }

theorem met_ThreadsTravel_arrival : ∃ fr p q, p = packet (.migrate fr) (.core 1) 0 ∧ q = { p with refused := true, retryAt := 100 } ∧
    Arrives (travelling 2 p) 0 p 1 (.migrationArrival 0) ∧ Arrives (travelling 2 q) 0 q 1 (.migrationRetry 0) ∧
    (travelling 2 p).freeFrame 1 = some 2 ∧ ((travelling 2 p).core 1).spill = [] ∧ (travelling 2 p).mayEnter 1 p ∧ (travelling 2 p).preempted 0 0 = false ∧
    Unclaimed (travelling 2 p) 1 2 ∧ Awaits (travelling 2 p) p ∧ (travelling 32 p).freeFrame 1 = none ∧
    ((travelling 32 p).core 1).spill.length < 1024 ∧ (travelling 32 p).mayEnter 1 p :=
  ⟨light, _, _, rfl, rfl, ⟨rfl, rfl, by decide, by decide, by decide, by decide, by decide, .inl ⟨rfl, rfl⟩⟩,
    ⟨rfl, rfl, by decide, by decide, by decide, by decide, by decide, .inr ⟨rfl, rfl, by decide⟩⟩, by decide, by decide, by decide, by decide,
    ⟨by decide, by decide, by decide, by decide⟩, ⟨⟨rfl, rfl⟩, rfl⟩, by decide, by decide, by decide⟩

/-- The machine of `alone` with a thread in the spill ring of core 0. -/
def spilled : State := (alone thread).setSpill 0 [packet (.migrate light) (.core 0) 0]

theorem met_ThreadsTravel_spill : ∃ p r fr, spilled.spill 0 = p :: r ∧ p.kind = .migrate fr ∧ spilled.preempted fr.launch fr.lmod = false ∧
    ((spilled.core 0).spill.map Pkt.room).sum ≤ 1024 ∧ spilled.memOk ∧ spilled.freeFrame 0 = some 1 ∧
    (spilled.core 0).fallow = false ∧ Unclaimed spilled 0 1 :=
  ⟨_, _, _, rfl, rfl, rfl, by decide +kernel, (by decide +kernel : Memory.wf spilled.mem = true), by decide +kernel, by decide +kernel,
    ⟨by decide +kernel, by decide +kernel, by decide +kernel, by decide +kernel⟩⟩

theorem met_ThreadsTravel_ends : ((alone { light with pinDue := true }).frame (keyOf 0 0)).used ∧
    ((alone { light with pinDue := true }).frame (keyOf 0 0)).pinDue ∧ ((alone { light with rfDue := true }).frame (keyOf 0 0)).rfDue :=
  ⟨rfl, rfl, rfl⟩

theorem met_WaitsEnd_slots : ∃ f r s, ((waitingOn .next).core 0 |>.slot 0).bound = some f ∧ ((waitingOn .next).frame (keyOf 0 f)).wait.isSome ∧
    ((waitingOn .next).frame (keyOf 0 f)).slept 100 = false ∧ ((waitingOn .next).frame (keyOf 0 f)).since + 64 ≤ (waitingOn .next).clk ∧
    s = (alone thread).updCore 0 (fun c => { c with fifo := [3] }) ∧ (s.core 0).emptySlot = some 1 ∧ (s.core 0).fifo = 3 :: r ∧
    s.trapWaits 0 = false :=
  ⟨_, _, _, rfl, by decide, by decide, by decide, rfl, by decide, rfl, by decide⟩

/-- Core 0 with an entry in its trap queue and its handler free. -/
def trapping : State := (alone thread).updCore 0 fun c => { c with trapq := [{ frame := 5, cause := .break, va := 0, pc := 0x8000, tcode := 0 }] }

theorem met_WaitsEnd_traps : ∃ e r, (trapping.core 0).trapq = e :: r ∧ trapping.trapWaits 0 ∧ (trapping.core 0 |>.slot 1).enabled ∧
    (trapping.core 0 |>.slot 1).bound = none ∧ (trapping.core 0).fallow = false :=
  ⟨_, _, rfl, by decide, by decide, by decide, by decide⟩

/-- A thread that waits in no slot, and is not in the FIFO. -/
def offSlot (w : Wait) : State := (waitingOn w).updCore 0 fun c => { c with slots := Vector.replicate 8 {} }

theorem met_WaitsEnd_sleep : ((offSlot (.sleep 100)).frame (keyOf 0 0)).used ∧ ((offSlot (.sleep 100)).frame (keyOf 0 0)).away = false ∧
    ((offSlot (.sleep 100)).frame (keyOf 0 0)).wait = some (.sleep 100) ∧ 100 ≤ (offSlot (.sleep 100)).clk ∧
    (offSlot (.sleep 100)).slotOf (keyOf 0 0) = none ∧ ((offSlot (.sleep 100)).core 0).fifo.contains 0 = false ∧
    (offSlot (.sleep 100)).inTrapq (keyOf 0 0) = false ∧ ((offSlot (.sleep 100)).core 0).serving ≠ some 0 :=
  ⟨rfl, by decide, rfl, by decide, by decide, by decide, by decide, by decide⟩

theorem met_WaitsEnd_join : ∃ va t a e b z, va = 0x80000000000100 ∧ ((offSlot (.join va)).frame (keyOf 0 0)).wait = some (.join va) ∧
    ((offSlot (.join va)).frame (keyOf 0 0)).pend = .idle ∧ lsOwner va = 0 ∧ (offSlot (.join va)).net = [] ∧
    ((offSlot (.join va)).core 0).forwarded 7 va 8 ((offSlot (.join va)).physOf (.core 0) va) = .none ∧
    (offSlot (.join va)).pollParked (keyOf 0 0) va = false ∧
    (offSlot (.join va)).check (((offSlot (.join va)).pollPkt (keyOf 0 0) va).req 8 false) = (t, .ok a e b z) ∧ t.isBad a 8 = false ∧
    t.num a 8 = 0 :=
  ⟨_, _, _, _, _, _, rfl, rfl, rfl, by decide, rfl, by decide, by decide, rfl, by decide, by decide⟩

/-- The machine of `offSlot` with the translation of core 1's bank too. -/
def offAway (w : Wait) : State :=
  { offSlot w with homes := [(homeKey (.core 1), { tlb := [{ bankPage with base := 2 ^ 55 + 2 ^ 33 }] })] }

theorem met_WaitsEnd_remoteJoin : ∃ va t a e b z, va = 0x80000200000100 ∧ ((offAway (.join va)).frame (keyOf 0 0)).used ∧
    ((offAway (.join va)).frame (keyOf 0 0)).wait = some (.join va) ∧ ((offAway (.join va)).frame (keyOf 0 0)).pend = .idle ∧
    lsOwner va ≠ 0 ∧ (offAway (.join va)).net = [] ∧
    ((offAway (.join va)).core 0).forwarded 7 va 8 none = .none ∧
    (offAway (.join va)).pollParked (keyOf 0 0) va = false ∧
    (offAway (.join va)).reaches ((offAway (.join va)).pollPkt (keyOf 0 0) va) ∧
    (offAway (.join va)).check (((offAway (.join va)).pollPkt (keyOf 0 0) va).req 8 false) = (t, .ok a e b z) ∧ t.isBad a 8 = false ∧
    t.num a 8 = 0 :=
  ⟨_, _, _, _, _, _, rfl, rfl, rfl, rfl, by decide, rfl, by decide, by decide, by decide, rfl, by decide, by decide⟩

/-- A thread in `next` with a task in its core's deque. -/
def seeking : State := (offSlot .next).updCore 0 fun c => { c with deque := [{ pc := 0x40000 }] }

theorem met_WaitsEnd_next : ∃ t x, (seeking.frame (keyOf 0 0)).wait = some .next ∧ (seeking.frame (keyOf 0 0)).pend = .idle ∧
    seeking.search 0 (seeking.frame (keyOf 0 0)).actor [] = (t, .task x) :=
  ⟨_, _, rfl, rfl, rfl⟩

/-- Two threads that have asked for the gang of cores 0 and 1, the second one first. -/
def gathering : State := { ganged with gangs := [{ id := 1, die := 0, x := 0, y := 0, size := 0, launch := 0, lmod := 0, members := [64, 0] }] }

theorem met_WaitsEnd_gang : ∃ g ms, gathering.gangs = [g] ∧ g.formed = false ∧ gathering.preempted g.launch g.lmod = false ∧ g.size < 4 ∧
    ms = g.ordered ∧ ms.length = (gangShape g.size).1 * (gangShape g.size).2 ∧ ms.Nodup :=
  ⟨_, [0, 64], rfl, rfl, by decide, by decide, by decide, by decide, by decide⟩

theorem met_WaitsEnd_barrier : ∃ b, (atBarrier (dieBarrier [(7, 1)])).barriers[0]? = some b ∧
    (atBarrier (dieBarrier [(7, 1)])).phaseDue b :=
  ⟨_, rfl, by decide⟩

/-- A lease's holder whose 65th push waits, and a waiter. -/
def exhausted : State :=
  { waitingOn (.pushPort .qpav) with leases := [(0, { holder := some 7, waiters := [64] })] }

theorem met_WaitsEnd_lease : (exhausted.lease 0).holder = some 7 ∧ exhausted.keyOfUid 7 = some 0 ∧ (exhausted.lease 0).left = 0 ∧
    (exhausted.frame 0).wait = some (.pushPort .qpav) ∧ ((exhausted.lease 0).waiters.filter fun i => i ≠ 0) ++ [0] = [64, 0] ∧
    (∀ i ∈ [64, 0], exhausted.prioOf i ≤ 3) ∧ (exhausted.frame 64).away = false ∧
    BeforeInColumn exhausted (exhausted.lease 0) 64 0 :=
  ⟨rfl, by decide, rfl, rfl, rfl, by decide, by decide,
    .inr ⟨rfl, .inr ⟨(by decide : (∃ e ∈ ([] : List (Nat × Nat)), e.1 = (exhausted.frame 64).uid) ↔
      ∃ e ∈ ([] : List (Nat × Nat)), e.1 = (exhausted.frame 0).uid), by decide⟩⟩⟩

/-- The machine of `alone` with the record of a launch of one light thread on core 0 at the DM address 0x80, whose
flags are fl, and the packet of a `launch` that names it. -/
def recording (fl : List Host.Cell) (p : Pkt) : State :=
  { sending p with mem := [(0x82, 1), (0x88, 1), (0x90, 1), (0x92, 1)] ++ fl ++ [(0xCC, 1)], frames := [(0, { thread with pend := .sent 4 })] }
/-- That packet. -/
def asks : Pkt := { packet .record (.slice 0 0) 0x80 with user := true }

theorem met_Launches_accept : ∃ t a e b z r, Admitted (recording [] asks) 0 asks 128 false t a e b z ∧ t.isBad a 128 = false ∧
    Awaits t asks ∧ r = LRec.ofBytes (t.bytes a 128) ∧ r.ok ∧ (r.isSuper → asks.user = false) ∧
    t.poolUse (Loc.module asks.src) (poolStack r asks.src) < 64 :=
  ⟨_, _, _, _, _, _, ⟨rfl, rfl, _, rfl, rfl⟩, by decide +kernel, ⟨⟨rfl, rfl⟩, rfl⟩, rfl, by decide +kernel, by decide +kernel, by decide +kernel⟩

theorem met_Launches_refuse : ∃ t a e b z r, Admitted (recording [(0xC8, 4)] asks) 0 asks 128 false t a e b z ∧ t.isBad a 128 = false ∧
    Awaits t asks ∧ r = LRec.ofBytes (t.bytes a 128) ∧ r.isSuper ∧ asks.user :=
  ⟨_, _, _, _, _, _, ⟨rfl, rfl, _, rfl, rfl⟩, by decide +kernel, ⟨⟨rfl, rfl⟩, rfl⟩, rfl, by decide +kernel, rfl⟩

/-- A pool of n launches. -/
def pooled (n : Nat) : State :=
  { recording [] asks with launches := (List.range n).map fun i => { oneLaunch 0 with id := BitVec.ofNat 32 i, status := .pending } }

theorem met_Launches_full : ∃ t a e b z r, Admitted (pooled 64) 0 asks 128 false t a e b z ∧ Awaits t asks ∧
    r = LRec.ofBytes (t.bytes a 128) ∧ r.ok ∧ 64 ≤ t.poolUse (Loc.module asks.src) (poolStack r asks.src) :=
  ⟨_, _, _, _, _, _, ⟨rfl, rfl, _, rfl, rfl⟩, ⟨⟨rfl, rfl⟩, rfl⟩, rfl, by decide +kernel, by decide +kernel⟩

theorem met_Launches_boot : ∃ t r, (recording [] asks).powered 0 ∧ ((recording [] asks).module 0).ready ∧ bootPlace 0 0x80 ∧
    bootPlace 0 0x81 = false ∧ (recording [] asks).bootRead 0 0x80 = (t, some r) ∧ r.ok ∧ t.poolUse 0 (r.pool 0) < 64 :=
  ⟨_, _, by decide +kernel, by decide +kernel, by decide +kernel, by decide +kernel, rfl, by decide +kernel, by decide +kernel⟩

/-- A machine with one pending launch of one thread and nothing else, and with that launch run to its end. -/
def pending : State := { mods := [(0, {})], launches := [{ oneLaunch 0 with status := .pending }] }
/-- The same launch without a live thread. -/
def ended : State := { alone thread with launches := [{ oneLaunch 0 with live := 0 }] }

theorem met_Launches_run : ∃ x y, pending.launchOf 0 0 = some x ∧ x.lr.ok ∧ pending.mayStart x ∧
    ended.launchOf 0 0 = some y ∧ y.status = .running ∧ y.live = 0 ∧ ended.launchQuiet 0 0 :=
  ⟨_, _, rfl, by decide, by decide +kernel, rfl, rfl, rfl, by decide⟩

theorem met_Launches_word : ∃ va h t a e b z r b' z' u w, va ≠ 0 ∧ va.toNat % 8 = 0 ∧ vaBad va = false ∧ va = 0x40 ∧
    ended.homeAt 0 0 0 va = .home h ∧ ended.answers 0 (homeMod h) ∧
    { ended with nextId := ended.nextId + 1 }.check (wordReq 0 0 0 va h) = (t, .ok a e b z) ∧
    (t.countReq h 0 va true).badUnder a 8 = false ∧
    { ended with homes := [], nextId := ended.nextId + 1 }.check (wordReq 0 0 0 va h) = (u, .park r b' z') ∧
    u.park h r b' z' (.request (wordPacket { ended with homes := [] } 0 0 0 va 5 h)) va { write := true, user := false } 0 0 = some w :=
  ⟨0x40, _, _, _, _, _, _, _, _, _, _, _, by decide, by decide, by decide, rfl, rfl, by decide, rfl, by decide, rfl, rfl⟩

/-- A message to core 1, whose queue holds n. -/
def messaging (n : Nat) (p : Pkt) : State :=
  (sending p).updCore 1 fun c => { c with msgs := List.replicate n 0 }

theorem messaging_length (n : Nat) (p : Pkt) : ((messaging n p).core 1).msgs.length = n := List.length_replicate

theorem met_MessagesAndFlock_messages : ∃ p q, p = packet (.msg 9) (.core 1) 0 ∧ q = { p with refused := true } ∧
    (messaging 63 p).pkt 0 = some p ∧ (messaging 63 p).msgTurn 0 p ∧ ((messaging 63 p).core 1).msgs.length < 64 ∧
    (messaging 64 q).pkt 0 = some q ∧ (messaging 64 q).msgTurn 0 q ∧ q.retryAt ≤ (messaging 64 q).clk ∧
    64 ≤ ((messaging 64 q).core 1).msgs.length :=
  ⟨_, _, rfl, rfl, rfl, by decide, by rw [messaging_length]; decide, rfl, by decide, by decide, Nat.le_of_eq (messaging_length 64 _).symm⟩

/-- The machine of `alone` with an event held for core 0, whose `qevt` holds n words. -/
def eventing (n : Nat) : State :=
  { (alone thread).updCore 0 (fun c => { c with qevt := List.replicate n (0, false) }) with
    evq := [{ src := 3, dest := 0, words := [0x30, 5], retryAt := 90 }] }

theorem eventing_length (n : Nat) : ((eventing n).core 0).qevt.length = n := List.length_replicate

theorem met_MessagesAndFlock_events : ∃ e, (eventing 0).evq[0]? = some e ∧ (eventing 1023).evq[0]? = some e ∧
    (((eventing 0).evq.take 0).all fun x => !(x.src == e.src && x.dest == e.dest)) ∧ e.retryAt ≤ (eventing 0).clk ∧
    ((eventing 0).core e.dest).qevt.length + e.words.length ≤ 1024 ∧
    1024 < ((eventing 1023).core e.dest).qevt.length + e.words.length := by
  refine ⟨{ src := 3, dest := 0, words := [0x30, 5], retryAt := 90 }, rfl, rfl, by decide, by decide, ?_, ?_⟩
  · dsimp only
    rw [eventing_length]
    decide
  · dsimp only
    rw [eventing_length]
    decide

/-- A Flock request of member 3 of two for 256 bytes, into tile 1. -/
def flocking : Pkt := packet (.flock 5 3 2 256 1 0 0) (.slice 0 0) 0x400
/-- The machine with that request on its way. -/
def flocked : State := { sending flocking with homes := [(homeKey (.slice 0 0), { tlb := [dramPage] })] }

theorem met_MessagesAndFlock_hold : ∃ t at' a e b z, flocked.pkt 0 = some flocking ∧ flocked.mayPerform 0 flocking ∧ spaceOf flocking.va = .dm ∧
    flocked.holds = [] ∧ (∀ x, ((flocked.dropPkt 0).check { flocking.req 256 false with locks := false }).2 ≠ .fwd x) ∧
    { flocked.dropPkt 0 with
      holds := [{ id := flocked.nextId, home := .slice 0 0, launch := 0, lmod := 0, die := 0, grp := 5, va := 0x400, len := 256, cnt := 2
                  members := [{ mem := 3, loc := 0, tile := 1, gen := 0, lock := 4, user := true }]
                  ends := flocked.clk + flocked.flockPeriod 0 0 0 5, period := flocked.flockPeriod 0 0 0 5 }], nextId := flocked.nextId + 1 }.through 0
      { flocking.req 256 false with locks := false } maxForwards = (t, at', .ok a e b z) :=
  ⟨_, _, _, _, _, _, rfl, by decide, by decide, rfl, (fun _ h => nomatch h), rfl⟩

/-- A hold whose timer has run out, with one member whose tile is asked for. -/
def timedOut (late : Bool) : State :=
  { (asking.updCore 0 fun c => { c with tiles := [(1, { readyTile with state := 1 })] }) with
    holds := [{ id := 6, home := .slice 0 0, launch := 0, lmod := 0, die := 0, grp := 5, va := 0x400, len := 256, cnt := 2, late := late
                members := [{ mem := 3, loc := 0, tile := 1, gen := 0, lock := 4, user := false }], ends := 90 }] }

theorem met_MessagesAndFlock_timer : ∃ t at' a e b z x m, (timedOut false).memOk ∧
    ((timedOut false).holds.find? fun y => y.id == 6 && y.home == .slice 0 0) = some x ∧ x.late = false ∧ x.status = 0 ∧ x.left = none ∧
    x.ends ≤ (timedOut false).clk ∧ x.retryAt ≤ (timedOut false).clk ∧ 1 < x.cnt ∧ x.members = [m] ∧ (timedOut false).through m.loc x.req maxForwards = (t, at', .ok a e b z) ∧
    t.locked { x.req with locks := true } a = false ∧ t.isBad a x.len = false ∧ ((t.core m.loc).tile m.tile).gen.toNat = m.gen ∧
    ((t.core m.loc).tile m.tile).state = 1 ∧
    t.preempted ((t.core m.loc).tile m.tile).launch ((t.core m.loc).tile m.tile).lmod = false ∧
    t.launchOf ((t.core m.loc).tile m.tile).launch ((t.core m.loc).tile m.tile).lmod = none :=
  ⟨_, _, _, _, _, _, _, _, rfl, rfl, rfl, rfl, rfl, by decide, by decide, by decide, rfl, rfl, by decide, by decide, by decide, by decide, by decide, rfl⟩

theorem met_MessagesAndFlock_late : ∃ x, ((timedOut true).holds.find? fun y => y.id == 6 && y.home == .slice 0 0) = some x ∧ x.late ∧
    x.ends ≤ (timedOut true).clk :=
  ⟨_, rfl, rfl, by decide⟩

/-- The block at 0x100 of a FILL of 8 bytes at 0x200 with single bytes 0xAB, and a value for Barrow 0 that names it. -/
def filling : State :=
  { alone thread with
    mem := [(0x100, 6), (0x101, 2), (0x104, 0x40), (0x111, 2), (0x118, 1), (0x11C, 8), (0x120, 8), (0x130, 0xAB), (0x138, 1)]
    pushes := [{ id := 5, eng := .barrow 0, v := 0x100, src := 0, key := 0, uid := 7, user := false, seq := 1, launch := 0, lmod := 0 }] }

/-- The value of a run that ends well. -/
def val {α : Type} (d : α) : Except EStop α → α
  | .ok x => x
  | .error _ => d
/-- A run ends well. -/
def well {α : Type} : Except EStop α → Bool
  | .ok _ => true
  | .error _ => false

theorem ran {α : Type} (d : α) {x : Except EStop α × State} (h : well x.1) : x = (.ok (val d x.1), x.2) := by
  obtain ⟨e, t⟩ := x
  cases e with
  | ok v => rfl
  | error v => cases h

/-- The value at the head of the intake, and its rights. -/
def fillPush : Push :=
  { id := 5, eng := .barrow 0, v := 0x100, src := 0, key := 0, uid := 7, user := false, seq := 1, launch := 0, lmod := 0 }
/-- What its header and its checks give. -/
def fillHeader := (fillPush.header (fillPush.actr filling.nextId none) : EM (List Byte)) filling
/-- The same for the rest of the block. -/
def fillChecks := (fillPush.checks (fillPush.actr filling.nextId none) (val [] fillHeader.1) : EM (List Byte × Prep)) fillHeader.2

theorem met_EngineCommands_accepted : ∃ u k, EngineRow (.fill 0) (.barrow 0) 0x0206 none ∧ Taking filling filling (.barrow 0) fillPush ∧
    Accepted filling fillPush 0x0206 u k :=
  ⟨_, _, .inr (.inl ⟨rfl, 0, rfl, by decide⟩), ⟨rfl, rfl, rfl, rfl, by decide, rfl, rfl⟩,
    ⟨val [] fillHeader.1, fillHeader.2, (val ([], {}) fillChecks.1).1, (val ([], {}) fillChecks.1).2, fillChecks.2, ran [] (by decide +kernel),
      by decide +kernel, ran ([], {}) (by decide +kernel), by decide +kernel, rfl, by decide +kernel, rfl⟩⟩

/-- The same with two bytes of width that do not fit a length of 7. -/
def misfilling : State := { filling with mem := [(0x100, 6), (0x101, 2), (0x104, 0x40), (0x111, 2), (0x118, 1), (0x11C, 7), (0x120, 8), (0x138, 2)] }

theorem met_EngineCommands_fails : ∃ p h s1 st d t, Taking misfilling misfilling (.barrow 0) p ∧
    (p.header (p.actr misfilling.nextId none) : EM (List Byte)) misfilling = (.ok h, s1) ∧ numAt h 0 2 = 0x0206 ∧
    (p.checks (p.actr misfilling.nextId none) h : EM (List Byte × Prep)) s1 = (.error (.ends st d), t) :=
  ⟨_, _, _, _, _, _, ⟨rfl, rfl, rfl, rfl, by decide, rfl, rfl⟩, rfl, by decide, rfl⟩

/-- A command that fills the tile in slot 1 of core 0, in a phase. -/
def tileFill (ph : CPhase) (b : Bool) : Cmd :=
  { id := 5, eng := .barrow 0, code := 0x0206, va := 0x100, src := 0, key := 0, uid := 7, user := false, seq := 1, launch := 0, lmod := 0
    block := [6, 2, 0, 0, 0x40] ++ List.replicate 19 0 ++ List.replicate 16 0 ++ [1, 0, 1, 0xFF] ++ List.replicate 12 0 ++ [1] ++ List.replicate 7 0
    phase := ph, tiles := [{ loc := 0, slot := 1, gen := 0, dst := true }], begun := b }
/-- The machine with that command, its tile in a state, and a lock of it. -/
def filled (ph : CPhase) (b : Bool) (st : Nat) : State :=
  { tiled { readyTile with state := st } with cmds := [tileFill ph b], locks := [{ cmd := 5, dst := true, rng := .bank 0 0x1000 256, homes := [.core 0] }] }

theorem met_EngineCommands_stands : ∃ u k, u = filled .waiting false 1 ∧ k = tileFill .waiting false ∧ u.runCmd k.id none none = .stands :=
  ⟨_, _, rfl, rfl, rfl⟩

theorem met_EngineCommands_complete : ∃ s c r, s = filled (.done 0 0) true 1 ∧ s.cmd 5 = some c ∧ c.phase = .done 0 0 ∧ c.version = none ∧
    c.tiles.Nodup ∧ s.engineParked 5 = false ∧ (0, (alone (withG thread 1 1)).my) ∈ s.frames ∧ c.tiles = [r] ∧ c.begun ∧ s.refOk r ∧
    (s.tileOf r).busy ∧ s.launchOf (s.tileOf r).launch (s.tileOf r).lmod = none :=
  ⟨_, _, _, rfl, rfl, rfl, rfl, by decide, by decide, List.mem_singleton.2 rfl, rfl, rfl, by decide, by decide, rfl⟩

/-- A walk of one word that branches to itself, with a limit of 2 steps. -/
def endless : Cmd :=
  { tileFill .waiting false with
    eng := .trellis 0, code := 0x0401, tiles := []
    block := List.replicate 24 0 ++ [1, 0, 0, 0, 2, 0, 0, 0] ++ List.replicate 96 0 ++ [0, 0, 0, 0x60] }
/-- The machine with it. -/
def walking : State := { alone thread with cmds := [endless] }

/-- The command of the machine. -/
def theCmd (s : State) : Cmd := (s.cmd 5).getD endless
theorem theCmd_found {s : State} (h : (s.cmd 5).isSome) : s.cmd 5 = some (theCmd s) := by
  obtain ⟨c, h⟩ := Option.isSome_iff_exists.1 h
  simp [theCmd, h]

/-- The state after a command's table has been sampled, after its step 11, and what its work then gives. -/
def afterSample (s : State) (c : Cmd) : State := ((c.sample (c.actr none) : EM Unit) s).2
/-- Its step 11. -/
def afterSplit (s : State) (c : Cmd) : State :=
  let d := theCmd (afterSample s c)
  ((do d.tableOk (c.actr none)
       splitOf d.eng (c.actr none) d.code (d.block.take ((codeLen d.code).getD 0)) : EM Unit) (afterSample s c)).2
/-- The machine as its work begins. -/
def atWork (s : State) (c : Cmd) : State := (afterSplit s c).begin (theCmd (afterSample s c))
/-- Its work. -/
def work (s : State) (c : Cmd) : Except EStop Unit × State :=
  (runOf (theCmd (atWork s c)).eng (c.actr none) (theCmd (atWork s c)) none : EM Unit) (atWork s c)

/-- The stop of a run. -/
def stopOf : Except EStop Unit → Option EStop
  | .error e => some e
  | .ok _ => none
theorem stops {w : EStop} {x : Except EStop Unit × State} (h : stopOf x.1 = some w) : x = (.error w, x.2) := by
  obtain ⟨e, t⟩ := x
  cases e with
  | ok v => cases h
  | error v => cases h; rfl

/-- A command gives what its work gives, when nothing stops it before. -/
theorem gives_work {s : State} {c : Cmd} {r : Except EStop Unit} (h0 : c.restore = false ∧ s.cmd c.id = some c ∧ c.id = 5)
    (h1 : well ((c.sample (c.actr none) : EM Unit) s).1) (h2 : ((afterSample s c).cmd 5).isSome)
    (h3 : well ((do (theCmd (afterSample s c)).tableOk (c.actr none)
                    splitOf (theCmd (afterSample s c)).eng (c.actr none) (theCmd (afterSample s c)).code
                      ((theCmd (afterSample s c)).block.take ((codeLen (theCmd (afterSample s c)).code).getD 0)) : EM Unit)
      (afterSample s c)).1)
    (h4 : ((theCmd (afterSample s c)).tiles.all fun r => (afterSplit s c).refOk r) = true)
    (h5 : (theCmd (afterSample s c)).begun = true ∨ (afterSplit s c).tilesReady (theCmd (afterSample s c)) = true)
    (h6 : ((atWork s c).cmd 5).isSome) (h7 : work s c = (r, (work s c).2)) : Gives s c none r (work s c).2 :=
  ⟨h0.1, h0.2.1, _, _, _, _, ran () h1, h0.2.2 ▸ theCmd_found h2, ran () h3, h4, h5, h0.2.2 ▸ theCmd_found h6, h7⟩

theorem met_EngineCommands_limit : ∃ t, (walking.cmds.find? fun c => c.eng == .trellis 0 && c.phase == .waiting) = some endless ∧
    (endless.begun ∨ walking.tilesReady endless) ∧ walking.overLimit endless ∧ Gives walking endless none (.error (.limit 0)) t :=
  ⟨_, rfl, .inr (by decide), by decide +kernel, gives_work ⟨rfl, rfl, rfl⟩ (by decide +kernel) (by decide +kernel) (by decide +kernel)
    (by decide +kernel) (.inr (by decide +kernel)) (by decide +kernel) (stops (by decide +kernel))⟩

/-- A walk of one word, `wtile 0, close`. -/
def closing : Cmd := { endless with block := endless.block.take 128 ++ [0, 0, 0, 0x78] }
/-- The machine with it. -/
def pausing : State := { alone thread with cmds := [closing] }
/-- Where it pauses. -/
def closed : WalkAt := { walker := { regs := List.replicate 8 0, idx := 1 }, left := 1, last := 0 }

theorem met_EngineCommands_pauses : ∃ t, pausing.cmd 5 = some closing ∧ closing.phase = .waiting ∧ pausing.stopping closing = false ∧
    Gives pausing closing none (.error (.pause closed)) t :=
  ⟨_, rfl, rfl, by decide +kernel, gives_work ⟨rfl, rfl, rfl⟩ (by decide +kernel) (by decide +kernel) (by decide +kernel)
    (by decide +kernel) (.inr (by decide +kernel)) (by decide +kernel) (stops (by decide +kernel))⟩

/-- An accepted FILL of memory that waits. -/
def memFill : Cmd :=
  { tileFill .waiting false with
    tiles := [], block := [6, 2, 0, 0, 0x40] ++ List.replicate 12 0 ++ [2] ++ List.replicate 6 0 ++ [1, 0, 0, 0, 8, 0, 0, 0, 8] ++
      List.replicate 15 0 ++ [0xAB] ++ List.replicate 7 0 ++ [1] ++ List.replicate 7 0 }
/-- The machine with it. -/
def starting : State := { alone thread with cmds := [memFill] }

theorem met_EngineCommands_runs : ∃ t, starting.cmd 5 = some memFill ∧ memFill.phase = .waiting ∧ starting.stopping memFill = false ∧
    Gives starting memFill none (.ok ()) t :=
  ⟨_, rfl, rfl, by decide +kernel, gives_work ⟨rfl, rfl, rfl⟩ (by decide +kernel) (by decide +kernel) (by decide +kernel)
    (by decide +kernel) (.inr (by decide +kernel)) (by decide +kernel) (ran () (by decide +kernel))⟩

/-- The same at a home without a page table, whose fault queue is full. -/
def crowdedOut : State :=
  { starting with
    homes := [(homeKey (.slice 0 0), { faults := (List.range 256).map fun i =>
      { idx := i, base := 2 ^ 40 + 65536 * i, size := 65536, reason := .permission, item := .thread 0, va := 0 } })] }

theorem met_EngineCommands_refused : ∃ t, crowdedOut.cmd 5 = some memFill ∧ crowdedOut.stopping memFill = false ∧ dueAgain memFill.refused crowdedOut.clk ∧
    dueAgain (some (.slice 0 0, 101, 0)) crowdedOut.clk = false ∧ Gives crowdedOut memFill none (.error (.park (.slice 0 0) .notPresent 0 65536 0x200 true)) t ∧
    t.park (.slice 0 0) .notPresent 0 65536 (.engine 5) 0x200 { write := true, user := false } 0 0 = none :=
  ⟨_, rfl, by decide +kernel, rfl, by decide, gives_work ⟨rfl, rfl, rfl⟩ (by decide +kernel) (by decide +kernel) (by decide +kernel)
    (by decide +kernel) (.inr (by decide +kernel)) (by decide +kernel) (stops (by decide +kernel)), by decide +kernel⟩

/-- A Gleaner's command that has raised the count of slot 1 of the descriptor at 0x300. -/
def sampling : State := { alone thread with mem := [(0x31C, 3)], cmds := [{ tileFill (.done 0 0) true with tiles := [], version := some (0x300, 1) }] }

theorem met_EngineCommands_sampled : ∃ c t, sampling.cmd 5 = some c ∧ c.phase = .done 0 0 ∧ c.version = some (0x300, 1) ∧
    sampling.engineParked 5 = false ∧ ((c.actr none).unsample 0x300 1 : EM Unit) sampling = (.ok (), t) :=
  ⟨_, _, rfl, rfl, rfl, by decide, rfl⟩

theorem met_EngineResults : ∃ a b : List Elem, 0 < 3 ∧ a.length = b.length ∧ 0 < a.length ∧ a.length ≤ 4096 ∧
    (∀ d f, d < f → ∀ i j : Nat, ([] : SMap Nat)[i]? = some (f, j) → ∀ k m : Nat, ([] : SMap Nat)[k]? = some (d, m) → k < i) ∧
    [3, 4][1]? = some 4 ∧ (List.replicate 8 0).length = 8 ∧ (∀ r ∈ List.replicate 8 0, r < 2 ^ 32) ∧
    (∃ f, (0x10000000 / 2 ^ 27 % 32, f) ∈ walkerOps) ∧ ∃ f, (0x60000000 / 2 ^ 27 % 32, f) ∈ walkerBranches :=
  ⟨[(1, none)], [(2, none)], by decide, rfl, by decide, by decide, (fun _ _ _ _ _ h => nomatch h), rfl, rfl, by decide,
    ⟨_, .head _⟩, ⟨_, .tail _ (.tail _ (.tail _ (.head _)))⟩⟩

/-- The command of these rows. -/
def rowCmd : Cmd := { tileFill .waiting false with plan := some [some 0] }
/-- The machine with it. -/
def rowing : State := { alone thread with cmds := [rowCmd] }

theorem met_EngineResults_rows : ∃ c k b d f t, c = rowCmd.actr none ∧ rowing.cmd c.cmd = some k ∧ k.wrote = 0 ∧ d = Desc.ofBytes b 16 ∧ d.kind = 0 ∧ d.rows = 1 ∧
    0 < numAt b 56 1 ∧ 0 < d.len ∧ d.len % numAt b 56 1 = 0 ∧ d.va.toNat % 1024 + d.len ≤ 1024 ∧
    (c.place d.va d.len true : EM (Option Reached)) rowing = (.ok (some f), t) ∧ t.badPart f.a d.len = false :=
  ⟨_, _, List.replicate 17 0 ++ [2] ++ List.replicate 6 0 ++ [1, 0, 0, 0, 8, 0, 0, 0, 8] ++ List.replicate 15 0 ++ [0xAB] ++ List.replicate 7 0 ++ [1],
    _, _, _, rfl, rfl, rfl, rfl, by decide, by decide, by decide, by decide, by decide, by decide, rfl, by decide⟩

theorem met_EngineResults_copies : ∃ c b x y p q t u, c = rowCmd.actr none ∧ x = Desc.ofBytes b 16 ∧ y = Desc.ofBytes b 48 ∧
    x.kind = 0 ∧ y.kind = 0 ∧ x.rows = 1 ∧ 0 < x.len ∧ x.va.toNat % 1024 + x.len ≤ 1024 ∧ y.va.toNat % 1024 + x.len ≤ 1024 ∧
    (c.place x.va x.len false : EM (Option Reached)) rowing = (.ok (some p), t) ∧ t.isBad p.a x.len = false ∧
    (c.place y.va x.len true : EM (Option Reached)) t = (.ok (some q), u) ∧ u.badPart q.a x.len = false :=
  ⟨_, List.replicate 17 0 ++ [2] ++ List.replicate 6 0 ++ [1, 0, 0, 0, 8, 0, 0, 0, 8] ++ List.replicate 16 0 ++ [3] ++ List.replicate 8 0,
    _, _, _, _, _, _, rfl, rfl, rfl, by decide, by decide, by decide, by decide, by decide, by decide, rfl, by decide, rfl, by decide⟩

/-- A table of one row of 8 bytes at 0x200. -/
def smallTable : Table :=
  { version := 0, base0 := 0x200, base1 := 0, rows := 1, len := 8, pitch := 8, fmt := 7, sharded := false, shards := 1, ok := true }

theorem met_EngineResults_gather : ∃ c k b d f g t u, c = rowCmd.actr none ∧ rowing.cmd c.cmd = some k ∧ k.wrote = 0 ∧
    k.plan = some [some 0] ∧ d = Desc.ofBytes b 40 ∧ d.kind = 0 ∧ d.rows = 1 ∧ numAt b 32 4 = 1 ∧ d.len = smallTable.len ∧ 0 < d.len ∧
    c.allows rowing false (smallTable.row 0) smallTable.len ∧ (smallTable.row 0).toNat % 1024 + smallTable.len ≤ 1024 ∧
    d.va.toNat % 1024 + smallTable.len ≤ 1024 ∧
    (c.place (smallTable.row 0) smallTable.len false : EM (Option Reached)) rowing = (.ok (some f), t) ∧
    t.isBad f.a smallTable.len = false ∧ (c.place d.va smallTable.len true : EM (Option Reached)) t = (.ok (some g), u) ∧
    u.badPart g.a smallTable.len = false :=
  ⟨_, _, List.replicate 32 0 ++ [1] ++ List.replicate 8 0 ++ [3] ++ List.replicate 6 0 ++ [1, 0, 0, 0, 8, 0, 0, 0, 8] ++ List.replicate 16 0,
    _, _, _, _, _, rfl, rfl, rfl, rfl, rfl, by decide, by decide, by decide, by decide, by decide, by decide, by decide, by decide, rfl,
    by decide, rfl, by decide⟩

theorem met_EngineResults_floats : ∃ (t : Arith) (a b : List Elem), t.kind = .flt ∧ 0 < 2 ∧ a.length = b.length ∧ 0 < a.length ∧
    a.length ≤ t.kappa ∧ (∀ x ∈ a, (wholeAt (-149) (elemValue t.fa x)).isSome) ∧ (∀ x ∈ b, (wholeAt (-149) (elemValue t.fb x)).isSome) ∧
    (elemValue t.fa (0x7FC00000, none)).isNaN ∧ (fmtValue 7 0x7FC00000).isNaN ∧ fmtValue 7 0x7F800000 = .inf false ∧
    fmtValue 7 0x3F800000 = .fin false 0x800000 (-23) ∧
    (∀ x, (some 0xBF800000 : Option Nat) = some x → (wholeAt (-149) (Fmt.f32.value x)).isSome) :=
  ⟨{ kind := .flt, fa := 7, fb := 7, acc := Fmt.a48 }, [(0x3F800000, none), (0xC0000000, none)], [(0x40400000, none), (0x3F000000, none)],
    rfl, by decide, rfl, by decide, by decide, by decide, by decide, by decide, by decide, by decide, by decide,
    fun x h => by cases h; decide⟩

theorem met_EngineResults_maps : ∃ row plane : List FVal, row.length = plane.length ∧ (∀ x ∈ row, (wholeAt (-1) x).isSome) ∧
    (∀ x ∈ plane, (wholeAt (-1) x).isSome) ∧ [some 5, none, some 5].getD 1 (none : Option Nat) = none ∧
    [some 5, none, some 5].getD 2 (none : Option Nat) = some 5 ∧ (∀ x ∈ [some 5, none, some 5], x.getD 0 < 2 ^ 16) :=
  ⟨[.fin true 3 0], [.fin false 1 (-1)], rfl, by decide, by decide, rfl, rfl, by decide⟩

/-- A CHAIN of one level of width 4 at 0x200, bound 2. -/
def chainBlock (policy : Byte) : List Byte :=
  List.replicate 28 0 ++ [1, 0, 0, 0] ++ [0, 2, 0, 0, 0, 0, 0, 0, 2, 0, 0, 0, 4] ++ List.replicate 35 0 ++ [policy] ++ List.replicate 3 0

theorem met_EngineResults_chain : ∃ c f u, c = rowCmd.actr none ∧ numAt (chainBlock 2) 28 1 = 1 ∧ 1 < (levelAt (chainBlock 2) 0).bound ∧
    0 < (levelAt (chainBlock 2) 0).width ∧
    (entryVA (levelAt (chainBlock 2) 0).va (levelAt (chainBlock 2) 0).width 1).toNat % 1024 + (levelAt (chainBlock 2) 0).width ≤ 1024 ∧
    (c.place (entryVA (levelAt (chainBlock 2) 0).va (levelAt (chainBlock 2) 0).width 1) (levelAt (chainBlock 2) 0).width false :
      EM (Option Reached)) rowing = (.ok (some f), u) ∧ u.isBad f.a (levelAt (chainBlock 2) 0).width = false ∧
    u.num f.a (levelAt (chainBlock 2) 0).width < smallTable.rows ∧ numAt (chainBlock 0) 80 1 = 0 ∧ numAt (chainBlock 1) 80 1 = 1 ∧
    numAt (chainBlock 2) 80 1 = 2 :=
  ⟨_, _, _, rfl, by decide, by decide, by decide, by decide, rfl, by decide, by decide, by decide, by decide, by decide⟩

theorem met_EngineResults_conversions : (fmtValue 7 0x3F800000).isNaN = false ∧ Fmt.bf16.isNaN 0x3F80 = false ∧
    (∀ y ∈ [0x3F800000, 0x40000000], y < 2 ^ 32 ∧ Fmt.f32.isNaN y = false) ∧ (∀ i ∈ [0], i < smallTable.rows) ∧
    (∀ j < 1, [0, 1].getD j 0 < smallTable.rows) ∧ [0, 1][1]? = some 1 ∧ smallTable.rows ≤ 1 :=
  ⟨by decide, by decide, by decide, by decide, by decide, rfl, by decide⟩

/-- Dies 0 and 1 with page tables down to the level-1 entry of granule 0, whose frame is at 0x20000 of die 0 and whose
third byte is k, a pool with one frame at 0x30000 of die 1, and a count of 64 for die 1 at its home. -/
def written (k : List Host.Cell) : State :=
  { mods := [(0, {})], dies := [(0, { ptroot := 0x41 }), (1, { ptroot := 0x41 })]
    homes := [(homeKey (.slice 0 0), { tlb := [{ base := 3 * 2 ^ 55, size := 65536, pte := 0x2000000005F, writes := 64, writer := some 1 }] })]
    mem := [(0x51, 0x40), (0x4000, 1), (0x4004, 0x80), (0x8000, 1), (0x8004, 0x90), (0x9000, 0x5F)] ++ k ++ [(0x9005, 2),
      (2 ^ 35 + 0x51, 0x40), (2 ^ 35 + 0x61, 0x10), (2 ^ 35 + 0x1000, 1), (2 ^ 35 + 0x1008, 4), (2 ^ 35 + 0x1012, 3),
      (2 ^ 35 + 0x4000, 1), (2 ^ 35 + 0x4004, 0x80), (2 ^ 35 + 0x8000, 1), (2 ^ 35 + 0x8004, 0x90)] }

theorem met_GranuleMoves : ∃ n e a b s1 o, (written []).rehomeTo (.slice 0 0) 0 = some 1 ∧
    walk (written []) (.slice 0 0) (granuleVA 0) = .leaf n 65536 e a ∧ ((written []).die 0).moved.length < 4096 ∧ bitOf e 20 = false ∧
    (written []).levelOne 1 0 = some b ∧ (written []).popFrame 1 = some (s1, o) ∧ (written []).memOk ∧ pteKind e = 1 ∧
    { written [] with net := [packet (.load 4 true (some 3) none) (.slice 0 0) (3 * 2 ^ 55)] }.leaves (packet (.load 4 true (some 3) none) (.slice 0 0) (3 * 2 ^ 55)) :=
  ⟨_, _, _, _, _, _, rfl, rfl, by decide, by decide, rfl, rfl, rfl, by decide, by decide⟩

theorem met_GranuleMoves_pools : ∃ a, (written []).memOk ∧ (written []).poolOf 1 = some a ∧ (written []).num a 8 < (written []).num (a + 8) 8 ∧
    (written []).poolOf 0 = some 0 ∧ (written []).num (0 + 8) 8 ≤ (written []).num 0 8 :=
  ⟨_, rfl, rfl, by decide, rfl, by decide⟩

theorem met_GranuleMoves_epoch : (written []).powered 0 ∧ ({ written [] with clk := 32000000 }.module 0).epochAt ≤ 32000000 :=
  ⟨by decide, by decide⟩

theorem met_GranuleMoves_frozen : ∃ n e a, (written [(0x9002, 0x10)]).rehomeTo (.slice 0 0) 0 = some 1 ∧
    walk (written [(0x9002, 0x10)]) (.slice 0 0) (granuleVA 0) = .leaf n 65536 e a ∧ bitOf e 20 :=
  ⟨_, _, _, rfl, rfl, by decide⟩

theorem met_GranuleMoves_leaves : fieldOf (0x2000000005F : Word) 18 2 < 3 ∧ 0x30000 < 2 ^ 35 ∧ (1 : Nat) < 2 ^ 14 ∧ (written []).powered 0 :=
  ⟨by decide, by decide, by decide, by decide⟩

/-- An operation that module 0 left in step 0. -/
def redOp : RedOp :=
  { step := 0, mod := 0, va := 0x10000, op := .add, dbl := true, v := 7, pkt := packet (.post .add true 7) (.slice 0 0) 0x10000 }
/-- A window of modules 0 and 1, in which the modules have closed steps as listed. -/
def window (st : SMap Nat) : RWindow :=
  { base := 0x10000, pages := 1, ty := 3, enable := true, mask := 3, steps := st, closed := [(0, 0, 5)], ops := [redOp] }
/-- Window 3, which module 0 has closed step 0 of, and module 1 too or not. -/
def reducing (later : Bool) : State :=
  { alone thread with
    clk := 200000
    mods := [(0, { windows := (Vector.replicate 16 {}).set 3 (window (if later then [(0, 1), (1, 1)] else [(0, 1)])) })] }

theorem met_StepsAndScrubs : ∃ x y, x = ((reducing true).module 0).windows.toList.getD 3 {} ∧ x.first = some 0 ∧
    (reducing true).powered 0 ∧ x.enable ∧ (∀ i < 256, x.mask.getLsbD i → 0 < x.step i) ∧
    y = ((reducing false).module 0).windows.toList.getD 3 {} ∧ y.first = some 0 ∧ y.mask.getLsbD 1 ∧ y.step 1 = 0 ∧
    y.closedAt 0 + 128000 ≤ (reducing false).clk :=
  ⟨_, _, rfl, rfl, by decide, by decide, by decide +kernel, rfl, rfl, by decide, by decide, by decide⟩

theorem met_StepsAndScrubs_scrub : scrubHome 0 = some (.slice 0 0) ∧ (spoilt asks).bad.contains 0 ∧ (spoilt asks).bad.contains 1 = false ∧
    (spoilt asks).powered 0 ∧ scrubHome 1 = some (.slice 0 0) :=
  ⟨rfl, by decide, by decide, by decide, rfl⟩

/-- A die with two sampled values of every quad, of which quad 5 has left the range. -/
def heated : State :=
  { alone thread with dies := [(0, { samples := [(List.replicate 64 (1100 : BitVec 12)).set 5 1201, List.replicate 64 1100], broken := 32, reading := [(0, 1100)] })] }

theorem met_TemperatureSteps : heated.powered (0 / 64) ∧ (heated.die 0).works 4 ∧ (heated.die 0).works 5 = false ∧
    (quadNeighbours 5).any (heated.die 0).works ∧ (heated.die 0).failed.getLsbD 5 = false ∧ (heated.die 0).failing 5 ∧
    (heated.die 0).dfix = false ∧ 8 * ((heated.die 0).hot.toNat : Int) < (heated.die 0).temp (Loc.quad 0) ∧
    (∃ n < 8, ((heated.core 0).slot n).enabled ∧ ((heated.core 0).slot n).bound = none) ∧
    2 ≤ slotsOn (heated.core 0) ∧ (alone thread |>.die 0).temp 0 ≤ 8 * ((alone thread |>.die 0).hot.toNat : Int) - 40 :=
  ⟨by decide, by decide +kernel, by decide +kernel, by decide +kernel, by decide, by decide +kernel, by decide, by decide, ⟨1, by decide, by decide, by decide⟩,
    by decide, by decide⟩

theorem met_TemperatureSteps_lastSensor : ∃ s : State, s.powered (0 / 64) ∧ (s.die 0).failed.getLsbD 5 = false ∧ (s.die 0).failing 5 ∧
    ∀ i < 64, i ≠ 5 → (s.die 0).failed.getLsbD i :=
  ⟨{ heated with dies := [(0, { heated.die 0 with failed := ~~~32 })] }, by decide, by decide, by decide +kernel, by decide +kernel⟩

/-- A hot core with a thread in every slot, the last of them in the middle of an instruction or not. -/
def fullSlots (p : Pend) : State :=
  { heated with
    frames := (List.range 8).map fun i => (i, { light with uid := 7 + i, pend := if i = 7 then p else .idle })
    cores := [(0, { slots := Vector.ofFn fun i => { bound := some i.val } })], launches := [oneLaunch 8] }
/-- A core with one slot enabled, whose thread is in a gang. -/
def lastSlot : State :=
  { ganged with cores := [(0, { slots := (Vector.replicate 8 { enabled := false }).set 0 { bound := some 0 }, heat := [.gang 1] })] }

theorem met_TemperatureSteps_slots : ∃ d n g, (fullSlots .idle).slotToShed 0 = some 7 ∧ (((fullSlots .idle).core 0).slot 7).bound = some 7 ∧
    ((fullSlots .idle).frame (keyOf 0 7)).between ∧ (fullSlots (.sent 4)).slotToShed 0 = some 7 ∧
    ((fullSlots (.sent 4)).frame (keyOf 0 7)).between = false ∧ (fullSlots .idle).coolest 7 = some (d, n) ∧
    ((fullSlots .idle).frame 7).used ∧ (∀ x r, ((fullSlots .idle).frame 7).wait ≠ some (.depart x r)) ∧
    (alone light).coolest 0 = none ∧ lastSlot.slotToShed 0 = none ∧
    (lastSlot.gangs.find? fun g => g.formed && g.members.any fun k => keyLoc k == 0) = some g ∧ (lastSlot.core 0).heat = [.gang 1] ∧
    (((fullSlots .idle).updCore 0 fun c => { c with heat := [.slot 3] }).core 0).heat = [.slot 3] :=
  ⟨_, _, _, by decide +kernel, by decide +kernel, by decide +kernel, by decide +kernel, by decide +kernel, rfl, by decide +kernel, nofun, rfl,
    by decide +kernel, rfl, rfl, rfl⟩

theorem met_PowerAndManagement : ∃ p, (5 : Nat) < 256 ∧ (alone thread).powered 5 = false ∧ (alone thread).powered 0 ∧
    p = { ({ failedStep := some (4, 2, 3) } : Part) with imagePlace := 0 } ∧ partStop p 5 = some (4, 4, 2, 3) ∧ partStop ({} : Part) 5 = none ∧
    (alone thread).memOk ∧ ({ alone thread with mods := [(0, { fwwait := true })] }.module 0).fwwait ∧
    ({ alone thread with mods := [(0, { i3cAddr := some 9 })] }.module 0).i3cAddr.isSome ∧ (({} : Module)).failStack < 16 :=
  ⟨_, by decide, by decide, by decide, rfl, by decide +kernel, by decide +kernel, rfl, rfl, by decide, by decide⟩

/-- Two modules of a pod, of which the second has fallen silent, and a load for it. -/
def silenced : State :=
  { alone { thread with pend := .sent 4 } with
    clk := 3000000, mods := [(0, { trained := true }), (1, { trained := true, silent := some 5 })]
    net := [packet (.load 8 true (some 3) none) (.slice 64 0) 0x4000000000] }

theorem met_HedgerowLinks : pending.powered 0 ∧ (pending.module 0).trained = false ∧ (pending.mods.has 4 = false) ∧ State.quiet { pending with launches := [] } 0 ∧
    (∀ c ∈ pending.mem, keyModule c.1 = some 4 → 4 = 0) ∧ ((alone thread).module 0).portsDown.getLsbD 3 = false ∧
    (∃ i < 32, i ≠ 3 ∧ ((alone thread).module 0).portsDown.getLsbD i = false) ∧
    silenced.mods.has 1 ∧ (silenced.module 1).trained ∧ (silenced.module 1).lost = false ∧ (silenced.module 1).silent = some 5 ∧
    5 + 2000000 ≤ silenced.clk ∧ silenced.mods = [(0, { trained := true }), (1, silenced.module 1)] ∧ silenced.outstanding 0 1 :=
  ⟨by decide, by decide, by decide, by decide, by decide, by decide, ⟨0, by decide, by decide, by decide⟩, by decide, by decide, by decide, rfl,
    by decide, rfl, by decide⟩

/-- A launch of one anchored thread that has been placed, and a barrier of the module for it. -/
def placed : State :=
  { alone thread with
    mods := [(0, { baradd := 0x2400000000 })], launches := [{ oneLaunch 0 with placed := [(7, 0)], lr := { (oneLaunch 0).lr with kind := 1 } }]
    barriers := [{ launch := 0, lmod := 0, sc := .mod, inst := 0, id := 4, members := [9], arrived := [] }] }

theorem met_RegisterWindow : ∃ x b w, placed.powered 0 ∧ fieldOf (placed.module 0).baradd 32 3 = 4 ∧ fieldOf (placed.module 0).baradd 35 3 = 4 ∧
    placed.launchOf ((placed.module 0).baradd.setWidth 32) 0 = some x ∧ x.status ≠ .done ∧ x.lr.kind = 1 ∧
    (placed.barriers.find? fun c => c.isAt x.id x.mod .mod 0 4) = some b ∧ b.members ≠ [] ∧ bitOf (0x4000 : Word) 14 ∧
    ((alone thread).launches.any fun x => x.occupies && x.lr.holds x.mod (fallowLoc 0 0x4000)) = false ∧
    (placed.launches.any fun x => x.occupies && x.lr.holds x.mod (fallowLoc 0 0x4000)) ∧ bitOf (0 : Word) 14 = false ∧
    w = ((reducing true).module 0).windows.toList.getD 3 {} ∧ w.enable :=
  ⟨_, _, _, by decide, by decide, by decide, rfl, by decide, by decide, rfl, by decide, by decide, by decide, by decide, by decide, rfl, by decide⟩

theorem met_HostAndEthernet_host : (alone thread).powered 0 ∧ hdmOk 7 1 ∧ hdmOk 8 8 ∧ ((alone thread).module 0).refusesMem = false ∧
    ({ alone thread with mods := [(0, { part := { ideWanted := true } })] }.module 0).refusesMem ∧ (alone thread).memOk ∧
    (spoilt asks).badUnder (hdmKey 0 0) 4 ∧ hdmKey 0 0 / 8 = bellKey 0 (((alone thread).module 0).mbox) / 8 ∧
    bellIn ((alone thread).module 0).mbox ∧ bellIn (0x3FFFFFF0000 : Word) = false :=
  ⟨by decide, by decide, by decide, by decide, by decide, rfl, by decide, by decide, by decide, by decide⟩

/-- A module with one registered region of 256 bytes and one posted receive. -/
def registered : State := { alone thread with mods := [(0, { regions := [(1, 0x4000, 256)], recvs := [(9, 0)] })] }

theorem met_HostAndEthernet_ethernet : ∃ a, registered.powered 0 ∧ (registered.module 0).ready ∧ (9 : Nat) < 4096 ∧ registered.memOk ∧
    registered.regionKey 0 0 240 16 = some a ∧ a % 8 = 0 ∧ registered.regionKey 0 0 241 16 = none ∧ registered.regionKey 0 1 0 16 = none ∧
    (registered.module 0).recvs.find? (fun e => e.1 == 9) = some (9, 0) ∧ registered.regionKey 0 0 0 256 = some (2 ^ 35 + 0x4000) ∧
    (∀ e ∈ (registered.module 0).recvs, e.1 ≠ 8) :=
  ⟨_, by decide, by decide, by decide, rfl, rfl, by decide, rfl, rfl, rfl, rfl, by decide⟩

/-- The machine of `alone`, the turn of slot 0 next and a word in the slot's buffer. -/
def ready (w : W32) : State :=
  { alone thread with
    turns := [{ clks := 3, who := .issue 0 }]
    cores := [(0, { slots := (Vector.replicate 8 {}).set 0 { bound := some 0, ibuf := [{ va := 0x10000, phys := 0, w := w }] } })] }

/-- The same with `sleep` of 5 ticks. -/
def drowsy : State := { ready 0x8C010048 with frames := [(0, withG thread 1 5)] }
/-- The same with a `vadd` whose mask has bad parity, and with a thread whose status has. -/
def marred (f : Frame) : State := { ready 0xC0611500 with frames := [(0, f)] }

/-- The state after the turn has come, and the one in which the slot issues. -/
def turned (s : State) : State := { s with turns := [], clk := s.clk + 3, note := .idle }
/-- The state in which the slot issues. -/
def tries (s : State) : State := (turned s).toIssue 0 0 0

theorem issues_of (s : State) (h : s.turns = [{ clks := 3, who := .issue 0 }]) (hp : (turned s).powered 0)
    (hb : ((turned s).core 0).rr = 0 ∧ (((turned s).core 0).slot 0).bound = some 0) (hc : ((turned s).frame 0).par.ctl = false)
    (hn : (((turned s).core 0).slot 0).next ≤ (turned s).clk) (hg : (turned s).gangOf 0 = none) (hi : (tries s).issuers (tries s).me = [0])
    (hm : (tries s).me = 0) (hf : ((tries s).frame 0).bounds = none) (hw : ((tries s).frame 0).wait = none)
    (hs : (turned s).sheds 0 = false) (hz : (turned s).frozen 0 = false) :
    Issues s (turned s) (tries s) 0 0 0 :=
  ⟨⟨3, [], h, rfl, hp⟩, ⟨hb.2, 0, by decide, by rw [hb.1], fun _ h => absurd h (Nat.not_lt_zero _)⟩, hc, hs, hz,
    .inr ⟨hn, fun g h => by rw [show keyOf 0 0 = 0 from rfl, hg] at h; cases h⟩, rfl, by rw [hi, hm]; rfl, fun k hk => by
      rw [hi] at hk
      obtain rfl := List.mem_singleton.1 hk
      exact ⟨hf, fun _ h => by rw [hw] at h; cases h⟩⟩

theorem met_StepRunsDecoded : ∃ u v t i x, Issues (ready 0x048209C8) u v 0 0 0 ∧ InFront v t 0x048209C8 ∧ decode 0x048209C8 = .ok i ∧
    ¬BadMask (t.holdWord 0x048209C8) 0x048209C8 ∧ exec i (t.holdWord 0x048209C8) = .next x ∧ x.note ≠ .waiting ∧
    ((x.core 0).slot 0).bound = some 0 ∧ x.sheds (keyOf 0 0) = false ∧ u.gangOf (keyOf 0 0) = none ∧ u.slotOf (keyOf 0 0) = some 0 ∧
    (u.frame (keyOf 0 0)).pend = .idle ∧ x.note = .retired :=
  ⟨_, _, _, _, _, issues_of _ rfl (by decide) ⟨rfl, rfl⟩ rfl (by decide) rfl (by decide) rfl rfl rfl rfl rfl, ⟨rfl, rfl, .inl ⟨_, rfl, rfl, rfl⟩⟩,
    rfl, fun ⟨_, _, n, h, _⟩ => absurd (show n ∈ ([] : List (Fin 8)) from h) List.not_mem_nil, rfl, nofun, rfl, rfl, rfl, rfl, rfl, rfl⟩

theorem met_StepRunsDecoded_waits : ∃ u v t i x, Issues drowsy u v 0 0 0 ∧ InFront v t 0x8C010048 ∧ decode 0x8C010048 = .ok i ∧
    ¬BadMask (t.holdWord 0x8C010048) 0x8C010048 ∧ exec i (t.holdWord 0x8C010048) = .next x ∧ x.note = .waiting ∧
    ∀ j < 8, j ≠ 0 → (((u.tried x 0 0 0).core 0).slot j).bound = none :=
  ⟨_, _, _, _, _, issues_of _ rfl (by decide) ⟨rfl, rfl⟩ rfl (by decide) rfl (by decide) rfl rfl rfl rfl rfl, ⟨rfl, rfl, .inl ⟨_, rfl, rfl, rfl⟩⟩,
    rfl, fun ⟨_, _, n, h, _⟩ => absurd (show n ∈ ([] : List (Fin 8)) from h) List.not_mem_nil, rfl, rfl, by decide⟩

theorem met_StepRunsDecoded_illegal : ∃ u v t e, Issues (ready 0) u v 0 0 0 ∧ InFront v t 0 ∧ decode 0 = .error e ∧ Alone (t.holdWord 0) :=
  ⟨_, _, _, _, issues_of _ rfl (by decide) ⟨rfl, rfl⟩ rfl (by decide) rfl (by decide) rfl rfl rfl rfl rfl, ⟨rfl, rfl, .inl ⟨_, rfl, rfl, rfl⟩⟩,
    rfl, ⟨rfl, rfl⟩⟩

theorem met_StepRunsDecoded_mask : ∃ u v t i, Issues (marred { thread with par := { m := 0x20 } }) u v 0 0 0 ∧ InFront v t 0xC0611500 ∧
    decode 0xC0611500 = .ok i ∧ BadMask (t.holdWord 0xC0611500) 0xC0611500 ∧ Alone (t.holdWord 0xC0611500) ∧
    (t.holdWord 0xC0611500).my.anch :=
  ⟨_, _, _, _, issues_of _ rfl (by decide) ⟨rfl, rfl⟩ rfl (by decide) rfl (by decide) rfl rfl rfl rfl rfl, ⟨rfl, rfl, .inl ⟨_, rfl, rfl, rfl⟩⟩,
    rfl, ⟨0, .head _, 5, by decide, by decide, by decide⟩, ⟨rfl, rfl⟩, by decide⟩

theorem met_StepRunsDecoded_parity : ∃ u, CoreTurn (marred { thread with par := { ctl := true } }) u 0 ∧ FirstSlot u 0 0 0 ∧
    (u.frame (keyOf 0 0)).par.ctl :=
  ⟨_, ⟨3, [], rfl, rfl, rfl⟩, ⟨rfl, 0, by decide, rfl, fun _ h => absurd h (Nat.not_lt_zero _)⟩, rfl⟩

/-- A turn of a core whose thread R76 displaces. -/
theorem met_StepRunsDecoded_sheds : ∃ u, CoreTurn (marred { thread with shed := true }) u 0 ∧ FirstSlot u 0 0 0 ∧
    (u.frame (keyOf 0 0)).par.ctl = false ∧ u.sheds (keyOf 0 0) :=
  ⟨_, ⟨3, [], rfl, rfl, rfl⟩, ⟨rfl, 0, by decide, rfl, fun _ h => absurd h (Nat.not_lt_zero _)⟩, rfl, by decide⟩

theorem met_StepRunsDecoded_gang : ∃ g x, ganged.gangOf (keyOf 0 0) = some g ∧ (∀ k ∈ g.members, (ganged.frame k).pend = .idle) ∧
    x = { ganged with note := .retired } ∧ ((x.core 0).slot 0).bound = some 0 ∧ x.sheds (keyOf 0 0) = false ∧ (∃ y ∈ x.gangs, y.id = g.id) ∧
    ganged.slotOf 64 = some 0 :=
  ⟨_, _, rfl, by decide, rfl, rfl, by decide, ⟨_, .head _, rfl⟩, rfl⟩

theorem met_StepRunsDecoded_fetched : ∃ t u p, InFront (alone thread) t 0 ∧
    (alone thread).fetch (alone thread).my.pc = (u, .word 0 p) :=
  ⟨_, _, _, ⟨rfl, rfl, .inr ⟨rfl, _, _, rfl, rfl⟩⟩, rfl⟩

theorem met_StepRunsDecoded_event : ∃ s : State, s.turns = [{ clks := 1, who := .event (.epochBoundary 0) }] ∧ encode (.epochBoundary 0) = none ∧
    ({ mods := [] } : State).turns = [] ∧ ∀ e ∈ ({ mods := [] } : State).mods, e.2.power = false :=
  ⟨{ alone thread with turns := [{ clks := 1, who := .event (.epochBoundary 0) }] }, rfl, rfl, rfl, by decide⟩

theorem met_EncodedWordsDecode : ∃ w, Instr.wf (.lea (.g 4) (.g 2) (.g 1) false false) ∧ encode (.lea (.g 4) (.g 2) (.g 1) false false) = some w ∧
    Instr.wf (.epochBoundary 0) ∧ encode (.epochBoundary 0) = none :=
  ⟨_, by decide, rfl, by decide, rfl⟩

theorem met_DecodedWordsEncode : decode 0x048209C8 = .ok (.lea (.g 4) (.g 2) (.g 1) false false) := rfl

theorem met_MemoryStaysCanonical : ∃ t, (ready 0x048209C8).memOk ∧ step (ready 0x048209C8) = .next t := ⟨_, rfl, rfl⟩

/-! ## Terms that are no word of the manual, one for each check -/

theorem test_wf_refuses_operands : Instr.wf (.movk (.port .qmsg) 0 0) = false ∧
    Instr.wf (.ldD (.g 3) (.port .qmsg) false 0) = false ∧ Instr.wf (.spawn (.g 3) (.g 1) .z) = false ∧ Instr.wf (.flkLd 0 (.g 3) .z) = false ∧
    Instr.wf (.fcvt .i32 .u64 .rne (.g 3) (.g 4) false) = false ∧ Instr.wf (.fcvt .f32 .f32 .rne (.g 3) (.g 4) false) = false ∧
    Instr.wf (.barArv .core 3) = false ∧ Instr.wf (.barPhase .sys (.g 3) 3) = false ∧ Instr.wf (.gangForm 4) = false ∧
    Instr.wf (.tileMark (.g 3) 0) = false ∧ Instr.wf (.tileMark (.g 3) 3) = false := by decide

theorem test_wf_refuses_vectors : Instr.wf (.vadd .f32 3 (.v 1) (.v 2) 0) = false ∧ Instr.wf (.vfadd .i16 3 (.v 1) (.v 2) 0) = false ∧
    Instr.wf (.vcmpEq .i32 0 (.v 1) (.v 2) 0) = false ∧ Instr.wf (.vcmpLtu .f16 3 (.v 1) (.v 2) 0) = false ∧
    Instr.wf (.vsel .i32 3 (.v 1) (.v 2) 0) = false ∧ Instr.wf (.mnot 3 0) = false ∧ Instr.wf (.vld .w 3 2 (.port .qmsg) 0) = false := by decide

theorem test_wf_refuses_places : Instr.wf (.storePerform (2 ^ 22) 0) = false ∧ Instr.wf (.pinExpiry 0 33) = false ∧
    Instr.wf (.launchStart 256 0) = false ∧ Instr.wf (.thermalStep (2 ^ 14)) = false ∧ Instr.wf (.fill (2 ^ 20)) = false ∧
    Instr.wf (.mma { pav := 2 ^ 18 }) = false ∧ Instr.wf (.pageWalk (.slice 0 64) 0) = false ∧ Instr.wf (.instructionFetch 0 8) = false ∧
    Instr.wf (.retry (.core 0) 256) = false ∧ Instr.wf (.sensorFailure 0 64) = false ∧ Instr.wf (.reductionStepMerge 0 16) = false ∧
    Instr.wf (.hedgerowPortFailure 0 32) = false ∧ Instr.wf (.cxlMemRead 0 0 3) = false ∧ Instr.wf (.roceSend 0 4096 []) = false ∧
    Instr.wf (.ptrootWrite 0 64 0) = false := by decide

/-! ## Single steps with the manual's own numbers -/

/-- The thread of frame 0 after an instruction of the thread in issue. -/
def after (i : Instr) (s : State) : Option Frame :=
  match exec i s with
  | .next t => some (t.frame 0)
  | _ => none

/-- R218's example. -/
theorem test_lea : (after (.lea (.g 4) (.g 2) (.g 1) false false) (alone (withG (withG thread 1 0x6B258) 2 0x12340))).map (·.g[(4 : Fin 16)]) =
    some 0x0081AC9600012340 := rfl

/-- The values on their way to registers after an instruction. -/
def late (i : Instr) (s : State) : List Word :=
  match exec i s with
  | .next t => t.net.filterMap fun p => match p.kind with | .result _ v _ _ _ => some v | _ => none
  | _ => []

/-- R85: the two cases outside its rule. -/
theorem test_div : late (.div (.g 3) (.g 1) (.g 2) false false) (alone (withG thread 1 7)) = [0xFFFFFFFFFFFFFFFF] ∧
    late (.rem (.g 3) (.g 1) (.g 2) false false) (alone (withG (withG thread 1 0x8000000000000000) 2 0xFFFFFFFFFFFFFFFF)) = [0] := ⟨rfl, rfl⟩

/-- R219: `cmpi.ltu g5, g6, -1` compares with 2^64 - 1. -/
theorem test_cmpi : (after (.cmpi .ltu (.g 5) (.g 6) false 0xFFF) (alone (withG thread 6 7))).map (·.g[(5 : Fin 16)]) = some 1 := rfl

/-- R220: `movk` keeps the other three halfwords. -/
theorem test_movk : (after (.movk (.g 3) 2 0xABCD) (alone (withG thread 3 0x1111222233334444))).map (·.g[(3 : Fin 16)]) =
    some 0x1111ABCD33334444 := rfl

/-- R245, R239: a trap's cause, code, frame and slot. -/
theorem test_trap : (match exec (.trap 3) (alone light) with | .next t => (t.core 0).trapcause | _ => 0) =
    BitVec.ofNat 64 (Cause.trap.code + 3 * 256) := rfl

/-- A word placed by State.withFetchWord is what the next step runs: R218's word. -/
theorem test_withFetchWord : (match step (State.reset.withFetchWord 32 0x048209C8) with
    | .next t => (decide (t.note = .retired), (t.frame 0).pc, (t.frame 0).g[(4 : Fin 16)]) | _ => (false, 0, 0)) =
    (true, 0x10004, 0x80000000000000) := by decide +kernel

/-! ## Words written out from the encoding tables, by family -/

theorem test_words_int :
    decodeTableWord 32 0b000001_00011_01001_11000_000000000_1_0 = some (.add (.g 3) (.g 9) .z true false) ∧
    decodeTableWord 32 0b000001_00011_01001_11000_000000010_1_0 = some (.sub (.g 3) (.g 9) .z true false) ∧
    decodeTableWord 32 0b000001_00011_01001_11000_000000100_1_0 = some (.and (.g 3) (.g 9) .z true false) ∧
    decodeTableWord 32 0b000001_00011_01001_11000_000000110_1_0 = some (.or (.g 3) (.g 9) .z true false) ∧
    decodeTableWord 32 0b000001_00011_01001_11000_000001000_1_0 = some (.xor (.g 3) (.g 9) .z true false) ∧
    decodeTableWord 32 0b000001_00011_01001_11000_000001010_1_0 = some (.andn (.g 3) (.g 9) .z true false) ∧
    decodeTableWord 32 0b000001_00011_01001_11000_000001100_1_0 = some (.sll (.g 3) (.g 9) .z true false) ∧
    decodeTableWord 32 0b000001_00011_01001_11000_000001110_1_0 = some (.srl (.g 3) (.g 9) .z true false) ∧
    decodeTableWord 32 0b000001_00011_01001_11000_000010000_1_0 = some (.sra (.g 3) (.g 9) .z true false) ∧
    decodeTableWord 32 0b000001_00011_01001_11000_000010010_1_0 = some (.ror (.g 3) (.g 9) .z true false) ∧
    decodeTableWord 32 0b000001_00011_01001_11000_000100000_1_0 = some (.mul (.g 3) (.g 9) .z true false) ∧
    decodeTableWord 32 0b000001_00011_01001_11000_000100010_1_0 = some (.mulh (.g 3) (.g 9) .z true false) ∧
    decodeTableWord 32 0b000001_00011_01001_11000_000100100_1_0 = some (.mulhu (.g 3) (.g 9) .z true false) ∧
    decodeTableWord 32 0b000001_00011_01001_11000_000100110_1_0 = some (.div (.g 3) (.g 9) .z true false) ∧
    decodeTableWord 32 0b000001_00011_01001_11000_000101000_1_0 = some (.divu (.g 3) (.g 9) .z true false) ∧
    decodeTableWord 32 0b000001_00011_01001_11000_000101010_1_0 = some (.rem (.g 3) (.g 9) .z true false) ∧
    decodeTableWord 32 0b000001_00011_01001_11000_000101100_1_0 = some (.remu (.g 3) (.g 9) .z true false) ∧
    decodeTableWord 32 0b000001_00011_01001_11000_000110000_1_0 = some (.min (.g 3) (.g 9) .z true false) ∧
    decodeTableWord 32 0b000001_00011_01001_11000_000110010_1_0 = some (.max (.g 3) (.g 9) .z true false) ∧
    decodeTableWord 32 0b000001_00011_01001_11000_000110100_1_0 = some (.minu (.g 3) (.g 9) .z true false) ∧
    decodeTableWord 32 0b000001_00011_01001_11000_000110110_1_0 = some (.maxu (.g 3) (.g 9) .z true false) ∧
    decodeTableWord 32 0b000001_00011_01001_00000001000000_1_0 = some (.clz (.g 3) (.g 9) true) ∧
    decodeTableWord 32 0b000001_00011_01001_00000001000010_1_0 = some (.ctz (.g 3) (.g 9) true) ∧
    decodeTableWord 32 0b000001_00011_01001_00000001000100_1_0 = some (.popc (.g 3) (.g 9) true) ∧
    decodeTableWord 32 0b000001_00011_01001_00000001000110_1_0 = some (.brev (.g 3) (.g 9) true) ∧
    decodeTableWord 32 0b000001_00011_01001_00000001001000_1_0 = some (.bswap (.g 3) (.g 9) true) ∧
    decodeTableWord 32 0b000001_00011_01001_00000001010000_1_0 = some (.sextB (.g 3) (.g 9) true) ∧
    decodeTableWord 32 0b000001_00011_01001_00000001010010_1_0 = some (.sextH (.g 3) (.g 9) true) ∧
    decodeTableWord 32 0b000001_00011_01001_00000001010100_1_0 = some (.sextW (.g 3) (.g 9) true) ∧
    decodeTableWord 32 0b000001_00011_01001_00000001011000_1_0 = some (.zextB (.g 3) (.g 9) true) ∧
    decodeTableWord 32 0b000001_00011_01001_00000001011010_1_0 = some (.zextH (.g 3) (.g 9) true) ∧
    decodeTableWord 32 0b000001_00011_01001_00000001011100_1_0 = some (.zextW (.g 3) (.g 9) true) ∧
    decodeTableWord 32 0b000001_00011_01001_11000_001100000_1_0 = some (.cmpEq (.g 3) (.g 9) .z true false) ∧
    decodeTableWord 32 0b000001_00011_01001_11000_001100010_1_0 = some (.cmpNe (.g 3) (.g 9) .z true false) ∧
    decodeTableWord 32 0b000001_00011_01001_11000_001100100_1_0 = some (.cmpLt (.g 3) (.g 9) .z true false) ∧
    decodeTableWord 32 0b000001_00011_01001_11000_001100110_1_0 = some (.cmpGe (.g 3) (.g 9) .z true false) ∧
    decodeTableWord 32 0b000001_00011_01001_11000_001101000_1_0 = some (.cmpLtu (.g 3) (.g 9) .z true false) ∧
    decodeTableWord 32 0b000001_00011_01001_11000_001101010_1_0 = some (.cmpGeu (.g 3) (.g 9) .z true false) ∧
    decodeTableWord 32 0b000001_00011_01001_11000_001110000_1_0 = some (.selz (.g 3) (.g 9) .z true false) ∧
    decodeTableWord 32 0b000001_00011_01001_11000_001110010_1_0 = some (.lea (.g 3) (.g 9) .z true false) := by decide

theorem test_words_imm :
    decodeTableWord 32 0b000010_00011_01001_1_101101000111011 = some (.addi (.g 3) (.g 9) true 23099) ∧
    decodeTableWord 32 0b000011_00011_01001_1_101101000111011 = some (.andi (.g 3) (.g 9) true 23099) ∧
    decodeTableWord 32 0b000100_00011_01001_1_101101000111011 = some (.ori (.g 3) (.g 9) true 23099) ∧
    decodeTableWord 32 0b000101_00011_01001_1_101101000111011 = some (.xori (.g 3) (.g 9) true 23099) ∧
    decodeTableWord 32 0b001010_00011_01001_1_101101000111011 = some (.muli (.g 3) (.g 9) true 23099) ∧
    decodeTableWord 32 0b000110_00011_01001_1_000000000_101011 = some (.slli (.g 3) (.g 9) true 43) ∧
    decodeTableWord 32 0b000110_00011_01001_1_010000000_101011 = some (.srli (.g 3) (.g 9) true 43) ∧
    decodeTableWord 32 0b000110_00011_01001_1_100000000_101011 = some (.srai (.g 3) (.g 9) true 43) ∧
    decodeTableWord 32 0b000110_00011_01001_1_110000000_101011 = some (.rori (.g 3) (.g 9) true 43) ∧
    decodeTableWord 32 0b000111_00011_01001_1_100_110100110101 = some (.cmpi .ltu (.g 3) (.g 9) true 3381) ∧
    decodeTableWord 32 0b001000_00011_110100101110000111011 = some (.movi (.g 3) 1727547) ∧
    decodeTableWord 32 0b001001_00011_10_000_1010010100111100 = some (.movk (.g 3) 2 42300) := by decide

theorem test_words_fp :
    decodeTableWord 32 0b010000_00011_01001_11000_01_010_0000_1_0 = some (.fadd .f32 .rtz (.g 3) (.g 9) .z true false) ∧
    decodeTableWord 32 0b010000_00011_01001_11000_01_010_0010_1_0 = some (.fsub .f32 .rtz (.g 3) (.g 9) .z true false) ∧
    decodeTableWord 32 0b010000_00011_01001_11000_01_010_0100_1_0 = some (.fmul .f32 .rtz (.g 3) (.g 9) .z true false) ∧
    decodeTableWord 32 0b010000_00011_01001_11000_01_010_0110_1_0 = some (.fdiv .f32 .rtz (.g 3) (.g 9) .z true false) ∧
    decodeTableWord 32 0b010000_00011_01001_00000_01_010_1000_1_0 = some (.fsqrt .f32 .rtz (.g 3) (.g 9) true) ∧
    decodeTableWord 32 0b010000_00011_01001_11000_01_1100000_1_0 = some (.fcmpEq .f32 (.g 3) (.g 9) .z true false) ∧
    decodeTableWord 32 0b010000_00011_01001_11000_01_1100010_1_0 = some (.fcmpLt .f32 (.g 3) (.g 9) .z true false) ∧
    decodeTableWord 32 0b010000_00011_01001_11000_01_1100100_1_0 = some (.fcmpLe .f32 (.g 3) (.g 9) .z true false) ∧
    decodeTableWord 32 0b010000_00011_01001_11000_01_1100110_1_0 = some (.fcmpUn .f32 (.g 3) (.g 9) .z true false) ∧
    decodeTableWord 32 0b010000_00011_01001_11000_01_1110000_1_0 = some (.fmin .f32 (.g 3) (.g 9) .z true false) ∧
    decodeTableWord 32 0b010000_00011_01001_11000_01_1110010_1_0 = some (.fmax .f32 (.g 3) (.g 9) .z true false) ∧
    decodeTableWord 32 0b010000_00011_01001_00000_01_1110100_1_0 = some (.fabs .f32 (.g 3) (.g 9) true) ∧
    decodeTableWord 32 0b010000_00011_01001_00000_01_1110110_1_0 = some (.fneg .f32 (.g 3) (.g 9) true) ∧
    decodeTableWord 32 0b010000_00011_01001_11000_01_1111000_1_0 = some (.fsgnj .f32 (.g 3) (.g 9) .z true false) ∧
    decodeTableWord 32 0b010000_00011_01001_00000_01_1111010_1_0 = some (.fclass .f32 (.g 3) (.g 9) true) := by decide

theorem test_words_fma :
    decodeTableWord 32 0b010001_00011_01001_11000_01_010_0000_1_0 = some (.fma .f32 .rtz (.g 3) (.g 9) .z true false) ∧
    decodeTableWord 32 0b010001_00011_01001_11000_01_010_0010_1_0 = some (.fms .f32 .rtz (.g 3) (.g 9) .z true false) ∧
    decodeTableWord 32 0b010001_00011_01001_11000_01_010_0100_1_0 = some (.fnma .f32 .rtz (.g 3) (.g 9) .z true false) ∧
    decodeTableWord 32 0b010001_00011_01001_11000_01_010_0110_1_0 = some (.fnms .f32 .rtz (.g 3) (.g 9) .z true false) := by decide

theorem test_words_fcvt :
    decodeTableWord 32 0b010010_00011_01001_0_1001_0011_010_00_1_0 = some (.fcvt .bf16 .i64 .rtz (.g 3) (.g 9) true) := by decide

theorem test_words_mem :
    decodeTableWord 32 0b011000_00011_01001_1_000_110100110101 = some (.ldB (.g 3) (.g 9) true 3381) ∧
    decodeTableWord 32 0b011000_00011_01001_1_001_110100110101 = some (.ldBz (.g 3) (.g 9) true 3381) ∧
    decodeTableWord 32 0b011000_00011_01001_1_010_110100110101 = some (.ldH (.g 3) (.g 9) true 3381) ∧
    decodeTableWord 32 0b011000_00011_01001_1_011_110100110101 = some (.ldHz (.g 3) (.g 9) true 3381) ∧
    decodeTableWord 32 0b011000_00011_01001_1_100_110100110101 = some (.ldW (.g 3) (.g 9) true 3381) ∧
    decodeTableWord 32 0b011000_00011_01001_1_101_110100110101 = some (.ldWz (.g 3) (.g 9) true 3381) ∧
    decodeTableWord 32 0b011000_00011_01001_1_110_110100110101 = some (.ldD (.g 3) (.g 9) true 3381) ∧
    decodeTableWord 32 0b011001_00011_01001_1_000_110100110101 = some (.stB (.g 3) (.g 9) true 3381) ∧
    decodeTableWord 32 0b011001_00011_01001_1_010_110100110101 = some (.stH (.g 3) (.g 9) true 3381) ∧
    decodeTableWord 32 0b011001_00011_01001_1_100_110100110101 = some (.stW (.g 3) (.g 9) true 3381) ∧
    decodeTableWord 32 0b011001_00011_01001_1_110_110100110101 = some (.stD (.g 3) (.g 9) true 3381) := by decide

theorem test_words_dec :
    decodeTableWord 32 0b011010_00011_01001_1_000_110100110101 = some (.ldfF32 (.g 3) (.g 9) true 3381) ∧
    decodeTableWord 32 0b011010_00011_01001_1_001_110100110101 = some (.ldfBf16 (.g 3) (.g 9) true 3381) ∧
    decodeTableWord 32 0b011010_00011_01001_1_010_110100110101 = some (.ldfF64 (.g 3) (.g 9) true 3381) ∧
    decodeTableWord 32 0b011010_00011_01001_1_011_110100110101 = some (.ldfI32 (.g 3) (.g 9) true 3381) ∧
    decodeTableWord 32 0b011011_00011_01001_1_000_110100110101 = some (.stfF32 (.g 3) (.g 9) true 3381) ∧
    decodeTableWord 32 0b011011_00011_01001_1_001_110100110101 = some (.stfBf16 (.g 3) (.g 9) true 3381) ∧
    decodeTableWord 32 0b011011_00011_01001_1_010_110100110101 = some (.stfF64 (.g 3) (.g 9) true 3381) ∧
    decodeTableWord 32 0b011011_00011_01001_1_011_110100110101 = some (.stfI32 (.g 3) (.g 9) true 3381) := by decide

theorem test_words_acq :
    decodeTableWord 32 0b011100_00011_01001_1_100_011_111000101 = some (.ldqW .stack (.g 3) (.g 9) true 453) ∧
    decodeTableWord 32 0b011100_00011_01001_1_110_011_111000101 = some (.ldqD .stack (.g 3) (.g 9) true 453) ∧
    decodeTableWord 32 0b011101_00011_01001_1_100_011_111000101 = some (.stlW .stack (.g 3) (.g 9) true 453) ∧
    decodeTableWord 32 0b011101_00011_01001_1_110_011_111000101 = some (.stlD .stack (.g 3) (.g 9) true 453) := by decide

theorem test_words_amo :
    decodeTableWord 32 0b100000_00011_01001_11000_0000000_1_000 = some (.amoAdd true (.g 3) (.g 9) .z) ∧
    decodeTableWord 32 0b100000_00011_01001_11000_0000001_1_000 = some (.amoAnd true (.g 3) (.g 9) .z) ∧
    decodeTableWord 32 0b100000_00011_01001_11000_0000010_1_000 = some (.amoOr true (.g 3) (.g 9) .z) ∧
    decodeTableWord 32 0b100000_00011_01001_11000_0000011_1_000 = some (.amoXor true (.g 3) (.g 9) .z) ∧
    decodeTableWord 32 0b100000_00011_01001_11000_0000100_1_000 = some (.amoMin true (.g 3) (.g 9) .z) ∧
    decodeTableWord 32 0b100000_00011_01001_11000_0000101_1_000 = some (.amoMax true (.g 3) (.g 9) .z) ∧
    decodeTableWord 32 0b100000_00011_01001_11000_0000110_1_000 = some (.amoMinu true (.g 3) (.g 9) .z) ∧
    decodeTableWord 32 0b100000_00011_01001_11000_0000111_1_000 = some (.amoMaxu true (.g 3) (.g 9) .z) ∧
    decodeTableWord 32 0b100000_00011_01001_11000_0001000_1_000 = some (.amoSwap true (.g 3) (.g 9) .z) ∧
    decodeTableWord 32 0b100000_00011_01001_11000_0001001_1_000 = some (.amoCas true (.g 3) (.g 9) .z) ∧
    decodeTableWord 32 0b100000_00011_01001_11000_0001010_1_000 = some (.amoFadd true (.g 3) (.g 9) .z) ∧
    decodeTableWord 32 0b100000_00011_01001_11000_0001011_1_000 = some (.amoFmaxa true (.g 3) (.g 9) .z) := by decide

theorem test_words_amop :
    decodeTableWord 32 0b10000100000_01001_11000_0000000_1_000 = some (.amopAdd true (.g 9) .z) ∧
    decodeTableWord 32 0b10000100000_01001_11000_0000001_1_000 = some (.amopAnd true (.g 9) .z) ∧
    decodeTableWord 32 0b10000100000_01001_11000_0000010_1_000 = some (.amopOr true (.g 9) .z) ∧
    decodeTableWord 32 0b10000100000_01001_11000_0000011_1_000 = some (.amopXor true (.g 9) .z) ∧
    decodeTableWord 32 0b10000100000_01001_11000_0000100_1_000 = some (.amopMin true (.g 9) .z) ∧
    decodeTableWord 32 0b10000100000_01001_11000_0000101_1_000 = some (.amopMax true (.g 9) .z) ∧
    decodeTableWord 32 0b10000100000_01001_11000_0000110_1_000 = some (.amopMinu true (.g 9) .z) ∧
    decodeTableWord 32 0b10000100000_01001_11000_0000111_1_000 = some (.amopMaxu true (.g 9) .z) ∧
    decodeTableWord 32 0b10000100000_01001_11000_0001010_1_000 = some (.amopFadd true (.g 9) .z) ∧
    decodeTableWord 32 0b10000100000_01001_11000_0001011_1_000 = some (.amopFmaxa true (.g 9) .z) := by decide

theorem test_words_mig :
    decodeTableWord 32 0b10001000000_01001_0000000000000000 = some (.go (.g 9)) ∧
    decodeTableWord 32 0b10001000000000000000000000001000 = some (.pin) ∧
    decodeTableWord 32 0b10001000000000000000000000010000 = some (.unpin) ∧
    decodeTableWord 32 0b100010_00011_000000000000000011000 = some (.whereI (.g 3)) ∧
    decodeTableWord 32 0b100010_00011_000000000000000100000 = some (.hops (.g 3)) := by decide

theorem test_words_thr :
    decodeTableWord 32 0b100011_00011_01001_01100_00000000000 = some (.spawn (.g 3) (.g 9) (.g 12)) ∧
    decodeTableWord 32 0b100011_00011_01001_01100_00000001000 = some (.spawna (.g 3) (.g 9) (.g 12)) ∧
    decodeTableWord 32 0b10001100000000000000000000010000 = some (.exit) ∧
    decodeTableWord 32 0b10001100000_01001_0000000000011000 = some (.join (.g 9)) ∧
    decodeTableWord 32 0b10001100000000000000000000100000 = some (.yield) ∧
    decodeTableWord 32 0b100011_00011_000000000000000101000 = some (.next (.g 3)) ∧
    decodeTableWord 32 0b100011_00011_01001_0000000000110000 = some (.launch (.g 3) (.g 9)) ∧
    decodeTableWord 32 0b100011_00011_01001_0000000000111000 = some (.taskDec (.g 3) (.g 9)) ∧
    decodeTableWord 32 0b10001100000_01001_0000000001000000 = some (.taskDecp (.g 9)) ∧
    decodeTableWord 32 0b10001100000_01001_0000000001001000 = some (.sleep (.g 9)) := by decide

theorem test_words_sync :
    decodeTableWord 32 0b1001000000000_101_0000000000000_011 = some (.barArv .stack 5) ∧
    decodeTableWord 32 0b1001000000000_101_0000000000001_011 = some (.barWait .stack 5) ∧
    decodeTableWord 32 0b1001000000000_101_0000000000010_011 = some (.barArd .stack 5) ∧
    decodeTableWord 32 0b1001000000000_101_0000000000011_011 = some (.barSync .stack 5) ∧
    decodeTableWord 32 0b100100_00011_00_101_0000000000100_011 = some (.barPhase .stack (.g 3) 5) ∧
    decodeTableWord 32 0b10010000000000000000000001000_011 = some (.fence .stack) ∧
    decodeTableWord 32 0b1001000_1011_01001_11000_00010000000 = some (.flkJoin 11 (.g 9) .z) ∧
    decodeTableWord 32 0b1001000_1011_01001_01100_00010001000 = some (.flkLd 11 (.g 9) (.g 12)) ∧
    decodeTableWord 32 0b1001000_1011_000000000000010010000 = some (.flkLeave 11) ∧
    decodeTableWord 32 0b1001000_1011_01001_0000000010011000 = some (.flkTimer 11 (.g 9)) ∧
    decodeTableWord 32 0b10010000000000000000000011000000 = some (.leaseAcq) ∧
    decodeTableWord 32 0b100100_00011_000000000000011001000 = some (.leaseTry (.g 3)) ∧
    decodeTableWord 32 0b10010000000000000000000011010000 = some (.leaseRel) := by decide

theorem test_words_tile :
    decodeTableWord 32 0b100101_00011_01001_11000_00000000000 = some (.tileAlloc (.g 3) (.g 9) .z) ∧
    decodeTableWord 32 0b10010100000_01001_0000000000001000 = some (.tileFree (.g 9)) ∧
    decodeTableWord 32 0b10010100000_01001_0000000000010000 = some (.tileFreef (.g 9)) ∧
    decodeTableWord 32 0b100101_00011_01001_0000000000011000 = some (.tileState (.g 3) (.g 9)) ∧
    decodeTableWord 32 0b10010100000_01001_0000000000100_001 = some (.tileMark (.g 9) 1) := by decide

theorem test_words_gang :
    decodeTableWord 32 0b10101100000000000000000000000_001 = some (.gangForm 1) ∧
    decodeTableWord 32 0b10101100000000000000000000001000 = some (.split) := by decide

theorem test_words_sys :
    decodeTableWord 32 0b111100_00101_01001_0000000000000000 = some (.movs .trapcause (.g 9)) ∧
    decodeTableWord 32 0b111100_00011_00101_0000000000001000 = some (.movfs (.g 3) .trapcause) ∧
    decodeTableWord 32 0b11110000000000000000000000010_101 = some (.trap 5) ∧
    decodeTableWord 32 0b11110000000000000000000000011000 = some (.rfe) ∧
    decodeTableWord 32 0b11110000000000000000000000100000 = some (.brk) ∧
    decodeTableWord 32 0b111100_00011_000000000000000101000 = some (.waitev (.g 3)) ∧
    decodeTableWord 32 0b11110000000_01001_0000000000110000 = some (.ctxSw (.g 9)) ∧
    decodeTableWord 32 0b11110000000_01001_0000000000111000 = some (.tlbInv (.g 9)) ∧
    decodeTableWord 32 0b11110000000000000000000001000000 = some (.secFlush) ∧
    decodeTableWord 32 0b11110000000_01001_0000000001001000 = some (.preempt (.g 9)) ∧
    decodeTableWord 32 0b11110000000_01001_0000000001010000 = some (.resume (.g 9)) := by decide

theorem test_words_ctl :
    decodeTableWord 32 0b101000_00011_110100101110000111011 = some (.jl (.g 3) 1727547) ∧
    decodeTableWord 32 0b101001_0101_01001_1_1010010100111100 = some (.bc .lez (.g 9) true 42300) ∧
    decodeTableWord 32 0b101010_00011_01001_1_101101000111011 = some (.jr (.g 3) (.g 9) true 23099) ∧
    decodeTableWord 32 0b101100_10011_1011_10_10_10_00000000000 = some (.repf 19 11 2 2 2) ∧
    decodeTableWord 32 0b11111100000000000000000000000000 = some (.solo) := by decide

theorem test_words_vint :
    decodeTableWord 32 0b110000_00101_01001_11100_101_00000_100 = some (.vadd .i16 5 (.v 9) (.g 12) 5) ∧
    decodeTableWord 32 0b110000_00101_01001_11100_101_00001_100 = some (.vsub .i16 5 (.v 9) (.g 12) 5) ∧
    decodeTableWord 32 0b110000_00101_01001_11100_101_00010_100 = some (.vmul .i16 5 (.v 9) (.g 12) 5) ∧
    decodeTableWord 32 0b110000_00101_01001_11100_101_00011_100 = some (.vmulh .i16 5 (.v 9) (.g 12) 5) ∧
    decodeTableWord 32 0b110000_00101_01001_11100_101_00100_100 = some (.vand .i16 5 (.v 9) (.g 12) 5) ∧
    decodeTableWord 32 0b110000_00101_01001_11100_101_00101_100 = some (.vor .i16 5 (.v 9) (.g 12) 5) ∧
    decodeTableWord 32 0b110000_00101_01001_11100_101_00110_100 = some (.vxor .i16 5 (.v 9) (.g 12) 5) ∧
    decodeTableWord 32 0b110000_00101_01001_11100_101_00111_100 = some (.vandn .i16 5 (.v 9) (.g 12) 5) ∧
    decodeTableWord 32 0b110000_00101_01001_11100_101_01000_100 = some (.vsll .i16 5 (.v 9) (.g 12) 5) ∧
    decodeTableWord 32 0b110000_00101_01001_11100_101_01001_100 = some (.vsrl .i16 5 (.v 9) (.g 12) 5) ∧
    decodeTableWord 32 0b110000_00101_01001_11100_101_01010_100 = some (.vsra .i16 5 (.v 9) (.g 12) 5) ∧
    decodeTableWord 32 0b110000_00101_01001_11100_101_01011_100 = some (.vmin .i16 5 (.v 9) (.g 12) 5) ∧
    decodeTableWord 32 0b110000_00101_01001_11100_101_01100_100 = some (.vmax .i16 5 (.v 9) (.g 12) 5) ∧
    decodeTableWord 32 0b110000_00101_01001_11100_101_01101_100 = some (.vminu .i16 5 (.v 9) (.g 12) 5) ∧
    decodeTableWord 32 0b110000_00101_01001_11100_101_01110_100 = some (.vmaxu .i16 5 (.v 9) (.g 12) 5) ∧
    decodeTableWord 32 0b110000_00101_01001_00000_101_01111_100 = some (.vabs .i16 5 (.v 9) 5) := by decide

theorem test_words_vflt :
    decodeTableWord 32 0b110001_00101_01001_11100_101_00000_011 = some (.vfadd .bf16 5 (.v 9) (.g 12) 5) ∧
    decodeTableWord 32 0b110001_00101_01001_11100_101_00001_011 = some (.vfsub .bf16 5 (.v 9) (.g 12) 5) ∧
    decodeTableWord 32 0b110001_00101_01001_11100_101_00010_011 = some (.vfmul .bf16 5 (.v 9) (.g 12) 5) ∧
    decodeTableWord 32 0b110001_00101_01001_11100_101_00011_011 = some (.vfdiv .bf16 5 (.v 9) (.g 12) 5) ∧
    decodeTableWord 32 0b110001_00101_01001_11100_101_00100_011 = some (.vfmin .bf16 5 (.v 9) (.g 12) 5) ∧
    decodeTableWord 32 0b110001_00101_01001_11100_101_00101_011 = some (.vfmax .bf16 5 (.v 9) (.g 12) 5) ∧
    decodeTableWord 32 0b110001_00101_01001_00000_101_00110_011 = some (.vfabs .bf16 5 (.v 9) 5) ∧
    decodeTableWord 32 0b110001_00101_01001_00000_101_00111_011 = some (.vfneg .bf16 5 (.v 9) 5) ∧
    decodeTableWord 32 0b110001_00101_01001_00_001_101_01000_100 = some (.vcvt .i16 .f32 5 (.v 9) 5) := by decide

theorem test_words_vfma :
    decodeTableWord 32 0b110010_00101_01001_11100_101_00000_011 = some (.vfma .bf16 5 (.v 9) (.g 12) 5) ∧
    decodeTableWord 32 0b110010_00101_01001_11100_101_00001_011 = some (.vfms .bf16 5 (.v 9) (.g 12) 5) ∧
    decodeTableWord 32 0b110010_00101_01001_11100_101_00010_011 = some (.vfnma .bf16 5 (.v 9) (.g 12) 5) := by decide

theorem test_words_vperm :
    decodeTableWord 32 0b110100_00101_01001_11100_101_00000_100 = some (.vshuf .i16 5 (.v 9) (.g 12) 5) ∧
    decodeTableWord 32 0b110100_00101_01001_00000_101_00001_100 = some (.vbcast .i16 5 (.v 9) 5) ∧
    decodeTableWord 32 0b110100_10101_01001_11100_00000010_100 = some (.vext .i16 5 9 12) ∧
    decodeTableWord 32 0b110100_00101_11001_11100_00000011_100 = some (.vins .i16 5 9 12) ∧
    decodeTableWord 32 0b110100_00101_01001_11100_101_00100000 = some (.vnzs 5 9 12 5) ∧
    decodeTableWord 32 0b110100_00101_01001_11100_101_00101_100 = some (.vpfx .i16 5 (.v 9) (.g 12) 5) ∧
    decodeTableWord 32 0b110100_10101_01001_00000_101_00110_100 = some (.vredAdd .i16 5 9 5) ∧
    decodeTableWord 32 0b110100_10101_01001_00000_101_00111_100 = some (.vredMin .i16 5 9 5) ∧
    decodeTableWord 32 0b110100_10101_01001_00000_101_01000_100 = some (.vredMax .i16 5 9 5) := by decide

theorem test_words_vcmp :
    decodeTableWord 32 0b110101_00011_01001_11100_101_00000_100 = some (.vcmpEq .i16 3 (.v 9) (.g 12) 5) ∧
    decodeTableWord 32 0b110101_00011_01001_11100_101_00001_100 = some (.vcmpNe .i16 3 (.v 9) (.g 12) 5) ∧
    decodeTableWord 32 0b110101_00011_01001_11100_101_00010_100 = some (.vcmpLt .i16 3 (.v 9) (.g 12) 5) ∧
    decodeTableWord 32 0b110101_00011_01001_11100_101_00011_100 = some (.vcmpGe .i16 3 (.v 9) (.g 12) 5) ∧
    decodeTableWord 32 0b110101_00011_01001_11100_101_00100_100 = some (.vcmpLtu .i16 3 (.v 9) (.g 12) 5) ∧
    decodeTableWord 32 0b110101_00011_01001_11100_101_00101_100 = some (.vcmpGeu .i16 3 (.v 9) (.g 12) 5) ∧
    decodeTableWord 32 0b110101_00101_01001_11100_101_01000_100 = some (.vsel .i16 5 (.v 9) (.g 12) 5) ∧
    decodeTableWord 32 0b110101_00011_00010_00110_00001001000 = some (.mand 3 2 6) ∧
    decodeTableWord 32 0b110101_00011_00010_00110_00001010000 = some (.mor 3 2 6) ∧
    decodeTableWord 32 0b110101_00011_00010_0000000001011000 = some (.mnot 3 2) ∧
    decodeTableWord 32 0b110101_10101_00010_0000000001100000 = some (.mpopc 5 2) := by decide

theorem test_words_vmem :
    decodeTableWord 32 0b110011_00101_01001_11000_101_000_01_000 = some (.vld .h 5 9 .z 5) ∧
    decodeTableWord 32 0b110011_00101_01001_11000_101_001_01_000 = some (.vst .h 5 9 .z 5) ∧
    decodeTableWord 32 0b110011_00101_01001_11000_101_010_01_000 = some (.vlds .h 5 9 .z 5) ∧
    decodeTableWord 32 0b110011_00101_01001_11000_101_011_01_000 = some (.vsts .h 5 9 .z 5) ∧
    decodeTableWord 32 0b110011_00101_01001_01100_101_100_01_000 = some (.vgath .h 5 9 12 5) ∧
    decodeTableWord 32 0b110011_00101_01001_01100_101_101_01_000 = some (.vscat .h 5 9 12 5) ∧
    decodeTableWord 32 0b110011_00101_01001_11000_101_11000000 = some (.vldt 5 9 .z 5) ∧
    decodeTableWord 32 0b110011_00101_01001_11000_101_11001000 = some (.vstt 5 9 .z 5) ∧
    decodeTableWord 32 0b110011_00101_01001_11000_101_11100000 = some (.vldfF32 5 9 .z 5) ∧
    decodeTableWord 32 0b110011_00101_01001_11000_101_11101000 = some (.vldfBf16 5 9 .z 5) ∧
    decodeTableWord 32 0b110011_00101_01001_11000_101_11110000 = some (.vldfI32 5 9 .z 5) := by decide

end Sys2Proof.Tests
end

section
/-! PROOFS. The words, steps and whole machine of 00_scope: what a core's turn comes to, what follows an issue, and what
the machine holds right after bring-up. -/

namespace Sys2Proof.Machine

open Sys2Proof Sys2Proof.Claims

/-! ### A core's slots -/

/-- A core has 8 slots: a change of slot n shows in slot n only, and beyond the eighth there is none. -/
theorem Core.slot_updSlot (c : Core) (n m : Nat) (h : Slot → Slot) :
    (c.updSlot n h).slot m = if m = n ∧ m < 8 then h (c.slot m) else c.slot m := by
  by_cases hm : m < 8
  · by_cases hn : m = n
    · subst hn
      simp [Core.slot, Core.updSlot, List.getD, hm]
    · simp [Core.slot, Core.updSlot, List.getD, hm, hn]
  · simp [Core.slot, Core.updSlot, List.getD, hm]

theorem keyLoc_keyOf (l : Nat) {f : Nat} (h : f < 64) : keyLoc (keyOf l f) = l :=
  have quotient : (l * 64 + f) / 64 = l := by omega
  quotient

/-! ### The search for the slot that issues (R45) -/

theorem State.underWay_iff (s : State) (ks : List Nat) : s.underWay ks = true ↔ ∃ k ∈ ks, (s.frame k).pend ≠ .idle := by
  simp [State.underWay]

theorem State.mayTry_iff (s : State) (l : Loc) (n f : Nat) : s.mayTry l n f = true ↔ MayIssue s l n f := by
  unfold State.mayTry MayIssue
  rw [Bool.or_eq_true, State.underWay_iff, Bool.and_eq_true, decide_eq_true_iff]
  cases s.gangOf (keyOf l f) <;> simp

theorem State.issueFrom_unbound {s : State} {l : Loc} {n : Nat} {r : List Nat} (h : ((s.core l).slot n).bound = none) :
    s.issueFrom l (n :: r) = s.issueFrom l r := by
  simp [State.issueFrom, h]

theorem State.issueFrom_passedOver {s : State} {l : Loc} {n f : Nat} {r : List Nat}
    (hb : ((s.core l).slot n).bound = some f) (h : PassedOver s l n f) : s.issueFrom l (n :: r) = s.issueFrom l r := by
  obtain ⟨hctl, hshed, hrest⟩ := h
  simp only [State.issueFrom, hb, hctl, hshed]
  rcases hrest with hz | hm
  · simp [hz]
  · rw [← State.mayTry_iff] at hm
    simp [hm]

/-- The search passes over a run of slots none of which may issue. -/
theorem State.issueFrom_append {s : State} {l : Loc} {before : List Nat} (r : List Nat)
    (h : ∀ n ∈ before, ∀ f, ((s.core l).slot n).bound = some f → PassedOver s l n f) :
    s.issueFrom l (before ++ r) = s.issueFrom l r := by
  induction before with
  | nil => rfl
  | cons n ns ih =>
    have hns := ih fun m hm => h m (List.mem_cons_of_mem _ hm)
    rw [List.cons_append]
    cases hb : ((s.core l).slot n).bound with
    | none => rw [State.issueFrom_unbound hb, hns]
    | some f => rw [State.issueFrom_passedOver hb (h n List.mem_cons_self f hb), hns]

theorem State.issueFrom_allUnbound {s : State} {l : Loc} {ns : List Nat}
    (h : ∀ n ∈ ns, ((s.core l).slot n).bound = none) : s.issueFrom l ns = .next s := by
  have := State.issueFrom_append (s := s) (before := ns) [] fun n hn f hf => nomatch (h n hn).symm.trans hf
  rwa [List.append_nil] at this

/-- The slots of a core's search in the order from its first: those before the i-th place, that of place i, and others. -/
theorem Core.order_split (c : Core) {i : Nat} (hi : i < 8) : ∃ after, (∀ m ∈ after, m ≠ (c.rr + i) % 8) ∧
    c.order = (List.range i).map (fun j => (c.rr + j) % 8) ++ (c.rr + i) % 8 :: after := by
  obtain ⟨k, hk⟩ : ∃ k, 8 = i + (k + 1) := ⟨7 - i, by omega⟩
  refine ⟨(List.range k).map fun j => (c.rr + (i + (j + 1))) % 8, ?_, ?_⟩
  · intro m hm
    obtain ⟨j, hj, rfl⟩ := List.mem_map.1 hm
    have := List.mem_range.1 hj
    omega
  · have split : List.range 8 = List.range i ++ i :: (List.range k).map fun j => i + (j + 1) := by
      rw [hk, List.range_add, List.range_succ_eq_map]
      simp [Function.comp_def]
    unfold Core.order
    rw [split]
    simp [Function.comp_def]

/-! ### A core's turn (R43, R45) -/

theorem step_coreTurn {s u : State} {l : Loc} (h : CoreTurn s u l) : step s = u.issueFrom l (u.core l).order := by
  obtain ⟨c, r, ht, rfl, hp⟩ := h
  simp only [step, ht, State.move, State.issueAt]
  exact if_pos hp

/-- On a core's turn the search comes to its first slot; the slots after it in the search are others. -/
theorem step_firstSlot {s u : State} {l : Loc} {n f : Nat} (h : CoreTurn s u l) (hf : FirstSlot u l n f) :
    ∃ after, (∀ m ∈ after, m ≠ n) ∧ step s = u.issueFrom l (n :: after) := by
  obtain ⟨-, i, hi, rfl, hpass⟩ := hf
  obtain ⟨after, hne, horder⟩ := (u.core l).order_split hi
  refine ⟨after, hne, ?_⟩
  rw [step_coreTurn h, horder]
  refine State.issueFrom_append _ fun m hm g hg => ?_
  obtain ⟨j, hj, rfl⟩ := List.mem_map.1 hm
  exact hpass j (List.mem_range.1 hj) g hg

/-- The slot that issues: what follows its try, or the search goes on where nothing came about. -/
theorem step_issues {s u v x : State} {l : Loc} {n f : Nat} (h : Issues s u v l n f) (hx : v.issueNow = .next x) :
    ∃ after, (∀ m ∈ after, m ≠ n) ∧ step s =
      if x.note = .waiting then (u.tried x l n f).issueFrom l after else .next (u.tried x l n f) := by
  obtain ⟨hturn, hfirst, hctl, hshed, hfrozen, hmay, rfl, -, -⟩ := h
  obtain ⟨after, hne, hstep⟩ := step_firstSlot hturn hfirst
  refine ⟨after, hne, ?_⟩
  rw [← State.mayTry_iff] at hmay
  rw [hstep]
  simp only [State.issueFrom, hfirst.1, hctl, hshed, hfrozen, hmay, hx]
  simp

/-- An issue that came about ends the turn. -/
theorem step_issued {s u v x : State} {l : Loc} {n f : Nat} (h : Issues s u v l n f) (hx : v.issueNow = .next x)
    (hw : x.note ≠ .waiting) : step s = .next (u.tried x l n f) := by
  obtain ⟨after, -, hstep⟩ := step_issues h hx
  rw [hstep, if_neg hw]

/-- With no other slot bound the turn ends at the slot, whether or not an issue came about. -/
theorem step_onlySlot {s u v x : State} {l : Loc} {n f : Nat} (h : Issues s u v l n f) (hx : v.issueNow = .next x)
    (ho : ∀ j, j ≠ n → (((u.tried x l n f).core l).slot j).bound = none) : step s = .next (u.tried x l n f) := by
  obtain ⟨after, hne, hstep⟩ := step_issues h hx
  rw [hstep, State.issueFrom_allUnbound fun m hm => ho m (hne m hm), ite_self]

/-! ### The word in issue (R170, R174, R182) -/

/-- A word in front is in the slot's buffer, or is fetched into it. -/
theorem State.word_of_inFront {v t : State} {w : W32} (h : InFront v t w) : ∃ p, v.word v.my.pc = (t, .word w p) := by
  obtain ⟨-, -, ⟨e, he, rfl, rfl⟩ | ⟨hnone, u, p, hfetch, rfl⟩⟩ := h
  · exact ⟨e.phys, by simp [State.word, he]⟩
  · exact ⟨p, by simp [State.word, hnone, hfetch]⟩

theorem State.frontWord_of_inFront {v t : State} {w : W32} (h : InFront v t w) : v.frontWord = .word t w := by
  obtain ⟨p, hword⟩ := State.word_of_inFront h
  simp [State.frontWord, State.front, h.1, h.2.1, hword]

/-- A slot that issues executes the word in front. -/
theorem issueNow_of_inFront {s u v t : State} {l : Loc} {n f : Nat} {w : W32} (h : Issues s u v l n f)
    (hw : InFront v t w) : v.issueNow = execWord w t := by
  obtain ⟨-, -, -, -, -, -, -, hlead, hfree⟩ := h
  have hqueued : ∀ k ∈ v.issuers v.me, ∀ b, (v.frame k).wait ≠ some (.queued b) := fun k hk => (hfree k hk).2
  have hbounds : ((v.issuers v.me).any fun k => (v.frame k).bounds.isSome) = false := by
    rw [List.any_eq_false]
    intro k hk
    simp [(hfree k hk).1]
  rw [State.issueNow, if_neg, if_neg, State.frontWord_of_inFront hw]
  · simp [hbounds]
  · simp only [hlead, bne_self_eq_false, Bool.false_or, List.any_eq_true, not_exists, not_and]
    intro k hk
    split
    · next b hb => exact absurd hb (hqueued k hk b)
    · exact Bool.false_ne_true

theorem State.issuers_alone {s : State} {k : Nat} (h : s.gangOf k = none) : s.issuers k = [k] := by
  simp [State.issuers, h]

/-- Outside a gang a trap is the thread's own. -/
theorem issue_trap {s : State} {body : State → Eff} {c : Cause} {va : Word} (h : s.gangOf s.me = none)
    (hb : body s = .trap c va 0) : issue body s = .next (trapped s c va) := by
  rw [issue_alone h, hb]
  rfl

theorem badMask_iff (v : State) (w : W32) :
    ((v.issuers v.me).any fun k => (v.frame k).badMask w.toNat) = true ↔ BadMask v w := by
  simp only [BadMask, Frame.badMask, List.any_eq_true, Bool.and_eq_true, bne_iff_ne, Fin.val_ne_zero_iff]

/-- A word that decodes runs its instruction. -/
theorem execWord_decoded {t : State} {w : W32} {i : Instr} (hd : decode w = .ok i) (hm : ¬ BadMask (t.holdWord w) w) :
    execWord w t = exec i (t.holdWord w) := by
  rw [← badMask_iff, Bool.not_eq_true] at hm
  simp [execWord, hd, hm]

/-- R362: a word that reads a mask of bad parity traps its anchored thread. -/
theorem execWord_badMask {t : State} {w : W32} {i : Instr} (hd : decode w = .ok i) (hm : BadMask (t.holdWord w) w)
    (ha : Alone (t.holdWord w)) (hanch : (t.holdWord w).my.anch = true) :
    execWord w t = .next (trapped (t.holdWord w) .uncorrectable 0) := by
  rw [← badMask_iff] at hm
  have hmy : (t.holdWord w).my.badMask w.toNat = true := by
    rwa [State.issuers_alone ha.1, List.any_cons, List.any_nil, Bool.or_false] at hm
  simp only [execWord, hd, hm, if_true]
  exact issue_trap ha.1 (by simp [hanch, hmy])

/-- The major of a word is its top six bits. -/
theorem fld_major (w : W32) : fld w.toNat 26 6 = w.toNat / 2 ^ 26 := by
  have := w.isLt
  unfold fld
  omega

/-- R182, R183, R198: the cause of a word that decodes to none. -/
theorem execWord_undecoded {t : State} {w : W32} {e : DecodeErr} (hd : decode w = .error e) (ha : Alone (t.holdWord w)) :
    execWord w t = .next (trapped (t.holdWord w)
      (if e = .reserved ∧ ¬ ((t.holdWord w).my.solo ∧ w.toNat / 2 ^ 26 = 0x3F) then .reservedField else .illegalOpcode) 0) := by
  cases e with
  | reserved =>
    simp only [execWord, hd]
    apply issue_trap ha.1
    rw [fld_major]
    by_cases hillegal : (t.holdWord w).my.solo ∧ w.toNat / 2 ^ 26 = 0x3F
    · simp only [hillegal.1, hillegal.2, and_self, not_true, and_false, if_false]
      rfl
    · rw [if_neg, if_pos ⟨trivial, hillegal⟩]
      simpa using hillegal
  | illegal => simp only [execWord, hd]; exact issue_trap ha.1 (by simp)
  | short => simp only [execWord, hd]; exact issue_trap ha.1 (by simp)

/-! ### What follows an issue (R45, R74, R76) -/

/-- The slot e has issued: it issues again from clk c on, and its core's search starts after it. -/
def State.markIssued (c : Nat) (t : State) (e : Loc × Nat) : State :=
  t.updCore e.1 fun x => { x.updSlot e.2 (fun y => { y with next := c }) with rr := (e.2 + 1) % 8 }

theorem State.markIssued_slot (c : Nat) (t : State) (e : Loc × Nat) (l : Loc) (n : Nat) :
    ((t.markIssued c e).core l).slot n =
      if (l, n) = e ∧ n < 8 then { (t.core l).slot n with next := c } else (t.core l).slot n := by
  obtain ⟨k, m⟩ := e
  by_cases hl : k = l
  · subst hl
    have := Core.slot_updSlot (t.core k) m n fun y => { y with next := c }
    simpa [State.markIssued, Core.slot] using this
  · have : ¬ l = k := fun h => hl h.symm
    simp [State.markIssued, State.core_updCore_other _ _ hl, this]

/-- Marking slots changes cores only. -/
theorem State.foldl_markIssued_eq (c : Nat) (es : List (Loc × Nat)) (t : State) :
    es.foldl (State.markIssued c) t = { t with cores := (es.foldl (State.markIssued c) t).cores } := by
  induction es generalizing t with
  | nil => rfl
  | cons e es ih => exact ih (t.markIssued c e)

theorem State.foldl_markIssued_bound (c : Nat) (es : List (Loc × Nat)) (t : State) (l : Loc) (n : Nat) :
    (((es.foldl (State.markIssued c) t).core l).slot n).bound = ((t.core l).slot n).bound := by
  induction es generalizing t with
  | nil => rfl
  | cons e es ih =>
    rw [List.foldl_cons, ih, State.markIssued_slot]
    split <;> rfl

/-- A marked slot stays marked. -/
theorem State.foldl_markIssued_next {c : Nat} {l : Loc} {n : Nat} (hn : n < 8) (es : List (Loc × Nat)) (t : State)
    (h : (l, n) ∈ es ∨ ((t.core l).slot n).next = c) :
    (((es.foldl (State.markIssued c) t).core l).slot n).next = c := by
  induction es generalizing t with
  | nil => simpa using h
  | cons e es ih =>
    apply ih
    by_cases he : (l, n) = e
    · exact .inr (by simp [State.markIssued_slot, he, hn])
    · rcases h with hmem | hnext
      · exact .inl ((List.mem_cons.1 hmem).resolve_left he)
      · exact .inr (by simp [State.markIssued_slot, he, hnext])

theorem State.issued_none (s : State) (es : List (Loc × Nat)) :
    s.issued none es = es.foldl (State.markIssued (s.clk + 4)) s := rfl

theorem State.issued_core (s : State) (g : Option Gang) (es : List (Loc × Nat)) (l : Loc) :
    (s.issued g es).core l = (es.foldl (State.markIssued (s.clk + 4)) s).core l := by
  cases g <;> rfl

/-- A gang has issued: it issues again after its interval. -/
def State.gangIssued (s : State) (g : Gang) : State :=
  { s with gangs := mapIf (fun x => x.id == g.id) (fun x => { x with next := s.clk + x.interval }) s.gangs }

/-- R74: an issue of a gang also moves on the gang's next issue. -/
theorem State.issued_some (s : State) (g : Gang) (es : List (Loc × Nat)) :
    s.issued (some g) es = { es.foldl (State.markIssued (s.clk + 4)) s with
      gangs := mapIf (fun x => x.id == g.id) (fun x => { x with next := s.clk + x.interval }) s.gangs } := by
  have marked : s.issued (some g) es = (es.foldl (State.markIssued (s.clk + 4)) s).gangIssued g := rfl
  rw [marked, State.foldl_markIssued_eq]
  rfl

theorem State.issued_frame (s : State) (g : Option Gang) (es : List (Loc × Nat)) (k : Nat) :
    (s.issued g es).frame k = s.frame k := by
  cases g with
  | none => rw [State.issued_none, State.foldl_markIssued_eq]; rfl
  | some g => rw [State.issued_some, State.foldl_markIssued_eq]; rfl

theorem State.issued_leases (s : State) (g : Option Gang) (es : List (Loc × Nat)) :
    (s.issued g es).leases = s.leases := by
  cases g with
  | none => rw [State.issued_none, State.foldl_markIssued_eq]
  | some g => rw [State.issued_some, State.foldl_markIssued_eq]

/-- An issue leaves every gang its members. -/
theorem State.issued_gangOf_isNone (s : State) (g : Option Gang) (es : List (Loc × Nat)) (k : Nat) :
    ((s.issued g es).gangOf k).isNone = (s.gangOf k).isNone := by
  cases g with
  | none => rw [State.issued_none, State.foldl_markIssued_eq]; rfl
  | some g =>
    rw [State.issued_some]
    unfold State.gangOf mapIf
    rw [List.find?_map, Option.isNone_map]
    congr 2
    funext x
    simp only [Function.comp]
    split <;> rfl

/-- An issue displaces no thread (R76). -/
theorem State.issued_sheds (s : State) (g : Option Gang) (es : List (Loc × Nat)) (k : Nat) :
    (s.issued g es).sheds k = s.sheds k := by
  simp only [State.sheds, State.mayDisplace, State.lease, State.issued_frame, State.issued_gangOf_isNone,
    State.issued_leases]

theorem State.shedDone_of_stays {s : State} {l : Loc} {n : Nat}
    (h : ∀ f, ((s.core l).slot n).bound = some f → s.sheds (keyOf l f) = false) : s.shedDone l n = s := by
  unfold State.shedDone
  split
  · next f hf => simp [h f hf]
  · rfl

section Tried

variable {u x : State} {l : Loc} {n f : Nat}
  (hstays : ∀ h, ((x.core l).slot n).bound = some h → x.sheds (keyOf l h) = false)
include hstays

/-- The slots of the threads in issue have issued, and their gang (R45, R74). -/
theorem State.tried_issued (hnote : x.note = .retired ∨ x.note = .held ∨ x.note = .trapped)
    (hidle : ∀ k ∈ u.issuers (keyOf l f), (u.frame k).pend = .idle) :
    u.tried x l n f = x.issued (u.gangOf (keyOf l f))
      ((u.issuers (keyOf l f)).filterMap fun k => (u.slotOf k).map fun i => (keyLoc k, i)) := by
  have hbusy : u.underWay (u.issuers (keyOf l f)) = false := by
    rw [← Bool.not_eq_true, State.underWay_iff]
    exact fun ⟨k, hk, hp⟩ => hp (hidle k hk)
  have hwent : (x.note == .retired || x.note == .held || x.note == .trapped) = true := by
    rcases hnote with h | h | h <;> simp [h]
  unfold State.tried
  simp only [hbusy, hwent, Bool.not_false, Bool.and_self, if_true]
  apply State.shedDone_of_stays
  intro h hb
  rw [State.issued_sheds]
  apply hstays h
  rwa [State.issued_core, State.foldl_markIssued_bound] at hb

theorem State.tried_waiting (hnote : x.note = .waiting) : u.tried x l n f = x := by
  simp [State.tried, hnote, State.shedDone_of_stays hstays]

end Tried

/-- R45: the slot of a thread alone issues again 4 clk later, and the search starts after it. -/
theorem State.tried_alone {u x : State} {l : Loc} {n f : Nat} (hf : f < 64)
    (hstays : ∀ h, ((x.core l).slot n).bound = some h → x.sheds (keyOf l h) = false)
    (hg : u.gangOf (keyOf l f) = none) (hs : u.slotOf (keyOf l f) = some n) (hp : (u.frame (keyOf l f)).pend = .idle)
    (hnote : x.note = .retired ∨ x.note = .held ∨ x.note = .trapped) :
    u.tried x l n f = x.markIssued (x.clk + 4) (l, n) := by
  rw [State.tried_issued hstays hnote (by simpa [State.issuers_alone hg] using hp), hg, State.issuers_alone hg,
    State.issued_none]
  simp [hs, keyLoc_keyOf l hf]

theorem State.issuers_gang {s : State} {k : Nat} {g : Gang} (h : s.gangOf k = some g) : s.issuers k = g.members := by
  simp [State.issuers, h]

/-- R74: after a gang's issue the gang waits its interval, and each member's slot 4 clk. -/
theorem State.tried_gang {u x : State} {l : Loc} {n f : Nat} {g : Gang}
    (hstays : ∀ h, ((x.core l).slot n).bound = some h → x.sheds (keyOf l h) = false)
    (hg : u.gangOf (keyOf l f) = some g) (hp : ∀ k ∈ g.members, (u.frame k).pend = .idle)
    (hnote : x.note = .retired ∨ x.note = .held ∨ x.note = .trapped) :
    (∀ y ∈ x.gangs, y.id = g.id → { y with next := x.clk + y.interval } ∈ (u.tried x l n f).gangs) ∧
    ∀ k ∈ g.members, ∀ i, u.slotOf k = some i → i < 8 → (((u.tried x l n f).core (keyLoc k)).slot i).next = x.clk + 4 := by
  rw [State.tried_issued hstays hnote (by rwa [State.issuers_gang hg]), hg, State.issuers_gang hg, State.issued_some]
  constructor
  · intro y hy hid
    exact List.mem_map.2 ⟨y, hy, by simp [hid]⟩
  · intro k hk i hi hlt
    refine State.foldl_markIssued_next hlt _ x (.inl (List.mem_filterMap.2 ⟨k, hk, ?_⟩))
    simp [hi]

/-! ### Fetching, and turns that are no issue -/

/-- R6, R174: a fetched word is the four bytes at its place, none of them uncorrectable. -/
theorem fetchAt_word {s u : State} {user : Bool} {id : W32} {m : Nat} {va : Word} {h : Home} {w : W32} {p : Nat}
    (hw : fetchAt s user id m va h = (u, .word w p)) : w = BitVec.ofNat 32 (u.num p 4) ∧ u.isBad p 4 = false := by
  simp only [fetchAt] at hw
  split at hw
  · next s' _ q _ _ _ _ =>
    cases hbad : s'.isBad q 4 with
    | true => simp [hbad] at hw
    | false =>
      simp only [hbad, Bool.false_eq_true, if_false, Prod.mk.injEq, FetchRes.word.injEq] at hw
      obtain ⟨rfl, rfl, rfl⟩ := hw
      exact ⟨rfl, hbad⟩
  · split at hw <;> simp at hw
  all_goals simp at hw

theorem State.fetch_word {s u : State} {va : Word} {w : W32} {p : Nat} (h : s.fetch va = (u, .word w p)) :
    w = BitVec.ofNat 32 (u.num p 4) ∧ u.isBad p 4 = false := by
  simp only [State.fetch] at h
  split at h
  · simp at h
  · split at h
    · simp at h
    · simp at h
    · exact fetchAt_word h

/-- R362: a thread with bad parity at its pc, status or flags ends at its slot's turn. -/
theorem step_parity {s u : State} {l : Loc} {n f : Nat} (h : CoreTurn s u l) (hf : FirstSlot u l n f) (hn : f ≠ 32)
    (hp : (u.frame (keyOf l f)).par.ctl = true) :
    step s = .next { (u.updFrame (keyOf l f) fun x => { x with par := {} }).killThread l f 0x05 .uncorrectable with
      note := .trapped } := by
  obtain ⟨after, -, hstep⟩ := step_firstSlot h hf
  rw [hstep]
  simp only [State.issueFrom, hf.1, hp, if_true, State.parityEnd, if_neg hn]

/-- R76: a thread that is to be displaced leaves its slot at the slot's turn. -/
theorem step_sheds {s u : State} {l : Loc} {n f : Nat} (h : CoreTurn s u l) (hf : FirstSlot u l n f)
    (hp : (u.frame (keyOf l f)).par.ctl = false) (hs : u.sheds (keyOf l f) = true) :
    step s = .next (happened ((u.unbind l n).shed (keyOf l f))) := by
  obtain ⟨after, -, hstep⟩ := step_firstSlot h hf
  rw [hstep]
  simp only [State.issueFrom, hf.1, hp, hs, Bool.false_eq_true, if_false, if_true, State.shedDone, happened]

theorem encodeNat_eq_none {i : Instr} : encodeNat i = none ↔ encode i = none := by
  simp [encode]

theorem step_event {s : State} {c : Nat} {i : Instr} {r : List Turn}
    (ht : s.turns = { clks := c, who := .event i } :: r) (hi : encode i = none) :
    step s = exec i { s with turns := r, clk := s.clk + max 1 c } := by
  simp only [step, ht, State.move, State.happen, encodeNat_eq_none.2 hi, Option.isNone_none, if_true]

theorem step_powerOff {s : State} (ht : s.turns = []) (hp : ∀ e ∈ s.mods, e.2.power = false) :
    step s = .fault .powerOff := by
  have hoff : (s.mods.any fun e => e.2.power) = false := by
    rw [List.any_eq_false]
    intro e he
    simp [hp e he]
  simp only [step, ht, hoff, Bool.false_eq_true, if_false]

/-- Settles O54: the search comes to the slot, the word in front runs or traps, and what follows the try is said by
cases. -/
theorem stepRunsDecoded : Obligations.StepRunsDecoded := by
  unfold Obligations.StepRunsDecoded
  refine ⟨?decoded, ?alone, ?gang, ?undecoded, ?mask, ?parity, ?sheds, fun v u va w p => State.fetch_word,
    fun s c i r => step_event, fun s => step_powerOff⟩
  case decoded =>
    intro s u v t x l n f w i hissues hfront hd hmask hexec
    have hnow : v.issueNow = .next x := by rw [issueNow_of_inFront hissues hfront, execWord_decoded hd hmask, hexec]
    exact ⟨step_issued hissues hnow, step_onlySlot hissues hnow⟩
  case alone =>
    intro u x l n f hf hstays hg hs hp
    exact ⟨State.tried_alone hf hstays hg hs hp, State.tried_waiting hstays⟩
  case gang =>
    intro u x l n f g hstays hg hp hnote
    exact State.tried_gang hstays hg hp hnote
  case undecoded =>
    intro s u v t l n f w e hissues hfront hd halone
    have hnow := (issueNow_of_inFront hissues hfront).trans (execWord_undecoded hd halone)
    exact step_issued hissues hnow nofun
  case mask =>
    intro s u v t l n f w i hissues hfront hd hmask halone hanch
    have hnow := (issueNow_of_inFront hissues hfront).trans (execWord_badMask hd hmask halone hanch)
    exact step_issued hissues hnow nofun
  case parity =>
    intro s u l n f hturn hfirst hn hp
    exact step_parity hturn hfirst hn hp
  case sheds =>
    intro s u l n f hturn hfirst hp hs
    exact step_sheds hturn hfirst hp hs

/-! ### The machine right after bring-up -/

theorem State.reset_frame (k : Nat) : State.reset.frame k = frameDefault k := rfl
theorem State.reset_core (l : Loc) : State.reset.core l = {} := rfl
theorem State.reset_die (d : DieId) : State.reset.die d = {} := rfl

/-- Every slot of a core that no state lists is empty. -/
theorem Core.slot_default (n : Nat) : ({} : Core).slot n = {} := by
  simp only [Core.slot, Vector.toList_replicate, List.getD, List.getElem?_replicate]
  split <;> rfl

theorem Memory.get_nil (a : Nat) : Memory.get [] a = memDefault a := rfl

theorem Memory.read_append (m : List Host.Cell) (a n k : Nat) :
    Memory.read m a (n + k) = Memory.read m a n ++ Memory.read m (a + n) k := by
  induction n generalizing a with
  | zero => simp [Memory.read]
  | succ n ih => rw [Nat.succ_add, Memory.read, Memory.read, ih, List.cons_append, Nat.add_assoc a 1 n, Nat.add_comm 1 n]

/-- A run of bytes that all read as v. -/
theorem Memory.read_eq_replicate {m : List Host.Cell} {a n : Nat} {v : Byte} (h : ∀ i < n, Memory.get m (a + i) = v) :
    Memory.read m a n = List.replicate n v := by
  induction n generalizing a with
  | zero => rfl
  | succ n ih =>
    rw [Memory.read, List.replicate_succ, ih fun i hi => by rw [Nat.add_assoc, Nat.add_comm 1]; exact h (i + 1) (by omega)]
    exact congrArg (· :: _) (h 0 n.succ_pos)

/-- R380 step 7: a byte below the last 64 KiB frame of a die's partition reads zero after bring-up. -/
theorem memDefault_dramKey {d o : Nat} (ho : o < partBytes - 65536) : memDefault (dramKey d o) = 0 := by
  unfold memDefault
  apply if_neg
  unfold dramKey partBytes at *
  omega

/-- A core's banks read zero after bring-up. -/
theorem memDefault_bankKey (l o : Nat) : memDefault (bankKey l o) = 0 := by
  unfold memDefault
  apply if_neg
  unfold bankKey
  omega

/-- R34: the first bytes of the last frame of a die C0's partition. -/
theorem memDefault_presenceByte {st j : Nat} (hst : st < 16) (hj : j < 576) :
    memDefault (dramKey (4 * st) (partBytes - 65536) + j) =
      if j < 64 then 0x1F else if j < 320 then 1 else if j < 448 then 0xFF else 0 := by
  have offset : (dramKey (4 * st) (partBytes - 65536) + j) % 2 ^ 35 - (partBytes - 65536) = j := by
    unfold dramKey partBytes; omega
  unfold memDefault
  rw [if_pos (by unfold dramKey partBytes; omega)]
  simp only [offset]

/-- R34: the presence map of a complete part, the same for every stack: 64 Pavilions, 256 Trellises, 128 bytes of CHAIN
units, and the forwarding tables of four dies without a failed core. -/
theorem presenceMap_complete (st : Nat) : presenceMap {} st =
    List.replicate 64 0x1F ++ List.replicate 256 1 ++ List.replicate 128 0xFF ++ List.replicate 128 0 := by
  have table (d : Nat) : forwardTable {} d = List.replicate 32 0 := rfl
  have layers : (List.range 4).foldl (fun a k => a + 2 ^ k) 0 + 16 = 0x1F := rfl
  have chains : (List.range 8).foldl (fun a k => a + 2 ^ k) 0 = 0xFF := rfl
  have tables : (List.range 4).flatMap (fun _ => List.replicate 32 (0 : Byte)) = List.replicate 128 0 := rfl
  simp only [presenceMap, List.contains_nil, Bool.false_eq_true, if_false, layers, chains, table, tables,
    List.map_const', List.length_range]
  rfl

/-- R34: the first 576 bytes of the last frame of each die C0 are the stack's presence map. -/
theorem bytes_presenceMap {st : Nat} (hst : st < 16) :
    Memory.read [] (dramKey (4 * st) (partBytes - 65536)) 576 = presenceMap {} st := by
  have pavilions : Memory.read [] (dramKey (4 * st) (partBytes - 65536)) 64 = List.replicate 64 0x1F :=
    Memory.read_eq_replicate fun i hi => by rw [Memory.get_nil, memDefault_presenceByte hst (by omega), if_pos hi]
  have trellises : Memory.read [] (dramKey (4 * st) (partBytes - 65536) + 64) 256 = List.replicate 256 1 :=
    Memory.read_eq_replicate fun i hi => by
      rw [Memory.get_nil, Nat.add_assoc, memDefault_presenceByte hst (by omega), if_neg (by omega), if_pos (by omega)]
  have chains : Memory.read [] (dramKey (4 * st) (partBytes - 65536) + 320) 128 = List.replicate 128 0xFF :=
    Memory.read_eq_replicate fun i hi => by
      rw [Memory.get_nil, Nat.add_assoc, memDefault_presenceByte hst (by omega), if_neg (by omega), if_neg (by omega),
        if_pos (by omega)]
  have tables : Memory.read [] (dramKey (4 * st) (partBytes - 65536) + 448) 128 = List.replicate 128 0 :=
    Memory.read_eq_replicate fun i hi => by
      rw [Memory.get_nil, Nat.add_assoc, memDefault_presenceByte hst (by omega), if_neg (by omega), if_neg (by omega),
        if_neg (by omega)]
  rw [presenceMap_complete, ← pavilions, ← trellises, ← chains, ← tables, ← Memory.read_append, ← Memory.read_append,
    ← Memory.read_append]

/-- Settles O60: every part of the reset state is at its default, and the bytes that memory does not list read zero or as
the presence maps. -/
theorem resetState : Obligations.ResetState := by
  unfold Obligations.ResetState
  refine ⟨rfl, rfl, rfl, rfl, ?frames, ?slots, ?cores, ?dies, rfl, rfl, rfl, rfl,
    fun _ _ _ => memDefault_dramKey, fun _ => bytes_presenceMap, fun l o _ => memDefault_bankKey l o, rfl⟩
  case frames =>
    intro k
    rw [State.reset_frame, frameDefault]
    split <;> rfl
  case slots =>
    intro l n
    rw [State.reset_core, Core.slot_default]
  case cores =>
    intro l
    rw [State.reset_core]
    exact ⟨rfl, rfl, rfl, rfl, rfl, rfl, rfl, rfl⟩
  case dies =>
    intro d
    rw [State.reset_die]
    exact ⟨rfl, rfl⟩

end Sys2Proof.Machine
end

section
/-! PROOFS. The module of 01_module: its system registers, power, bring-up and management ports, and its links. -/

namespace Sys2Proof.Machine

open Sys2Proof Sys2Proof.Claims

/-! ### Threads that are woken (R44) -/

/-- What waking threads may change: frames, and the frame-ready FIFO of each core. -/
def OnlyWakes (s t : State) : Prop :=
  t = { s with frames := t.frames, cores := t.cores } ∧ ∀ l, t.core l = { s.core l with fifo := (t.core l).fifo }

theorem OnlyWakes.refl (s : State) : OnlyWakes s s := ⟨rfl, fun _ => rfl⟩

theorem OnlyWakes.trans {s t u : State} (hst : OnlyWakes s t) (htu : OnlyWakes t u) : OnlyWakes s u := by
  obtain ⟨hst, cst⟩ := hst
  obtain ⟨htu, ctu⟩ := htu
  refine ⟨?_, fun l => ?_⟩
  · rw [htu, hst]
  · rw [ctu l, cst l]

theorem State.updFrame_onlyWakes (s : State) (k : Nat) (h : Frame → Frame) : OnlyWakes s (s.updFrame k h) :=
  ⟨rfl, fun _ => rfl⟩

theorem State.ready_onlyWakes (s : State) (k : Nat) : OnlyWakes s (s.ready k) := by
  simp only [State.ready]
  split
  · refine ⟨rfl, fun l => ?_⟩
    by_cases hl : keyLoc k = l
    · subst hl; rw [State.core_updCore]
    · rw [State.core_updCore_other _ _ hl]
  · exact OnlyWakes.refl s

theorem State.wake_onlyWakes (s : State) (p : Nat → Frame → Bool) : OnlyWakes s (s.wake p) := by
  suffices ∀ (es : SMap Frame) (t : State), OnlyWakes s t → OnlyWakes s (es.foldl (fun t e =>
      if e.2.used && e.2.wait.isSome && p e.1 e.2 then (t.updFrame e.1 Frame.awake).ready e.1 else t) t) from
    this s.frames s (OnlyWakes.refl s)
  intro es
  induction es with
  | nil => exact fun t h => h
  | cons e es ih =>
    intro t h
    rw [List.foldl_cons]
    apply ih
    split
    · exact h.trans ((t.updFrame_onlyWakes e.1 _).trans (State.ready_onlyWakes _ _))
    · exact h

theorem OnlyWakes.cur {s t : State} (h : OnlyWakes s t) : t.cur = s.cur := by rw [h.1]
theorem OnlyWakes.mem {s t : State} (h : OnlyWakes s t) : t.mem = s.mem := by rw [h.1]
theorem OnlyWakes.evq {s t : State} (h : OnlyWakes s t) : t.evq = s.evq := by rw [h.1]
theorem OnlyWakes.mods {s t : State} (h : OnlyWakes s t) : t.mods = s.mods := by rw [h.1]
theorem OnlyWakes.qevt {s t : State} (h : OnlyWakes s t) (l : Loc) : (t.core l).qevt = (s.core l).qevt := by rw [h.2 l]
theorem OnlyWakes.evtmask {s t : State} (h : OnlyWakes s t) (l : Loc) : (t.core l).evtmask = (s.core l).evtmask := by
  rw [h.2 l]

/-! ### System registers (R195, R236-R244) -/

theorem exec_movs (r : SReg) (a : Reg) (s : State) : exec (.movs r a) s = execMovs r a s := rfl
theorem exec_movfs (d : Reg) (r : SReg) (s : State) : exec (.movfs d r) s = execMovfs d r s := rfl

/-- R195: `movs` of a register that only the device writes traps a supervisor. -/
theorem exec_movs_fixed {r : SReg} {a : Reg} {s : State} (hs : Alone s) (hp : s.my.priv = true) (hr : r ∈ fixedS) :
    exec (.movs r a) s = .next (trapped s .reservedField 0) := by
  have fixed : (r == .tid || r == .kid || r == .clock || r == .units) = true := by
    revert hr
    cases r <;> decide
  rw [exec_movs, execMovs]
  refine issue_trap hs.1 ?_
  simp only [hp, fixed, if_true]

/-- R195: user code names no register but `tstat` in `movs`. -/
theorem exec_movs_user {r : SReg} {a : Reg} {s : State} (hs : Alone s) (hp : s.my.priv = false) (hr : r ≠ .tstat) :
    exec (.movs r a) s = .next (trapped s .privilege 0) := by
  rw [exec_movs, execMovs]
  refine issue_trap hs.1 ?_
  simp [hp, hr]

/-- A supervisor's `movs` of a register that is not fixed reads its source and goes on with the write. -/
theorem exec_movs_supervisor {r : SReg} {a : Reg} {s : State} {v : Word} (hs : Alone s) (hp : s.my.priv = true)
    (hv : gives s a = some (v, s)) (hr : r ∉ fixedS) : ∃ t, OnlyWakes (s.writeS r v) t ∧
    (r ≠ .evtmask → t = s.writeS r v) ∧ exec (.movs r a) s = .next (if r = .tstat then
      { (s.writeS r v).retire .seq true true with note := .retired } else retired t) := by
  have writable : (r == .tid || r == .kid || r == .clock || r == .units) = false := by
    revert hr
    cases r <;> decide
  rw [exec_movs, execMovs, issue_alone hs.1]
  simp only [hp, if_true, writable, Bool.false_eq_true, if_false, src_gives hv]
  by_cases ht : r = .tstat
  · refine ⟨s.writeS r v, .refl _, fun _ => rfl, ?_⟩
    simp only [if_pos ht]
    rfl
  · simp only [if_neg ht]
    by_cases he : r = .evtmask
    · simp only [if_pos he]
      exact ⟨_, State.wake_onlyWakes (s.writeS r v) _, fun h => absurd he h, rfl⟩
    · refine ⟨s.writeS r v, .refl _, fun _ => rfl, ?_⟩
      rw [if_neg he]
      rfl

/-- R195, R243: of `tstat` user code writes RMODE and FE. -/
theorem exec_movs_tstat_user {a : Reg} {s : State} {v : Word} (hs : Alone s) (hp : s.my.priv = false)
    (hv : gives s a = some (v, s)) :
    exec (.movs .tstat a) s = .next (retired (s.updMy fun f =>
      (f.setT 2 2 (v.toNat / 4 % 4)).setT 4 1 (v.toNat / 16 % 2))) := by
  rw [exec_movs, execMovs, issue_alone hs.1]
  simp only [hp, Bool.false_eq_true, if_false, if_true, src_gives hv]
  rfl

/-! What a written register keeps, and what the others read -/

theorem zext_eq_and {n : Nat} (m v : Word) (hm : ∀ i < 64, m.getLsbD i = decide (i < n)) : zext n v = v &&& m := by
  ext i hi
  simp only [zext, BitVec.getElem_setWidth, BitVec.getLsbD_setWidth, BitVec.getElem_and]
  rw [← BitVec.getLsbD_eq_getElem, ← BitVec.getLsbD_eq_getElem, hm i hi, Bool.and_comm]

/-- R239-R241, R244: a register reads what its fields keep of the value written. -/
theorem State.readS_writeS_self (s : State) {r : SReg} (v : Word) (hr : r ∉ fixedS) (ht : r ≠ .tstat)
    (hx : r ≠ .shadesel) : (s.writeS r v).readS r = written r (s.readS r) v := by
  cases r with
  | trapcause => 
    simp only [State.readS, State.writeS, State.updCore_cur, State.core_updCore, written]
    exact zext_eq_and _ _ (by decide)
  | trapva => simp only [State.readS, State.writeS, State.updCore_cur, State.core_updCore, written]
  | trappc => simp only [State.readS, State.writeS, State.updCore_cur, State.core_updCore, written]
  | ctxbase =>
    simp only [State.readS, State.writeS, State.updCore_cur, State.core_updCore, written]
    rw [zext_eq_and (n := 57) 0x1FFFFFFFFFFFFFF#64 v (by decide), BitVec.and_assoc]
    rfl
  | evtmask =>
    simp only [State.readS, State.writeS, State.updCore_cur, State.core_updCore, written]
    exact zext_eq_and _ _ (by decide)
  | ptroot => simp only [State.readS, State.writeS, State.writePtroot, State.updDie_cur, State.die_updDie, written]; rfl
  | tstat => exact absurd rfl ht
  | shadesel => exact absurd rfl hx
  | tid | kid | clock | units => exact absurd (by decide) hr

/-- The registers that a core holds. -/
def Core.sreg (c : Core) : SReg → Word
  | .trapcause => c.trapcause | .trapva => c.trapva | .trappc => c.trappc | .ctxbase => c.ctxbase
  | .evtmask => c.evtmask | _ => 0

section ReadsAfterUpdate

variable (s : State) {q : SReg} (hx : q ≠ .shadesel)
include hx

theorem State.readS_updCore (h : Core → Core) (hq : (h (s.core s.cur.loc)).sreg q = (s.core s.cur.loc).sreg q) :
    (s.updCore s.cur.loc h).readS q = s.readS q := by
  cases q with
  | shadesel => exact absurd rfl hx
  | trapcause | trapva | trappc | ctxbase | evtmask =>
    simpa only [State.readS, State.updCore_cur, State.core_updCore, Core.sreg] using hq
  | tstat | tid | kid | clock | units | ptroot => rfl

theorem State.readS_updDie (d : DieId) (h : Die → Die) (hq : q = .ptroot → (h (s.die d)).ptroot = (s.die d).ptroot) :
    (s.updDie d h).readS q = s.readS q := by
  cases q with
  | shadesel => exact absurd rfl hx
  | ptroot =>
    simp only [State.readS, State.updDie_cur]
    by_cases hd : d = Loc.dieId s.cur.loc
    · subst hd
      rw [State.die_updDie, hq rfl]
    · rw [State.die_updDie_other _ _ hd]
  | tstat | tid | kid | clock | units | trapcause | trapva | trappc | ctxbase | evtmask => rfl

theorem State.readS_updMy (h : Frame → Frame) (hl : (h s.my).launch = s.my.launch) (hq : q ≠ .tstat) :
    (s.updMy h).readS q = s.readS q := by
  cases q with
  | tstat => exact absurd rfl hq
  | shadesel => exact absurd rfl hx
  | kid => simp only [State.readS, State.my_updMy, hl]
  | tid | clock | units | ptroot | trapcause | trapva | trappc | ctxbase | evtmask => rfl

/-- A write shows in no other register; `shadesel` alone shows registers of the die beside its own. -/
theorem State.readS_writeS_other {r : SReg} (v : Word) (hq : q ≠ r) : (s.writeS r v).readS q = s.readS q := by
  cases r with
  | tid | kid | clock | units => rfl
  | tstat => exact s.readS_updMy hx _ rfl hq
  | ptroot => exact s.readS_updDie hx _ _ fun h => absurd h hq
  | shadesel => exact (State.readS_updDie _ hx _ _ fun _ => rfl).trans (s.readS_updCore hx _ (by cases q <;> rfl))
  | trapcause | trapva | trappc | ctxbase | evtmask =>
    exact s.readS_updCore hx _ (by cases q <;> simp_all [Core.sreg])

end ReadsAfterUpdate

theorem fieldOf_testBit (w : Word) (lo n i : Nat) : (fieldOf w lo n).testBit i = (decide (i < n) && w.getLsbD (lo + i)) := by
  rw [fieldOf, bitsOf, Nat.testBit_mod_two_pow, Nat.testBit_div_two_pow, BitVec.testBit_toNat, Nat.add_comm]

theorem setField_getLsbD (w : Word) (lo n v : Nat) {j : Nat} (hj : j < 64) : (setField w lo n v).getLsbD j =
    if lo ≤ j ∧ j < lo + n then v.testBit (j - lo) else w.getLsbD j := by
  simp only [setField, BitVec.getLsbD_or, BitVec.getLsbD_and, BitVec.getLsbD_not, BitVec.getLsbD_ofNat,
    Nat.testBit_mul_two_pow, Nat.testBit_two_pow_sub_one, Nat.testBit_mod_two_pow, hj]
  by_cases hlo : lo ≤ j
  · have inside : j - lo < n ↔ j < lo + n := by omega
    by_cases hn : j < lo + n <;> simp [hlo, hn, inside]
  · simp [hlo]

/-- R42, R243: a supervisor's write of `tstat` keeps KIND and discards the reserved bits. -/
theorem Frame.writeTstat_getLsbD (f : Frame) (v : Word) {j : Nat} (hj : j < 64) : (f.writeTstat v).tstat.getLsbD j =
    if j = 1 then f.tstat.getLsbD 1 else decide (j < 61) && v.getLsbD j := by
  rw [Frame.writeTstat, setField_getLsbD _ _ _ _ hj, setField_getLsbD _ _ _ _ hj, fieldOf_testBit]
  by_cases hhigh : 61 ≤ j
  · have : ¬ j < 61 := by omega
    have : j ≠ 1 := by omega
    simp [*]
  · have low : j < 61 := by omega
    by_cases hkind : j = 1
    · simp [hkind]
    · rw [if_neg (by omega), if_neg (by omega), if_neg hkind]
      simp [low]

/-- R242: HOT is held between 60 and 125. -/
theorem hot_toNat (t : Nat) :
    (BitVec.ofNat 7 (if t < 60 then 60 else if 125 < t then 125 else t)).toNat = max 60 (min 125 t) := by
  rw [BitVec.toNat_ofNat]
  by_cases hlow : t < 60
  · rw [if_pos hlow]; omega
  · rw [if_neg hlow]
    by_cases hhigh : 125 < t
    · rw [if_pos hhigh]; omega
    · rw [if_neg hhigh]; omega

theorem State.die_writeS_shadesel (s : State) (v : Word) :
    ((s.writeS .shadesel v).die (Loc.dieId s.cur.loc)).hot.toNat = max 60 (min 125 (v.toNat / 2 ^ 32 % 128)) := by
  simp only [State.writeS, State.die_updDie, hot_toNat]
  rfl

/-- R241, R247: a supervisor's write of `evtmask` reads back its class bits, whatever thread it wakes. -/
theorem readS_evtmask_retired {s t : State} {v : Word} (h : OnlyWakes (s.writeS .evtmask v) t) :
    (retired t).readS .evtmask = written .evtmask 0 v := by
  have reads : (retired t).readS .evtmask = t.readS .evtmask := rfl
  have woken : t.readS .evtmask = (s.writeS .evtmask v).readS .evtmask := by
    simp only [State.readS, h.cur, h.evtmask]
  rw [reads, woken]
  exact s.readS_writeS_self v (by decide) nofun nofun

theorem systemRegisterWrites : SystemRegisterWrites := by
  refine ⟨fun r a s v hs _ hp hv => ⟨exec_movs_fixed hs hp, ?plain, ?evtmask, ?tstat, s.readS_writeS_self v,
    fun q hq hx => s.readS_writeS_other hx v hq, ?bits, ?shadesel⟩,
    fun r a s v hs _ hp hv => ⟨exec_movs_user hs hp, ?user⟩⟩
  case plain =>
    intro hr ht he
    obtain ⟨t, -, ht', hexec⟩ := exec_movs_supervisor hs hp hv hr
    rw [hexec, if_neg ht, ht' he]
  case evtmask =>
    rintro rfl
    obtain ⟨t, hwoken, -, hexec⟩ := exec_movs_supervisor hs hp hv (r := .evtmask) (by decide)
    exact ⟨retired t, by rw [hexec, if_neg nofun], rfl, readS_evtmask_retired hwoken⟩
  case tstat =>
    rintro rfl
    obtain ⟨t, -, -, hexec⟩ := exec_movs_supervisor hs hp hv (r := .tstat) (by decide)
    rw [hexec, if_pos rfl]
  case bits =>
    rintro rfl j hj
    have reads : (s.writeS .tstat v).readS .tstat = (s.my.writeTstat v).tstat := by
      simp only [State.writeS, State.readS, State.my_updMy]
    rw [reads, Frame.writeTstat_getLsbD _ _ hj]
  case shadesel =>
    rintro rfl
    refine ⟨?_, s.die_writeS_shadesel v⟩
    exact congrArg Core.sel (s.core_updCore s.cur.loc fun c => { c with sel := v.setWidth 8 })
  case user =>
    rintro rfl
    exact exec_movs_tstat_user hs hp hv

theorem exec_movfs_open {d : Reg} {r : SReg} {s t : State} (hs : Alone s) (hr : r ∈ openS ∨ s.my.priv = true)
    (ht : takes s d (s.readS r) = some t) : exec (.movfs d r) s = .next (retired t) := by
  have named : (SReg.secret r && !s.my.priv) = false := by
    rcases hr with hr | hp
    · have : SReg.secret r = false := by
        revert hr
        cases r <;> decide
      simp [this]
    · simp [hp]
  rw [exec_movfs, execMovfs, issue_alone hs.1]
  simp only [named, Bool.false_eq_true, if_false, put_takes hs.2 ht]
  rfl

theorem exec_movfs_secret {d : Reg} {r : SReg} {s : State} (hs : Alone s) (hr : r ∉ openS) (hp : s.my.priv = false) :
    exec (.movfs d r) s = .next (trapped s .privilege 0) := by
  have secret : SReg.secret r = true := by
    revert hr
    cases r <;> decide
  rw [exec_movfs, execMovfs]
  exact issue_trap hs.1 (by simp [secret, hp])

theorem systemRegisterReads : SystemRegisterReads := by
  intro d r s t hs _
  refine ⟨exec_movfs_open hs, exec_movfs_secret hs, rfl, rfl, ?clock, rfl, rfl⟩
  case clock =>
    intro hready
    exact if_pos hready

/-- Settles O26: `movs` writes or traps by the register and the thread's rights, a written register reads what its fields
keep and the others as before, and `movfs` delivers what the register reads. -/
theorem systemRegisters : Obligations.SystemRegisters := ⟨systemRegisterWrites, systemRegisterReads⟩

/-! ### What is kept of a table, and of memory -/

theorem SMap.get_filter {α : Type} (m : SMap α) (d : α) (p : Nat → Bool) (k : Nat) :
    SMap.get (m.filter fun e => p e.1) d k = if p k then m.get d k else d := by
  induction m with
  | nil => simp [SMap.get]
  | cons e r ih =>
    obtain ⟨j, x⟩ := e
    by_cases hj : j = k
    · subst hj
      by_cases hp : p j <;> simp_all [SMap.get]
    · by_cases hp : p j <;> simp [SMap.get, hj, hp, ih]

@[simp] theorem SMap.has_put_self {α : Type} (m : SMap α) (k : Nat) (x : α) : (m.put k x).has k = true := by
  induction m with
  | nil => simp [SMap.put, SMap.has]
  | cons e r ih =>
    obtain ⟨j, y⟩ := e
    simp only [SMap.put]
    split
    · simp [SMap.has]
    · split <;> simp_all [SMap.has]

theorem SMap.has_put_other {α : Type} (m : SMap α) {k n : Nat} (x : α) (h : k ≠ n) : (m.put k x).has n = m.has n := by
  induction m with
  | nil => simp [SMap.put, SMap.has, h]
  | cons e r ih =>
    obtain ⟨j, y⟩ := e
    simp only [SMap.put]
    split
    · simp_all [SMap.has]
    · split <;> simp_all [SMap.has]

/-- A byte reads as before where its entry is kept, and as unlisted otherwise. -/
theorem Memory.get_filter (m : List Host.Cell) (p : Nat → Bool) (a : Nat) :
    Memory.get (m.filter fun c => p c.1) a = if p a then Memory.get m a else memDefault a := by
  induction m with
  | nil => simp [Memory.get]
  | cons c r ih =>
    obtain ⟨k, b⟩ := c
    by_cases hk : k = a
    · subst hk
      by_cases hp : p k <;> simp_all [Memory.get]
    · by_cases hp : p k <;> simp [Memory.get, hk, hp, ih]

/-! ### Presence maps (R34) -/

/-- Where the presence map of the module's stack i stands. -/
def mapAt (m i : Nat) : Nat := dramKey ((m * 16 + i) * 4) (partBytes - 65536)

/-- Step 7 of bring-up for stack i. -/
def State.writeMap (t : State) (m : Nat) (p : Part) (i : Nat) : State :=
  (t.blank (mapAt m i) 65536).poke (mapAt m i) (presenceMap p (m * 16 + i))

theorem State.writeMaps_eq (s : State) (m : Nat) (p : Part) :
    s.writeMaps m p = (List.range 16).foldl (fun t i => t.writeMap m p i) s := rfl

theorem forwardTable_length (p : Part) (d : DieId) : (forwardTable p d).length = 32 := by
  have entries : ((retiredOn p d).take 16).zipIdx.length ≤ 16 := by simp
  simp only [forwardTable, List.length_flatMap, bytesOf_length, List.map_const', List.sum_replicate, List.length_append,
    List.length_map, List.length_replicate, smul_eq_mul]
  omega

theorem presenceMap_length (p : Part) (st : Nat) : (presenceMap p st).length = 576 := by
  simp only [presenceMap, List.length_append, List.length_map, List.length_range, List.length_flatMap,
    forwardTable_length, List.map_const', List.sum_replicate]
  rfl

theorem State.memOk_blank {s : State} (lo n : Nat) (h : s.memOk) : (s.blank lo n).memOk := Memory.wf_filter _ h

theorem State.get_blank (s : State) (lo n a : Nat) :
    Memory.get (s.blank lo n).mem a = if lo ≤ a ∧ a < lo + n then memDefault a else Memory.get s.mem a := by
  refine (Memory.get_filter s.mem (fun c => !decide (lo ≤ c ∧ c < lo + n)) a).trans ?_
  by_cases inside : lo ≤ a ∧ a < lo + n <;> simp [inside]

theorem State.get_poke_other {s : State} {a n : Nat} (b : List Byte) (h : s.memOk) (hn : n < a ∨ a + b.length ≤ n) :
    Memory.get (s.poke a b).mem n = Memory.get s.mem n := Memory.get_write_other b h hn

theorem memDefault_mapAt {m i x : Nat} (hx : 576 ≤ x) (hlt : x < 65536) : memDefault (mapAt m i + x) = 0 := by
  unfold memDefault
  split
  · have offset : (mapAt m i + x) % 2 ^ 35 - (partBytes - 65536) = x := by
      unfold mapAt dramKey partBytes; omega
    simp only [offset]
    rw [if_neg (by omega), if_neg (by omega), if_neg (by omega)]
  · rfl

theorem State.memOk_writeMap {t : State} (m : Nat) (p : Part) (i : Nat) (h : t.memOk) : (t.writeMap m p i).memOk :=
  State.memOk_poke _ _ (State.memOk_blank _ _ h)

theorem State.mapsAt_writeMap {t : State} (m : Nat) (p : Part) (i : Nat) (h : t.memOk) : MapsAt (t.writeMap m p i) m p i := by
  have blanked := State.memOk_blank (mapAt m i) 65536 h
  refine ⟨?_, fun x hx hlt => ?_⟩
  · have := State.bytes_poke (mapAt m i) (presenceMap p (m * 16 + i)) blanked
    rwa [presenceMap_length] at this
  · have outside : mapAt m i + (presenceMap p (m * 16 + i)).length ≤ mapAt m i + x := by
      rw [presenceMap_length]; omega
    rw [← mapAt, State.writeMap, State.get_poke_other _ blanked (.inr outside), State.get_blank, if_pos (by omega),
      memDefault_mapAt hx hlt]

/-- A map that has been written changes nothing outside its frame. -/
theorem State.get_writeMap_other {t : State} {m i a : Nat} (p : Part) (h : t.memOk)
    (ha : a < mapAt m i ∨ mapAt m i + 65536 ≤ a) : Memory.get (t.writeMap m p i).mem a = Memory.get t.mem a := by
  have outside : a < mapAt m i ∨ mapAt m i + (presenceMap p (m * 16 + i)).length ≤ a := by
    rw [presenceMap_length]; omega
  rw [State.writeMap, State.get_poke_other _ (State.memOk_blank _ _ h) outside, State.get_blank, if_neg (by omega)]

theorem mapsAt_congr {s t : State} {m i : Nat} {p : Part}
    (h : ∀ x < 65536, Memory.get t.mem (mapAt m i + x) = Memory.get s.mem (mapAt m i + x)) (hs : MapsAt s m p i) :
    MapsAt t m p i := by
  obtain ⟨hmap, hzero⟩ := hs
  refine ⟨?_, fun x hx hlt => (h x hlt).trans (hzero x hx hlt)⟩
  rw [← hmap]
  exact Memory.read_congr fun x hx => h x (by omega)

theorem State.mapsAt_writeMaps_below {s : State} (m : Nat) (p : Part) (h : s.memOk) (n : Nat) :
    ((List.range n).foldl (fun t i => t.writeMap m p i) s).memOk ∧
      ∀ i < n, MapsAt ((List.range n).foldl (fun t i => t.writeMap m p i) s) m p i := by
  induction n with
  | zero => exact ⟨h, fun i hi => absurd hi (Nat.not_lt_zero i)⟩
  | succ n ih =>
    obtain ⟨hok, hmaps⟩ := ih
    rw [List.range_succ, List.foldl_append, List.foldl_cons, List.foldl_nil]
    refine ⟨State.memOk_writeMap m p n hok, fun i hi => ?_⟩
    rcases Nat.lt_succ_iff_lt_or_eq.1 hi with hlt | rfl
    · refine mapsAt_congr (fun x hx => State.get_writeMap_other p hok (.inl ?_)) (hmaps i hlt)
      unfold mapAt dramKey
      omega
    · exact State.mapsAt_writeMap m p i hok

/-- R34, R380 step 7: after bring-up the presence maps stand in place. -/
theorem State.mapsAt_writeMaps {s : State} (m : Nat) (p : Part) (h : s.memOk) {i : Nat} (hi : i < 16) :
    MapsAt (s.writeMaps m p) m p i := (State.mapsAt_writeMaps_below m p h 16).2 i hi

/-- What a write of memory may change: bytes, check bits, and the words that a core's slots hold of its banks. -/
def OnlyBytes (s t : State) : Prop := t = { s with mem := t.mem, bad := t.bad, cores := t.cores }

theorem OnlyBytes.trans {s t u : State} (hst : OnlyBytes s t) (htu : OnlyBytes t u) : OnlyBytes s u := by
  unfold OnlyBytes at *
  rw [htu, hst]

theorem OnlyBytes.frames {s t : State} (h : OnlyBytes s t) : t.frames = s.frames := by rw [h]
theorem OnlyBytes.module {s t : State} (h : OnlyBytes s t) (m : Nat) : t.module m = s.module m := by rw [h]; rfl

theorem State.poke_onlyBytes (s : State) (a : Nat) (b : List Byte) : OnlyBytes s (s.poke a b) := rfl
theorem State.blank_onlyBytes (s : State) (lo n : Nat) : OnlyBytes s (s.blank lo n) := rfl

theorem State.writeMap_onlyBytes (t : State) (m : Nat) (p : Part) (i : Nat) : OnlyBytes t (t.writeMap m p i) :=
  (t.blank_onlyBytes _ _).trans (State.poke_onlyBytes _ _ _)

theorem State.writeMaps_onlyBytes (s : State) (m : Nat) (p : Part) : OnlyBytes s (s.writeMaps m p) := by
  rw [State.writeMaps_eq]
  suffices ∀ (is : List Nat) (t : State), OnlyBytes t (is.foldl (fun t i => t.writeMap m p i) t) from this _ s
  intro is
  induction is with
  | nil => exact fun t => rfl
  | cons i is ih => exact fun t => (t.writeMap_onlyBytes m p i).trans (ih _)

/-! ### STATUS of a module that changes (R375, R383) -/

/-- What setStatus does: the module has its new record, in which an in-band interrupt may be held, and the port may have
raised one. -/
theorem State.setStatus_eq (s : State) (m : Nat) (f : Module → Module) : ∃ b o,
    s.setStatus m f = { s.updModule m (fun x => { f x with ibi := b }) with outs := o } := by
  simp only [State.setStatus]
  split
  · exact ⟨(f (s.module m)).ibi, s.outs, rfl⟩
  · split
    · exact ⟨(f (s.module m)).ibi, s.outs ++ [.ibi m], rfl⟩
    · exact ⟨true, s.outs, rfl⟩

/-- What a change makes of the record counts, not how it says it. -/
theorem State.setStatus_const (s : State) (m : Nat) (f : Module → Module) :
    s.setStatus m f = s.setStatus m fun _ => f (s.module m) := rfl

theorem State.setStatus_module (s : State) (m : Nat) (f : Module → Module) :
    ∃ b, (s.setStatus m f).module m = { f (s.module m) with ibi := b } := by
  obtain ⟨b, o, h⟩ := s.setStatus_eq m f
  exact ⟨b, (congrArg (State.module · m) h).trans (s.module_updModule m fun x => { f x with ibi := b })⟩

theorem State.setStatus_mem (s : State) (m : Nat) (f : Module → Module) : (s.setStatus m f).mem = s.mem := by
  obtain ⟨b, o, h⟩ := s.setStatus_eq m f
  rw [h]; rfl

theorem State.setStatus_frames (s : State) (m : Nat) (f : Module → Module) : (s.setStatus m f).frames = s.frames := by
  obtain ⟨b, o, h⟩ := s.setStatus_eq m f
  rw [h]; rfl

theorem State.setStatus_has (s : State) (m : Nat) (f : Module → Module) : (s.setStatus m f).mods.has m = true := by
  obtain ⟨b, o, h⟩ := s.setStatus_eq m f
  rw [h]; exact SMap.has_put_self _ _ _

theorem mapsAt_of_mem {s t : State} {m i : Nat} {p : Part} (h : t.mem = s.mem) (hs : MapsAt s m p i) : MapsAt t m p i :=
  mapsAt_congr (fun _ _ => by rw [h]) hs

/-! ### Bring-up (R34, R380) -/

/-- The module's image verifies (log entry 16). -/
def State.imageOk (s : State) (m : Nat) : Bool := Config.imageGood (s.module m).part.imagePlace s.nextId

/-- A module whose image does not verify waits for one (KIND 9). -/
def Module.refused (x : Module) : Module := { x with fail := true, failKind := 9, fwwait := true, step := 0 }

/-- A module whose bring-up stops: the step, its KIND and its place. -/
def Module.stopped (x : Module) (e : Nat × Nat × Nat × Nat) : Module :=
  { x with fail := true, failKind := e.2.1, failStack := e.2.2.1, failDie := e.2.2.2, step := e.1 - 1, fwwait := false }

/-- A module that is READY from clk c on. -/
def Module.up (x : Module) (c : Nat) : Module :=
  { x with ready := true, epoch := c, epochAt := c + epochTicks, step := 8, fail := false, failKind := 0, failStack := 0
           failDie := 0, fwwait := false }

/-- What bring-up makes of a module: its image is refused, a step fails, or it is READY. -/
def State.broughtUp (s : State) (m : Nat) : Module :=
  if s.imageOk m then (partStop (s.module m).part m).elim ((s.module m).up s.clk) (s.module m).stopped
  else (s.module m).refused

theorem State.broughtUp_refused {s : State} {m : Nat} (h : s.imageOk m = false) :
    s.broughtUp m = (s.module m).refused := by
  simp only [State.broughtUp, h, Bool.false_eq_true, if_false]

theorem State.broughtUp_stopped {s : State} {m : Nat} {e : Nat × Nat × Nat × Nat} (h : s.imageOk m = true)
    (hstop : partStop (s.module m).part m = some e) : s.broughtUp m = (s.module m).stopped e := by
  simp only [State.broughtUp, h, hstop, if_true, Option.elim_some]

theorem State.broughtUp_up {s : State} {m : Nat} (h : s.imageOk m = true)
    (hstop : partStop (s.module m).part m = none) : s.broughtUp m = (s.module m).up s.clk := by
  simp only [State.broughtUp, h, hstop, if_true, Option.elim_none]

theorem State.runSteps_stopped {s : State} {m : Nat} {e : Nat × Nat × Nat × Nat}
    (h : partStop (s.module m).part m = some e) : s.runSteps m = s.setStatus m fun x => x.stopped e := by
  simp only [State.runSteps, h]
  rfl

theorem State.runSteps_up {s : State} {m : Nat} (h : partStop (s.module m).part m = none) :
    s.runSteps m = (s.writeMaps m (s.module m).part).setStatus m fun x => x.up s.clk := by
  simp only [State.runSteps, h]
  rfl

/-- The state in which the Bothy has asked for a verdict on an image. -/
def State.judging (s : State) : State := { s with nextId := s.nextId + 1 }

theorem State.verify_judging (s : State) (m : Nat) : s.verify m =
    if s.imageOk m then s.judging.runSteps m else s.judging.setStatus m Module.refused := rfl

/-- Bring-up ends in a change of the module's record, and before READY it writes the presence maps. -/
theorem State.verify_eq (s : State) (m : Nat) : ∃ t, t.frames = s.frames ∧
    s.verify m = t.setStatus m (fun _ => s.broughtUp m) ∧ (s.imageOk m = true → partStop (s.module m).part m = none →
      s.memOk → ∀ i < 16, MapsAt t m (s.module m).part i) := by
  rw [State.verify_judging]
  cases hgood : s.imageOk m with
  | false =>
    refine ⟨s.judging, rfl, ?_, nofun⟩
    rw [State.broughtUp_refused hgood]
    rfl
  | true =>
    rw [if_pos rfl]
    cases hstop : partStop (s.module m).part m with
    | some e =>
      refine ⟨s.judging, rfl, ?_, nofun⟩
      rw [State.runSteps_stopped (s := s.judging) hstop, State.broughtUp_stopped hgood hstop]
      rfl
    | none =>
      have wrote := s.judging.writeMaps_onlyBytes m (s.judging.module m).part
      refine ⟨_, wrote.frames, ?_, fun _ _ hok i hi => State.mapsAt_writeMaps (s := s.judging) m _ hok hi⟩
      rw [State.runSteps_up (s := s.judging) hstop, State.broughtUp_up hgood hstop]
      exact (State.setStatus_const _ _ _).trans (by rw [wrote.module]; rfl)

theorem State.verify_module (s : State) (m : Nat) : ∃ b, (s.verify m).module m = { s.broughtUp m with ibi := b } := by
  obtain ⟨t, -, h, -⟩ := s.verify_eq m
  rw [h]
  exact t.setStatus_module m _

section Outcomes

variable {s : State} {m : Nat}

theorem State.verify_refused (h : s.imageOk m = false) :
    ∃ b, (s.verify m).module m = { (s.module m).refused with ibi := b } :=
  State.broughtUp_refused h ▸ s.verify_module m

variable {p : Part} (hp : (s.module m).part = p)
include hp

theorem State.verify_stopped {e : Nat × Nat × Nat × Nat} (h : s.imageOk m = true) (hstop : partStop p m = some e) :
    ∃ b, (s.verify m).module m = { (s.module m).stopped e with ibi := b } := by
  rw [← State.broughtUp_stopped h (hp ▸ hstop)]
  exact s.verify_module m

theorem State.verify_up (h : s.imageOk m = true) (hstop : partStop p m = none) :
    ∃ b, (s.verify m).module m = { (s.module m).up s.clk with ibi := b } := by
  rw [← State.broughtUp_up h (hp ▸ hstop)]
  exact s.verify_module m

theorem State.verify_maps (h : s.imageOk m = true) (hstop : partStop p m = none) (hok : s.memOk) {i : Nat} (hi : i < 16) :
    MapsAt (s.verify m) m p i := by
  subst hp
  obtain ⟨t, -, ht, hmaps⟩ := s.verify_eq m
  rw [ht]
  exact mapsAt_of_mem (t.setStatus_mem m _) (hmaps h hstop hok i hi)

end Outcomes

theorem State.verify_frames (s : State) (m : Nat) : (s.verify m).frames = s.frames := by
  obtain ⟨t, ht, h, -⟩ := s.verify_eq m
  rw [h, State.setStatus_frames, ht]

theorem State.verify_has (s : State) (m : Nat) : (s.verify m).mods.has m = true := by
  obtain ⟨t, -, h, -⟩ := s.verify_eq m
  rw [h]
  exact t.setStatus_has m _

/-- Bring-up leaves a module its part and its power; `clock` and the epochs count from READY, or from where they did. -/
theorem State.broughtUp_keeps (s : State) (m : Nat) : (s.broughtUp m).part = (s.module m).part ∧
    (s.broughtUp m).power = (s.module m).power ∧
    ((s.broughtUp m).epoch = (s.module m).epoch ∨ (s.broughtUp m).epoch = s.clk) := by
  unfold State.broughtUp
  split
  · cases partStop (s.module m).part m with
    | none => exact ⟨rfl, rfl, .inr rfl⟩
    | some e => exact ⟨rfl, rfl, .inl rfl⟩
  · exact ⟨rfl, rfl, .inl rfl⟩

theorem State.verify_part (s : State) (m : Nat) : ((s.verify m).module m).part = (s.module m).part := by
  obtain ⟨b, hb⟩ := s.verify_module m
  rw [hb]
  exact (s.broughtUp_keeps m).1

theorem State.verify_epoch {s : State} {m : Nat} (h : (s.module m).epoch = s.clk) :
    ((s.verify m).module m).epoch = s.clk := by
  obtain ⟨b, hb⟩ := s.verify_module m
  rw [hb]
  exact (s.broughtUp_keeps m).2.2.elim (·.trans h) id

theorem State.verify_powered (s : State) (m : Nat) : (s.verify m).powered m = (s.module m).power := by
  obtain ⟨b, hb⟩ := s.verify_module m
  rw [State.powered, s.verify_has m, Bool.true_and, hb]
  exact (s.broughtUp_keeps m).2.1

/-! ### Events of power and management (R375, R380, R383) -/

theorem occurs_due {due : Bool} (t s : State) (h : due = true) : occurs due t s = .next (happened t) := by
  rw [occurs, if_pos h]
  rfl

@[simp] theorem happened_module (t : State) (m : Nat) : (happened t).module m = t.module m := rfl
@[simp] theorem happened_powered (t : State) (m : Nat) : (happened t).powered m = t.powered m := rfl
@[simp] theorem happened_frame (t : State) (k : Nat) : (happened t).frame k = t.frame k := rfl

@[simp] theorem State.powered_updModule (s : State) (m : Nat) (f : Module → Module) :
    (s.updModule m f).powered m = (f (s.module m)).power := by
  have listed : (s.updModule m f).mods.has m = true := SMap.has_put_self _ _ _
  rw [State.powered, listed, State.module_updModule, Bool.true_and]

/-! What a module loses with its power -/

theorem State.wipe_mem (s : State) (m a : Nat) :
    Memory.get (s.wipe m).mem a = if keyModule a = some m then memDefault a else Memory.get s.mem a := by
  refine (Memory.get_filter s.mem (fun a => keyModule a != some m) a).trans ?_
  by_cases h : keyModule a = some m <;> simp [h]

theorem State.wipe_frame (s : State) (m k : Nat) :
    (s.wipe m).frame k = if Loc.module (keyLoc k) = m then frameDefault k else s.frame k := by
  refine (SMap.get_filter s.frames (frameDefault k) (fun k => Loc.module (keyLoc k) != m) k).trans ?_
  by_cases h : Loc.module (keyLoc k) = m <;> simp [h, State.frame]

theorem frameDefault_used (k : Nat) : (frameDefault k).used = false := by
  unfold frameDefault
  split <;> rfl

theorem State.wipe_used {s : State} {m k : Nat} (h : Loc.module (keyLoc k) = m) : ((s.wipe m).frame k).used = false := by
  rw [State.wipe_frame, if_pos h, frameDefault_used]

theorem State.wipe_module (s : State) (m i : Nat) : (s.wipe m).module i = s.module i := rfl

theorem State.wipe_memOk {s : State} (m : Nat) (h : s.memOk) : (s.wipe m).memOk := Memory.wf_filter _ h

theorem State.wipe_locks {s : State} {m : Nat} {k : Lock} (h : k ∈ (s.wipe m).locks) {l : Loc} {lo n : Nat}
    (hk : k.rng = .bank l lo n) : Loc.module l ≠ m := by
  have kept := (List.mem_filter.1 h).2
  simp only [Lock.lost, hk] at kept
  simp at kept
  exact kept.2

theorem State.wipe_launches {s : State} {m : Nat} {x : Launch} (h : x ∈ (s.wipe m).launches) : x.mod ≠ m := by
  simpa using (List.mem_filter.1 h).2

/-- The record of a module that loses its power at clk c: it keeps its part, with the image in its slot. -/
def Module.off (x : Module) (c : Nat) : Module :=
  { power := false, ready := false, step := 0, part := x.part, ibi := false, silent := some c, lost := x.lost
    trained := x.trained }

theorem exec_powerLoss {s : State} {m : Nat} (h : s.powered m = true) :
    exec (.powerLoss m) s = .next (happened ((s.wipe m).updModule m fun x => x.off s.clk)) := occurs_due _ _ h

/-! Power-good -/

/-- The record of a module at power-good: a part with its image, and bring-up still to come. -/
def Module.powered (p : Part) (c : Nat) : Module := { ready := false, step := 0, ibi := false, part := p, epoch := c }

/-- The state at power-good, before the image is verified. -/
def State.powerOn (s : State) (m : Nat) (p : Part) : State := (s.wipe m).updModule m fun _ => .powered p s.clk

theorem State.powerOn_module (s : State) (m : Nat) (p : Part) : (s.powerOn m p).module m = .powered p s.clk :=
  State.module_updModule _ _ _

theorem State.powerOn_imageOk (s : State) (m : Nat) (p : Part) :
    (s.powerOn m p).imageOk m = Config.imageGood p.imagePlace s.nextId := by
  rw [State.imageOk, State.powerOn_module]
  rfl

theorem State.powerOn_part (s : State) (m : Nat) (p : Part) : ((s.powerOn m p).module m).part = p := by
  rw [State.powerOn_module]
  rfl

theorem exec_powerGood {s : State} {m : Nat} {part p : Part} (hm : m < 256) (h : s.powered m = false)
    (hp : p = { part with imagePlace := if s.mods.has m then (s.module m).part.imagePlace else part.imagePlace }) :
    exec (.powerGood m part) s = .next (happened ((s.powerOn m p).verify m)) := by
  subst hp
  exact occurs_due _ _ (by simp [hm, h])

/-! A firmware image arrives -/

/-- The state in which an image has come to the module's slot. -/
def State.withImage (s : State) (m n : Nat) : State :=
  s.updModule m fun x => { x with part := { x.part with imagePlace := n } }

theorem State.withImage_module (s : State) (m n : Nat) : (s.withImage m n).module m =
    { s.module m with part := { (s.module m).part with imagePlace := n } } := s.module_updModule m _

theorem State.withImage_part (s : State) (m n : Nat) :
    ((s.withImage m n).module m).part = { (s.module m).part with imagePlace := n } := by
  rw [State.withImage_module]

theorem State.withImage_imageOk (s : State) (m n : Nat) :
    (s.withImage m n).imageOk m = Config.imageGood n s.nextId := by
  rw [State.imageOk, State.withImage_module]
  rfl

/-- An image arrives by FWLOAD or at a management port; a Bothy that waits verifies it. -/
theorem exec_firmware {s : State} {m n : Nat} {i : Instr} (h : s.powered m = true)
    (hi : (∃ v, i = .fwload m v ∧ n = v.toNat) ∨ ∃ a b, i = .mgmtFirmwareLoad m a b ∧ n = 2 ^ 64 + a * 2 ^ 32 + b) :
    exec i s = .next (happened (if (s.module m).fwwait then (s.withImage m n).verify m else s.withImage m n)) := by
  rcases hi with ⟨v, rfl, rfl⟩ | ⟨a, b, rfl, rfl⟩ <;> exact occurs_due _ _ h

/-! The management ports -/

theorem exec_mgmtRead {s : State} {m : Nat} (what : Reading) (h : s.powered m = true) :
    exec (.mgmtRead m what) s = .next (happened { s with outs := s.outs ++ [.reading (s.reading m what)] }) :=
  occurs_due _ _ h

theorem exec_i3cRead {s : State} {m : Nat} (what : Reading) (h : s.powered m = true)
    (ha : (s.module m).i3cAddr.isSome = true) :
    exec (.i3cRead m what) s = .next (happened { s with outs := s.outs ++ [.reading (s.reading m what)] }) :=
  occurs_due _ _ (by rw [h, ha]; rfl)

/-- The record of a module whose port has got its address. -/
def Module.addressed (x : Module) (addr : BitVec 7) : Module := { x with i3cAddr := some addr, ibi := false }

/-- R383: the port takes its address, and a held interrupt goes out. -/
theorem exec_i3cEntdaa {s : State} {m : Nat} (addr : BitVec 7) (h : s.powered m = true) :
    exec (.i3cEntdaa m addr) s = .next (happened
      { s.updModule m (fun x => x.addressed addr) with
        outs := s.outs ++ if (s.module m).ibi then [.ibi m] else [] }) := by
  refine (occurs_due _ _ h).trans ?_
  cases (s.module m).ibi with
  | false =>
    simp only [Bool.false_eq_true, if_false, List.append_nil]
    rfl
  | true => rfl

/-- R383: a temperature is read in 12 bits of two's complement. -/
theorem State.reading_temp (s : State) (m : Nat) {d q : Nat} (hd : d < 64) :
    (s.reading m (.temp d q)).toNat = ((s.die (m * 64 + d)).temp q % 4096).toNat := by
  simp only [State.reading, Nat.mod_eq_of_lt hd, ofInt, BitVec.toNat_ofNat]
  omega

/-! STATUS (R375) -/

theorem Module.status_toNat {x : Module} (hs : x.failStack < 16) (hd : x.failDie < 4) (hk : x.failKind < 16)
    (hn : x.step < 16) : x.status.toNat = x.ready.toNat + x.step * 2 + x.fail.toNat * 2 ^ 5 + x.failStack * 2 ^ 6 +
      x.failDie * 2 ^ 10 + x.failKind * 2 ^ 12 + x.fwwait.toNat * 2 ^ 16 := by
  have := x.ready.toNat_le
  have := x.fail.toNat_le
  have := x.fwwait.toNat_le
  simp only [Module.status, BitVec.toNat_ofNat]
  omega

theorem bitOf_eq (w : Word) (i : Nat) (b : Bool) (h : w.toNat / 2 ^ i % 2 = b.toNat) : bitOf w i = b := by
  rw [bitOf, BitVec.getLsbD, Nat.testBit_eq_decide_div_mod_eq, h]
  cases b <;> rfl

/-- R375: the fields of STATUS. -/
theorem Module.status_fields {x : Module} (hs : x.failStack < 16) (hd : x.failDie < 4) (hk : x.failKind < 16)
    (hn : x.step < 16) : bitOf x.status 0 = x.ready ∧ fieldOf x.status 1 4 = x.step ∧ bitOf x.status 5 = x.fail ∧
      fieldOf x.status 6 4 = x.failStack ∧ fieldOf x.status 10 2 = x.failDie ∧ fieldOf x.status 12 4 = x.failKind ∧
      bitOf x.status 16 = x.fwwait ∧ fieldOf x.status 17 47 = 0 := by
  have word := Module.status_toNat hs hd hk hn
  have := x.ready.toNat_le
  have := x.fail.toNat_le
  have := x.fwwait.toNat_le
  refine ⟨bitOf_eq _ _ _ ?_, ?_, bitOf_eq _ _ _ ?_, ?_, ?_, ?_, bitOf_eq _ _ _ ?_, ?_⟩
  all_goals
    simp only [fieldOf, bitsOf, word]
    omega

/-- Settles O50, event by event: what bring-up comes to is said by State.verify_module and State.verify_maps, what power
loss takes by the lemmas of State.wipe. -/
theorem powerAndManagement : Obligations.PowerAndManagement := by
  unfold Obligations.PowerAndManagement
  refine ⟨?powerGood, ?firmware, ?powerLoss, ?ports, fun x hs hd hk hn => Module.status_fields hs hd hk hn⟩
  case powerGood =>
    intro m part p s hm h hp
    have image := s.powerOn_imageOk m p
    have found := s.powerOn_part m p
    have record := s.powerOn_module m p
    refine ⟨_, exec_powerGood hm h hp, rfl, ?power, (State.verify_part _ m).trans found,
      State.verify_epoch (by rw [record]; rfl), ?frames, ?refused, ?stopped, ?up⟩
    case power =>
      rw [happened_powered, State.verify_powered, record]
      rfl
    case frames =>
      intro k hk
      have same : ((s.powerOn m p).verify m).frame k = (s.wipe m).frame k :=
        congrArg (SMap.get · (frameDefault k) k) (State.verify_frames _ m)
      rw [happened_frame, same, State.wipe_used hk]
    case refused =>
      intro hbad
      obtain ⟨b, hb⟩ := State.verify_refused (image.trans hbad)
      rw [happened_module, hb, record]
      exact ⟨rfl, rfl, rfl, rfl⟩
    case stopped =>
      intro k kind st d hgood hstop
      obtain ⟨b, hb⟩ := State.verify_stopped found (image.trans hgood) hstop
      rw [happened_module, hb, record]
      exact ⟨rfl, rfl, rfl, rfl, rfl, rfl, rfl⟩
    case up =>
      intro hgood hstop
      obtain ⟨b, hb⟩ := State.verify_up found (image.trans hgood) hstop
      rw [happened_module, hb, record]
      refine ⟨rfl, rfl, rfl, fun hok i hi => ?_⟩
      exact mapsAt_of_mem rfl (State.verify_maps found (image.trans hgood) hstop (s.wipe_memOk m hok) hi)
  case firmware =>
    intro m n i s h hi
    have image := s.withImage_imageOk m n
    have found := s.withImage_part m n
    refine ⟨_, exec_firmware h hi, rfl, ?_⟩
    cases hwait : (s.module m).fwwait with
    | false =>
      rw [if_neg nofun, happened_module]
      refine ⟨found, fun _ => ⟨rfl, ?_⟩, nofun⟩
      rw [State.withImage_module]
    | true =>
      rw [if_pos rfl, happened_module]
      refine ⟨(State.verify_part _ m).trans found, nofun, fun _ hgood hstop => ?_⟩
      obtain ⟨b, hb⟩ := State.verify_up found (image.trans hgood) hstop
      rw [hb]
      refine ⟨rfl, rfl, rfl, rfl, fun hok i hi => ?_⟩
      exact mapsAt_of_mem rfl (State.verify_maps rfl (image.trans hgood) (found ▸ hstop) hok hi)
  case powerLoss =>
    intro m s h _
    refine ⟨_, exec_powerLoss h, rfl, ?power, ?part, s.wipe_mem m, fun k => State.wipe_used, ?frames, ?modules,
      fun k hk l lo n => State.wipe_locks hk, fun x hx => State.wipe_launches hx⟩
    case power => rw [happened_powered, State.powered_updModule]; rfl
    case part => rw [happened_module, State.module_updModule]; rfl
    case frames => exact fun k hk => (s.wipe_frame m k).trans (if_neg hk)
    case modules =>
      intro i hi
      rw [happened_module, State.module_updModule_other _ _ hi.symm, State.wipe_module]
  case ports =>
    intro m s what addr h
    refine ⟨⟨s.reading m what, exec_mgmtRead what h, exec_i3cRead what h, ?status, ?units, ?temp⟩,
      _, exec_i3cEntdaa addr h, rfl, ?address, rfl⟩
    case status => rintro rfl; rfl
    case units => rintro rfl; rfl
    case temp => rintro d q rfl hd; exact s.reading_temp m hd
    case address => exact congrArg Module.i3cAddr (s.module_updModule m fun x => x.addressed addr)

/-! ### Link training (R18) -/

/-- A byte that memory does not list. -/
theorem Memory.get_unlisted {m : List Host.Cell} {a : Nat} (h : ∀ c ∈ m, c.1 ≠ a) : Memory.get m a = memDefault a := by
  induction m with
  | nil => rfl
  | cons c r ih =>
    rw [Memory.get, if_neg (h c List.mem_cons_self)]
    exact ih fun d hd => h d (List.mem_cons_of_mem c hd)

theorem Memory.le_of_mem_wfAbove {m : List Host.Cell} {lo : Nat} (h : Memory.wfAbove lo m = true) {c : Host.Cell}
    (hc : c ∈ m) : lo ≤ c.1 := by
  induction m generalizing lo with
  | nil => cases hc
  | cons e r ih =>
    simp only [Memory.wfAbove, Bool.and_eq_true, decide_eq_true_eq] at h
    rcases List.mem_cons.1 hc with rfl | hr
    · exact h.1.1
    · exact Nat.le_trans (by omega) (ih h.2 hr)

/-- The bytes of a table set in memory, each at its new address. -/
def Memory.place (f : Nat → Nat) (cells m : List Host.Cell) : List Host.Cell :=
  cells.foldl (fun t c => Memory.set t (f c.1) c.2) m

theorem Memory.get_place_other {f : Nat → Nat} {cells m : List Host.Cell} {x : Nat} (hm : Memory.wf m = true)
    (hx : ∀ c ∈ cells, f c.1 ≠ x) : Memory.get (Memory.place f cells m) x = Memory.get m x := by
  induction cells generalizing m with
  | nil => rfl
  | cons c r ih =>
    rw [Memory.place, List.foldl_cons, ← Memory.place, ih (Memory.wf_set _ _ hm) fun d hd => hx d (List.mem_cons_of_mem c hd),
      Memory.get_set_other _ _ hm (hx c List.mem_cons_self)]

/-- A byte reads at its new address as it read at its old one, where nothing else goes there and nothing stood there. -/
theorem Memory.get_place {f : Nat → Nat} {cells m : List Host.Cell} {lo a : Nat} (hm : Memory.wf m = true)
    (hc : Memory.wfAbove lo cells = true) (hf : ∀ c ∈ cells, f c.1 = f a → c.1 = a)
    (hfree : Memory.get m (f a) = memDefault a) : Memory.get (Memory.place f cells m) (f a) = Memory.get cells a := by
  induction cells generalizing m lo with
  | nil => exact hfree
  | cons c r ih =>
    have later := fun d hd => hf d (List.mem_cons_of_mem c hd)
    simp only [Memory.wfAbove, Bool.and_eq_true, decide_eq_true_eq] at hc
    rw [Memory.place, List.foldl_cons, ← Memory.place, Memory.get]
    by_cases hca : c.1 = a
    · have apart : ∀ d ∈ r, f d.1 ≠ f a := by
        intro d hd hfd
        have := Memory.le_of_mem_wfAbove hc.2 hd
        have := later d hd hfd
        omega
      rw [if_pos hca, Memory.get_place_other (Memory.wf_set _ _ hm) apart, hca, Memory.get_set_self _ _ _ hm]
    · have apart : f c.1 ≠ f a := fun h => hca (hf c List.mem_cons_self h)
      rw [if_neg hca]
      exact ih (Memory.wf_set _ _ hm) hc.2 later ((Memory.get_set_other _ _ hm apart).trans hfree)

/-- The address under module n of a byte of module m. -/
def movedKey (m n a : Nat) : Nat := if 2 ^ 60 ≤ a then a - m * 2 ^ 36 + n * 2 ^ 36 else a - m * 2 ^ 41 + n * 2 ^ 41

theorem State.renumber_mem (s : State) (m n : Nat) : (s.renumber m n).mem = Memory.place (movedKey m n)
    (s.mem.filter fun c => keyModule c.1 == some m) (s.mem.filter fun c => !(keyModule c.1 == some m)) := rfl

/-- The bytes that training leaves out: the sectors that a slice of the module holds (log entries 9, 37). -/
def cachedOf (m a : Nat) : Bool := decide (2 ^ 62 ≤ a) && keyModule a == some m

theorem cachedOf_eq_false {m a : Nat} : cachedOf m a = false ↔ (keyModule a = some m → a < 2 ^ 62) := by
  by_cases h : keyModule a = some m <;> simp [cachedOf, h]

theorem keyModule_dramKey {m i o : Nat} (hm : m < 256) (hi : i < 64) (ho : o < 2 ^ 35) :
    keyModule (dramKey (m * 64 + i) o) = some m := by
  unfold keyModule dramKey
  simp only
  rw [if_neg (by omega), if_neg (by omega)]
  exact congrArg some (by omega)

theorem movedKey_dramKey {m n i o : Nat} (hm : m < 256) (hi : i < 64) (ho : o < 2 ^ 35) :
    movedKey m n (dramKey (m * 64 + i) o) = dramKey (n * 64 + i) o := by
  unfold movedKey dramKey
  rw [if_neg (by omega)]
  omega

/-- A byte of module m that is no cached one lies in its partitions or its banks. -/
theorem keyModule_eq_some {m a : Nat} (h : keyModule a = some m) (ha : a < 2 ^ 62) :
    (a < 2 ^ 60 ∧ a / 2 ^ 41 = m) ∨ (2 ^ 60 ≤ a ∧ a < 2 ^ 61 ∧ (a - 2 ^ 60) / 2 ^ 36 = m) := by
  unfold keyModule at h
  simp only [Nat.mod_eq_of_lt ha] at h
  split at h
  · cases h
  · split at h
    · exact .inr ⟨by omega, by omega, Option.some.inj h⟩
    · exact .inl ⟨by omega, Option.some.inj h⟩

theorem movedKey_inj {m n a b : Nat} (hn : n < 256) (hma : keyModule a = some m) (hmb : keyModule b = some m)
    (ha : a < 2 ^ 62) (hb : b < 2 ^ 62) (h : movedKey m n a = movedKey m n b) : a = b := by
  unfold movedKey at h
  rcases keyModule_eq_some hma ha with ⟨ha, hma⟩ | ⟨ha, ha', hma⟩ <;>
    rcases keyModule_eq_some hmb hb with ⟨hb, hmb⟩ | ⟨hb, hb', hmb⟩
  · rw [if_neg (by omega), if_neg (by omega)] at h; omega
  · rw [if_neg (by omega), if_pos hb] at h; omega
  · rw [if_pos ha, if_neg (by omega)] at h; omega
  · rw [if_pos ha, if_pos hb] at h; omega

theorem memDefault_dramKey_module {m n i o : Nat} (hm : m < 256) (hn : n < 256) (hi : i < 64) (ho : o < 2 ^ 35) :
    memDefault (dramKey (m * 64 + i) o) = memDefault (dramKey (n * 64 + i) o) := by
  have place (d : Nat) : dramKey d o % 2 ^ 35 = o := by unfold dramKey; omega
  have die (k : Nat) : dramKey (k * 64 + i) o / 2 ^ 35 % 4 = i % 4 := by unfold dramKey; omega
  have low (k : Nat) (hk : k < 256) : dramKey (k * 64 + i) o < 2 ^ 60 := by unfold dramKey; omega
  unfold memDefault
  simp only [place, die, low m hm, low n hn]

theorem State.get_fresh {s : State} {m a : Nat} (h : cachedOf m a = false) :
    Memory.get (s.fresh m).mem a = Memory.get s.mem a := by
  refine (Memory.get_filter s.mem (fun a => !cachedOf m a) a).trans ?_
  rw [h]
  rfl

/-- R18: the module's memory goes with it. -/
theorem State.renumber_dram {s : State} {m n i o : Nat} (hs : s.memOk) (hm : m < 256) (hn : n < 256)
    (hfree : ∀ c ∈ s.mem, keyModule c.1 ≠ some n) (hi : i < 64) (ho : o < 2 ^ 35) :
    Memory.get ((s.fresh m).renumber m n).mem (dramKey (n * 64 + i) o) = Memory.get s.mem (dramKey (m * 64 + i) o) := by
  have source := keyModule_dramKey hm hi ho
  have target := keyModule_dramKey hn hi ho
  have low : dramKey (m * 64 + i) o < 2 ^ 62 := by unfold dramKey; omega
  have plain : cachedOf m (dramKey (m * 64 + i) o) = false := cachedOf_eq_false.2 fun _ => low
  have kept : Memory.wf (s.fresh m).mem = true := Memory.wf_filter _ hs
  have listed (c : Host.Cell) (hc : c ∈ (s.fresh m).mem) : c ∈ s.mem ∧ cachedOf m c.1 = false := by
    have := List.mem_filter.1 hc
    exact ⟨this.1, Bool.not_eq_true' _ ▸ this.2⟩
  rw [State.renumber_mem, ← movedKey_dramKey (n := n) hm hi ho,
    Memory.get_place (Memory.wf_filter _ kept) (Memory.wf_filter _ kept) ?inj ?free]
  case inj =>
    intro c hc hkey
    obtain ⟨hc, hmine⟩ := List.mem_filter.1 hc
    have hmine : keyModule c.1 = some m := by simpa using hmine
    have hlow : c.1 < 2 ^ 62 := cachedOf_eq_false.1 (listed c hc).2 hmine
    exact movedKey_inj hn hmine source hlow low hkey
  case free =>
    rw [movedKey_dramKey hm hi ho, memDefault_dramKey_module hm hn hi ho]
    refine Memory.get_unlisted fun c hc hkey => ?_
    have hmem := (listed c (List.mem_filter.1 hc).1).1
    exact hfree c hmem (by rw [hkey, target])
  refine (Memory.get_filter _ (fun a => keyModule a == some m) _).trans ?_
  rw [source, if_pos (by simp), State.get_fresh plain]

theorem State.renumber_module (s : State) (m n : Nat) :
    (s.renumber m n).module n = { s.module m with part := movePart (s.module m).part m n } := SMap.get_put_self _ _ _ _

theorem State.renumber_has {s : State} {m n : Nat} (h : n ≠ m) : (s.renumber m n).mods.has m = false := by
  refine (SMap.has_put_other _ _ h).trans ?_
  simp [SMap.has]

/-- The state in which module m has its number n in the pod. -/
def State.numbered (s : State) (m n : Nat) : State := if n = m then s else (s.fresh m).renumber m n

theorem State.numbered_power {s : State} {m n : Nat} (h : (s.module m).power = true) :
    ((s.numbered m n).module n).power = true := by
  unfold State.numbered
  split
  · next hnm => rwa [hnm]
  · rw [State.renumber_module]
    exact h

theorem State.numbered_dram {s : State} {m n i o : Nat} (hs : s.memOk) (hm : m < 256) (hn : n < 256)
    (hfree : ∀ c ∈ s.mem, keyModule c.1 = some n → n = m) (hi : i < 64) (ho : o < 2 ^ 35) :
    Memory.get (s.numbered m n).mem (dramKey (n * 64 + i) o) = Memory.get s.mem (dramKey (m * 64 + i) o) := by
  unfold State.numbered
  split
  · next hnm => rw [hnm]
  · next hnm => exact State.renumber_dram hs hm hn (fun c hc hk => hnm (hfree c hc hk)) hi ho

theorem State.numbered_launches {s : State} {m n : Nat} {x : Launch} (h : x ∈ s.launches) (hx : x.mod ≠ m) :
    x ∈ (s.numbered m n).launches := by
  unfold State.numbered
  split
  · exact h
  · exact List.mem_filter.2 ⟨h, by simpa using hx⟩

/-- The record of a module that has been trained. -/
def Module.train (x : Module) : Module := { x with trained := true }

theorem exec_training {s : State} {m n : Nat} (hp : s.powered m = true) (ht : (s.module m).trained = false) (hn : n < 256)
    (hfree : n = m ∨ s.mods.has n = false) (hq : s.quiet m = true) :
    exec (.hedgerowLinkTraining m n) s = .next (happened ((s.numbered m n).updModule n Module.train)) := by
  refine occurs_due _ _ ?_
  rcases hfree with rfl | h
  · simp [hp, ht, hn, hq]
  · simp [hp, ht, hn, hq, h]

/-! ### Ports and retries (R377) -/

theorem marked_getLsbD (b : BitVec 32) {p : Nat} (hp : p < 32) (i : Nat) :
    (b ||| BitVec.twoPow 32 p).getLsbD i = (b.getLsbD i || decide (i = p)) := by
  rw [BitVec.getLsbD_or, BitVec.getLsbD_twoPow, decide_eq_true hp, Bool.true_and]
  simp only [eq_comm]

/-- The record of a module of which port p has failed at clk c. -/
def Module.portDown (x : Module) (p c : Nat) : Module :=
  { x with portsDown := x.portsDown ||| BitVec.twoPow 32 p
           silent := if x.portsDown ||| BitVec.twoPow 32 p = BitVec.allOnes 32 ∧ x.silent = none then some c else x.silent }

theorem Module.portDown_silent_same {x : Module} {p : Nat} (hp : p < 32) (c : Nat)
    (h : ∃ i < 32, i ≠ p ∧ x.portsDown.getLsbD i = false) : (x.portDown p c).silent = x.silent := by
  obtain ⟨i, hi, hip, hup⟩ := h
  refine if_neg fun hall => ?_
  have bit := marked_getLsbD x.portsDown hp i
  rw [hall.1, BitVec.getLsbD_allOnes, hup, decide_eq_true hi, decide_eq_false hip] at bit
  cases bit

theorem Module.portDown_silent_some {x : Module} {p : Nat} (hp : p < 32) (c : Nat)
    (h : ∀ i < 32, i ≠ p → x.portsDown.getLsbD i = true) : (x.portDown p c).silent.isSome = true := by
  have all : x.portsDown ||| BitVec.twoPow 32 p = BitVec.allOnes 32 := by
    refine BitVec.eq_of_getLsbD_eq fun i hi => ?_
    rw [marked_getLsbD _ hp, BitVec.getLsbD_allOnes, decide_eq_true hi]
    by_cases hip : i = p
    · simp [hip]
    · simp [h i hi hip]
  simp only [Module.portDown, all, true_and]
  cases x.silent <;> rfl

theorem exec_portFailure {s : State} {m p : Nat} (h : s.powered m = true) (hp : p < 32) :
    exec (.hedgerowPortFailure m p) s = .next (happened (s.updModule m fun x => x.portDown p s.clk)) :=
  occurs_due _ _ (by simp [h, hp])

/-- The record of a module of which port p is in the link-retry state. -/
def Module.retrying (x : Module) (p : Nat) : Module := { x with inRetry := x.inRetry ||| BitVec.twoPow 32 p }

theorem exec_linkRetry {s : State} {m p : Nat} (h : s.powered m = true) (hp : p < 32)
    (hup : (s.module m).portsDown.getLsbD p = false) :
    exec (.linkLevelRetry m p) s = .next (happened (s.updModule m fun x => x.retrying p)) :=
  occurs_due _ _ (by rw [h, decide_eq_true hp, hup]; rfl)

/-! ### A module that is lost (R377, R360) -/

/-- R360: an event's words enter the `qevt` of a core, or are held at their source. -/
theorem State.event_posted (s : State) (src : Nat) (dest : Loc) (ws : List Word) :
    Posted s (s.event src dest ws) src dest ws := by
  unfold State.event
  split
  · have woken := State.wake_onlyWakes (s.updCore dest fun c => { c with qevt := c.qevt ++ eventWords ws }) fun k f =>
      keyLoc k == dest && (f.wait == some .waitev || f.wait == some (.popPort .qevt))
    refine .inl ⟨?_, woken.evq⟩
    rw [woken.qevt, State.core_updCore]
  · exact .inr ⟨rfl, _, rfl⟩

theorem State.event_mem (s : State) (src : Nat) (dest : Loc) (ws : List Word) : (s.event src dest ws).mem = s.mem := by
  unfold State.event
  split
  · exact (State.wake_onlyWakes _ _).mem
  · rfl

theorem State.event_mods (s : State) (src : Nat) (dest : Loc) (ws : List Word) : (s.event src dest ws).mods = s.mods := by
  unfold State.event
  split
  · exact (State.wake_onlyWakes _ _).mods
  · rfl

/-- R377: module i learns that module m is lost. -/
def State.tellLost (m : Nat) (t : State) (i : Nat) : State :=
  t.event (2 ^ 36 + i * 256 + m) (t.supLoc (i * 64)) [BitVec.ofNat 64 (0x41 + m * 2 ^ 8), Config.lostWord t.nextId]

theorem State.foldl_tellLost_keeps (m : Nat) (is : List Nat) (t : State) :
    (is.foldl (State.tellLost m) t).mem = t.mem ∧ (is.foldl (State.tellLost m) t).mods = t.mods := by
  induction is generalizing t with
  | nil => exact ⟨rfl, rfl⟩
  | cons i is ih =>
    obtain ⟨hmem, hmods⟩ := ih (t.tellLost m i)
    exact ⟨hmem.trans (State.event_mem _ _ _ _), hmods.trans (State.event_mods _ _ _ _)⟩

/-- The modules that wait for module m. -/
def State.peersOf (s : State) (m : Nat) : List Nat :=
  (s.mods.filter fun e => e.1 != m && e.2.power && e.2.trained && s.outstanding e.1 m).map fun e => e.1

theorem State.peersOf_eq_nil {s : State} {m : Nat} (h : ∀ e ∈ s.mods, s.outstanding e.1 m = false) : s.peersOf m = [] := by
  rw [State.peersOf, List.map_eq_nil_iff, List.filter_eq_nil_iff]
  intro e he
  simp [h e he]

theorem State.peersOf_pair {s : State} {m i : Nat} {x y : Module} (hs : s.mods = [(i, x), (m, y)]) (hi : i ≠ m)
    (hp : x.power = true) (ht : x.trained = true) (ho : s.outstanding i m = true) : s.peersOf m = [i] := by
  simp [State.peersOf, hs, hi, hp, ht, ho]

/-- The record of a module that is declared lost. -/
def Module.declareLost (x : Module) : Module := { x with lost := true }

theorem exec_moduleLost {s : State} {m c : Nat} (hm : s.mods.has m = true) (ht : (s.module m).trained = true)
    (hl : (s.module m).lost = false) (hs : (s.module m).silent = some c) (hc : c + 2000000 ≤ s.clk) :
    exec (.moduleLost m) s =
      .next (happened ((s.peersOf m).foldl (State.tellLost m) (s.updModule m Module.declareLost))) := by
  refine occurs_due _ _ ?_
  simp [hm, ht, hl, hs, hc]

/-- Settles O51: training by where State.renumber puts each byte, a failed port by the bits of the others, and a lost module
by what posting an event changes. -/
theorem hedgerowLinks : Obligations.HedgerowLinks := by
  unfold Obligations.HedgerowLinks
  refine ⟨?training, ?portFailure, ?retry, ?lost⟩
  case training =>
    intro m n s hp ht hn hfree hq hok hcells hm
    refine ⟨_, exec_training hp ht hn hfree hq, rfl, ?power, ?trained, ?memory, ?number, ?launches⟩
    case power =>
      rw [happened_powered, State.powered_updModule]
      exact State.numbered_power (Bool.and_eq_true_iff.1 hp).2
    case trained =>
      rw [happened_module, State.module_updModule]
      rfl
    case memory => exact fun i hi o ho => State.numbered_dram hok hm hn hcells hi ho
    case number =>
      intro hne
      refine (SMap.has_put_other _ _ hne).trans ?_
      rw [State.numbered, if_neg hne, State.renumber_has hne]
    case launches => exact fun x hx hmod => State.numbered_launches hx hmod
  case portFailure =>
    intro m p s h hp
    have record := s.module_updModule m fun x => x.portDown p s.clk
    refine ⟨_, exec_portFailure h hp, rfl, rfl, rfl, rfl, rfl, ?_⟩
    rw [happened_module, record]
    exact ⟨fun i _ => marked_getLsbD _ hp i, Module.portDown_silent_same hp _, Module.portDown_silent_some hp _⟩
  case retry =>
    intro m p s h hp hup
    have record := s.module_updModule m fun x => x.retrying p
    refine ⟨_, exec_linkRetry h hp hup, rfl, rfl, rfl, rfl, rfl, fun i _ => ?_⟩
    rw [happened_module, record]
    exact marked_getLsbD _ hp i
  case lost =>
    intro m c s hm ht hl hs hc
    obtain ⟨hmem, hmods⟩ := State.foldl_tellLost_keeps m (s.peersOf m) (s.updModule m Module.declareLost)
    refine ⟨_, exec_moduleLost hm ht hl hs hc, rfl, ?lost, hmem, ?nobody, ?peer⟩
    case lost =>
      rw [happened_module, State.module, hmods]
      exact congrArg Module.lost (s.module_updModule m Module.declareLost)
    case nobody =>
      intro hnone
      rw [State.peersOf_eq_nil hnone]
      exact ⟨rfl, rfl⟩
    case peer =>
      intro i x hmods hi hpower htrained hout
      rw [State.peersOf_pair hmods hi hpower htrained hout]
      exact State.event_posted (s.updModule m Module.declareLost) _ _ _

end Sys2Proof.Machine
end

section
/-! PROOFS. Every step keeps memory canonical (R115, O59). One lemma for each function of the model that hands a state on:
`State.memOk.<function>` for a function of a state, `<function>_keeps` for an engine's computation. Each proof follows the
branches of the function and cites the lemmas of the functions it calls; memory itself changes only in `State.poke`, in a
filter of its cells and in `State.renumber`. -/

namespace Sys2Proof.Machine

open Sys2Proof Sys2Proof.Claims

variable {s : State}

/-! ### What it is for an answer to keep memory canonical -/

theorem State.memOk.fst {α : Type} {t : State} {x : α} {p : State × α} (h : p.1.memOk) (e : p = (t, x)) : t.memOk := by
  rw [e] at h
  exact h

theorem State.memOk.iteFst {α : Type} {c : Prop} [Decidable c] {p q : State × α} (hp : p.1.memOk) (hq : q.1.memOk) :
    (if c then p else q).1.memOk := by
  split
  · exact hp
  · exact hq

theorem State.memOk.foldl {α : Type} {f : State → α → State} {l : List α} (h : s.memOk)
    (hf : ∀ t a, t.memOk → (f t a).memOk) : (l.foldl f s).memOk := by
  induction l generalizing s with
  | nil => exact h
  | cons a l ih => exact ih (hf s a h)

theorem State.memOk.poke {a : Nat} {b : List Byte} (h : s.memOk) : (s.poke a b).memOk := State.memOk_poke a b h

/-- Memory is canonical in each state that an instruction's answer carries. -/
def Eff.memOk : Eff → Prop
  | .wait => True
  | .waitFor _ => True
  | .trap _ _ _ => True
  | .hold s => s.memOk
  | .trapOn s _ _ => s.memOk
  | .done s _ => s.memOk
  | .keep s _ _ => s.memOk
  | .branch s _ _ => s.memOk
  | .gone s => s.memOk
  | .after s post => s.memOk ∧ ∀ t : State, t.memOk → (post t).memOk

/-- Memory is canonical in the next state, when there is one. -/
def Kept (o : Host.Outcome State Fault Refusal) : Prop := ∀ t, o = .next t → t.memOk

/-- An engine's computation leaves memory canonical, whether it ends or stops. -/
def EM.Keeps {α : Type} (m : EM α) : Prop := ∀ s : State, s.memOk → (m s).2.memOk

/-- Memory is canonical in the state in which an engine command moved. -/
def Took.memOk : Took → Prop
  | .moved s => s.memOk
  | .stands => True

/-- Memory is canonical in the state that a Flock delivery hands on. -/
def Delivery.memOk : Delivery → Prop
  | .done s => s.memOk
  | .parked s => s.memOk
  | .refused s => s.memOk
  | .held => True

/-- Memory is canonical in the state that the front of the instruction stream hands on. -/
def Front.memOk : Front → Prop
  | .word s _ => s.memOk
  | .none s => s.memOk

theorem Took.memOk.stands : Took.stands.memOk := trivial
theorem State.memOk.moved (h : s.memOk) : (Took.moved s).memOk := h
theorem Delivery.memOk.held : Delivery.held.memOk := trivial
theorem State.memOk.delivered (h : s.memOk) : (Delivery.done s).memOk := h
theorem State.memOk.parked (h : s.memOk) : (Delivery.parked s).memOk := h
theorem State.memOk.refused (h : s.memOk) : (Delivery.refused s).memOk := h
theorem State.memOk.fetched {w : W32} (h : s.memOk) : (Front.word s w).memOk := h
theorem State.memOk.noWord (h : s.memOk) : (Front.none s).memOk := h

theorem Took.memOk.ofMoved {r : Took} (h : r.memOk) (e : r = .moved s) : s.memOk := by
  rw [e] at h
  exact h
theorem Delivery.memOk.ofDone {r : Delivery} (h : r.memOk) (e : r = .done s) : s.memOk := by
  rw [e] at h
  exact h
theorem Delivery.memOk.ofParked {r : Delivery} (h : r.memOk) (e : r = .parked s) : s.memOk := by
  rw [e] at h
  exact h
theorem Delivery.memOk.ofRefused {r : Delivery} (h : r.memOk) (e : r = .refused s) : s.memOk := by
  rw [e] at h
  exact h
theorem Front.memOk.ofWord {r : Front} {w : W32} (h : r.memOk) (e : r = .word s w) : s.memOk := by
  rw [e] at h
  exact h
theorem Front.memOk.ofNone {r : Front} (h : r.memOk) (e : r = .none s) : s.memOk := by
  rw [e] at h
  exact h
theorem Eff.memOk.ofHold {r : Eff} (h : r.memOk) (e : r = .hold s) : s.memOk := by
  rw [e] at h
  exact h

theorem Eff.memOk.wait : Eff.wait.memOk := trivial
theorem Eff.memOk.waitFor {w : Wait} : (Eff.waitFor w).memOk := trivial
theorem Eff.memOk.trap {c : Cause} {va : Word} {n : Nat} : (Eff.trap c va n).memOk := trivial
theorem State.memOk.hold (h : s.memOk) : (Eff.hold s).memOk := h
theorem State.memOk.trapOn {c : Cause} {va : Word} (h : s.memOk) : (Eff.trapOn s c va).memOk := h
theorem State.memOk.done {nx : Next} (h : s.memOk) : (Eff.done s nx).memOk := h
theorem State.memOk.keep {a b : Bool} (h : s.memOk) : (Eff.keep s a b).memOk := h
theorem State.memOk.branch {a : Bool} {pc : Word} (h : s.memOk) : (Eff.branch s a pc).memOk := h
theorem State.memOk.gone (h : s.memOk) : (Eff.gone s).memOk := h
theorem State.memOk.thenPost {post : State → State} (h : s.memOk) (hp : ∀ t, t.memOk → (post t).memOk) :
    (Eff.after s post).memOk := ⟨h, hp⟩

theorem State.memOk.next (h : s.memOk) : Kept (.next s) := by
  rintro _ ⟨⟩
  exact h

namespace EM.Keeps
variable {α β : Type}
theorem pure {x : α} : (pure x : EM α).Keeps := fun _ h => h
theorem throw {e : EStop} : (throw e : EM α).Keeps := fun _ h => h
theorem bind {m : EM α} {f : α → EM β} (hm : m.Keeps) (hf : ∀ x, (f x).Keeps) : (m >>= f).Keeps := by
  intro s h
  have hs := hm s h
  change ((ExceptT.bindCont f (m s).1 : StateM State _) (m s).2).2.memOk
  cases hx : (m s).1 with
  | ok x => exact hf x _ hs
  | error e => exact hs
theorem ite {c : Prop} [Decidable c] {m n : EM α} (hm : m.Keeps) (hn : n.Keeps) : (if c then m else n).Keeps := by
  split
  · exact hm
  · exact hn
theorem getBind {f : State → EM β} (hf : ∀ s, s.memOk → (f s).Keeps) : ((get : EM State) >>= f).Keeps := fun s h => hf s h s h
theorem set {t : State} (h : t.memOk) : (MonadStateOf.set t : EM PUnit).Keeps := fun _ _ => h
theorem change {f : State → State} (hf : ∀ s, s.memOk → (f s).memOk) : (EM.change f).Keeps := fun s h => hf s h
theorem demand {b : Bool} {n : Nat} : (EM.demand b n).Keeps := by
  unfold EM.demand
  split
  · exact pure
  · exact throw
theorem each {f : α → EM Unit} {l : List α} (hf : ∀ x, (f x).Keeps) : (EM.each f l).Keeps := by
  induction l with
  | nil => exact pure
  | cons x r ih => exact .bind (hf x) fun _ => ih
theorem collect {f : α → EM β} {l : List α} (hf : ∀ x, (f x).Keeps) : (EM.collect f l).Keeps := by
  induction l with
  | nil => exact pure
  | cons x r ih => exact .bind (hf x) fun _ => .bind ih fun _ => pure
theorem carry {f : β → α → EM β} {b : β} {l : List α} (hf : ∀ b x, (f b x).Keeps) : (EM.carry f b l).Keeps := by
  induction l generalizing b with
  | nil => exact pure
  | cons x r ih => exact .bind (hf b x) fun _ => ih
theorem run {m : EM α} {x : Except EStop α} {t : State} (hm : m.Keeps) (h : s.memOk) (e : m s = (x, t)) : t.memOk := by
  have := hm s h
  rw [e] at this
  exact this
end EM.Keeps
/-- Every move of the list keeps memory canonical. -/
def Keeping (l : List Meaning) : Prop := ∀ i ∈ l, ∀ s : State, s.memOk → Kept (i s)

theorem Eff.memOk.ite {c : Prop} [Decidable c] {e f : Eff} (he : e.memOk) (hf : f.memOk) : (if c then e else f).memOk := by
  split
  · exact he
  · exact hf

/-! ### Operations on the state -/

theorem State.memOk.setFrame {k : Nat} {f : Frame} (h : s.memOk) : (s.setFrame k f).memOk := by
  unfold State.setFrame
  exact h
theorem State.memOk.updFrame {k : Nat} {g : Frame → Frame} (h : s.memOk) : (s.updFrame k g).memOk := by
  unfold State.updFrame
  exact h.setFrame
theorem State.memOk.updCore {l : Loc} {g : Core → Core} (h : s.memOk) : (s.updCore l g).memOk := by
  unfold State.updCore
  exact h
theorem State.memOk.updDie {d : DieId} {g : Die → Die} (h : s.memOk) : (s.updDie d g).memOk := by
  unfold State.updDie
  exact h
theorem State.memOk.updHome {hm : Home} {f : HomeSt → HomeSt} (h : s.memOk) : (s.updHome hm f).memOk := by
  unfold State.updHome
  exact h
theorem State.memOk.updModule {m : Nat} {f : Module → Module} (h : s.memOk) : (s.updModule m f).memOk := by
  unfold State.updModule
  exact h
theorem State.memOk.updLease {p : Nat} {f : Lease → Lease} (h : s.memOk) : (s.updLease p f).memOk := by
  unfold State.updLease
  exact h
theorem State.memOk.updMy {g : Frame → Frame} (h : s.memOk) : (s.updMy g).memOk := by
  unfold State.updMy
  exact h.updFrame
theorem State.memOk.updCmd {id : Nat} {f : Cmd → Cmd} (h : s.memOk) : (s.updCmd id f).memOk := by
  unfold State.updCmd
  exact h
theorem State.memOk.updLaunch {id : W32} {m : Nat} {f : Launch → Launch} (h : s.memOk) :
    (s.updLaunch id m f).memOk := by
  unfold State.updLaunch
  exact h
theorem State.memOk.updSlot {l : Loc} {n : Nat} {g : Slot → Slot} (h : s.memOk) : (s.updSlot l n g).memOk := by
  unfold State.updSlot
  exact h.updCore

theorem State.memOk.ready {k : Nat} (h : s.memOk) : (s.ready k).memOk := by
  unfold State.ready
  dsimp only
  split
  · exact h.updCore
  · exact h

theorem State.memOk.wake {p : Nat → Frame → Bool} (h : s.memOk) : (s.wake p).memOk := by
  unfold State.wake
  refine h.foldl fun t a h => ?_
  split
  · exact h.updFrame.ready
  · exact h

theorem State.memOk.drain {k : Nat} (h : s.memOk) : (s.drain k).memOk := by
  unfold State.drain
  split
  · dsimp only
    split
    · exact h
    · exact h.updFrame
  · exact h

theorem State.memOk.unbind {l : Loc} {n : Nat} (h : s.memOk) : (s.unbind l n).memOk := by
  unfold State.unbind
  split
  · exact h.drain.updSlot
  · exact h

theorem State.memOk.bind {l : Loc} {n f : Nat} (h : s.memOk) : (s.bind l n f).memOk := by
  unfold State.bind
  exact h.updSlot.updFrame
theorem State.memOk.send {p : Pkt} (h : s.memOk) : (s.send p).memOk := by
  unfold State.send
  exact h

theorem State.memOk.event {src : Nat} {dest : Loc} {ws : List Word} (h : s.memOk) : (s.event src dest ws).memOk := by
  unfold State.event
  split
  · exact h.updCore.wake
  · exact h

theorem State.memOk.eventAt {hm : Home} {ws : List Word} (h : s.memOk) : (s.eventAt hm ws).memOk := by
  unfold State.eventAt
  exact h.event
theorem State.memOk.record {hm : Home} {status : Nat} {r : RecReason} {va : Word} {id : W32} {m : Nat} (h : s.memOk) :
    (s.record hm status r va id m).memOk := by
  unfold State.record
  exact h.eventAt.updLaunch
theorem State.memOk.dissolve {g : Gang} (h : s.memOk) : (s.dissolve g).memOk := by
  unfold State.dissolve
  exact State.memOk.wake (State.memOk.foldl h fun t k h => h.updFrame)
theorem State.memOk.enter {l : Loc} {n : Nat} {e : TrapEntry} (h : s.memOk) : (s.enter l n e).memOk := by
  unfold State.enter
  exact h.unbind.updCore.updFrame.bind
theorem State.memOk.queueTrap {l : Loc} {e : TrapEntry} (h : s.memOk) : (s.queueTrap l e).memOk := by
  unfold State.queueTrap
  exact h.updCore

theorem State.memOk.raise {k : Nat} {c : Cause} {va : Word} {tcode : Nat} (h : s.memOk) :
    (s.raise k c va tcode).memOk := by
  unfold State.raise
  dsimp only
  split
  · split
    · exact h.dissolve.updFrame.updFrame
    · split
      · split
        · exact h.dissolve.updFrame.enter
        · exact h.dissolve.updFrame.unbind.queueTrap
      · exact h.dissolve.updFrame.queueTrap
  · split
    · exact h.updFrame.updFrame
    · split
      · split
        · exact h.updFrame.enter
        · exact h.updFrame.unbind.queueTrap
      · exact h.updFrame.queueTrap

theorem State.memOk.grant {p : Nat} (h : s.memOk) : (s.grant p).memOk := by
  unfold State.grant
  dsimp only
  split
  · exact h
  · split
    · exact h.updLease.wake
    · exact h

theorem State.memOk.freeLease {p uid : Nat} (h : s.memOk) : (s.freeLease p uid).memOk := by
  unfold State.freeLease
  split
  · exact h.updLease.grant
  · exact h

theorem State.memOk.countDown {id : W32} {m : Nat} (h : s.memOk) : (s.countDown id m).memOk := by
  unfold State.countDown
  exact h.updLaunch.wake
theorem State.memOk.countUp {id : W32} {m : Nat} (h : s.memOk) : (s.countUp id m).memOk := by
  unfold State.countUp
  exact h.updLaunch

theorem State.memOk.taskEnd {k : Nat} (h : s.memOk) : (s.taskEnd k).memOk := by
  unfold State.taskEnd
  dsimp only
  split
  · refine (State.memOk.updFrame ?_).countDown
    split
    · exact h
    · exact h.send
  · refine State.memOk.updFrame ?_
    split
    · exact h
    · exact h.send

theorem State.memOk.threadEnd {k : Nat} (h : s.memOk) : (s.threadEnd k).memOk := by
  unfold State.threadEnd
  refine ((State.memOk.updLaunch ?_).updCore).updFrame
  split
  · exact h.freeLease.updLease.unbind
  · exact h.freeLease

theorem State.memOk.killThread {l : Loc} {f status : Nat} {r : RecReason} (h : s.memOk) :
    (s.killThread l f status r).memOk := by
  unfold State.killThread
  exact h.taskEnd.threadEnd.record.eventAt

theorem State.memOk.handlerEnd {l : Loc} (h : s.memOk) : (s.handlerEnd l).memOk := by
  unfold State.handlerEnd
  dsimp only
  refine (State.memOk.updCore ?_).updFrame
  split
  · exact h.killThread
  · exact h

theorem State.memOk.handlerFault {l : Loc} {n : Option Nat} (h : s.memOk) : (s.handlerFault l n).memOk := by
  unfold State.handlerFault
  dsimp only
  split
  · exact h.handlerEnd
  · split
    · exact h.handlerEnd.updCore.enter
    · exact h.handlerEnd.unbind

theorem State.memOk.raiseAt {k : Nat} {c : Cause} {va : Word} {tcode : Nat} (h : s.memOk) :
    (s.raiseAt k c va tcode).memOk := by
  unfold State.raiseAt
  split
  · exact h.handlerFault
  · exact h.raise

theorem State.memOk.trapMy {c : Cause} {va : Word} {tcode : Nat} (h : s.memOk) : (s.trapMy c va tcode).memOk := by
  unfold State.trapMy
  exact h.raiseAt

theorem State.memOk.rfe {l : Loc} {n : Nat} (h : s.memOk) : (s.rfe l n).memOk := by
  unfold State.rfe
  extract_lets c f k s1 back s2 s3 s4 trapped
  have h4 : s4.memOk := (State.memOk.unbind (s := s2) h).updCore
  split
  · extract_lets s5 s6
    have h6 : s6.memOk := by
      unfold s6
      split
      · exact h4.updCore.enter.ready
      · exact h4.updCore.enter
    split
    · exact h6.ready
    · exact h6
  · have h5 : (if (s4.frame (keyOf l back)).used && !(s4.frame (keyOf l back)).away then
        (s4.updCore l fun c => { c with fifo := c.fifo.filter (· != back) }).bind l n back else s4).memOk := by
      split
      · exact h4.updCore.bind
      · exact h4
    split
    · exact h5.ready
    · exact h5

theorem State.memOk.retire {nx : Next} {keepSolo keepLane : Bool} (h : s.memOk) :
    (s.retire nx keepSolo keepLane).memOk := by
  unfold State.retire
  exact h.updMy

theorem State.memOk.finish {e : Eff} (h : s.memOk) (he : e.memOk) : (Eff.finish s e).memOk := by
  have retires {t : State} {nx : Next} {a b : Bool} (ht : t.memOk) : { t.retire nx a b with note := .retired }.memOk :=
    ht.retire (nx := nx) (keepSolo := a) (keepLane := b)
  cases e with
  | wait => exact h
  | waitFor w => exact h
  | hold t => exact he
  | trap c va n => exact h.trapMy
  | trapOn t c va => exact State.memOk.trapMy (s := t) he
  | done t nx => exact retires he
  | keep t a b => exact retires he
  | branch t taken pc => exact retires he
  | gone t => exact he
  | after t post =>
    obtain ⟨ht, hp⟩ := he
    exact hp _ ht.retire

theorem State.memOk.onThread {k : Nat} {fan : List Nat} (h : s.memOk) : (s.onThread k fan).memOk := by
  unfold State.onThread
  exact h

theorem State.memOk.gangRun {body : State → Eff} {l : List Nat} (h : s.memOk)
    (hbody : ∀ t : State, t.memOk → (body t).memOk) :
    (s.gangRun body l).1.memOk := by
  induction l generalizing s with
  | nil => exact h
  | cons k r ih =>
    simp only [State.gangRun]
    refine ih ?_
    split
    · exact h
    · exact h.onThread.finish (hbody _ h.onThread)

theorem State.memOk.gangHold {body : State → Eff} {t : State} {e : Nat × Eff} (ht : t.memOk)
    (hbody : ∀ t : State, t.memOk → (body t).memOk) : (s.gangHold body t e).memOk := by
  unfold State.gangHold
  split
  · exact (hbody _ ht.onThread).ofHold ‹_›
  · exact ht.updFrame
  · exact ht

theorem State.memOk.gangWait {body : State → Eff} {t : State} {e : Nat × Eff} (ht : t.memOk)
    (hbody : ∀ t : State, t.memOk → (body t).memOk) : (s.gangWait body t e).memOk := by
  unfold State.gangWait
  split
  · exact ht.updFrame
  · split
    · split
      · exact (hbody _ ht.onThread).ofHold ‹_›
      · exact ht
    · exact ht
  · exact ht

theorem State.memOk.gangStep {g : Gang} {body : State → Eff} (h : s.memOk)
    (hbody : ∀ t : State, t.memOk → (body t).memOk) :
    (s.gangStep g body).memOk := by
  unfold State.gangStep
  dsimp only
  split
  · exact h
  · split
    · exact h.dissolve.foldl fun t k h => h.raise
    · split
      · refine h.dissolve.foldl fun t e h => ?_
        split
        · exact h.raiseAt
        · exact h.onThread.finish (hbody _ h.onThread)
        · exact h
      · split
        · exact h.foldl fun t e h => h.gangWait hbody
        · split
          · exact h.foldl fun t e h => h.gangHold hbody
          · refine (h.gangRun hbody).foldl fun t k h => ?_
            split
            · exact h.updFrame
            · exact h

theorem State.memOk.soloStep {g : Gang} {body : State → Eff} (h : s.memOk)
    (hbody : ∀ (t : State), t.memOk → (body t).memOk) : (s.soloStep g body).memOk := by
  unfold State.soloStep
  dsimp only
  split
  · exact State.memOk.finish h.dissolve (hbody _ h.onThread)
  · split
    · exact h.finish (hbody _ h.onThread)
    · exact State.memOk.foldl (h.finish (hbody _ h.onThread)) fun t a h => h.updFrame

theorem State.memOk.issue {body : State → Eff} (h : s.memOk) (hbody : ∀ (t : State), t.memOk → (body t).memOk) : Kept
    (issue body s) := by
  unfold Machine.issue
  split
  · exact (h.finish (hbody _ h)).next
  · split
    · exact State.memOk.next h
    · split
      · exact (h.soloStep fun t h => hbody _ h).next
      · exact (h.gangStep fun t h => hbody _ h).next

/-! ### The page-table walk -/

theorem State.memOk.copyBytes {a b n : Nat} (h : s.memOk) : (s.copyBytes a b n).memOk := by
  unfold State.copyBytes
  exact h.poke

theorem State.memOk.dropSector {hm : Home} {k : Nat} (h : s.memOk) : (s.dropSector hm k).memOk := by
  unfold State.dropSector
  dsimp only
  split
  · refine (State.memOk.poke ?_).updHome
    split
    · exact h.copyBytes
    · exact h
  · exact h

theorem State.memOk.fillSector {hm : Home} {pg : Nat × Nat} {k : Nat} (h : s.memOk) : (s.fillSector hm pg k).memOk := by
  unfold State.fillSector
  split
  · split
    · exact h
    · exact h.updHome
  · exact h.copyBytes.updHome

theorem State.memOk.ageSectors {hm : Home} (h : s.memOk) : (s.ageSectors hm).memOk := by
  unfold State.ageSectors
  refine h.foldl fun t a h => ?_
  split
  · exact h.dropSector
  · exact h

theorem State.memOk.cachePage {hm : Home} {pg : Nat × Nat} {va : Word} {p n : Nat} (h : s.memOk) :
    (s.cachePage hm pg va p n).memOk := by
  unfold State.cachePage
  exact h.foldl fun t a h => h.ageSectors.fillSector

theorem State.memOk.flushPage {hm : Home} {va : Word} (h : s.memOk) : (s.flushPage hm va).memOk := by
  unfold State.flushPage
  refine h.foldl fun t a h => ?_
  split
  · exact h.dropSector
  · exact h

theorem State.memOk.tlbLoad {hm : Home} {base size : Nat} {e : Word} {a : Nat} (h : s.memOk) :
    (s.tlbLoad hm base size e a).memOk := by
  unfold State.tlbLoad
  exact h.poke.updHome

theorem State.memOk.leaf {hm : Home} {va : Word} (h : s.memOk) : (s.leaf hm va).1.memOk := by
  unfold State.leaf
  split
  · exact h
  · split
    · exact h.tlbLoad
    · exact h

theorem State.memOk.setDirty {hm : Home} {va : Word} (h : s.memOk) : (s.setDirty hm va).memOk := by
  unfold State.setDirty
  dsimp only
  split
  · split
    · exact h
    · split
      · exact h.updHome.poke
      · exact h.updHome
  · exact h

theorem State.memOk.soil {hm : Home} {va : Word} {a n : Nat} (h : s.memOk) : (s.soil hm va a n).memOk := by
  unfold State.soil
  split
  · exact h
  · exact h.foldl fun t a1 h => h.updHome

theorem State.memOk.writeAt {hm : Home} {va : Word} {a : Nat} {b : List Byte} (h : s.memOk) :
    (s.writeAt hm va a b).memOk := by
  unfold State.writeAt
  exact h.setDirty.soil.poke

theorem State.memOk.check {r : Req} (h : s.memOk) : (s.check r).1.memOk := by
  unfold State.check
  dsimp only
  split
  · exact h
  · split
    · split <;> exact h
    · split
      · exact h
      · split
        · exact h.leaf.fst ‹_›
        · exact h.leaf.fst ‹_›
        · split
          · exact h.leaf.fst ‹_›
          · split
            · exact h.leaf.fst ‹_›
            · split
              · exact h.leaf.fst ‹_›
              · split
                · exact (h.leaf.fst ‹_›).cachePage
                · exact h.leaf.fst ‹_›

theorem State.memOk.countReq {hm : Home} {src : Loc} {va : Word} {write : Bool} (h : s.memOk) :
    (s.countReq hm src va write).memOk := by
  unfold State.countReq
  split
  · exact h.updHome
  · exact h

theorem State.memOk.dropSpread {l : Loc} {id : W32} {m : Nat} {va : Word} (h : s.memOk) :
    (s.dropSpread l id m va).memOk := by
  unfold State.dropSpread
  exact h.updCore

theorem State.memOk.through {l : Loc} {r : Req} {n : Nat} (h : s.memOk) : (s.through l r n).1.memOk := by
  induction n generalizing s r with
  | zero => exact h
  | succ n ih =>
    simp only [State.through]
    split
    · exact h
    · split
      · exact h
      · split
        · exact ih (h.check.fst ‹_›).dropSpread
        · exact (h.check.fst ‹_›).countReq
        · exact h.check.fst ‹_›

/-! ### Operands -/

theorem State.memOk.guardPorts {rs : List Reg} {k : Unit → Eff} (_h : s.memOk) (hk : ∀ (x : Unit), (k x).memOk) :
    (guardPorts s rs k).memOk := by
  unfold Machine.guardPorts
  split
  · exact .trap
  · exact hk _

theorem State.memOk.pop {p : Port} {w : Word} {t : State} (h : s.memOk) (e : s.pop p = some (w, t)) : t.memOk := by
  unfold State.pop at e
  split at e
  · split at e <;> cases e
    exact h.updMy
  · dsimp only at e
    split at e <;> split at e <;> cases e
    · exact h.updCore
    · exact h.updCore

theorem State.memOk.src {r : Reg} {t : Bool} {k : Word → State → Eff} (h : s.memOk)
    (hk : ∀ (x : Word) (t1 : State), t1.memOk → (k x t1).memOk) : (src s r t k).memOk := by
  unfold Machine.src
  split
  · exact hk _ _ h
  · split
    · split
      · exact .trap
      · exact hk _ _ h
    · split
      · exact .trap
      · exact .wait
  · split
    · exact hk _ _ (h.pop ‹_›)
    · split
      · exact .trap
      · exact .waitFor

theorem State.memOk.pushCmd {e : EPort} {v : Word} (h : s.memOk) : (s.pushCmd e v).memOk := by
  unfold State.pushCmd
  exact h

theorem State.memOk.sendMsg {v : Word} (h : s.memOk) : (s.sendMsg v).memOk := by
  unfold State.sendMsg
  dsimp only
  split
  · exact h.send
  · exact h.record

theorem State.memOk.pushPort {p : Port} {v : Word} {k : State → Eff} (h : s.memOk)
    (hk : ∀ (t : State), t.memOk → (k t).memOk) : (pushPort s p v k).memOk := by
  unfold Machine.pushPort
  dsimp only
  split
  · split
    · split
      · exact .waitFor
      · exact hk _ h.drain.updLease.pushCmd
    · split
      · exact .waitFor
      · exact .trap
  · split
    · exact hk _ h.drain.pushCmd
    · exact .waitFor
  · split
    · exact hk _ h.drain.sendMsg
    · split
      · exact hk _ h.drain
      · exact .trap

theorem State.memOk.writeG {n : Fin 16} {v : Word} (h : s.memOk) : (s.writeG n v).memOk := by
  unfold State.writeG
  exact h.updMy.foldl fun t a h => h.updFrame.send

theorem State.memOk.put {r : Reg} {v : Word} {k : State → Eff} (h : s.memOk)
    (hk : ∀ (t : State), t.memOk → (k t).memOk) : (put s r v k).memOk := by
  unfold Machine.put
  split
  · exact hk _ h
  · split
    · exact hk _ h.writeG
    · exact .wait
  · exact h.pushPort fun t h => hk _ h

theorem State.memOk.emptyDest {n : Fin 16} (h : s.memOk) : (s.emptyDest n).memOk := by
  unfold State.emptyDest
  exact h.updMy.foldl fun t a h => h.updFrame

theorem State.memOk.putLate {r : Reg} {v : Word} {acq : Option Scope} {k : State → Eff} (h : s.memOk)
    (hk : ∀ (t : State), t.memOk → (k t).memOk) : (putLate s r v acq k).memOk := by
  unfold Machine.putLate
  split
  · split
    · exact hk _ h.emptyDest.send
    · exact .wait
  · exact h.put fun t h => hk _ h

theorem State.memOk.aluOne {d a : Reg} {ta : Bool} {f : Word → Word} (h : s.memOk) : (aluOne s d a ta f).memOk := by
  unfold Machine.aluOne
  exact h.guardPorts fun _ => h.src fun x1 t h => h.put fun t1 h => h.done
theorem State.memOk.aluTwo {d a b : Reg} {ta tb : Bool} {f : Word → Word → Word} (h : s.memOk) :
    (aluTwo s d a b ta tb f).memOk := by
  unfold Machine.aluTwo
  exact h.guardPorts fun _ => h.src fun x1 t h => h.src fun x2 t1 h => h.put fun t2 h => h.done
theorem State.memOk.lateTwo {d a b : Reg} {ta tb : Bool} {f : Word → Word → Word} (h : s.memOk) :
    (lateTwo s d a b ta tb f).memOk := by
  unfold Machine.lateTwo
  exact h.guardPorts fun _ => h.src fun x1 t h => h.src fun x2 t1 h => h.putLate fun t2 h => h.done
theorem State.memOk.lateOne {d a : Reg} {ta : Bool} {f : Word → Word} (h : s.memOk) : (lateOne s d a ta f).memOk := by
  unfold Machine.lateOne
  exact h.guardPorts fun _ => h.src fun x1 t h => h.putLate fun t1 h => h.done

theorem State.memOk.vread {n : Fin 16} {k : BitVec 512 → Eff} (_h : s.memOk) (hk : ∀ (x : BitVec 512), (k x).memOk) :
    (vread s n k).memOk := by
  unfold Machine.vread
  split
  · exact .wait
  · split
    · exact .trap
    · exact hk _

theorem State.memOk.vold {n : Fin 16} {mk : Fin 8} {k : BitVec 512 → Eff} (h : s.memOk)
    (hk : ∀ (x : BitVec 512), (k x).memOk) : (vold s n mk k).memOk := by
  unfold Machine.vold
  split
  · split
    · exact .wait
    · exact hk _
  · exact h.vread fun x => hk _

theorem State.memOk.vsrc {w : Nat} {r : VSrc} {k : BitVec 512 → Eff} (h : s.memOk)
    (hk : ∀ (x : BitVec 512), (k x).memOk) : (vsrc s w r k).memOk := by
  unfold Machine.vsrc
  split
  · exact h.vread fun x => hk _
  · exact h.src fun x t h => hk _

theorem State.memOk.vput {n : Fin 16} {v : BitVec 512} {k : State → Eff} (h : s.memOk)
    (hk : ∀ (t : State), t.memOk → (k t).memOk) : (vput s n v k).memOk := by
  unfold Machine.vput
  dsimp only
  split
  · exact .wait
  · exact hk _ (h.updMy.foldl fun t a h => h.updFrame.send)

theorem State.memOk.vputLate {n : Fin 16} {v : BitVec 512} {k : State → Eff} (h : s.memOk)
    (hk : ∀ (t : State), t.memOk → (k t).memOk) : (vputLate s n v k).memOk := by
  unfold Machine.vputLate
  dsimp only
  split
  · exact .wait
  · exact hk _ ((h.updFrame.foldl fun t a h => h.updFrame).send)

theorem State.memOk.writeM {n : Fin 8} {v : BitVec 16} (h : s.memOk) : (s.writeM n v).memOk := by
  unfold State.writeM
  exact h.updMy

theorem State.memOk.anchored {k : Unit → Eff} (_h : s.memOk) (hk : ∀ (x : Unit), (k x).memOk) :
    (anchored s k).memOk := by
  unfold Machine.anchored
  split
  · exact hk _
  · exact .trap

theorem State.memOk.supervisor {k : Unit → Eff} (_h : s.memOk) (hk : ∀ (x : Unit), (k x).memOk) :
    (supervisor s k).memOk := by
  unfold Machine.supervisor
  split
  · exact hk _
  · exact .trap

/-! ### Traps and fault queues -/

theorem State.memOk.park {hm : Home} {r : Reason} {base size : Nat} {item : Parked} {va : Word} {b : FBits} {id : W32}
    {m : Nat} {t : State} (h : s.memOk) (e : s.park hm r base size item va b id m = some t) : t.memOk := by
  unfold State.park at e
  split at e <;> cases e
  split
  · exact h.updHome.eventAt
  · exact h.updHome

theorem State.memOk.dropTask {k : Nat} (h : s.memOk) : (s.dropTask k).memOk := by
  unfold State.dropTask
  dsimp only
  refine State.memOk.threadEnd ?_
  split
  · exact h.updSlot
  · exact h

theorem State.memOk.parkThread {k : Nat} {fetch : Bool} {hm : Home} {r : Reason} {base size : Nat} {va : Word}
    {b : FBits} (h : s.memOk) : (s.parkThread k fetch hm r base size va b).memOk := by
  unfold State.parkThread
  dsimp only
  split
  · exact h.updFrame
  · split
    · exact (h.park ‹_›).dropTask
    · refine State.memOk.updFrame ?_
      split
      · exact (h.park ‹_›).unbind
      · exact h.park ‹_›

theorem State.memOk.spreadLoad {l : Loc} {id : W32} {m g : Nat} {e : Word} (h : s.memOk) :
    (s.spreadLoad l id m g e).memOk := by
  unfold State.spreadLoad
  exact h.updCore

theorem State.memOk.askSpread {va : Word} (h : s.memOk) : (s.askSpread va).memOk := by
  unfold State.askSpread
  dsimp only
  split
  · exact h
  · exact h.send

theorem State.memOk.findHome {l : Loc} {user : Bool} {id : W32} {m : Nat} {va : Word} (h : s.memOk) :
    (s.findHome l user id m va).1.memOk := by
  unfold State.findHome
  dsimp only
  split
  · exact h
  · exact h
  · split
    · split
      · exact h.through.fst ‹_›
      · split
        · exact h.through.fst ‹_›
        · split
          · split
            · exact ((h.through.fst ‹_›).through).fst ‹_›
            · split <;> exact (((h.through.fst ‹_›).through).fst ‹_›).spreadLoad
          · exact ((h.through.fst ‹_›).through).fst ‹_›
    · exact h.through.fst ‹_›

theorem State.memOk.fetchAt {user : Bool} {id : W32} {m : Nat} {va : Word} {hm : Home} (h : s.memOk) :
    (fetchAt s user id m va hm).1.memOk := by
  unfold Machine.fetchAt
  dsimp only
  split
  · split <;> exact h.through.fst ‹_›
  · split <;> exact h.through.fst ‹_›
  · exact h.through.fst ‹_›
  · exact h.through.fst ‹_›
  · exact h.through.fst ‹_›
  · exact h.through.fst ‹_›
  · exact h.through.fst ‹_›

theorem State.memOk.fetch {va : Word} (h : s.memOk) : (s.fetch va).1.memOk := by
  unfold State.fetch
  dsimp only
  split
  · exact h
  · split
    · exact h
    · exact h.askSpread
    · exact h.fetchAt

theorem State.memOk.word {va : Word} (h : s.memOk) : (s.word va).1.memOk := by
  unfold State.word
  split
  · exact h
  · split
    · exact (h.fetch.fst ‹_›).updSlot
    · exact h.fetch

theorem State.memOk.capture {va : Word} {n : Nat} (h : s.memOk) : (capture s va n).1.memOk := by
  induction n generalizing s va with
  | zero => exact h
  | succ n ih =>
    simp only [capture]
    split
    · split
      · exact h.fetch.fst ‹_›
      · split <;> exact (ih (h.fetch.fst ‹_›)).fst ‹_›
    · exact h.fetch.fst ‹_›

/-! ### Accesses -/

theorem State.memOk.addPath {hm : Home} (h : s.memOk) : (s.addPath hm).memOk := by
  unfold State.addPath
  exact h.updMy

theorem State.memOk.addPathAt {hm : Home} {va : Word} (h : s.memOk) : (s.addPathAt hm va).memOk := by
  unfold State.addPathAt
  split
  · exact h.addPath
  · exact h.addPath.addPath

theorem State.memOk.waitDepart {va : Word} {isGo : Bool} (h : s.memOk) : (s.waitDepart va isGo).memOk := by
  unfold State.waitDepart
  exact h.updMy

theorem State.memOk.route {va : Word} {size : Nat} {how : How} {plain : Bool} {k : Home → Eff} (h : s.memOk)
    (hk : ∀ (x : Home), (k x).memOk) : (route s va size how plain k).memOk := by
  unfold Machine.route
  dsimp only
  split
  · exact .trap
  · split
    · exact .trap
    · split
      · exact .trap
      · split
        · exact .trap
        · exact h.askSpread.hold
        · split
          · split
            · exact .wait
            · exact hk _
          · split
            · split
              · split
                · exact .wait
                · exact hk _
              · exact .trap
            · split
              · exact h.waitDepart.hold
              · split
                · exact .wait
                · exact hk _

theorem State.memOk.checkOwn {va : Word} {size : Nat} {write : Bool} {k : State → Nat → Word → Eff} (h : s.memOk)
    (hk : ∀ (t : State), t.memOk → ∀ (x : Nat) (y : Word), (k t x y).memOk) : (checkOwn s va size write k).memOk := by
  unfold Machine.checkOwn
  dsimp only
  split
  · exact hk _ (h.check.fst ‹_›) _ _
  · exact ((h.check.fst ‹_›).parkThread).hold
  · exact .trap
  · exact .trap
  · exact .trap
  · exact .wait
  · exact .trap

theorem State.memOk.windowWrite {l : Loc} {f o n v : Nat} (h : s.memOk) : (s.windowWrite l f o n v).memOk := by
  unfold State.windowWrite
  exact h.updFrame

theorem State.memOk.fillScale {hm : Home} {pte : Word} {base size : Nat} {va : Word} {phys : Nat} (h : s.memOk) :
    (s.fillScale hm pte base size va phys).memOk := by
  unfold State.fillScale
  split
  · split
    · exact h
    · exact h.cachePage
  · exact h

theorem State.memOk.atomic {op : AmoOp} {dbl : Bool} {hm : Home} {va : Word} {phys b d n : Nat} {t : State}
    (h : s.memOk) (e : s.atomic op dbl hm va phys b d = some (t, n)) : t.memOk := by
  unfold State.atomic at e
  dsimp only at e
  split at e <;> cases e
  exact h.writeAt

/-! ### Areas -/

theorem State.memOk.putDwords {a : Nat} {ws : List Word} (h : s.memOk) : (s.putDwords a ws).memOk := by
  unfold State.putDwords
  exact h.poke
theorem State.memOk.setDeque {l : Loc} {ts : List Machine.Task} (h : s.memOk) : (s.setDeque l ts).memOk := by
  unfold State.setDeque
  exact h.updCore.foldl fun t a h => h.putDwords

theorem State.memOk.writeRing {a : Nat} {ps : List Pkt} (h : s.memOk) : (s.writeRing a ps).memOk := by
  unfold State.writeRing
  refine h.foldl fun t a1 h => ?_
  split
  · exact h.putDwords
  · exact h

theorem State.memOk.setSpill {l : Loc} {ps : List Pkt} (h : s.memOk) : (s.setSpill l ps).memOk := by
  unfold State.setSpill
  exact h.updCore.writeRing
theorem State.memOk.setNispill {l : Loc} {ps : List Pkt} (h : s.memOk) : (s.setNispill l ps).memOk := by
  unfold State.setNispill
  exact h.updCore.writeRing

/-! ### Loads and stores -/

theorem State.memOk.reply {d : Option (Fin 16)} {v : Word} {bad : Bool} {acq : Option Scope} (h : s.memOk) :
    (s.reply d v bad acq).memOk := by
  unfold State.reply
  split
  · exact h.send
  · exact h

theorem State.memOk.emptyLoad {d : Option (Fin 16)} (h : s.memOk) : (s.emptyLoad d).memOk := by
  unfold State.emptyLoad
  split
  · exact h.emptyDest
  · exact h

theorem State.memOk.drained {k : State → Eff} (h : s.memOk) (hk : ∀ (t : State), t.memOk → (k t).memOk) :
    (drained s k).memOk := by
  unfold Machine.drained
  split
  · exact h.drain.hold
  · exact hk _ h

theorem State.memOk.partly {va : Word} {n : Nat} {phys : Option Nat} (h : s.memOk) : (s.partly va n phys).memOk := by
  unfold State.partly
  split
  · exact h.drain.hold
  · exact .wait

theorem State.memOk.loadAt {size : Nat} {sgn : Bool} {d : Reg} {acq : Option Scope} {va : Word} (h : s.memOk) :
    (loadAt s size sgn d acq va).memOk := by
  unfold Machine.loadAt
  refine h.route fun hm => ?_
  split
  · exact .wait
  · split
    · exact h.put fun t h => h.done
    · extract_lets back go
      have hgo (own : Option Nat) (t : State) (h : t.memOk) : (go t own).memOk := by
        unfold go
        split
        · exact h.emptyLoad.reply.done
        · exact h.partly
        · split
          · split
            · exact h.emptyLoad.reply.done
            · exact h.emptyLoad.send.done
          · exact h.emptyLoad.send.done
      split
      · exact h.checkOwn fun t h p _ => hgo (some p) t h
      · exact hgo none s h

theorem State.memOk.enterStore {e : SEntry} (h : s.memOk) : (s.enterStore e).memOk := by
  unfold State.enterStore
  exact State.memOk.addPathAt h
theorem State.memOk.enterTask {e : SEntry} (h : s.memOk) : (s.enterTask e).memOk := by
  unfold State.enterTask
  exact State.memOk.addPathAt h

theorem State.memOk.buffer {e : SEntry} (h : s.memOk) : (s.buffer e).memOk := by
  unfold State.buffer
  split
  · exact h.enterTask
  · exact h.enterStore

theorem State.memOk.queueStore {e : SEntry} {k : State → Eff} (h : s.memOk)
    (hk : ∀ (t : State), t.memOk → (k t).memOk) : (queueStore s e k).memOk := by
  unfold Machine.queueStore
  split
  · exact hk _ h.buffer
  · exact h.drain.hold
  · exact .wait

theorem State.memOk.storeAt {size : Nat} {v : Word} {rel : Option Scope} {va : Word} (h : s.memOk) :
    (storeAt s size v rel va).memOk := by
  unfold Machine.storeAt
  dsimp only
  refine h.route fun x => ?_
  split
  · exact h.windowWrite.updMy.keep
  · split
    · exact h.checkOwn fun t h x1 _ => h.queueStore fun t1 h => h.done
    · exact h.queueStore fun t h => h.done

theorem State.memOk.loadOp {size : Nat} {sgn : Bool} {d a : Reg} {ta : Bool} {disp : BitVec 12} (h : s.memOk) :
    (loadOp s size sgn d a ta disp).memOk := by
  unfold Machine.loadOp
  exact h.src fun x t h => h.loadAt
theorem State.memOk.storeOp {size : Nat} {d a : Reg} {ta : Bool} {disp : BitVec 12} (h : s.memOk) :
    (storeOp s size d a ta disp).memOk := by
  unfold Machine.storeOp
  exact h.src fun x t h => h.src fun x1 t1 h => h.storeAt

theorem State.memOk.pending {ask : Eff} {got : Ans → State → Eff} (h : s.memOk) (hask : ask.memOk)
    (hgot : ∀ (x : Ans) (t : State), t.memOk → (got x t).memOk) : (pending s ask got).memOk := by
  unfold Machine.pending
  split
  · exact hask
  · exact hask
  · exact .wait
  · exact hgot _ _ h

theorem State.memOk.ask {k : PKind} {hm : Home} {va : Word} (h : s.memOk) : (ask s k hm va).memOk := by
  unfold Machine.ask
  exact h.send.updMy.hold

theorem State.memOk.poisonDest {d : Reg} {k : State → Eff} (h : s.memOk) (hk : ∀ (t : State), t.memOk → (k t).memOk) :
    (poisonDest s d k).memOk := by
  unfold Machine.poisonDest
  dsimp only
  split
  · split
    · exact hk _ (h.updMy.foldl fun t a h => h.updFrame.send)
    · exact .wait
  · exact hk _ h

theorem State.memOk.deliverAns {d : Reg} {a : Ans} (h : s.memOk) : (Machine.deliver s d a).memOk := by
  cases a with
  | val v => exact h.put fun t h => h.done
  | poison => exact h.poisonDest fun t h => h.done
  | fail c va => exact .trap
  | bytes b | vec v | again va | buffer va b | restore va y => exact h.done

theorem State.memOk.ldfOwn {t : DecTy} {d : Reg} {va : Word} (h : s.memOk) : (ldfOwn s t d va).memOk := by
  unfold Machine.ldfOwn
  dsimp only
  split
  · split
    · exact .trap
    · split
      · split
        · exact (h.check.fst ‹_›).put fun t1 h => h.done
        · exact (h.check.fst ‹_›).poisonDest fun t1 h => h.done
      · exact (h.check.fst ‹_›).partly
      · split
        · split
          · exact (h.check.fst ‹_›).put fun t1 h => h.done
          · exact (h.check.fst ‹_›).poisonDest fun t1 h => h.done
        · exact .wait
  · exact h.checkOwn fun t1 h _ _ => h.done

theorem State.memOk.ldfOp {t : DecTy} {d a : Reg} {ta : Bool} {disp : BitVec 12} (h : s.memOk) :
    (ldfOp s t d a ta disp).memOk := by
  unfold Machine.ldfOp
  dsimp only
  refine h.pending (h.src fun x t1 h => ?_) fun x t1 h => ?_
  · split
    · exact .trap
    · refine h.route fun x1 => ?_
      split
      · exact .wait
      · split
        · exact h.ldfOwn
        · exact h.ask
  · split
    · split
      · exact h.drain.hold
      · exact h.route fun x => h.ask
    · exact h.deliverAns

theorem State.memOk.stfBuffer {va : Word} {bs : List Byte} {hm : Home} {phys : Option Nat} (h : s.memOk) :
    (stfBuffer s va bs hm phys).memOk := by
  unfold Machine.stfBuffer
  exact h.queueStore fun t h => h.done

theorem State.memOk.stfFar {t : DecTy} {hm : Home} {va y : Word} (h : s.memOk) : (stfFar s t hm va y).memOk := by
  unfold Machine.stfFar
  split
  · exact h.ask
  · split
    · exact .wait
    · exact h.addPathAt.ask

theorem State.memOk.stfOp {t : DecTy} {d a : Reg} {ta : Bool} {disp : BitVec 12} (h : s.memOk) :
    (Machine.stfOp s t d a ta disp).memOk := by
  unfold Machine.stfOp
  dsimp only
  refine h.pending (h.src fun x t h => h.src fun y t h => ?_) fun w t h => ?_
  · split
    · exact .trap
    · refine h.route fun hm => ?_
      split
      · split
        · split
          · exact .trap
          · exact (h.check.fst ‹_›).partly
          · split
            · exact (h.check.fst ‹_›).stfBuffer
            · exact (h.check.fst ‹_›).record.done
        · exact h.checkOwn fun t h _ _ => h.done
      · exact h.stfFar
  · split
    · exact .trap
    · exact h.route fun hm => h.stfBuffer
    · split
      · exact h.drain.hold
      · exact h.route fun hm => h.stfFar
    · exact h.done

/-! ### Atomics -/

theorem State.memOk.amoOp {op : AmoOp} {dbl : Bool} {d a b : Reg} (h : s.memOk) :
    (Machine.amoOp s op dbl d a b).memOk := by
  unfold Machine.amoOp
  refine h.pending (h.src fun va t h => h.src fun y t h => ?_) fun w t h => h.deliverAns
  extract_lets go
  have hgo (z : Word) (t : State) (h : t.memOk) : (go z t).memOk := by
    refine h.route fun hm => ?_
    split
    · exact .trap
    · refine h.drained fun t h => ?_
      split
      · exact .wait
      · split
        · exact .wait
        · split
          · refine h.checkOwn fun t h p _ => ?_
            split
            · exact (h.atomic ‹_›).addPath.put fun t h => h.done
            · exact h.poisonDest fun t h => h.done
          · exact h.addPathAt.ask
  split
  · exact h.src hgo
  · exact hgo 0 t h

theorem State.memOk.amopOp {op : AmoOp} {dbl : Bool} {a b : Reg} (h : s.memOk) : (amopOp s op dbl a b).memOk := by
  unfold Machine.amopOp
  dsimp only
  refine h.src fun x t h => h.src fun x1 t1 h => h.route fun x2 => ?_
  split
  · exact .trap
  · refine h.drained fun t2 h => ?_
    split
    · exact h.checkOwn fun t3 h _ _ => h.addPathAt.send.done
    · exact h.addPathAt.send.done

/-! ### Tasks -/

theorem State.memOk.updQueue {l : Loc} {n : Nat} {f : RQueue → RQueue} (h : s.memOk) : (s.updQueue l n f).memOk := by
  unfold State.updQueue
  exact h.updCore

theorem State.memOk.decrement {l : Loc} {a : Actor} {va : Word} (h : s.memOk) : (s.decrement l a va).1.memOk := by
  unfold State.decrement
  dsimp only
  split
  · split
    · exact h.check.fst ‹_›
    · split
      · exact h.check.fst ‹_›
      · split
        · exact (h.check.fst ‹_›).writeAt
        · split
          · exact ((((h.check.fst ‹_›).writeAt).poke).updQueue).countUp
          · split
            · exact (((((((h.check.fst ‹_›).check).fst ‹_›).writeAt).poke).updQueue).countUp).writeAt
            · exact ((h.check.fst ‹_›).check).fst ‹_›
  · exact h.check.fst ‹_›

theorem State.memOk.searchLevel {l : Loc} {a : Actor} {lv : Nat} {r r2 : List RTag} (h : s.memOk) :
    (searchLevel s l a lv r r2).1.memOk := by
  induction r generalizing s r2 with
  | nil => exact h
  | cons t r ih =>
    simp only [searchLevel]
    split
    · split
      · exact h.updQueue
      · exact ih h
    · split
      · have ht := h.check.fst ‹_›
        split
        · exact ht
        · split
          · split
            · exact ht.updQueue
            · split
              · exact (ht.check.fst ‹_›).updQueue.writeAt
              · exact ht.check.fst ‹_›
          · exact ih ht
      · exact h.check.fst ‹_›

theorem State.memOk.searchReady {l : Loc} {a : Actor} {n : Nat} (h : s.memOk) : (searchReady s l a n).1.memOk := by
  induction n generalizing s with
  | zero => exact h
  | succ n ih =>
    simp only [searchReady]
    split
    · exact ih (h.searchLevel.fst ‹_›)
    · exact h.searchLevel

theorem State.memOk.takeFrom {v l : Loc} {i : Nat} (h : s.memOk) : (s.takeFrom v l i).1.memOk := by
  unfold State.takeFrom
  dsimp only
  split
  · exact h.setDeque
  · exact h

theorem State.memOk.search {l : Loc} {a : Actor} {spared : List Loc} (h : s.memOk) : (s.search l a spared).1.memOk := by
  unfold State.search
  split
  · split
    · exact (h.searchReady.fst ‹_›).takeFrom
    · split
      · exact (h.searchReady.fst ‹_›).takeFrom
      · split <;> exact h.searchReady.fst ‹_›
  · exact h.searchReady

theorem State.memOk.become {k : Nat} {t : Machine.Task} (h : s.memOk) : (s.become k t).memOk := by
  unfold State.become
  dsimp only
  refine State.memOk.updFrame ?_
  split
  · exact h.drain.updSlot
  · exact h.drain

theorem State.memOk.wakeNext {id : W32} {m : Nat} (h : s.memOk) : (s.wakeNext id m).memOk := by
  unfold State.wakeNext
  exact h.wake

/-! ### Tiles -/

theorem State.memOk.updTile {l : Loc} {n : Nat} {f : Tile → Tile} (h : s.memOk) : (s.updTile l n f).memOk := by
  unfold State.updTile
  exact h.updCore
theorem State.memOk.freeTile {l : Loc} {n : Nat} (h : s.memOk) : (s.freeTile l n).memOk := by
  unfold State.freeTile
  exact h.updTile.wake

theorem State.memOk.tileWait {n : Nat} (_h : s.memOk) : (tileWait s n).memOk := by
  unfold Machine.tileWait
  split
  · exact .trap
  · exact .waitFor

theorem State.memOk.withTile {a : Reg} {k : Nat → Tile → State → Eff} (h : s.memOk)
    (hk : ∀ (x : Nat) (y : Tile) (t : State), t.memOk → (k x y t).memOk) : (withTile s a k).memOk := by
  unfold Machine.withTile
  refine h.anchored fun _ => h.src fun x1 t h => ?_
  split
  · exact hk _ _ _ h
  · exact .trap

theorem State.memOk.execTileFree {a : Reg} (h : s.memOk) : Kept (execTileFree a s) := by
  unfold Machine.execTileFree
  refine h.issue fun t h => h.withTile fun x y t1 h => ?_
  split
  · exact h.tileWait
  · exact h.freeTile.done

theorem State.memOk.abortTile {l : Loc} {n : Nat} (h : s.memOk) : (s.abortTile l n).memOk := by
  unfold State.abortTile
  exact h

theorem State.memOk.execTileMark {a : Reg} {st : BitVec 3} (h : s.memOk) : Kept (execTileMark a st s) := by
  unfold Machine.execTileMark
  dsimp only
  refine h.issue fun t h => h.withTile fun x y t1 h => ?_
  split
  · exact h.tileWait
  · refine State.memOk.done ?_
    split
    · exact h.updTile.wake
    · exact h.updTile

theorem State.memOk.execTileAlloc {d a b : Reg} (h : s.memOk) : Kept (execTileAlloc d a b s) := by
  unfold Machine.execTileAlloc
  dsimp only
  refine h.issue fun t h => h.anchored fun _ => h.src fun x1 t1 h => h.src fun x2 t2 h => ?_
  split
  · exact .trap
  · split
    · exact .trap
    · split
      · exact .trap
      · split
        · exact .wait
        · split
          · exact ((h.check.fst ‹_›).parkThread).hold
          · split
            · exact .trap
            · split
              · exact (h.check.fst ‹_›).put fun t3 h => h.done
              · exact ((h.check.fst ‹_›).updTile).put fun t3 h => h.done
          · exact .trap
          · exact .trap

/-! ### Synchronisation -/

theorem State.memOk.putBarrier {b : Barrier} (h : s.memOk) : (s.putBarrier b).memOk := by
  unfold State.putBarrier
  exact h

theorem State.memOk.arriveBarrier {sc : Scope} {n : Nat} {drop : Bool} {k : State → Eff} (h : s.memOk)
    (hk : ∀ t : State, t.memOk → (k t).memOk) : (Machine.arrive s sc n drop k).memOk := by
  unfold Machine.arrive
  split
  · split
    · exact hk _ h.putBarrier
    · exact .trap
  · exact .trap

theorem State.memOk.barrierWait {sc : Scope} {n : Nat} (h : s.memOk) : (barrierWait s sc n).memOk := by
  unfold Machine.barrierWait
  split
  · exact .waitFor
  · exact h.done

theorem State.memOk.execBarSync {sc : Scope} {id : BitVec 3} (h : s.memOk) : Kept (execBarSync sc id s) := by
  unfold Machine.execBarSync
  refine h.issue fun t h => h.anchored fun _ => ?_
  split
  · exact h.barrierWait
  · exact h.arriveBarrier fun t1 h => h.updMy.hold

theorem State.memOk.mapWindows {f : RWindow → RWindow} (h : s.memOk) : (s.mapWindows f).memOk := by
  unfold State.mapWindows
  exact h
theorem State.memOk.closeSteps {path : List Home} {m : Nat} (h : s.memOk) : (s.closeSteps path m).memOk := by
  unfold State.closeSteps
  exact h.mapWindows
theorem State.memOk.fenceDone {sc : Scope} (h : s.memOk) : (fenceDone s sc).memOk := by
  unfold Machine.fenceDone
  exact h.updSlot.updMy.done

theorem State.memOk.execFence {sc : Scope} (h : s.memOk) : Kept (execFence sc s) := by
  unfold Machine.execFence
  dsimp only
  refine h.issue fun t h => h.drained fun t1 h => ?_
  split
  · split
    · exact .wait
    · exact h.fenceDone
  · split
    · exact .wait
    · split
      · exact h.fenceDone
      · refine ((State.memOk.foldl ?_ fun t2 a h => h.send).updMy).hold
        split
        · exact h.closeSteps
        · exact h

theorem State.memOk.putGroup {g : FGroup} (h : s.memOk) : (s.putGroup g).memOk := by
  unfold State.putGroup
  exact h

theorem State.memOk.execFlkJoin {grp : BitVec 4} {a b : Reg} (h : s.memOk) : Kept (execFlkJoin grp a b s) := by
  unfold Machine.execFlkJoin
  dsimp only
  refine h.issue fun t h => h.anchored fun _ => h.src fun x1 t1 h => h.src fun x2 t2 h => ?_
  split
  · exact .trap
  · exact h.putGroup.done

theorem State.memOk.execFlkLeave {grp : BitVec 4} (h : s.memOk) : Kept (execFlkLeave grp s) := by
  unfold Machine.execFlkLeave
  refine h.issue fun t h => h.anchored fun _ => ?_
  split
  · split
    · exact h.putGroup.done
    · exact .trap
  · exact .trap

theorem State.memOk.execFlkTimer {grp : BitVec 4} {a : Reg} (h : s.memOk) : Kept (execFlkTimer grp a s) := by
  unfold Machine.execFlkTimer
  refine h.issue fun t h => h.anchored fun _ => h.src fun x1 t1 h => ?_
  split
  · split
    · exact h.putGroup.done
    · exact .trap
  · exact .trap

theorem State.memOk.execFlkLd {grp : BitVec 4} {a b : Reg} (h : s.memOk) : Kept (execFlkLd grp a b s) := by
  unfold Machine.execFlkLd
  refine h.issue fun t h => h.anchored fun _ => ?_
  split
  · refine h.src fun va t h => h.src fun len t h => h.src fun hd t h => ?_
    split
    · exact .trap
    · extract_lets tile id marked go
      have hgo (g : FGroup) (k : Nat) (hm : Home) : (go g k hm).memOk := by
        unfold go
        dsimp only
        split
        · exact .trap
        · split
          · exact .trap
          · split
            · exact h.tileWait
            · split
              · exact .wait
              · exact State.memOk.done h
      split
      · exact .trap
      · split
        · exact .trap
        · split
          · exact .trap
          · split
            · exact .trap
            · split
              · exact .trap
              · exact h.askSpread.hold
              · exact hgo _ _ _
  · exact .trap

theorem State.memOk.askLease {p : Nat} (h : s.memOk) : (s.askLease p).memOk := by
  unfold State.askLease
  exact h.updLease

theorem State.memOk.execLeaseAcq (h : s.memOk) : Kept (execLeaseAcq s) := by
  unfold Machine.execLeaseAcq
  dsimp only
  refine h.issue fun t h => h.anchored fun _ => ?_
  split
  · exact h.done
  · split
    · exact h.askLease.grant.done
    · exact h.askLease.grant.updMy.hold

theorem State.memOk.execLeaseTry {d : Reg} (h : s.memOk) : Kept (execLeaseTry d s) := by
  unfold Machine.execLeaseTry
  dsimp only
  refine h.issue fun t h => h.anchored fun _ => ?_
  split
  · exact h.put fun t1 h => h.done
  · split
    · exact h.updLease.grant.put fun t1 h => h.done
    · exact h.put fun t1 h => h.done

/-! ### Fp -/

theorem State.memOk.fusedOp {f : Fmt} {negP negD : Bool} {mode : Nat} {d a b : Reg} {ta tb : Bool} (h : s.memOk) :
    (fusedOp s f negP negD mode d a b ta tb).memOk := by
  unfold Machine.fusedOp
  exact h.src fun x t h => h.src fun x1 t1 h => h.src fun x2 t2 h => h.put fun t3 h => h.done

/-! ### Vectors -/

theorem State.memOk.vecTwo {t : VTy} {d : Fin 16} {a b : VSrc} {k : Fin 8} {f : Nat → Nat → Nat → Nat} (h : s.memOk) :
    (vecTwo s t d a b k f).memOk := by
  unfold Machine.vecTwo
  exact h.anchored fun _ => h.vsrc fun x1 => h.vsrc fun x2 => h.vold fun x3 => h.vput fun t1 h => h.done
theorem State.memOk.vecMac {t : VTy} {d : Fin 16} {a b : VSrc} {k : Fin 8} {f : Nat → Nat → Nat → Nat} (h : s.memOk) :
    (vecMac s t d a b k f).memOk := by
  unfold Machine.vecMac
  exact h.anchored fun _ => h.vsrc fun x1 => h.vsrc fun x2 => h.vread fun x3 => h.vput fun t1 h => h.done
theorem State.memOk.vecOne {t : VTy} {d : Fin 16} {a : VSrc} {k : Fin 8} {f : Nat → Nat} (h : s.memOk) :
    (vecOne s t d a k f).memOk := by
  unfold Machine.vecOne
  exact h.anchored fun _ => h.vsrc fun x1 => h.vold fun x2 => h.vput fun t1 h => h.done
theorem State.memOk.vecCmp {t : VTy} {d : Fin 8} {a b : VSrc} {k : Fin 8} {p : Nat → Nat → Bool} (h : s.memOk) :
    (vecCmp s t d a b k p).memOk := by
  unfold Machine.vecCmp
  exact h.anchored fun _ => h.vsrc fun x1 => h.vsrc fun x2 => h.writeM.done

/-! ### Vector accesses -/

theorem State.memOk.stopLane {d : Option (Fin 16)} {j : Nat} {acc : BitVec 512} (h : s.memOk) :
    (s.stopLane d j acc).memOk := by
  unfold State.stopLane
  exact h.updMy
theorem State.memOk.atLane {j : Nat} {acc : BitVec 512} (h : s.memOk) : (s.atLane j acc).memOk := by
  unfold State.atLane
  exact h.updMy

theorem State.memOk.partlyAt {va : Word} {n : Nat} {phys : Option Nat} (h : s.memOk) :
    (s.partlyAt va n phys).memOk := by
  unfold State.partlyAt
  split
  · exact h.hold
  · exact h.partly

theorem State.memOk.laneRoute {d : Option (Fin 16)} {j : Nat} {acc : BitVec 512} {va : Word} {size : Nat}
    {k : Home → Eff} (h : s.memOk) (hk : ∀ (x : Home), (k x).memOk) : (laneRoute s d j acc va size k).memOk := by
  unfold Machine.laneRoute
  split
  · exact h.askSpread.atLane.hold
  · split
    · exact h.stopLane.trapOn
    · exact h.atLane.hold
    · refine h.route fun x => ?_
      split
      · exact .trap
      · exact hk _

theorem State.memOk.laneOwn {d : Option (Fin 16)} {j : Nat} {acc : BitVec 512} {va : Word} {size : Nat} {write : Bool}
    {k : State → Nat → Eff} (h : s.memOk) (hk : ∀ (t : State), t.memOk → ∀ (x : Nat), (k t x).memOk) :
    (laneOwn s d j acc va size write k).memOk := by
  unfold Machine.laneOwn
  dsimp only
  split
  · exact hk _ (h.check.fst ‹_›) _
  · exact (((h.check.fst ‹_›).stopLane).parkThread).hold
  · exact h.stopLane.trapOn
  · exact h.stopLane.trapOn
  · exact h.stopLane.trapOn
  · exact h.atLane.hold
  · exact h.stopLane.trapOn

theorem State.memOk.loadLanes {size : Nat} {d : Fin 16} {k : Fin 8} {addr : Nat → Word} {l : List Nat}
    {x : BitVec 512} (h : s.memOk) : (loadLanes s size d k addr l x).memOk := by
  induction l generalizing s x with
  | nil =>
    simp only [loadLanes]
    split
    · exact h.atLane.hold
    · exact h.vput fun t h => h.done
  | cons j r ih =>
    simp only [loadLanes]
    split
    · exact ih h
    · refine h.laneRoute fun hm => ?_
      split
      · refine h.laneOwn fun t h p => ?_
        split
        · exact ih h
        · exact h.atLane.partlyAt
        · split
          · exact h.atLane.hold
          · split
            · exact h.stopLane.trapOn
            · exact ih h
      · split
        · exact ih h
        · exact h.atLane.partlyAt
        · exact h.send.atLane.hold

theorem State.memOk.vecLoad {size : Nat} {d : Fin 16} {k : Fin 8} {addr : Nat → Word} (h : s.memOk) :
    (vecLoad s size d k addr).memOk := by
  unfold Machine.vecLoad
  split
  · exact h.trapOn
  · split
    · exact .waitFor
    · exact .wait
    · refine h.vold fun x => ?_
      split
      exact h.loadLanes

theorem State.memOk.storeLanes {size : Nat} {x : BitVec 512} {k : Fin 8} {addr : Nat → Word} {l : List Nat}
    (h : s.memOk) : (storeLanes s size x k addr l).memOk := by
  induction l generalizing s with
  | nil => exact h.done
  | cons j r ih =>
    simp only [storeLanes]
    split
    · exact ih h
    · refine h.laneRoute fun hm => ?_
      split
      · refine h.laneOwn fun t h p => ?_
        split
        · exact ih h.buffer
        · exact h.atLane.drain.hold
        · exact h.atLane.hold
      · split
        · exact ih h.buffer
        · exact h.atLane.drain.hold
        · exact h.atLane.hold

theorem State.memOk.vecStore {size : Nat} {d : Fin 16} {k : Fin 8} {addr : Nat → Word} (h : s.memOk) :
    (vecStore s size d k addr).memOk := by
  unfold Machine.vecStore
  refine h.vread fun x => ?_
  split
  exact h.storeLanes

theorem State.memOk.vecBase {a : Fin 16} {b : Reg} {k : Word → Word → State → Eff} (h : s.memOk)
    (hk : ∀ (x y : Word) (t : State), t.memOk → (k x y t).memOk) : (vecBase s a b k).memOk := by
  unfold Machine.vecBase
  exact h.anchored fun _ => h.src fun x1 t h => h.src fun x2 t1 h => hk _ _ _ h
theorem State.memOk.vecIndex {a b : Fin 16} {k : Word → BitVec 512 → State → Eff} (h : s.memOk)
    (hk : ∀ (x : Word) (y : BitVec 512) (t : State), t.memOk → (k x y t).memOk) : (vecIndex s a b k).memOk := by
  unfold Machine.vecIndex
  exact h.anchored fun _ => h.src fun x1 t h => h.vread fun x2 => hk _ _ _ h

theorem State.memOk.withChunk {a : Fin 16} {b : Reg} {write : Bool} {k : State → Nat → Eff} (h : s.memOk)
    (hk : ∀ (t : State), t.memOk → ∀ (x : Nat), (k t x).memOk) : (withChunk s a b write k).memOk := by
  unfold Machine.withChunk
  dsimp only
  refine h.vecBase fun x y t h => ?_
  split
  · exact .trap
  · split
    · exact h.tileWait
    · split
      · exact .wait
      · split
        · exact .trap
        · split
          · exact .trap
          · exact hk _ h _

theorem State.memOk.execVldt {d a : Fin 16} {b : Reg} {k : Fin 8} (h : s.memOk) : Kept (execVldt d a b k s) := by
  unfold Machine.execVldt
  dsimp only
  refine h.issue fun t h => h.withChunk fun t1 h x => ?_
  split
  · exact h.drain.hold
  · split
    · exact .wait
    · split
      · exact .trap
      · exact h.vold fun x1 => h.vput fun t2 h => h.done

theorem State.memOk.tileStores {p : Nat} {x : BitVec 512} {k : Fin 8} (h : s.memOk) : (tileStores s p x k).memOk := by
  unfold Machine.tileStores
  dsimp only
  refine h.foldl fun t a h => ?_
  split
  · exact h.buffer
  · exact h

theorem State.memOk.execVstt {d a : Fin 16} {b : Reg} {k : Fin 8} (h : s.memOk) : Kept (execVstt d a b k s) := by
  unfold Machine.execVstt
  refine h.issue fun t h => h.withChunk fun t1 h x => h.vread fun x1 => ?_
  split
  · exact h.tileStores.done
  · exact h.drain.hold
  · exact .wait

theorem State.memOk.vpage {r : Reader} {va : Word} {n : Nat} {locks : Bool} (h : s.memOk) :
    (s.vpage r va n locks).1.memOk := by
  unfold State.vpage
  dsimp only
  split
  · exact h.findHome.fst ‹_›
  · split <;> exact ((h.findHome.fst ‹_›).through).fst ‹_›

theorem State.memOk.elemBytes {r : Reader} {g : VPage} {a va : Word} {n : Nat} (h : s.memOk) :
    (s.elemBytes r g a va n).1.memOk := by
  induction n generalizing s va with
  | zero => exact h
  | succ n ih =>
    simp only [State.elemBytes]
    split
    · exact h.vpage.fst ‹_›
    · have ht := h.vpage.fst ‹_›
      split
      · exact ht
      · split
        · exact ht
        · split
          · exact (ih ht).fst ‹_›
          · exact ih ht

theorem State.memOk.vldfLanes {t : DecTy} {mode : Nat} {r : Reader} {va : Word} {act : BitVec 16} {g : VPage}
    {l : List Nat} {x : BitVec 512} (h : s.memOk) : (vldfLanes s t mode r va act g l x).1.memOk := by
  induction l generalizing s x with
  | nil => exact h
  | cons j l ih =>
    simp only [Machine.vldfLanes]
    split
    · exact ih h
    · split
      · exact h
      · split
        · exact h.vpage.fst ‹_›
        · have hp := h.vpage.fst ‹_›
          split
          · exact hp
          · split
            · exact hp
            · split
              · exact hp.elemBytes.fst ‹_›
              · have he := hp.elemBytes.fst ‹_›
                split
                · exact he.fillScale
                · split <;> split
                  · exact he.fillScale
                  · split
                    · exact he.fillScale
                    · exact ih he.fillScale
                  · exact he.fillScale
                  · split
                    · exact he.fillScale
                    · exact ih he.fillScale

theorem State.memOk.vldfRead {t : DecTy} {mode : Nat} {r : Reader} {va : Word} {act : BitVec 16} {old : BitVec 512}
    (h : s.memOk) : (vldfRead s t mode r va act old).1.memOk := by
  unfold Machine.vldfRead
  split
  · split
    · split <;> exact h.findHome.fst ‹_›
    · exact h.findHome.fst ‹_›
  · split
    · exact h.vpage.fst ‹_›
    · split
      · exact h.vpage.fst ‹_›
      · exact (h.vpage.fst ‹_›).vldfLanes

theorem State.memOk.vldfOp {t : DecTy} {d a : Fin 16} {b : Reg} {k : Fin 8} (h : s.memOk) :
    (vldfOp s t d a b k).memOk := by
  unfold Machine.vldfOp
  refine h.vecBase fun x y s h => ?_
  extract_lets va act last ask
  have hask : ask.memOk := by
    unfold ask
    refine Eff.memOk.ite .trap (h.route fun hm => ?_)
    refine Eff.memOk.ite h.askSpread.hold (h.vold fun z => Eff.memOk.ite (Eff.memOk.ite .wait ?_) ?_)
    · split
      · exact (h.vldfRead.fst ‹_›).vput fun t h => h.done
      · exact (h.vldfRead.fst ‹_›).partly
      · exact .trap
      · exact .trap
      · exact .wait
      · exact (h.vldfRead.fst ‹_›).parkThread.hold
    · exact State.memOk.hold h.send.updMy
  split
  · exact h.vold fun z => h.vput fun t h => h.done
  · exact .trap
  · exact Eff.memOk.ite h.drain.hold hask
  · split
    · exact .waitFor
    · exact .wait
    · exact hask

/-! ### Performing requests -/

theorem State.memOk.occurs {due : Bool} {t : State} (h : t.memOk) (hs : s.memOk) : Kept (occurs due t s) := by
  unfold Machine.occurs
  refine State.memOk.next ?_
  split
  · exact h
  · exact hs

theorem State.memOk.dropPkt {k : Nat} (h : s.memOk) : (s.dropPkt k).memOk := by
  unfold State.dropPkt
  exact h
theorem State.memOk.keepPkt {k : Nat} {x : Option Pkt} (h : s.memOk) : (s.keepPkt k x).memOk := by
  unfold State.keepPkt
  split <;> exact h

theorem State.memOk.answer {p : Pkt} {a : Ans} (h : s.memOk) : (s.answer p a).memOk := by
  unfold State.answer
  dsimp only
  split
  · exact h.updFrame
  · exact h

theorem State.memOk.wakeLane {p : Pkt} (h : s.memOk) : (s.wakeLane p).memOk := by
  unfold State.wakeLane
  exact h.wake

theorem State.memOk.arriveG {p : Pkt} {d : Fin 16} {v : Word} {bad : Bool} (h : s.memOk) :
    (s.arriveG p d v bad).memOk := by
  unfold State.arriveG
  dsimp only
  refine State.memOk.foldl ?_ fun t a h => h.send
  split
  · exact h.updFrame
  · exact h

theorem State.memOk.sendReply {p : Pkt} {d : Option (Fin 16)} {v : Word} {bad : Bool} {acq : Option Scope}
    (h : s.memOk) : (s.sendReply p d v bad acq).memOk := by
  unfold State.sendReply
  split
  · exact h.send
  · exact h

theorem State.memOk.recordPkt {p : Pkt} {w : Why} {va : Word} (h : s.memOk) : (s.recordPkt p w va).memOk := by
  unfold State.recordPkt
  exact h.record

theorem State.memOk.failLane {p : Pkt} {d : Fin 16} {j : Nat} {c : Cause} {va : Word} (h : s.memOk) :
    (s.failLane p d j c va).memOk := by
  unfold State.failLane
  dsimp only
  split
  · exact h.updFrame.wakeLane
  · exact h

theorem State.memOk.tileBack {l : Loc} {n status : Nat} (h : s.memOk) : (s.tileBack l n status).memOk := by
  unfold State.tileBack
  dsimp only
  split
  · split
    · exact h.updTile.freeTile
    · exact h.updTile.wake
  · split
    · exact h.updTile.freeTile
    · exact h.updTile.wake

theorem State.memOk.endFlock {l : Loc} {tile gen lock status : Nat} (h : s.memOk) :
    (s.endFlock l tile gen lock status).memOk := by
  unfold State.endFlock
  dsimp only
  split
  · exact State.memOk.tileBack h
  · exact h

theorem State.memOk.failPkt {p : Pkt} {w : Why} {va : Word} (h : s.memOk) : (s.failPkt p w va).memOk := by
  unfold State.failPkt
  extract_lets s1
  have h1 : s1.memOk := by
    unfold s1
    split
    · exact h
    · exact h.recordPkt
  cases p.kind with
  | load size sgn d acq => exact h1.sendReply
  | amo | ldf | record => exact h1.answer
  | taskDec ret =>
    cases ret with
    | true => exact h.recordPkt.countDown.answer
    | false => exact h.recordPkt.countDown
  | joinInc => exact h.answer
  | lane d j size => exact h.failLane
  | vldf t act => exact h.answer.wakeLane
  | stf t v probe => exact h.recordPkt.answer
  | tlbInv n =>
    dsimp only
    split
    · exact h.updFrame
    · exact h
  | spread => exact h.recordPkt.spreadLoad
  | flock grp mem cnt len tile gen die => exact h.recordPkt.endFlock
  | store | word | post | joinDec | hot | hotTest | msg => exact h.recordPkt
  | marker | result | vresult | soloG | soloV | migrate | displace | ready => exact h

theorem State.memOk.parkPkt {p : Pkt} {hm : Home} {r : Reason} {base size : Nat} {va : Word} (h : s.memOk) :
    (s.parkPkt p hm r base size va).1.memOk := by
  unfold State.parkPkt
  dsimp only
  split
  · split
    · exact (h.park ‹_›).dropTask
    · exact h.park ‹_›
  · exact h

theorem State.memOk.forwardPkt {p : Pkt} {d : DieId} (h : s.memOk) : (s.forwardPkt p d).1.memOk := by
  unfold State.forwardPkt
  exact h.dropSpread

theorem State.memOk.stopPkt {p : Pkt} {va : Word} {x : HRes} (h : s.memOk) : (s.stopPkt p va x).1.memOk := by
  unfold State.stopPkt
  split
  · exact h.parkPkt
  · exact h.failPkt
  · exact h.failPkt
  · exact h.failPkt
  · exact h.forwardPkt
  · exact h
  · exact h
  · exact h

theorem State.memOk.withPlace {p : Pkt} {r : Req} {k : State → Nat → Word → Nat → Nat → State × Option Pkt}
    (h : s.memOk) (hk : ∀ (t : State), t.memOk → ∀ (x : Nat) (y : Word) (z w : Nat), (k t x y z w).1.memOk) :
    (s.withPlace p r k).1.memOk := by
  unfold State.withPlace
  split
  · exact hk _ ((h.check.fst ‹_›).countReq) _ _ _ _
  · exact (h.check.fst ‹_›).stopPkt

theorem State.memOk.performLoad {p : Pkt} {size : Nat} {sgn : Bool} {d : Option (Fin 16)} {acq : Option Scope}
    (h : s.memOk) : (s.performLoad p size sgn d acq).1.memOk := by
  unfold State.performLoad
  refine h.withPlace fun t h x _ _ _ => ?_
  split
  · exact h.failPkt
  · exact h.sendReply

theorem State.memOk.performStore {p : Pkt} {size : Nat} {v : Word} (h : s.memOk) :
    (s.performStore p size v).1.memOk := by
  unfold State.performStore
  refine h.withPlace fun t h x _ _ _ => ?_
  split
  · exact h.failPkt
  · exact h.writeAt

theorem State.memOk.performAtomic {p : Pkt} {op : AmoOp} {dbl : Bool} {b d : Word} (h : s.memOk) :
    (s.performAtomic p op dbl b d).1.memOk := by
  unfold State.performAtomic
  refine h.withPlace fun t h x y _ _ => ?_
  split
  · exact h.failPkt
  · split
    · exact (h.atomic ‹_›).answer
    · exact h.failPkt

theorem State.memOk.after {p : Pkt} {va : Word} {n : Nat} {phys : Option Nat} (h : s.memOk) :
    (s.after p va n phys).1.memOk := by
  unfold State.after
  split
  · exact h.answer.wakeLane
  · exact h

theorem State.memOk.performLdf {p : Pkt} {t : DecTy} (h : s.memOk) : (s.performLdf p t).1.memOk := by
  unfold State.performLdf
  refine h.withPlace fun s h a e b n => ?_
  have hf : (s.fillScale p.home e b n p.va a).memOk := h.fillScale
  dsimp only
  split
  · exact hf.failPkt
  · exact hf.answer
  · split
    · split
      · exact hf
      · split
        · exact hf.answer
        · exact hf.failPkt
    · split
      · exact hf
      · split
        · exact hf.answer
        · exact hf.failPkt
    · exact hf.after

theorem State.memOk.performStf {p : Pkt} {t : DecTy} {y : Word} {probe : Bool} (h : s.memOk) :
    (s.performStf p t y probe).1.memOk := by
  unfold State.performStf
  dsimp only
  refine h.withPlace fun t1 h x y1 z w => ?_
  split
  · exact h.fillScale.failPkt
  · exact h.fillScale.answer
  · split
    · exact h.fillScale.answer
    · split
      · exact h.fillScale
      · split
        · split
          · exact h.fillScale.answer
          · split
            · exact h.fillScale.failPkt
            · exact h.fillScale.writeAt.answer
        · exact h.fillScale.failPkt

theorem State.memOk.performWord {p : Pkt} {v : Word} (h : s.memOk) : (s.performWord p v).1.memOk := by
  unfold State.performWord
  dsimp only
  split
  · exact h.performStore
  · split
    · split
      · exact (h.findHome.fst ‹_›).performStore
      · exact h.findHome.fst ‹_›
    · exact (h.findHome.fst ‹_›).parkPkt
    · exact h.findHome.fst ‹_›
    · exact (h.findHome.fst ‹_›).failPkt
    · exact (h.findHome.fst ‹_›).failPkt
    · exact (h.findHome.fst ‹_›).failPkt
    · exact (h.findHome.fst ‹_›).failPkt

theorem State.memOk.performDec {p : Pkt} {ret : Bool} (h : s.memOk) : (s.performDec p ret).1.memOk := by
  unfold State.performDec
  dsimp only
  split
  · split
    · exact (((h.decrement.fst ‹_›).countDown).wakeNext).answer
    · exact ((h.decrement.fst ‹_›).countDown).wakeNext
  · split
    · exact ((h.decrement.fst ‹_›).countDown).answer
    · exact ((h.decrement.fst ‹_›).record).countDown
  · exact (h.decrement.fst ‹_›).failPkt
  · exact (h.decrement.fst ‹_›).stopPkt

theorem State.memOk.performJoin {p : Pkt} {up : Bool} (h : s.memOk) : (s.performJoin p up).1.memOk := by
  unfold State.performJoin
  dsimp only
  refine h.withPlace fun t h x _ _ _ => ?_
  split
  · exact h.failPkt
  · exact h.writeAt.answer

theorem State.memOk.performLane {p : Pkt} {d : Fin 16} {j size : Nat} (h : s.memOk) :
    (s.performLane p d j size).1.memOk := by
  unfold State.performLane
  dsimp only
  refine h.withPlace fun t h x _ _ _ => ?_
  split
  · exact h.failLane
  · split
    · exact h.updFrame.wakeLane
    · exact h

theorem State.memOk.performVldf {p : Pkt} {t : DecTy} {act : BitVec 16} (h : s.memOk) :
    (s.performVldf p t act).1.memOk := by
  unfold State.performVldf
  dsimp only
  split
  · exact (h.vldfRead.fst ‹_›).answer.wakeLane
  · exact (h.vldfRead.fst ‹_›).after
  · exact h.answer.wakeLane
  · exact h.answer.wakeLane
  · exact h.vldfRead.fst ‹_›
  · exact (h.vldfRead.fst ‹_›).parkPkt

theorem State.memOk.performInv {p : Pkt} (h : s.memOk) : (s.performInv p).memOk := by
  unfold State.performInv
  exact h.flushPage.updHome

theorem State.memOk.performSpread {p : Pkt} (h : s.memOk) : (s.performSpread p).1.memOk := by
  unfold State.performSpread
  dsimp only
  split
  · split
    · exact (h.check.fst ‹_›).failPkt
    · split
      · exact (h.check.fst ‹_›).spreadLoad
      · refine (h.check.fst ‹_›).withPlace fun t h x _ _ _ => ?_
        split
        · exact h.failPkt
        · exact h.spreadLoad
  · exact (h.check.fst ‹_›).parkPkt
  · exact (h.check.fst ‹_›).stopPkt

/-! ### The network -/

theorem State.memOk.performAt {k : Nat} {kind : PKind → Bool} {f : State → Pkt → State × Option Pkt} (h : s.memOk)
    (hf : ∀ (t : State), t.memOk → ∀ (x : Pkt), (f t x).1.memOk) : Kept (performAt k kind f s) := by
  unfold Machine.performAt
  dsimp only
  split
  · exact ((hf _ h.dropPkt _).keepPkt).occurs h
  · exact h.occurs h

theorem State.memOk.front (h : s.memOk) : s.front.1.memOk := by
  have hw : (s.word s.my.pc).1.memOk := h.word
  unfold State.front
  dsimp only
  split <;> rename_i e <;> rw [e] at hw
  · exact hw
  · exact hw.trapMy
  · exact hw.parkThread
  · exact hw

theorem State.memOk.execInstructionFetch {loc slot : Nat} (h : s.memOk) : Kept (execInstructionFetch loc slot s) := by
  unfold Machine.execInstructionFetch
  split
  · exact State.memOk.occurs (State.memOk.front h) h
  · exact h.occurs h

theorem State.memOk.execLongLatencyResult {k : Nat} (h : s.memOk) : Kept (execLongLatencyResult k s) := by
  unfold Machine.execLongLatencyResult
  dsimp only
  split
  · split
    · exact h.dropPkt.arriveG.occurs h
    · refine (State.memOk.foldl ?_ fun t a h => h.send).occurs h
      split
      · exact h.dropPkt.updFrame
      · exact h.dropPkt
    · exact h.occurs h
  · exact h.occurs h

theorem State.memOk.execLoadReply {k : Nat} (h : s.memOk) : Kept (execLoadReply k s) := by
  unfold Machine.execLoadReply
  split
  · split
    · exact h.dropPkt.arriveG.occurs h
    · exact h.occurs h
  · exact h.occurs h

theorem State.memOk.execSoloResultArrival {k : Nat} (h : s.memOk) : Kept (execSoloResultArrival k s) := by
  unfold Machine.execSoloResultArrival
  dsimp only
  split
  · split
    · refine State.memOk.occurs ?_ h
      split
      · exact h.dropPkt.updFrame
      · exact h.dropPkt
    · refine State.memOk.occurs ?_ h
      split
      · exact h.dropPkt.updFrame
      · exact h.dropPkt
    · exact h.occurs h
  · exact h.occurs h

theorem State.memOk.performRead {p : Pkt} (h : s.memOk) : (s.performRead p).1.memOk := by
  unfold State.performRead
  split
  · exact h.performLoad
  · exact h.performLdf
  · exact h.performLane
  · exact h.performVldf
  · exact h

theorem State.memOk.execDataReturnRequest {k : Nat} (h : s.memOk) : Kept (execDataReturnRequest k s) := by
  unfold Machine.execDataReturnRequest
  exact h.performAt fun t h x => h.performRead

theorem State.memOk.performWrite {p : Pkt} (h : s.memOk) : (s.performWrite p).1.memOk := by
  unfold State.performWrite
  split
  · exact h.performStore
  · exact h.performWord
  · exact h.performStf
  · exact h

theorem State.memOk.storeHead {l : Loc} {e : SEntry} {r : List SEntry} (h : s.memOk) : (s.storeHead l e r).memOk := by
  unfold State.storeHead
  extract_lets p out far t
  have ht : t.memOk := h.updCore
  split
  · split
    · exact ht.record
    · exact ht.poke
  · split
    · exact ht
    · have hp : (t.performStore p e.size e.v).1.memOk := ht.performStore
      split <;> rename_i eq <;> rw [eq] at hp <;> exact hp

theorem State.memOk.execStorePerform {loc k : Nat} (h : s.memOk) : Kept (execStorePerform loc k s) := by
  unfold Machine.execStorePerform
  split
  · split
    · exact h.performAt fun t h x => h.performWrite
    · split
      · exact h.storeHead.occurs h
      · exact h.occurs h
  · split
    · exact h.storeHead.occurs h
    · exact h.occurs h

theorem State.memOk.performAmo {p : Pkt} (h : s.memOk) : (s.performAmo p).1.memOk := by
  unfold State.performAmo
  split
  · exact h.performAtomic
  · exact h

theorem State.memOk.execAtomicPerform {k : Nat} (h : s.memOk) : Kept (execAtomicPerform k s) := by
  unfold Machine.execAtomicPerform
  exact h.performAt fun t h x => h.performAmo
theorem State.memOk.updWindow {m w : Nat} {f : RWindow → RWindow} (h : s.memOk) : (s.updWindow m w f).memOk := by
  unfold State.updWindow
  exact h.updModule

theorem State.memOk.performPost {p : Pkt} (h : s.memOk) : (s.performPost p).1.memOk := by
  unfold State.performPost
  split
  · split
    · exact h.updWindow
    · exact h.performAtomic
  · exact h

theorem State.memOk.hotWait {p : Pkt} (h : s.memOk) : (s.hotWait p).1.memOk := by
  unfold State.hotWait
  exact h

theorem State.memOk.performHot {p : Pkt} {x : Nat} (h : s.memOk) : (s.performHot p x).1.memOk := by
  unfold State.performHot
  split
  · exact (h.check.fst ‹_›).hotWait
  · split
    · exact (h.check.fst ‹_›).recordPkt
    · exact ((h.check.fst ‹_›).countReq).writeAt
  · exact (h.check.fst ‹_›).stopPkt

theorem State.memOk.performHotTest {p : Pkt} {e q least : Nat} {total : Word} {th : Home} {desc : Word}
    (h : s.memOk) : (s.performHotTest p e q least total th desc).1.memOk := by
  unfold State.performHotTest
  dsimp only
  split
  · exact (h.check.fst ‹_›).hotWait
  · split
    · exact (h.check.fst ‹_›).recordPkt
    · split
      · split
        · exact (((h.check.fst ‹_›).through).fst ‹_›).recordPkt
        · split
          · exact ((((h.check.fst ‹_›).through).fst ‹_›).writeAt).event
          · exact ((h.check.fst ‹_›).through).fst ‹_›
      · exact (((h.check.fst ‹_›).through).fst ‹_›).hotWait
      · exact (((h.check.fst ‹_›).through).fst ‹_›).parkPkt
      · exact (((h.check.fst ‹_›).through).fst ‹_›).recordPkt
      · exact (((h.check.fst ‹_›).through).fst ‹_›).stopPkt
  · exact (h.check.fst ‹_›).stopPkt

theorem State.memOk.performPosted {p : Pkt} (h : s.memOk) : (s.performPosted p).1.memOk := by
  unfold State.performPosted
  split
  · exact h.performHot
  · exact h.performHotTest
  · exact h.performPost

theorem State.memOk.execPostedOperation {k : Nat} (h : s.memOk) : Kept (execPostedOperation k s) := by
  unfold Machine.execPostedOperation
  exact h.performAt fun t h x => h.performPosted
theorem State.memOk.performCell {p : Pkt} (h : s.memOk) : (s.performCell p).1.memOk := by
  unfold State.performCell
  exact h.performJoin
theorem State.memOk.execJoinCellIncrement {k : Nat} (h : s.memOk) : Kept (execJoinCellIncrement k s) := by
  unfold Machine.execJoinCellIncrement
  exact h.performAt fun t h x => h.performCell
theorem State.memOk.execJoinCellDecrement {k : Nat} (h : s.memOk) : Kept (execJoinCellDecrement k s) := by
  unfold Machine.execJoinCellDecrement
  exact h.performAt fun t h x => h.performCell

theorem State.memOk.performTask {p : Pkt} (h : s.memOk) : (s.performTask p).1.memOk := by
  unfold State.performTask
  split
  · exact h.performDec
  · exact h

theorem State.memOk.execDependentTaskDecrement {k : Nat} (h : s.memOk) : Kept (execDependentTaskDecrement k s) := by
  unfold Machine.execDependentTaskDecrement
  exact h.performAt fun t h x => h.performTask
theorem State.memOk.execTlbInvalidateRequest {k : Nat} (h : s.memOk) : Kept (execTlbInvalidateRequest k s) := by
  unfold Machine.execTlbInvalidateRequest
  exact h.performAt fun t h x => h.performInv
theorem State.memOk.execSpreadEntryFetch {k : Nat} (h : s.memOk) : Kept (execSpreadEntryFetch k s) := by
  unfold Machine.execSpreadEntryFetch
  exact h.performAt fun t h x => h.performSpread
theorem State.memOk.execFenceMarker {k : Nat} (h : s.memOk) : Kept (execFenceMarker k s) := by
  unfold Machine.execFenceMarker
  exact h.performAt fun t h _ => h

theorem State.memOk.deliverMsg {k : Nat} {p : Pkt} {v : Word} (h : s.memOk) : (s.deliverMsg k p v).memOk := by
  unfold State.deliverMsg
  dsimp only
  split
  · split
    · exact h.dropPkt.updCore.wake
    · exact h
  · exact h

theorem State.memOk.messageAt {k : Nat} {due : Pkt → Bool} (h : s.memOk) : Kept (messageAt k due s) := by
  unfold Machine.messageAt
  split
  · split
    · exact h.deliverMsg.occurs h
    · exact h.occurs h
  · exact h.occurs h

theorem State.memOk.execMessageDelivery {k : Nat} (h : s.memOk) : Kept (execMessageDelivery k s) := by
  unfold Machine.execMessageDelivery
  exact h.messageAt
theorem State.memOk.execMessageRetry {k : Nat} (h : s.memOk) : Kept (execMessageRetry k s) := by
  unfold Machine.execMessageRetry
  exact h.messageAt

theorem State.memOk.execEventRetry {k : Nat} (h : s.memOk) : Kept (execEventRetry k s) := by
  unfold Machine.execEventRetry
  dsimp only
  split
  · refine State.memOk.occurs ?_ h
    split
    · refine State.memOk.wake (State.memOk.updCore ?_)
      exact h
    · exact h
  · exact h.occurs h

/-! ### Migration -/

theorem State.memOk.popFrame {d : DieId} {t : State} {n : Nat} (h : s.memOk) (e : s.popFrame d = some (t, n)) :
    t.memOk := by
  unfold State.popFrame at e
  dsimp only at e
  split at e
  · split at e <;> cases e
    exact h.poke
  · cases e

theorem State.memOk.pushFrame {d : DieId} {o : Nat} (h : s.memOk) : (s.pushFrame d o).1.memOk := by
  unfold State.pushFrame
  dsimp only
  split
  · split
    · exact h.poke.poke
    · exact h
  · exact h

theorem State.memOk.copyFrame {a b : Nat} (h : s.memOk) : (s.copyFrame a b).memOk := by
  unfold State.copyFrame
  generalize 65536 = n
  exact h.poke (a := b) (b := s.bytes a n)
theorem State.memOk.resetCount {hm : Home} {g : Nat} (h : s.memOk) : (s.resetCount hm g).memOk := by
  unfold State.resetCount
  exact h.updHome
theorem State.memOk.dropGranule {d : DieId} {g : Nat} (h : s.memOk) : (s.dropGranule d g).memOk := by
  unfold State.dropGranule
  exact h.foldl fun t a h => h.updHome
theorem State.memOk.replay {old new : DieId} {g : Nat} (h : s.memOk) : (s.replay old new g).memOk := by
  unfold State.replay
  exact h

theorem State.memOk.moveGranule {hm : Home} {old new : DieId} {g : Nat} {e : Word} {a p b : Nat} {t : State}
    (h : s.memOk) (eq : s.moveGranule hm old new g e a p b = some t) : t.memOk := by
  unfold State.moveGranule at eq
  split at eq
  · cases eq
  · extract_lets s1 s2 s3 frame at eq
    have h1 : s1.memOk := (h.popFrame ‹_›).foldl fun t q h => h.flushPage
    have h3 : s3.memOk := h1.copyFrame.poke.poke
    have hp : (if pteKind e = 1 then s3.pushFrame old frame else (s3, false)).1.memOk := by
      split
      · exact h3.pushFrame
      · exact h3
    cases eq
    exact State.memOk.eventAt (State.memOk.updDie hp.dropGranule.replay)

theorem State.memOk.rehome {hm : Home} {new : DieId} {g : Nat} (h : s.memOk) : (s.rehome hm new g).memOk := by
  unfold State.rehome
  split
  · dsimp only
    split
    · exact h.resetCount
    · split
      · cases e : s.moveGranule hm (homeDie hm) new g _ _ _ _ with
        | none => exact h.resetCount
        | some t => exact h.moveGranule e
      · exact h.resetCount
  · exact h.resetCount

theorem State.memOk.execRehomeGranule {hm : Home} {g : Nat} (h : s.memOk) : Kept (execRehomeGranule hm g s) := by
  unfold Machine.execRehomeGranule
  split
  · exact h.rehome.occurs h
  · exact h.occurs h

theorem State.memOk.unfreeze {a : Nat} (h : s.memOk) : (s.unfreeze a).memOk := by
  unfold State.unfreeze
  exact h.poke
theorem State.memOk.dieEpoch {d : DieId} (h : s.memOk) : (s.dieEpoch d).memOk := by
  unfold State.dieEpoch
  exact (h.foldl fun t a h => h.unfreeze).updDie
theorem State.memOk.sendMerged {m : Nat} {o : RedOp} (h : s.memOk) : (s.sendMerged m o).memOk := by
  unfold State.sendMerged
  exact h.send
theorem State.memOk.mergeStep {m w n : Nat} (h : s.memOk) : (s.mergeStep m w n).memOk := by
  unfold State.mergeStep
  exact (h.foldl fun t a h => h.sendMerged).updWindow

theorem State.memOk.execReductionStepMerge {m w : Nat} (h : s.memOk) : Kept (execReductionStepMerge m w s) := by
  unfold Machine.execReductionStepMerge
  dsimp only
  split
  · exact h.mergeStep.occurs h
  · exact h.occurs h

theorem State.memOk.execReductionStepTimeout {m w part : Nat} (h : s.memOk) : Kept
    (execReductionStepTimeout m w part s) := by
  unfold Machine.execReductionStepTimeout
  dsimp only
  split
  · exact h.updWindow.event.occurs h
  · exact h.occurs h

theorem State.memOk.execPatrolScrub {dword : Nat} (h : s.memOk) : Kept (execPatrolScrub dword s) := by
  unfold Machine.execPatrolScrub
  split
  · refine State.memOk.occurs ?_ h
    split
    · exact h.eventAt
    · exact h
  · exact h.occurs h

/-! ### Gangs -/

theorem State.memOk.execGangForm {n : BitVec 3} (h : s.memOk) : Kept (execGangForm n s) := by
  unfold Machine.execGangForm
  refine h.issue fun t h => h.anchored fun _ => ?_
  split
  · exact h.done
  · split
    · exact .trap
    · dsimp only
      split
      · exact .waitFor
      · split
        · exact .trap
        · split
          · exact State.memOk.hold h
          · split
            · exact State.memOk.hold h
            · exact .waitFor

theorem State.memOk.execSplit (h : s.memOk) : Kept (execSplit s) := by
  unfold Machine.execSplit
  refine h.issue fun t h => h.anchored fun _ => ?_
  split
  · exact h.thenPost fun t1 h => h.dissolve
  · exact h.done

/-! ### Pre-emption -/

theorem State.memOk.putAway {k : Nat} (h : s.memOk) : (s.putAway k).memOk := by
  unfold State.putAway
  dsimp only
  refine (State.memOk.updCore ?_).updFrame
  split
  · exact h.unbind
  · exact h

theorem State.memOk.boundary {p : Nat} (h : s.memOk) : (s.boundary p).memOk := by
  unfold State.boundary
  exact h.foldl fun t a h => h.updDie

theorem State.memOk.putAllAway {x : Launch} {keep : Nat} (h : s.memOk) : (s.putAllAway x keep).memOk := by
  unfold State.putAllAway
  refine h.foldl fun t a h => ?_
  split
  · exact h
  · exact h.putAway

theorem State.memOk.freeze {x : Launch} {keep : Nat} (h : s.memOk) : (s.freeze x keep).memOk := by
  unfold State.freeze
  exact h.updLaunch.putAllAway

theorem State.memOk.bringBack {k : Nat} (h : s.memOk) : (s.bringBack k).memOk := by
  unfold State.bringBack
  dsimp only
  split
  · exact h.updFrame.queueTrap
  · split
    · exact h.updFrame
    · exact h.updFrame
    · exact h.updFrame
    · exact h.updFrame.ready

theorem State.memOk.restoreLease {e : Nat × Nat × Nat} (h : s.memOk) : (s.restoreLease e).memOk := by
  unfold State.restoreLease
  split
  · exact h.updLease.grant
  · exact h

theorem State.memOk.thaw {x : Launch} (h : s.memOk) : (s.thaw x).memOk := by
  unfold State.thaw
  extract_lets s1 s2 mine rings caught s3 s4 s5
  have h2 : s2.memOk := by
    refine State.memOk.foldl (s := s1) h fun t k h => ?_
    split
    · exact h.bringBack
    · exact h
  have h3 : s3.memOk := h2.foldl fun t e h => h.setNispill
  have h5 : s5.memOk := State.memOk.foldl (s := s4) h3 fun t e h => h.restoreLease
  exact h5.foldl fun t e h => h.grant

/-! ### Threads -/

theorem State.memOk.inlineSpawn {pc a0 a1 : Word} (h : s.memOk) : (inlineSpawn s pc a0 a1).memOk := by
  unfold Machine.inlineSpawn
  split
  · exact .trap
  · split
    · exact .wait
    · exact h.updMy.done

theorem State.memOk.pushTask {t : Machine.Task} (h : s.memOk) : (s.pushTask t).memOk := by
  unfold State.pushTask
  exact h.setDeque.countUp.wakeNext

theorem State.memOk.spawnCounted {t : Machine.Task} (h : s.memOk) : (spawnCounted s t).memOk := by
  unfold Machine.spawnCounted
  refine h.pending (h.drained fun t1 h => ?_) fun x t1 h => ?_
  · split
    · exact .wait
    · split
      · exact h.pushTask.done
      · refine h.route fun x => ?_
        split
        · split
          · exact .wait
          · refine h.checkOwn fun t2 h x1 _ => ?_
            split
            · exact .trap
            · exact h.addPath.writeAt.pushTask.done
        · exact h.addPath.ask
  · split
    · exact .trap
    · exact h.pushTask.done

theorem State.memOk.spawnOp {anch : Bool} {d a b : Reg} (h : s.memOk) : (spawnOp s anch d a b).memOk := by
  unfold Machine.spawnOp
  split
  · refine h.src fun x t h => h.src fun x1 t1 h => h.src fun x2 t2 h => h.src fun x3 t3 h => ?_
    split
    · exact .trap
    · split
      · exact .trap
      · split
        · exact h.drained fun t4 h => h.inlineSpawn
        · exact h.spawnCounted
  · exact .trap

theorem State.memOk.taskStop {va : Word} {write : Bool} {x : HRes} (h : s.memOk) : (taskStop s va write x).memOk := by
  unfold Machine.taskStop
  split
  · exact h.parkThread.hold
  · exact .trap
  · exact .trap
  · exact .trap
  · exact .wait
  · exact .trap

theorem State.memOk.takeTask {none : State → Eff} {k : Machine.Task → State → Eff} (h : s.memOk)
    (hnone : ∀ (t : State), t.memOk → (none t).memOk)
    (hk : ∀ (x : Machine.Task) (t : State), t.memOk → (k x t).memOk) : (takeTask s none k).memOk := by
  unfold Machine.takeTask
  split
  · exact hk _ _ (h.search.fst ‹_›)
  · exact hnone _ (h.search.fst ‹_›)
  · exact ((h.search.fst ‹_›).updMy).hold
  · exact (h.search.fst ‹_›).taskStop
  · exact .trap

theorem State.memOk.execNext {d : Reg} (h : s.memOk) : Kept (execNext d s) := by
  unfold Machine.execNext
  dsimp only
  refine h.issue fun t h => ?_
  split
  · exact .wait
  · refine h.pending (h.takeTask (fun t1 h => h.put fun t2 h => h.done) fun x t1 h => h.put fun t2 h =>
      h.become.done) fun x t1 h => ?_
    split
    · exact h.put fun t2 h => h.become.done
    · exact .trap
    · exact h.put fun t2 h => h.done

theorem State.memOk.exitTask (h : s.memOk) : (exitTask s).memOk := by
  unfold Machine.exitTask
  dsimp only
  split
  · exact h.updMy.freeLease.taskEnd.takeTask (fun t h => h.threadEnd.gone) fun x t h => h.become.done
  · exact h.updMy.freeLease.taskEnd.threadEnd.gone

theorem State.memOk.exitChecked (h : s.memOk) : (exitChecked s).memOk := by
  unfold Machine.exitChecked
  dsimp only
  split
  · exact h.exitTask
  · split
    · exact .trap
    · refine h.route fun x => ?_
      split
      · exact h.checkOwn fun t h _ _ => h.exitTask
      · exact h.exitTask

theorem State.memOk.execExit (h : s.memOk) : Kept (execExit s) := by
  unfold Machine.execExit
  refine h.issue fun t h => ?_
  split
  · split
    · exact h.become.done
    · exact h.threadEnd.gone
  · exact .trap
  · split
    · refine h.src fun x t1 h => ?_
      split
      · exact .trap
      · exact h.updMy.done
    · split
      · exact h.dissolve.hold
      · split
        · exact h.drained fun t1 h => h.exitChecked
        · exact .wait

theorem State.memOk.execJoin {a : Reg} (h : s.memOk) : Kept (execJoin a s) := by
  unfold Machine.execJoin
  refine h.issue fun t h => h.pending (h.src fun x t1 h => ?_) fun x t1 h => ?_
  · split
    · exact .trap
    · refine h.route fun x1 => ?_
      split
      · refine h.checkOwn fun t2 h x2 _ => ?_
        split
        · exact h.partly
        · split
          · exact .wait
          · split
            · exact h.done
            · exact h.updMy.hold
      · exact .waitFor
  · split
    · exact .trap
    · exact h.done

theorem State.memOk.refill {l : Loc} {n : Nat} (h : s.memOk) : (s.refill l n).memOk := by
  unfold State.refill
  dsimp only
  split
  · exact h.updCore.enter
  · exact h.updCore.bind
  · exact h

theorem State.memOk.yieldSlot (h : s.memOk) : s.yieldSlot.memOk := by
  unfold State.yieldSlot
  dsimp only
  split
  · exact h
  · exact h.unbind.ready.refill

theorem State.memOk.execSleep {a : Reg} (h : s.memOk) : Kept (execSleep a s) := by
  unfold Machine.execSleep
  dsimp only
  refine h.issue fun t h => h.src fun x t1 h => ?_
  split
  · split
    · exact h.done
    · exact .wait
  · split
    · exact h.thenPost fun t2 h => h.yieldSlot
    · exact .waitFor

theorem State.memOk.execLaunch {d a : Reg} (h : s.memOk) : Kept (execLaunch d a s) := by
  unfold Machine.execLaunch
  dsimp only
  refine h.issue fun t h => h.pending (h.src fun x t1 h => ?_) fun x t1 h => h.deliverAns
  split
  · exact .trap
  · refine h.route fun x1 => ?_
    split
    · exact .trap
    · refine h.drained fun t2 h => ?_
      split
      · refine h.checkOwn fun t3 h _ _ => ?_
        split
        · exact .wait
        · exact h.ask
      · split
        · exact .wait
        · exact h.ask

theorem State.memOk.taskRoute {va : Word} {how : How} {k : Home → Eff} (h : s.memOk)
    (hk : ∀ (x : Home), (k x).memOk) : (taskRoute s va how k).memOk := by
  unfold Machine.taskRoute
  split
  · exact .trap
  · exact h.route fun x => hk _

theorem State.memOk.execTaskDec {d a : Reg} (h : s.memOk) : Kept (execTaskDec d a s) := by
  unfold Machine.execTaskDec
  refine h.issue fun t h => h.pending (h.src fun va t h => h.taskRoute fun hm => h.drained fun t h =>
    ?_) fun w t h => h.deliverAns
  split
  · exact .wait
  · split
    · exact .wait
    · split
      · split
        · exact (h.decrement.fst ‹_›).addPath.wakeNext.put fun t h => h.done
        · exact .trap
        · exact .trap
        · exact (h.decrement.fst ‹_›).taskStop
      · exact h.addPath.countUp.ask

theorem State.memOk.execTaskDecp {a : Reg} (h : s.memOk) : Kept (execTaskDecp a s) := by
  unfold Machine.execTaskDecp
  dsimp only
  refine h.issue fun t h => h.src fun x t1 h => h.taskRoute fun x1 => h.drained fun t2 h => ?_
  split
  · exact h.checkOwn fun t3 h _ _ => h.addPath.countUp.send.done
  · exact h.addPath.countUp.send.done

/-! ### Scheduling -/

theorem State.memOk.freeSender {p : Pkt} (h : s.memOk) : (s.freeSender p).memOk := by
  unfold State.freeSender
  split
  · exact h.updFrame
  · exact h

theorem State.memOk.useTicket {l : Loc} {p : Pkt} (h : s.memOk) : (s.useTicket l p).memOk := by
  unfold State.useTicket
  split
  · exact h.updCore
  · exact h

theorem State.memOk.land {l : Loc} {f : Nat} {va : Word} (h : s.memOk) : (s.land l f va).memOk := by
  unfold State.land
  dsimp only
  split
  · split
    · exact (h.updFrame.park ‹_›).updFrame
    · exact h.updFrame
  · exact h.updFrame.ready

theorem State.memOk.takeFrame {l : Loc} {f : Nat} {p : Pkt} {fr : Frame} (h : s.memOk) :
    (s.takeFrame l f p fr).memOk := by
  unfold State.takeFrame
  exact h.freeSender.useTicket.setFrame.land

theorem State.memOk.nack {l : Loc} {p : Pkt} (h : s.memOk) : (s.nack l p).1.memOk := by
  unfold State.nack
  dsimp only
  split
  · exact h
  · exact h.updCore

theorem State.memOk.catchPkt {l : Loc} {p : Pkt} (h : s.memOk) : (s.catchPkt l p).1.memOk := by
  unfold State.catchPkt
  dsimp only
  split
  · exact h.freeSender.useTicket.setNispill
  · exact h.nack

theorem State.memOk.returnThread {p : Pkt} {c : Cause} (h : s.memOk) : (s.returnThread p c).memOk := by
  unfold State.returnThread
  split
  · exact h.updFrame.raiseAt
  · exact h

theorem State.memOk.giveBack {p : Pkt} {c : Cause} (h : s.memOk) : (s.giveBack p c).memOk := by
  unfold State.giveBack
  split
  · exact h.useTicket.returnThread
  · exact h.returnThread

theorem State.memOk.takeIn {l : Loc} {p : Pkt} {fr : Frame} (h : s.memOk) : (s.takeIn l p fr).1.memOk := by
  unfold State.takeIn
  dsimp only
  split
  · exact h.nack
  · split
    · exact h.takeFrame
    · split
      · exact h.freeSender.useTicket.setSpill
      · exact h.nack

theorem State.memOk.arrive {p : Pkt} (h : s.memOk) : (s.arrive p).1.memOk := by
  unfold State.arrive
  split
  · split
    · exact h.giveBack
    · split
      · exact h.catchPkt
      · split
        · exact h
        · split
          · exact h.takeFrame
          · exact h.takeIn
          · exact h
  · exact h

theorem State.memOk.arrivalAt {k : Nat} {due : Pkt → Bool} (h : s.memOk) : Kept (arrivalAt k due s) := by
  unfold Machine.arrivalAt
  dsimp only
  split
  · exact h.dropPkt.arrive.keepPkt.occurs h
  · exact h.occurs h

theorem State.memOk.execMigrationArrival {k : Nat} (h : s.memOk) : Kept (execMigrationArrival k s) := by
  unfold Machine.execMigrationArrival
  exact h.arrivalAt
theorem State.memOk.execMigrationRetry {k : Nat} (h : s.memOk) : Kept (execMigrationRetry k s) := by
  unfold Machine.execMigrationRetry
  exact h.arrivalAt

theorem State.memOk.execSpillRingTakeFrame {loc : Nat} (h : s.memOk) : Kept (execSpillRingTakeFrame loc s) := by
  unfold Machine.execSpillRingTakeFrame
  dsimp only
  split
  · split
    · exact h.setSpill.takeFrame.occurs h
    · exact h.occurs h
  · exact h.occurs h

theorem State.memOk.setOut {k : Nat} {kind : PKind} {dest : Loc} {va : Word} (h : s.memOk) :
    (s.setOut k kind dest va).memOk := by
  unfold State.setOut
  dsimp only
  refine (State.memOk.send ?_).updFrame
  split
  · exact h.unbind
  · exact h

theorem State.memOk.displace {k : Nat} {dest : Loc} {till frame : Option Nat} (h : s.memOk) :
    (s.displace k dest till frame).memOk := by
  unfold State.displace
  exact h.setOut

theorem State.memOk.execDeparture {loc f : Nat} (h : s.memOk) : Kept (execDeparture loc f s) := by
  unfold Machine.execDeparture
  dsimp only
  split
  · split
    · exact h.drain.occurs h
    · exact h.setOut.occurs h
  · split
    · exact h.drain.occurs h
    · exact h.displace.occurs h
  · exact h.occurs h

theorem State.memOk.execFrameReadyBind {loc : Nat} (h : s.memOk) : Kept (execFrameReadyBind loc s) := by
  unfold Machine.execFrameReadyBind
  split
  · exact h.updCore.bind.occurs h
  · exact h.occurs h

theorem State.memOk.execTrapQueueEntry {loc slot : Nat} (h : s.memOk) : Kept (execTrapQueueEntry loc slot s) := by
  unfold Machine.execTrapQueueEntry
  dsimp only
  split
  · exact h.updCore.enter.occurs h
  · exact h.occurs h

theorem State.memOk.execLongWaitUnbind {loc slot : Nat} (h : s.memOk) : Kept (execLongWaitUnbind loc slot s) := by
  unfold Machine.execLongWaitUnbind
  dsimp only
  split
  · exact h.unbind.occurs h
  · exact h.occurs h

theorem State.memOk.endRepeat {k : Nat} (h : s.memOk) : (s.endRepeat k).memOk := by
  unfold State.endRepeat
  dsimp only
  split
  · exact h.updFrame.updSlot
  · exact h.updFrame

theorem State.memOk.execSleepExpiry {loc f : Nat} (h : s.memOk) : Kept (execSleepExpiry loc f s) := by
  unfold Machine.execSleepExpiry
  exact h.ready.occurs h
theorem State.memOk.endWait {k : Nat} {a : Ans} (h : s.memOk) : (s.endWait k a).memOk := by
  unfold State.endWait
  exact h.updFrame.ready

theorem State.memOk.poll {k : Nat} {va : Word} (h : s.memOk) : (s.poll k va).1.memOk := by
  unfold State.poll
  dsimp only
  split
  · split
    · split
      · exact ((h.check.fst ‹_›).updFrame).ready
      · exact h
    · exact h.updFrame.ready
  · split
    · exact h.failPkt
    · split
      · split
        · exact (h.check.fst ‹_›).endWait
        · exact h
      · have ht := h.check.fst ‹_›
        split
        · have hu := ht.stopPkt.fst ‹_›
          exact hu
        · exact h

theorem State.memOk.execJoinComplete {loc f : Nat} (h : s.memOk) : Kept (execJoinComplete loc f s) := by
  unfold Machine.execJoinComplete
  dsimp only
  split
  · exact h.poll.occurs h
  · exact h.occurs h

theorem State.memOk.rescan {k : Nat} (h : s.memOk) : (s.rescan k).1.memOk := by
  unfold State.rescan
  dsimp only
  split
  · exact ((h.search.fst ‹_›).updFrame).endWait
  · exact ((h.search.fst ‹_›).updFrame).endWait
  · exact h
  · exact (h.search.fst ‹_›).parkThread
  · exact h.raiseAt
  · exact h.raiseAt
  · exact h.raiseAt
  · exact h.raiseAt
  · exact h.raiseAt

theorem State.memOk.execNextRescan {loc f : Nat} (h : s.memOk) : Kept (execNextRescan loc f s) := by
  unfold Machine.execNextRescan
  exact h.rescan.occurs h

theorem State.memOk.execGangFormation {n : Nat} (h : s.memOk) : Kept (execGangFormation n s) := by
  unfold Machine.execGangFormation
  split
  · refine State.memOk.occurs (State.memOk.foldl ?_ fun t k h => h.updFrame.ready) h
    exact h
  · exact h.occurs h

theorem State.memOk.execBarrierPhaseComplete {n : Nat} (h : s.memOk) : Kept (execBarrierPhaseComplete n s) := by
  unfold Machine.execBarrierPhaseComplete
  split
  · refine State.memOk.occurs (State.memOk.wake ?_) h
    exact h
  · exact h.occurs h

theorem State.memOk.execLeaseRearbitration {pav : Nat} (h : s.memOk) : Kept (execLeaseRearbitration pav s) := by
  unfold Machine.execLeaseRearbitration
  dsimp only
  split
  · exact h.updLease.grant.occurs h
  · exact h.occurs h

/-! ### Flock -/

theorem State.memOk.fillDone {x : Hold} {m : FReq} {status : Nat} (h : s.memOk) : (s.fillDone x m status).memOk := by
  have hc (p : Pkt) : ({ s with
      locks := s.locks.filter fun k => k.cmd != m.lock, nextId := s.nextId + 1 }.catchPkt m.loc p).1.memOk :=
    State.memOk.catchPkt h
  unfold State.fillDone
  dsimp only
  split
  · split
    · have ht := (hc _).fst ‹_›
      exact ht
    · exact (hc _).fst ‹_›
  · exact State.memOk.endFlock h

theorem State.memOk.fillTile {x : Hold} {bs : List Byte} {status : Nat} {m : FReq} (h : s.memOk) :
    (s.fillTile x bs status m).memOk := by
  unfold State.fillTile
  dsimp only
  refine State.memOk.fillDone ?_
  split
  · exact h.poke
  · exact h

theorem State.memOk.dropHold {id : Nat} (h : s.memOk) : (s.dropHold id).memOk := by
  unfold State.dropHold
  exact h

theorem State.memOk.deliver {x : Hold} {left : Nat} (h : s.memOk) : (s.deliver x left).memOk := by
  unfold State.deliver
  split
  · have ht := h.through.fst ‹_›
    split
    · exact .held
    · split
      · exact (ht.foldl fun t a h => h.fillDone).delivered
      · exact (ht.foldl fun t a h => h.fillTile).delivered
  · have ht := h.through.fst ‹_›
    split
    · have hu := ht.park ‹_›
      exact hu
    · exact ht
  · exact .held
  · exact (h.foldl fun t a h => h.fillDone).delivered

theorem State.memOk.serveAlone {x : Hold} (h : s.memOk) : (s.serveAlone x).1.memOk := by
  unfold State.serveAlone
  extract_lets s1
  have hd : (s1.deliver x 0).memOk := State.memOk.deliver (s := s1) h
  split
  · exact (hd.ofDone ‹_›).dropHold
  · exact hd.ofParked ‹_›
  · exact hd.ofRefused ‹_›
  · exact h

theorem State.memOk.close {x : Hold} (h : s.memOk) : (s.close x).1.memOk := by
  unfold State.close
  split
  · exact (h.deliver.ofDone ‹_›).dropHold
  · exact h.deliver.ofParked ‹_›
  · exact h.deliver.ofRefused ‹_›
  · exact h

theorem State.memOk.openHold {x : Hold} (h : s.memOk) : (s.openHold x).1.memOk := by
  unfold State.openHold
  extract_lets s1
  have h1 : s1.memOk := h
  split
  · exact h1.close
  · split
    · have ht := h1.through.fst ‹_›
      split
      · have hu := ht.park ‹_›
        exact hu
      · exact h
    · exact h1.through.fst ‹_›

theorem State.memOk.flockArrive {p : Pkt} {g cnt len : Nat} {d : DieId} {r : FReq} (h : s.memOk) :
    (s.flockArrive p g cnt len d r).1.memOk := by
  unfold State.flockArrive
  dsimp only
  split
  · split
    · split
      · exact State.memOk.close h
      · exact h
    · exact h.serveAlone
  · split
    · exact State.memOk.serveAlone h
    · split
      · exact h.serveAlone
      · exact h.openHold

theorem State.memOk.performFlock {p : Pkt} (h : s.memOk) : (s.performFlock p).1.memOk := by
  unfold State.performFlock
  split
  · split
    · exact h.forwardPkt
    · dsimp only
      split
      · exact h.countReq.flockArrive
      · exact h
  · exact h

theorem State.memOk.execFlockRequest {k : Nat} (h : s.memOk) : Kept (execFlockRequest k s) := by
  unfold Machine.execFlockRequest
  dsimp only
  split
  · split
    · refine State.memOk.occurs ?_ h
      split
      · exact h.dropPkt.catchPkt.keepPkt
      · exact h.dropPkt.endFlock
    · exact h.performAt fun t h x => h.performFlock
  · exact h.occurs h

theorem State.memOk.execFlockTimerExpiry {hm : Home} {n : Nat} (h : s.memOk) : Kept (execFlockTimerExpiry hm n s) := by
  unfold Machine.execFlockTimerExpiry
  dsimp only
  split
  · split
    · have ht := h.deliver.ofDone ‹_›
      refine State.memOk.occurs ?_ h
      split
      · exact ht.dropHold
      · exact ht
    · exact (h.deliver.ofParked ‹_›).occurs h
    · exact (h.deliver.ofRefused ‹_›).occurs h
    · exact h.occurs h
  · exact h.occurs h

theorem State.memOk.execFlockLateWindowEnd {hm : Home} {n : Nat} (h : s.memOk) : Kept
    (execFlockLateWindowEnd hm n s) := by
  unfold Machine.execFlockLateWindowEnd
  split
  · exact h.dropHold.occurs h
  · exact h.occurs h

theorem State.memOk.retryHold {n : Nat} (h : s.memOk) : (s.retryHold n).memOk := by
  unfold State.retryHold
  split
  · extract_lets left x s1
    have h1 : s1.memOk := h
    split
    · exact h1.close
    · split
      · have ht := h1.through.fst ‹_›
        split
        · have hu := ht.park ‹_›
          exact hu
        · exact ht
      · exact h1.through.fst ‹_›
  · exact h

theorem State.memOk.denyHold {n : Nat} (h : s.memOk) : (s.denyHold n).memOk := by
  unfold State.denyHold
  split
  · exact (h.foldl fun t a h => h.fillDone).dropHold
  · exact h

/-! ### Launches -/

theorem State.memOk.writeWord {l : Loc} {id : W32} {m : Nat} {va v : Word} (h : s.memOk) :
    (s.writeWord l id m va v).memOk := by
  unfold State.writeWord
  split
  · exact h
  · extract_lets hm p s1
    have hp : (s1.performWord p v).1.memOk := State.memOk.performWord (s := s1) h
    split
    · exact h
    · split <;> rename_i e <;> rw [e] at hp <;> exact hp

theorem State.memOk.takeId {m st : Nat} (h : s.memOk) : (s.takeId m st).1.memOk := by
  unfold State.takeId
  exact h.updModule
theorem State.memOk.poolIn {m : Nat} {r : LRec} {super : Bool} {src : Option Loc} (h : s.memOk) :
    (s.poolIn m r super src).1.memOk :=
  h.takeId (m := m) (st := r.pool 0)

theorem State.memOk.accept {l : Loc} {r : LRec} {super : Bool} (h : s.memOk) : (s.accept l r super).1.memOk := by
  unfold State.accept
  dsimp only
  split
  · exact h.takeId.writeWord
  · split
    · exact h
    · exact h.poolIn

theorem State.memOk.performRecord {p : Pkt} (h : s.memOk) : (s.performRecord p).1.memOk := by
  unfold State.performRecord
  refine h.withPlace fun t h x _ _ _ => ?_
  split
  · exact h.failPkt
  · split
    exact (h.accept.fst ‹_›).answer

theorem State.memOk.execLaunchAccept {k : Nat} (h : s.memOk) : Kept (execLaunchAccept k s) := by
  unfold Machine.execLaunchAccept
  exact h.performAt fun t h x => h.performRecord

theorem State.memOk.place {x : Launch} {i : Nat} {l : Loc} (h : s.memOk) : (s.place x i l).memOk := by
  unfold State.place
  dsimp only
  split
  · refine ((State.memOk.setFrame ?_).updLaunch).ready
    exact h
  · exact h

theorem State.memOk.startLaunch {x : Launch} (h : s.memOk) : (s.startLaunch x).memOk := by
  unfold State.startLaunch
  exact (h.updLaunch.foldl fun t a h => h.updCore.updDie).foldl fun t a h => h.place

theorem State.memOk.execLaunchStart {m : Nat} {id : W32} (h : s.memOk) : Kept (execLaunchStart m id s) := by
  unfold Machine.execLaunchStart
  split
  · exact h.startLaunch.occurs h
  · exact h.occurs h

theorem State.memOk.freeTiles {id : W32} {m : Nat} (h : s.memOk) : (s.freeTiles id m).memOk := by
  unfold State.freeTiles
  dsimp only
  refine h.foldl fun t a h => h.foldl fun t1 a1 h => ?_
  split
  · exact h.freeTile
  · exact h

theorem State.memOk.completeLaunch {x : Launch} (h : s.memOk) : (s.completeLaunch x).memOk := by
  unfold State.completeLaunch
  extract_lets mine s1 s2 s3 l
  have h3 : s3.memOk := State.memOk.freeTiles (s := s2) h
  exact h3.writeWord

theorem State.memOk.execLaunchCompletion {m : Nat} {id : W32} (h : s.memOk) : Kept (execLaunchCompletion m id s) := by
  unfold Machine.execLaunchCompletion
  split
  · exact h.completeLaunch.occurs h
  · exact h.occurs h

theorem State.memOk.bootState {m st : Nat} {id : W32} (h : s.memOk) : (s.bootState m st id).memOk := by
  unfold State.bootState
  exact h.updModule

theorem State.memOk.bootRead {m : Nat} {v : Word} (h : s.memOk) : (s.bootRead m v).1.memOk := by
  unfold State.bootRead
  dsimp only
  split
  · exact h
  · split <;> exact h.check.fst ‹_›

theorem State.memOk.writeBoot {m : Nat} {v : Word} (h : s.memOk) : (s.writeBoot m v).memOk := by
  unfold State.writeBoot
  split
  · exact h.bootState
  · split
    · split
      · exact (h.bootRead.fst ‹_›).bootState
      · split
        exact (((h.bootRead.fst ‹_›).poolIn).fst ‹_›).bootState
    · exact (h.bootRead.fst ‹_›).bootState

/-! ### Engines -/

theorem Actr.look_keeps {c : Actr} {va : Word} {n : Nat} {write locks : Bool} : (c.look va n write locks).Keeps := by
  intro s h
  unfold Actr.look
  dsimp only
  split
  · exact h
  · split
    · exact h
    · split
      · exact h.findHome.fst ‹_›
      · have ht := h.findHome.fst ‹_›
        split
        · exact ht
        · exact ht.through

theorem State.memOk.pokeAt {x : Reached} {b : List Byte} (h : s.memOk) : (s.pokeAt x b).memOk := by
  unfold State.pokeAt
  split
  · exact h.writeAt
  · exact h.poke

theorem Actr.place_keeps {c : Actr} {va : Word} {n : Nat} {write : Bool} : (c.place va n write).Keeps := by
  unfold Actr.place
  refine EM.Keeps.bind Actr.look_keeps fun x => ?_
  split
  · exact .pure
  · split
    · exact .bind (.change fun t h => h.record.updCmd) fun _ => .pure
    · exact .throw
  · exact .throw

theorem Actr.at_keeps {c : Actr} {p : Spot} {n : Nat} {write : Bool} : (c.at p n write).Keeps := by
  unfold Actr.at
  dsimp only
  split
  · exact Actr.place_keeps
  · refine .getBind fun t h => ?_
    split
    · exact .bind .throw fun _ => .pure
    · exact .pure

theorem Actr.read_keeps {c : Actr} {p : Spot} {n : Nat} : (c.read p n).Keeps := by
  unfold Actr.read
  refine .bind (.collect fun x => EM.Keeps.bind Actr.at_keeps fun x1 => ?_) fun x => .pure
  split
  · exact .getBind fun t h => .bind .demand fun _ => .pure
  · exact .pure

theorem Actr.num_keeps {c : Actr} {p : Spot} {n : Nat} : (c.num p n).Keeps := by
  unfold Actr.num
  exact EM.Keeps.bind Actr.read_keeps fun x => .pure
theorem Actr.aim_keeps {c : Actr} {l : List (Spot × Nat)} {r : List Byte} : (c.aim l r).Keeps := by
  induction l generalizing r with
  | nil => exact .pure
  | cons p l ih => exact .getBind fun s h => .bind (.set (Actr.at_keeps s h)) fun _ => .bind ih fun _ => .pure

theorem State.memOk.piecePoke {x : Piece} (h : s.memOk) : (Piece.poke s x).memOk := by
  unfold Piece.poke
  split
  · exact h.pokeAt
  · exact h

theorem State.memOk.pieceMix {n : Nat} {x : Piece} (h : s.memOk) : (Piece.mix n s x).memOk := by
  unfold Piece.mix
  split
  · exact h.pokeAt
  · exact h

theorem Actr.write_keeps {c : Actr} {p : List (Spot × List Byte)} : (c.write p).Keeps := by
  unfold Actr.write
  dsimp only
  refine .bind (.collect fun x => Actr.aim_keeps) fun x => ?_
  split
  · exact .change fun t h => h.foldl fun t1 a h => h.piecePoke
  · split
    · exact .bind (.change fun t h => h.foldl fun t1 a h => h.pieceMix) fun _ => .throw
    · exact .throw

theorem Actr.row_keeps {c : Actr} {p : Spot} {n : Nat} {make : EM (List Byte)} (hmake : make.Keeps) :
    (c.row p n make).Keeps := by
  unfold Actr.row
  refine .getBind fun s h => ?_
  split
  · exact .bind (.set (hmake.run h ‹_›)) fun _ => Actr.write_keeps
  · refine .bind (.set (hmake.run h ‹_›)) fun _ => ?_
    extract_lets stop free
    have hstop (r : PUnit) : (stop r).Keeps := .throw
    refine .ite (.bind Actr.aim_keeps fun ps => .bind (.change fun s h => ?_) hstop) (hstop ())
    refine State.memOk.foldl h fun t q h => ?_
    unfold free
    split
    · exact h.pokeAt
    · exact h

theorem Actr.note_keeps {c : Actr} {d : Nat} : (c.note d).Keeps := by
  unfold Actr.note
  exact .change fun t h => h.updCmd

theorem Actr.noteIf_keeps {c : Actr} {d : Nat} {b : Bool} : (c.noteIf d b).Keeps := by
  unfold Actr.noteIf
  split
  · exact Actr.note_keeps
  · exact .pure

theorem Actr.self_keeps {c : Actr} : c.self.Keeps := by
  unfold Actr.self
  refine .getBind fun t h => ?_
  split
  · exact .pure
  · exact .throw

theorem Actr.unit_keeps {c : Actr} {k : Nat} {w : EM Unit} (hw : w.Keeps) : (c.unit k w).Keeps := by
  unfold Actr.unit
  refine EM.Keeps.bind Actr.self_keeps fun x => ?_
  split
  · exact EM.Keeps.bind hw fun _ => .change fun t h => h.updCmd
  · exact .pure

theorem Actr.units_keeps {α : Type} {c : Actr} {first : Nat} {f : α → EM Unit} {l : List α}
    (hf : ∀ (x : α), (f x).Keeps) : (c.units first f l).Keeps := by
  unfold Actr.units
  exact .each fun x => Actr.unit_keeps (hf _)

theorem Actr.planned_keeps {c : Actr} {w : EM (List (Option Nat))} (hw : w.Keeps) : (c.planned w).Keeps := by
  unfold Actr.planned
  refine EM.Keeps.bind Actr.self_keeps fun x => ?_
  split
  · exact .pure
  · exact EM.Keeps.bind hw fun x1 => .bind (.change fun t h => h.updCmd) fun _ => .pure

theorem Actr.permit_keeps {c : Actr} {va : Word} {n : Nat} : (c.permit va n).Keeps := by
  unfold Actr.permit
  exact .getBind fun t h => .demand

theorem TName.find_keeps {t : TName} {dst : Bool} : (t.find dst).Keeps := by
  unfold TName.find
  refine .getBind fun t1 h => ?_
  split
  · exact .pure
  · exact .throw

theorem Actr.tile_keeps {c : Actr} {l : Loc} {t : Tile} : (c.tile l t).Keeps := by
  unfold Actr.tile
  exact .collect fun x => Actr.num_keeps
theorem Desc.permit_keeps {d : Desc} {c : Actr} {host : Bool} : (d.permit c host).Keeps := by
  unfold Desc.permit
  exact .getBind fun t h => .demand

theorem Desc.region_keeps {d : Desc} {c : Actr} {dst : Bool} : (d.region c dst).Keeps := by
  unfold Desc.region
  dsimp only
  split
  · exact EM.Keeps.bind TName.find_keeps fun x => .pure
  · exact .pure

theorem EM.Keeps.apart {srcs dsts : List Rng} : (EM.apart srcs dsts).Keeps := by
  unfold EM.apart
  exact .getBind fun t h => .demand

theorem Actr.lockSource_keeps {c : Actr} {r : Rng} : (c.lockSource r).Keeps := by
  unfold Actr.lockSource
  dsimp only
  refine .getBind fun t h => ?_
  split
  · split
    · exact .bind .throw fun _ => .change fun t1 h => h
    · exact .change fun t1 h => h
  · exact .pure

theorem Actr.attrs_keeps {c : Actr} {va : Word} : (c.attrs va).Keeps := by
  unfold Actr.attrs
  refine EM.Keeps.bind Actr.look_keeps fun x => ?_
  split
  · exact .pure
  · exact .throw

theorem Actr.pages_keeps {c : Actr} {va : Word} {n m : Nat} : (c.pages va n m).Keeps := by
  induction m generalizing va n with
  | zero => exact .pure
  | succ m ih =>
    simp only [Actr.pages]
    split
    · exact .pure
    · exact .bind Actr.attrs_keeps fun _ => .bind ih fun _ => .pure

theorem Actr.paged_keeps {c : Actr} {rows : List (Word × Nat)} : (c.paged rows).Keeps := by
  unfold Actr.paged
  exact .collect fun x => EM.Keeps.bind Actr.pages_keeps fun x1 => .pure
theorem Actr.uniform_keeps {c : Actr} {rows : List (Word × Nat)} : (c.uniform rows).Keeps := by
  unfold Actr.uniform
  exact EM.Keeps.bind Actr.paged_keeps fun x => .demand

/-! ### The Pavilion -/

theorem mmaPermit_keeps {c : Actr} {pav : Nat} {b : List Byte} : (mmaPermit c pav b).Keeps := by
  unfold mmaPermit
  exact .getBind fun t h => .demand

theorem mmaFind_keeps {c : Actr} {pav : Nat} {b : List Byte} : (mmaFind c pav b).Keeps := by
  unfold mmaFind
  dsimp only
  refine EM.Keeps.bind TName.find_keeps fun x => ?_
  split
  · exact EM.Keeps.bind TName.find_keeps fun x1 => .bind .pure fun x2 => .bind (.collect fun x3 =>
      TName.find_keeps) fun x3 => .bind (.collect fun x4 => TName.find_keeps) fun x4 => .pure
  · exact .bind .pure fun x1 => .bind (.collect fun x2 => TName.find_keeps) fun x2 => .bind (.collect fun x3 =>
      TName.find_keeps) fun x3 => .pure

theorem operandPage_keeps {c : Actr} {b : List Byte} {isB : Bool} {fmt : Nat} : (operandPage c b isB fmt).Keeps := by
  unfold operandPage
  split
  · refine EM.Keeps.bind Actr.attrs_keeps fun x => ?_
    split
    · split
      · exact .pure
      · exact .throw
  · exact .pure

theorem operandScales_keeps {c : Actr} {b : List Byte} {isB : Bool} {pg : Option PageScale} :
    (operandScales c b isB pg).Keeps := by
  unfold operandScales
  dsimp only
  split
  · exact EM.Keeps.bind Actr.num_keeps fun x => .pure
  · split
    · exact EM.Keeps.bind Actr.num_keeps fun x => .pure
    · exact .pure

theorem operandLines_keeps {c : Actr} {b : List Byte} {isB : Bool} {ts : List (TileRef × Tile)}
    {pg : Option PageScale} : (operandLines c b isB ts pg).Keeps := by
  unfold operandLines
  exact .bind (.collect fun x => EM.Keeps.bind Actr.tile_keeps fun x1 => .pure) fun x =>
    EM.Keeps.bind operandScales_keeps fun x1 => .pure

theorem absMerge_keeps {c : Actr} {va : Word} {x : Nat} : (absMerge c va x).Keeps := by
  unfold absMerge
  refine EM.Keeps.bind Actr.place_keeps fun x1 => ?_
  split
  · exact .getBind fun t h => .bind .demand fun _ => .change fun t1 h => h.pokeAt
  · exact .pure

theorem Product.cinBlock_keeps {x : Product} {c : Actr} {br bc m n : Nat} : (x.cinBlock c br bc m n).Keeps := by
  unfold Product.cinBlock
  dsimp only
  split
  · exact .bind (.collect fun x1 => Actr.num_keeps) fun x1 => .pure
  · exact .pure

theorem Product.keep_keeps {x : Product} {c : Actr} {j : Nat} {ps : List Partials} : (x.keep c j ps).Keeps := by
  unfold Product.keep
  exact EM.Keeps.bind Actr.noteIf_keeps fun _ => EM.Keeps.bind Actr.noteIf_keeps fun _ => .change fun t h => h.updCmd

theorem Product.block_keeps {x : Product} {c : Actr} {u br bc : Nat} {left : Option Nat} :
    (x.block c u br bc left).Keeps := by
  unfold Product.block
  refine .bind Actr.self_keeps fun k => .ite .pure ?_
  extract_lets cells as bs n hi f advance start
  have hadvance (ps : List Partials) : (advance ps).Keeps := by
    unfold advance
    extract_lets qs els rows top finish
    have hfinish (r : PUnit) : (finish r).Keeps :=
      .bind Actr.noteIf_keeps fun _ => .bind Actr.noteIf_keeps fun _ => .bind Actr.write_keeps fun _ =>
        .bind (.change fun s h => h.updCmd) fun _ => .pure
    exact .ite (.bind Product.keep_keeps fun _ => .bind .throw hfinish) (hfinish ())
  have hstart (r : PUnit) : (start r).Keeps :=
    .ite (.bind Product.cinBlock_keeps hadvance) (.bind .pure hadvance)
  exact .ite (.bind .throw hstart) (hstart ())

theorem Product.run_keeps {x : Product} {c : Actr} {left : Option Nat} : (x.run c left).Keeps := by
  unfold Product.run
  dsimp only
  refine .bind (.carry fun b x1 => Product.block_keeps) fun _ => ?_
  split
  · exact Actr.unit_keeps (EM.Keeps.bind Actr.self_keeps fun x2 => absMerge_keeps)
  · exact .pure

theorem prepMma_keeps {c : Actr} {pav : Nat} {b : List Byte} : (prepMma c pav b).Keeps := by
  unfold prepMma
  exact .bind .demand fun _ => EM.Keeps.bind mmaPermit_keeps fun _ => EM.Keeps.bind mmaFind_keeps fun x2 =>
    .bind .demand fun _ => .bind .demand fun _ => .getBind fun t h => .pure
theorem splitMma_keeps {c : Actr} {pav : Nat} {b : List Byte} : (splitMma c pav b).Keeps := by
  unfold splitMma
  exact EM.Keeps.bind mmaFind_keeps fun x => EM.Keeps.bind operandPage_keeps fun _ =>
    EM.Keeps.bind operandPage_keeps fun _ => .getBind fun t h => .each fun x3 => Actr.lockSource_keeps

theorem Product.ofBlock_keeps {c : Actr} {pav : Nat} {b : List Byte} {mask : Nat} {exact : Bool} {first : Nat} :
    (Product.ofBlock c pav b mask exact first).Keeps := by
  unfold Product.ofBlock
  exact EM.Keeps.bind mmaFind_keeps fun x => EM.Keeps.bind operandPage_keeps fun x1 =>
    EM.Keeps.bind operandPage_keeps fun x2 => EM.Keeps.bind operandLines_keeps fun x3 =>
    EM.Keeps.bind operandLines_keeps fun x4 => .pure

theorem runMma_keeps {c : Actr} {pav : Nat} {b : List Byte} {mask : Nat} {exact : Bool} {left : Option Nat} :
    (runMma c pav b mask exact left).Keeps := by
  unfold runMma
  exact EM.Keeps.bind Product.ofBlock_keeps fun x => Product.run_keeps

theorem prepFwd_keeps {c : Actr} {pav : Nat} {b : List Byte} : (prepFwd c pav b).Keeps := by
  unfold prepFwd
  exact .bind .demand fun _ => EM.Keeps.bind mmaPermit_keeps fun _ => EM.Keeps.bind Actr.permit_keeps fun _ =>
    EM.Keeps.bind Actr.permit_keeps fun _ => EM.Keeps.bind Actr.permit_keeps fun _ =>
    EM.Keeps.bind mmaFind_keeps fun x5 => .bind .demand fun _ => .bind .demand fun _ => .getBind fun t h => .pure

theorem splitFwd_keeps {c : Actr} {pav : Nat} {b : List Byte} : (splitFwd c pav b).Keeps := by
  unfold splitFwd
  exact EM.Keeps.bind splitMma_keeps fun _ => Actr.uniform_keeps

theorem runFwd_keeps {c : Actr} {pav : Nat} {b : List Byte} {mask : Nat} {exact : Bool} {left : Option Nat} :
    (runFwd c pav b mask exact left).Keeps := by
  unfold runFwd
  exact EM.Keeps.bind Product.ofBlock_keeps fun x => .bind (.collect fun x1 => Actr.num_keeps) fun x1 =>
    EM.Keeps.bind Actr.noteIf_keeps fun _ => EM.Keeps.bind (Actr.unit_keeps Actr.write_keeps) fun _ =>
    EM.Keeps.bind (Actr.unit_keeps Actr.write_keeps) fun _ => Product.run_keeps

theorem prepBwd_keeps {c : Actr} {pav : Nat} {b : List Byte} : (prepBwd c pav b).Keeps := by
  unfold prepBwd
  exact .bind .demand fun _ => .getBind fun t h => .bind .demand fun _ => EM.Keeps.bind TName.find_keeps fun x2 =>
    EM.Keeps.bind TName.find_keeps fun x3 => .bind .demand fun _ => .pure

theorem runBwd_keeps {c : Actr} {pav : Nat} {b : List Byte} : (runBwd c pav b).Keeps := by
  unfold runBwd
  exact EM.Keeps.bind TName.find_keeps fun x => EM.Keeps.bind TName.find_keeps fun x1 =>
    EM.Keeps.bind Actr.num_keeps fun x2 => .bind .demand fun _ => EM.Keeps.bind Actr.tile_keeps fun x4 =>
    EM.Keeps.bind Actr.noteIf_keeps fun _ => Actr.units_keeps fun x6 => Actr.row_keeps .pure

/-! ### Saving and restoring -/

theorem State.memOk.letGo {x : Launch} {p : Nat} {cmd : Option Cmd} {holder : Option Nat} (h : s.memOk) :
    (s.letGo x p cmd holder).memOk := by
  unfold State.letGo
  extract_lets mine uid pusher rest s1 s2 s3
  have h3 : s3.memOk := h
  split
  · split
    · exact h3.freeLease
    · exact h3
  · exact h3

theorem State.memOk.savePav {x : Launch} {j p : Nat} (h : s.memOk) : (s.savePav x j p).1.memOk := by
  unfold State.savePav
  extract_lets here cmd holder ours rm id exact c record parts
  clear_value here cmd holder ours rm id exact c record parts
  have hl (t : State) (cmd : Option Cmd) (ht : t.memOk) : (t.letGo x p cmd holder).memOk := ht.letGo
  split
  · exact h
  · split
    · exact h
    · split
      · exact h
      · exact hl s none h
    · refine State.memOk.iteFst h ?_
      split
      · exact hl s cmd h
      · split
        · exact hl _ cmd (Actr.write_keeps.run h ‹_›)
        · have ht := Actr.write_keeps.run h ‹_›
          split
          · have hu := ht.park ‹_›
            exact hu
          · exact ht
        · exact Actr.write_keeps.run h ‹_›
        · have ht := Actr.write_keeps.run h ‹_›
          split
          · exact ht.updCmd
          · exact hl _ none ht

theorem State.memOk.savePavsGo {x : Launch} {j : Nat} {l : List Nat} (h : s.memOk) :
    (State.savePavs.go x s j l).1.memOk := by
  induction l generalizing s j with
  | nil => exact h
  | cons p r ih =>
    simp only [State.savePavs.go]
    split <;> exact ih (h.savePav.fst ‹_›)

theorem State.memOk.savePavs {x : Launch} (h : s.memOk) : (s.savePavs x).1.memOk := h.savePavsGo

theorem Launch.readParts_keeps {x : Launch} {c : Actr} {j live n m w : Nat} : (x.readParts c j live n m w).Keeps := by
  unfold Launch.readParts
  refine .collect fun x1 => ?_
  split
  · exact .bind (.collect fun x2 => Actr.read_keeps) fun x2 => .pure
  · exact .pure

theorem Launch.readBack_keeps {x : Launch} {c : Actr} {j : Nat} {k : Cmd} : (x.readBack c j k).Keeps := by
  unfold Launch.readBack
  dsimp only
  refine EM.Keeps.bind Actr.read_keeps fun x1 => ?_
  split
  · exact .change fun t h => h.updCmd
  · split
    · exact .change fun t h => h.updCmd
    · split
      · exact .change fun t h => h.updCmd
      · exact EM.Keeps.bind Launch.readParts_keeps fun x2 => .change fun t h => h.updCmd

theorem Cmd.goOn_keeps {k : Cmd} {deny : Option Word} : (k.goOn deny).Keeps := by
  unfold Cmd.goOn
  refine .getBind fun t h => ?_
  split
  · exact Launch.readBack_keeps
  · exact .pure

/-! ### System instructions -/

theorem State.memOk.writePtroot {d : DieId} {v : Word} (h : s.memOk) : (s.writePtroot d v).memOk := by
  unfold State.writePtroot
  exact h.updDie

theorem State.memOk.writeS {n : SReg} {v : Word} (h : s.memOk) : (s.writeS n v).memOk := by
  unfold State.writeS
  dsimp only
  split
  · exact h.updMy
  · exact h.updCore
  · exact h.updCore
  · exact h.updCore
  · exact h.updCore
  · exact h.updCore
  · exact h.updCore.updDie
  · exact h.writePtroot
  · exact h

theorem State.memOk.execMovs {n : SReg} {a : Reg} (h : s.memOk) : Kept (execMovs n a s) := by
  unfold Machine.execMovs
  dsimp only
  refine h.issue fun t h => ?_
  split
  · split
    · exact .trap
    · refine h.src fun x t1 h => ?_
      split
      · exact h.writeS.keep
      · refine State.memOk.done ?_
        split
        · exact h.writeS.wake
        · exact h.writeS
  · split
    · exact h.src fun x t1 h => h.updMy.done
    · exact .trap

theorem State.memOk.execMovfs {d : Reg} {n : SReg} (h : s.memOk) : Kept (execMovfs d n s) := by
  unfold Machine.execMovfs
  refine h.issue fun t h => ?_
  split
  · exact .trap
  · exact h.put fun t1 h => h.done

theorem State.memOk.execRfe (h : s.memOk) : Kept (execRfe s) := by
  unfold Machine.execRfe
  refine h.issue fun t h => h.supervisor fun _ => ?_
  split
  · exact .trap
  · exact h.updMy.rfe.gone

theorem State.memOk.execWaitev {d : Reg} (h : s.memOk) : Kept (execWaitev d s) := by
  unfold Machine.execWaitev
  dsimp only
  refine h.issue fun t h => h.supervisor fun _ => ?_
  split
  · exact h.put fun t1 h => h.done
  · exact .waitFor

theorem State.memOk.execCtxSw {a : Reg} (h : s.memOk) : Kept (execCtxSw a s) := by
  unfold Machine.execCtxSw
  dsimp only
  refine h.issue fun t h => h.supervisor fun _ => h.src fun x1 t1 h => ?_
  split
  · exact h.updCore.done
  · split
    · exact h.thenPost fun t2 h => h.unbind.ready.updCore.bind
    · exact h.done

theorem State.memOk.execTlbInv {a : Reg} (h : s.memOk) : Kept (execTlbInv a s) := by
  unfold Machine.execTlbInv
  dsimp only
  refine h.issue fun t h => h.supervisor fun _ => ?_
  split
  · exact .trap
  · split
    · exact .wait
    · exact h.done
  · refine h.src fun x1 t1 h => ?_
    split
    · exact .trap
    · split
      · exact .wait
      · split
        · exact .trap
        · exact h.askSpread.hold
        · exact ((h.foldl fun t2 a1 h => h.send).updMy).hold

theorem State.memOk.blank {lo n : Nat} (h : s.memOk) : (s.blank lo n).memOk := State.memOk_blank lo n h

theorem State.memOk.execSecFlush (h : s.memOk) : Kept (execSecFlush s) := by
  unfold Machine.execSecFlush
  dsimp only
  refine h.issue fun t h => h.supervisor fun _ => ?_
  split
  · exact .wait
  · refine ((h.updCore.updHome.foldl fun t1 a h => ?_).blank).done
    split
    · exact h
    · exact h.setFrame

theorem State.memOk.preemptGoOn {x : Launch} (h : s.memOk) : (preemptGoOn s x).memOk := by
  unfold Machine.preemptGoOn
  extract_lets s1
  have h1 : s1.memOk := h.putAllAway
  have hs : (if s1.allAway x s1.me then s1.savePavs x else (s1, false)).1.memOk := by
    split
    · exact h1.savePavs
    · exact h1
  split
  · exact (hs.fst ‹_›).updMy.hold
  · have ht := hs.fst ‹_›
    dsimp only
    split
    · exact ht.thenPost fun t h => h.putAway
    · exact ht.done

theorem State.memOk.execPreempt {a : Reg} (h : s.memOk) : Kept (execPreempt a s) := by
  unfold Machine.execPreempt
  dsimp only
  refine h.issue fun t h => h.supervisor fun _ => h.src fun x1 t1 h => ?_
  split
  · exact h.done
  · split
    · exact h.updLaunch.done
    · exact h.freeze.preemptGoOn
    · exact h.preemptGoOn
    · exact h.done

theorem State.memOk.execResume {a : Reg} (h : s.memOk) : Kept (execResume a s) := by
  unfold Machine.execResume
  dsimp only
  refine h.issue fun t h => h.supervisor fun _ => h.src fun x1 t1 h => ?_
  split
  · exact h.done
  · split
    · exact h.thaw.done
    · exact h.updLaunch.done
    · exact h.done

/-! ### Bring-up -/

theorem State.memOk.setStatus {m : Nat} {f : Module → Module} (h : s.memOk) : (s.setStatus m f).memOk := by
  unfold State.setStatus
  dsimp only
  split
  · exact h.updModule
  · split
    · exact h
    · exact h.updModule

theorem State.memOk.wipe {m : Nat} (h : s.memOk) : (s.wipe m).memOk := Memory.wf_filter _ h
theorem State.memOk.writeMaps {m : Nat} {p : Sys2Proof.Part} (h : s.memOk) : (s.writeMaps m p).memOk := by
  unfold State.writeMaps
  exact h.foldl fun t a h => h.blank.poke

theorem State.memOk.runSteps {m : Nat} (h : s.memOk) : (s.runSteps m).memOk := by
  unfold State.runSteps
  dsimp only
  split
  · exact h.setStatus
  · exact h.writeMaps.setStatus

theorem State.memOk.verify {m : Nat} (h : s.memOk) : (s.verify m).memOk := by
  unfold State.verify
  dsimp only
  split
  · exact State.memOk.runSteps h
  · exact State.memOk.setStatus h

theorem State.memOk.loadImage {m image : Nat} (h : s.memOk) : (s.loadImage m image).memOk := by
  unfold State.loadImage
  dsimp only
  split
  · exact h.updModule.verify
  · exact h.updModule

theorem State.memOk.execI3cEntdaa {m : Nat} {addr : BitVec 7} (h : s.memOk) : Kept (execI3cEntdaa m addr s) := by
  unfold Machine.execI3cEntdaa
  refine State.memOk.occurs ?_ h
  split <;> exact h

theorem State.memOk.renumber {m n : Nat} (h : s.memOk) : (s.renumber m n).memOk := by
  have hplace (f : Nat → Nat) (l r : List Host.Cell) (hr : Memory.wf r = true) : Memory.wf (Memory.place f l r) =
    true := by
    induction l generalizing r with
    | nil => exact hr
    | cons c l ih => exact ih _ (Memory.wf_set _ _ hr)
  change Memory.wf (s.renumber m n).mem = true
  rw [State.renumber_mem]
  exact hplace _ _ _ (Memory.wf_filter _ h)

theorem State.memOk.fresh {m : Nat} (h : s.memOk) : (s.fresh m).memOk := Memory.wf_filter _ h

theorem State.memOk.execHedgerowLinkTraining {m number : Nat} (h : s.memOk) : Kept
    (execHedgerowLinkTraining m number s) := by
  unfold Machine.execHedgerowLinkTraining
  dsimp only
  refine (State.memOk.updModule ?_).occurs h
  split
  · exact h
  · exact h.fresh.renumber

/-! ### The Barrow -/

theorem Actr.copyRow_keeps {c : Actr} {src dst : Spot} {n : Nat} : (c.copyRow src dst n).Keeps := by
  unfold Actr.copyRow
  exact Actr.row_keeps Actr.read_keeps

theorem prepCopy2d_keeps {c : Actr} {b : List Byte} : (prepCopy2d c b).Keeps := by
  unfold prepCopy2d
  exact .bind .demand fun _ => EM.Keeps.bind Desc.permit_keeps fun _ => EM.Keeps.bind Desc.permit_keeps fun _ =>
    EM.Keeps.bind Desc.region_keeps fun x3 => EM.Keeps.bind Desc.region_keeps fun x4 => .bind .demand fun _ =>
    .bind .apart fun _ => .pure

theorem runCopy2d_keeps {c : Actr} {b : List Byte} : (runCopy2d c b).Keeps := by
  unfold runCopy2d
  exact EM.Keeps.bind Desc.region_keeps fun x => EM.Keeps.bind Desc.region_keeps fun x1 => Actr.units_keeps fun x2 =>
    Actr.copyRow_keeps
theorem Actr.indices_keeps {c : Actr} {va : Word} {n size : Nat} : (c.indices va n size).Keeps := by
  unfold Actr.indices
  exact EM.Keeps.bind Actr.num_keeps fun x => .pure

theorem prepCopyIdx_keeps {c : Actr} {b : List Byte} : (prepCopyIdx c b).Keeps := by
  unfold prepCopyIdx
  dsimp only
  refine .bind .demand fun _ => EM.Keeps.bind Desc.permit_keeps fun _ => EM.Keeps.bind Desc.permit_keeps fun _ =>
    EM.Keeps.bind Actr.permit_keeps fun _ => EM.Keeps.bind Desc.region_keeps fun x4 =>
    EM.Keeps.bind Desc.region_keeps fun x5 => .bind .demand fun _ => ?_
  split <;> exact .bind .apart fun _ => .bind .apart fun _ => .pure

theorem runCopyIdx_keeps {c : Actr} {b : List Byte} : (runCopyIdx c b).Keeps := by
  unfold runCopyIdx
  dsimp only
  refine EM.Keeps.bind Desc.region_keeps fun x => EM.Keeps.bind Desc.region_keeps fun x1 =>
    EM.Keeps.bind Actr.indices_keeps fun x2 => .bind .demand fun _ => Actr.units_keeps fun x4 => ?_
  split <;> exact Actr.copyRow_keeps

theorem prepSparse_keeps {c : Actr} {b : List Byte} {pack : Bool} : (prepSparse c b pack).Keeps := by
  unfold prepSparse
  exact .bind .demand fun _ => EM.Keeps.bind Desc.permit_keeps fun _ => .getBind fun t h => .bind .demand fun _ =>
    EM.Keeps.bind Desc.region_keeps fun x3 => .bind .demand fun _ => EM.Keeps.bind Actr.permit_keeps fun _ =>
    EM.Keeps.bind Actr.permit_keeps fun _ => .pure

theorem splitSparse_keeps {c : Actr} {b : List Byte} {pack : Bool} : (splitSparse c b pack).Keeps := by
  unfold splitSparse
  exact EM.Keeps.bind Desc.region_keeps fun x => EM.Keeps.bind Actr.uniform_keeps fun _ => Actr.uniform_keeps
theorem runExpand_keeps {c : Actr} {b : List Byte} : (runExpand c b).Keeps := by
  unfold runExpand
  exact EM.Keeps.bind Desc.region_keeps fun x => EM.Keeps.bind Actr.num_keeps fun x1 => Actr.units_keeps fun x2 =>
    Actr.row_keeps (EM.Keeps.bind Actr.num_keeps fun x3 => EM.Keeps.bind Actr.noteIf_keeps fun _ => .pure)
theorem runCompact_keeps {c : Actr} {b : List Byte} : (runCompact c b).Keeps := by
  unfold runCompact
  exact EM.Keeps.bind Desc.region_keeps fun x => .bind (.collect fun x1 => EM.Keeps.bind Actr.num_keeps fun x2 =>
    EM.Keeps.bind (Actr.unit_keeps (Actr.row_keeps .pure)) fun _ => .pure) fun x1 => Actr.unit_keeps Actr.write_keeps

theorem prepConvert_keeps {c : Actr} {b : List Byte} : (prepConvert c b).Keeps := by
  unfold prepConvert
  exact .bind .demand fun _ => EM.Keeps.bind Desc.permit_keeps fun _ => EM.Keeps.bind Desc.permit_keeps fun _ =>
    EM.Keeps.bind Desc.region_keeps fun x3 => EM.Keeps.bind Desc.region_keeps fun x4 => .bind .demand fun _ =>
    .bind .apart fun _ => .pure

theorem Side.attrs_keeps {x : Side} {c : Actr} {elems : Nat} {store : Bool} : (x.attrs c elems store).Keeps := by
  unfold Side.attrs
  dsimp only
  refine EM.Keeps.bind Actr.paged_keeps fun x1 => ?_
  split
  · exact .pure
  · exact .bind .demand fun _ => .bind .demand fun _ => .bind .demand fun _ => .pure

theorem splitConvert_keeps {c : Actr} {b : List Byte} : (splitConvert c b).Keeps := by
  unfold splitConvert
  exact EM.Keeps.bind Side.attrs_keeps fun _ => EM.Keeps.bind Side.attrs_keeps fun _ => .pure

theorem Actr.scaleOf_keeps {c : Actr} {geo fmt : Nat} {va : Word} : (c.scaleOf geo fmt va).Keeps := by
  unfold Actr.scaleOf
  split
  · refine EM.Keeps.bind Actr.attrs_keeps fun x => ?_
    split
    exact EM.Keeps.bind Actr.num_keeps fun x => .pure
  · exact .pure

theorem Side.scales_keeps {x : Side} {c : Actr} {fmt geo : Nat} {va : Word} {elems : Nat} :
    (x.scales c fmt geo va elems).Keeps := by
  unfold Side.scales
  split
  · exact .collect fun x1 => Actr.scaleOf_keeps
  · exact .pure

theorem runConvert_keeps {c : Actr} {b : List Byte} : (runConvert c b).Keeps := by
  unfold runConvert
  refine .bind Desc.region_keeps fun p => .bind Desc.region_keeps fun q => .bind Side.attrs_keeps fun x =>
    .bind Side.attrs_keeps fun y => ?_
  exact Actr.units_keeps fun r => Actr.row_keeps <| .bind Actr.num_keeps fun row => .bind Side.scales_keeps fun ss =>
    .bind Side.scales_keeps fun ds => .bind Actr.noteIf_keeps fun _ => .bind Actr.noteIf_keeps fun _ => .pure

theorem prepFill_keeps {c : Actr} {b : List Byte} : (prepFill c b).Keeps := by
  unfold prepFill
  exact .bind .demand fun _ => EM.Keeps.bind Desc.permit_keeps fun _ => EM.Keeps.bind Desc.region_keeps fun x2 =>
    .bind .demand fun _ => .pure
theorem runFill_keeps {c : Actr} {b : List Byte} : (runFill c b).Keeps := by
  unfold runFill
  exact EM.Keeps.bind Desc.region_keeps fun x => Actr.units_keeps fun x1 => Actr.row_keeps .pure

/-! ### The Gleaner -/

theorem Actr.sample_keeps {c : Actr} {va : Word} : (c.sample va).Keeps := by
  unfold Actr.sample
  dsimp only
  refine EM.Keeps.bind Actr.place_keeps fun x => ?_
  split
  · exact .getBind fun t h => .bind .demand fun _ => .bind (.change fun t1 h => h.pokeAt) fun _ => .pure
  · exact .throw

theorem Actr.unsample_keeps {c : Actr} {va : Word} {slot : Nat} : (c.unsample va slot).Keeps := by
  unfold Actr.unsample
  refine EM.Keeps.bind Actr.place_keeps fun x => ?_
  split
  · exact .getBind fun t h => .bind .demand fun _ => .change fun t1 h => h.pokeAt
  · exact .pure

theorem Actr.tableRow_keeps {c : Actr} {t : Table} {r : Nat} : (c.tableRow t r).Keeps := by
  unfold Actr.tableRow
  exact EM.Keeps.bind Actr.permit_keeps fun _ => Actr.read_keeps

theorem resolveAll_keeps {c : Actr} {code : Nat} {t : Table} {va : Nat → Word} {ix : List Nat} :
    (resolveAll c code t va ix).Keeps := by
  unfold resolveAll
  dsimp only
  split
  · exact .throw
  · exact EM.Keeps.bind Actr.noteIf_keeps fun _ => .pure

theorem Actr.posRow_keeps {c : Actr} {t : Table} {p : Option Nat} : (c.posRow t p).Keeps := by
  unfold Actr.posRow
  split
  · exact Actr.tableRow_keeps
  · exact .pure

theorem fitRows_keeps {r : Region} {n len : Nat} : (fitRows r n len).Keeps := by
  unfold fitRows
  exact .demand
theorem prepGather_keeps {c : Actr} {b : List Byte} {dst : Bool} : (prepGather c b dst).Keeps := by
  unfold prepGather
  exact .bind .demand fun _ => EM.Keeps.bind Actr.permit_keeps fun _ => EM.Keeps.bind Actr.permit_keeps fun _ =>
    EM.Keeps.bind Desc.permit_keeps fun _ => EM.Keeps.bind Desc.region_keeps fun x4 => .bind .demand fun _ => .pure

theorem runGather_keeps {c : Actr} {b : List Byte} {t : Table} : (runGather c b t).Keeps := by
  unfold runGather
  exact EM.Keeps.bind Desc.region_keeps fun x => EM.Keeps.bind fitRows_keeps fun _ =>
    EM.Keeps.bind (Actr.planned_keeps (EM.Keeps.bind Actr.indices_keeps fun x2 => resolveAll_keeps)) fun x2 =>
    Actr.units_keeps fun x3 => Actr.row_keeps Actr.posRow_keeps

theorem prepPool_keeps {c : Actr} {b : List Byte} : (prepPool c b).Keeps := by
  unfold prepPool
  exact .bind .demand fun _ => EM.Keeps.bind Actr.permit_keeps fun _ => EM.Keeps.bind Actr.permit_keeps fun _ =>
    EM.Keeps.bind Desc.permit_keeps fun _ => .getBind fun t h => .bind .demand fun _ =>
    EM.Keeps.bind Desc.region_keeps fun x5 => .bind .demand fun _ => .pure

theorem splitPool_keeps {c : Actr} {b : List Byte} : (splitPool c b).Keeps := by
  unfold splitPool
  refine EM.Keeps.bind Actr.uniform_keeps fun _ => ?_
  split
  · exact EM.Keeps.bind Actr.num_keeps fun x1 => Actr.uniform_keeps
  · exact .pure

theorem runPool_keeps {c : Actr} {b : List Byte} {t : Table} : (runPool c b t).Keeps := by
  unfold runPool
  dsimp only
  refine .bind .demand fun _ => EM.Keeps.bind Desc.region_keeps fun x1 => EM.Keeps.bind fitRows_keeps fun _ =>
    EM.Keeps.bind Actr.indices_keeps fun x3 => .bind .demand fun _ => EM.Keeps.bind Actr.permit_keeps fun _ =>
    EM.Keeps.bind Actr.lockSource_keeps fun _ => ?_
  split
  · refine EM.Keeps.bind Actr.permit_keeps fun _ => EM.Keeps.bind Actr.lockSource_keeps fun _ =>
      EM.Keeps.bind (Actr.planned_keeps (EM.Keeps.bind Actr.indices_keeps fun x9 => resolveAll_keeps)) fun x9 =>
      EM.Keeps.bind Actr.indices_keeps fun x10 => Actr.units_keeps fun x11 =>
      Actr.row_keeps (.bind (.collect fun x12 => ?_) fun x12 => EM.Keeps.bind Actr.noteIf_keeps fun _ =>
      EM.Keeps.bind Actr.noteIf_keeps fun _ => .pure)
    split
    · exact EM.Keeps.bind Actr.tableRow_keeps fun x12 => .pure
    · exact .pure
  · refine EM.Keeps.bind (Actr.planned_keeps (EM.Keeps.bind Actr.indices_keeps fun x7 => resolveAll_keeps)) fun x7 =>
      .bind .pure fun x8 => Actr.units_keeps fun x9 => Actr.row_keeps (.bind (.collect fun x10 => ?_) fun x10 =>
      EM.Keeps.bind Actr.noteIf_keeps fun _ => EM.Keeps.bind Actr.noteIf_keeps fun _ => .pure)
    split
    · exact EM.Keeps.bind Actr.tableRow_keeps fun x10 => .pure
    · exact .pure

theorem splitScatter_keeps {c : Actr} {b : List Byte} : (splitScatter c b).Keeps := by
  unfold splitScatter
  exact Actr.uniform_keeps

theorem runScatter_keeps {c : Actr} {b : List Byte} {t : Table} : (runScatter c b t).Keeps := by
  unfold runScatter
  exact .bind .demand fun _ => EM.Keeps.bind Desc.region_keeps fun x1 => EM.Keeps.bind fitRows_keeps fun _ =>
    .bind .demand fun _ => EM.Keeps.bind (Actr.planned_keeps (EM.Keeps.bind Actr.indices_keeps fun x4 =>
    resolveAll_keeps)) fun x4 => .bind (.collect fun x5 => EM.Keeps.bind Actr.num_keeps fun x6 => .pure) fun x5 =>
    EM.Keeps.bind Actr.noteIf_keeps fun _ => Actr.units_keeps fun x7 => EM.Keeps.bind Actr.permit_keeps fun _ =>
    Actr.row_keeps (EM.Keeps.bind Actr.tableRow_keeps fun x9 => EM.Keeps.bind Actr.noteIf_keeps fun _ => .pure)

theorem prepChain_keeps {c : Actr} {b : List Byte} : (prepChain c b).Keeps := by
  unfold prepChain
  exact .bind .demand fun _ => EM.Keeps.bind Actr.permit_keeps fun _ => EM.Keeps.bind Actr.permit_keeps fun _ =>
    .bind (.each fun x3 => Actr.permit_keeps) fun _ => EM.Keeps.bind Desc.permit_keeps fun _ =>
    EM.Keeps.bind Desc.region_keeps fun x5 => .bind .demand fun _ => .pure

theorem Actr.bounded_keeps {c : Actr} {policy bound level slot : Nat} {p : Nat × Word} :
    (c.bounded policy bound level slot p).Keeps := by
  unfold Actr.bounded
  split
  · exact .throw
  · exact EM.Keeps.bind Actr.noteIf_keeps fun _ => .pure

theorem chainLevel_keeps {c : Actr} {b : List Byte} {slot : Nat} {p : Option (Nat × Word)} {l : Nat} :
    (chainLevel c b slot p l).Keeps := by
  unfold chainLevel
  dsimp only
  split
  · exact .pure
  · refine EM.Keeps.bind Actr.bounded_keeps fun x => ?_
    split
    · exact .pure
    · split
      · exact EM.Keeps.bind Actr.permit_keeps fun _ => EM.Keeps.bind Actr.num_keeps fun x1 => .pure
      · exact EM.Keeps.bind Actr.num_keeps fun x => .pure

theorem chainPos_keeps {c : Actr} {b : List Byte} {t : Table} {i : Nat} : (chainPos c b t i).Keeps := by
  unfold chainPos
  dsimp only
  refine .bind (.carry fun b1 x => chainLevel_keeps) fun x => ?_
  split
  · exact .pure
  · exact Actr.bounded_keeps

theorem runChain_keeps {c : Actr} {b : List Byte} {t : Table} : (runChain c b t).Keeps := by
  unfold runChain
  exact EM.Keeps.bind Desc.region_keeps fun x => EM.Keeps.bind fitRows_keeps fun _ =>
    EM.Keeps.bind (Actr.planned_keeps (.collect fun x2 => chainPos_keeps)) fun x2 => Actr.units_keeps fun x3 =>
    Actr.row_keeps Actr.posRow_keeps

theorem prepRoute_keeps {c : Actr} {b : List Byte} : (prepRoute c b).Keeps := by
  unfold prepRoute
  dsimp only
  refine .bind .demand fun _ => EM.Keeps.bind Actr.permit_keeps fun _ => EM.Keeps.bind Actr.permit_keeps fun _ =>
    EM.Keeps.bind Actr.permit_keeps fun _ => EM.Keeps.bind Actr.permit_keeps fun _ =>
    EM.Keeps.bind Actr.permit_keeps fun _ => ?_
  split
  · refine EM.Keeps.bind Actr.permit_keeps fun _ => ?_
    split
    · exact EM.Keeps.bind Actr.permit_keeps fun _ => .pure
    · exact .pure
  · split
    · exact EM.Keeps.bind Actr.permit_keeps fun _ => .pure
    · exact .pure

theorem Actr.postHome_keeps {c : Actr} {va : Word} : (c.postHome va).Keeps := by
  intro s h
  unfold Actr.postHome
  dsimp only
  split
  · exact h.findHome.fst ‹_›
  · have ht := h.findHome.fst ‹_›
    split
    · exact ht
    · split
      · exact ht.record
      · exact ht
    · exact ht.record

theorem Actr.send_keeps {c : Actr} {k : Home → PKind} {last va : Word} : (c.send k last va).Keeps := by
  unfold Actr.send
  refine EM.Keeps.bind Actr.postHome_keeps fun x => ?_
  split
  · exact .pure
  · refine EM.Keeps.bind Actr.postHome_keeps fun x => ?_
    split
    · exact .pure
    · exact .change fun t h => h.send

theorem routeHot_keeps {c : Actr} {b : List Byte} {seen : Machine.SMap Nat} : (routeHot c b seen).Keeps := by
  unfold routeHot
  exact EM.Keeps.bind (Actr.units_keeps fun x => Actr.send_keeps) fun _ => Actr.units_keeps fun x1 => Actr.send_keeps

theorem runRoute_keeps {c : Actr} {b : List Byte} {t : Table} : (runRoute c b t).Keeps := by
  unfold runRoute
  dsimp only
  refine .bind .demand fun _ => EM.Keeps.bind (Actr.planned_keeps (EM.Keeps.bind Actr.indices_keeps fun x1 =>
    .bind .demand fun _ => .bind (.collect fun x3 => EM.Keeps.bind Actr.tableRow_keeps fun x4 => .pure) fun x3 =>
    .bind .demand fun _ => .pure)) fun x1 => EM.Keeps.bind (Actr.unit_keeps Actr.write_keeps) fun _ =>
    EM.Keeps.bind (Actr.unit_keeps Actr.write_keeps) fun _ =>
    EM.Keeps.bind (Actr.unit_keeps Actr.write_keeps) fun _ => EM.Keeps.bind (Actr.unit_keeps ?_) fun _ => ?_
  · split
    · exact Actr.write_keeps
    · exact .pure
  · split
    · exact routeHot_keeps
    · exact .pure

/-! ### The Trellis -/

theorem prepWalk_keeps {c : Actr} {b : List Byte} : (prepWalk c b).Keeps := by
  unfold prepWalk
  exact .bind .demand fun _ => EM.Keeps.bind Actr.permit_keeps fun _ => EM.Keeps.bind Actr.permit_keeps fun _ =>
    EM.Keeps.bind Actr.permit_keeps fun _ => .getBind fun t h => .bind .demand fun _ => .bind (.collect fun x5 =>
    TName.find_keeps) fun x5 => .bind .demand fun _ => EM.Keeps.bind Actr.read_keeps fun x7 => .bind .demand fun _ =>
    .pure

theorem WalkEnv.bounds_keeps {α : Type} {w : Walker} : (WalkEnv.bounds w : EM α).Keeps := by
  unfold WalkEnv.bounds
  exact .throw

theorem WalkEnv.stream_keeps {v : WalkEnv} {w : Walker} {x o n : Nat} : (v.stream w x o n).Keeps := by
  unfold WalkEnv.stream
  split
  · split
    · exact Actr.num_keeps
    · exact WalkEnv.bounds_keeps

theorem WalkEnv.emit_keeps {v : WalkEnv} {w : Walker} {t row col n : Nat} {f : Nat → Nat} :
    (v.emit w t row col n f).Keeps := by
  unfold WalkEnv.emit
  dsimp only
  split
  · exact .pure
  · split
    · exact WalkEnv.bounds_keeps
    · exact Actr.write_keeps

theorem WalkEnv.openTile_keeps {v : WalkEnv} {w : Walker} {t : Nat} : (v.openTile w t).Keeps := by
  unfold WalkEnv.openTile
  split
  exact .getBind fun t1 h => .bind .demand fun _ => EM.Keeps.bind Actr.write_keeps fun _ =>
    .bind (.change fun t2 h => h.updTile.updCmd) fun _ => .pure

theorem WalkEnv.closeTile_keeps {v : WalkEnv} {w : Walker} {t : Nat} : (v.closeTile w t).Keeps := by
  unfold WalkEnv.closeTile
  split
  · exact .bind (.change fun s h => h.tileBack) fun _ => .pure
  · exact .pure

theorem WalkEnv.word_keeps {v : WalkEnv} {w : Walker} {x : Nat} : (v.word w x).Keeps := by
  unfold WalkEnv.word
  dsimp only
  split
  · exact EM.Keeps.bind WalkEnv.stream_keeps fun x1 => .pure
  · exact EM.Keeps.bind WalkEnv.stream_keeps fun x1 => .pure
  · exact .pure
  · exact .pure
  · exact .pure
  · exact .pure
  · exact .pure
  · exact .pure
  · exact .pure
  · exact .pure
  · exact .pure
  · exact .pure
  · exact .pure
  · exact EM.Keeps.bind WalkEnv.emit_keeps fun _ => .pure
  · split
    · exact .pure
    · exact EM.Keeps.bind WalkEnv.stream_keeps fun x1 => EM.Keeps.bind WalkEnv.emit_keeps fun _ => .pure
  · split
    · exact EM.Keeps.bind WalkEnv.openTile_keeps fun x1 => .pure
    · exact EM.Keeps.bind WalkEnv.closeTile_keeps fun x1 => .pure
  · exact EM.Keeps.bind WalkEnv.stream_keeps fun x1 => EM.Keeps.bind WalkEnv.stream_keeps fun x2 =>
      EM.Keeps.bind WalkEnv.emit_keeps fun _ => .pure
  · exact .pure

theorem WalkEnv.wordAt_keeps {v : WalkEnv} {p : WalkAt} {x : Nat} : (v.wordAt p x).Keeps := by
  intro s h
  unfold WalkEnv.wordAt
  split
  · have ht := WalkEnv.word_keeps.run h ‹_›
    change State.memOk (if _ then _ else _)
    split
    · exact ht.updCmd
    · exact ht
  · exact WalkEnv.word_keeps s h

theorem WalkEnv.go_keeps {v : WalkEnv} {n m : Nat} {x : Walker} : (v.go n m x).Keeps := by
  induction n generalizing m x with
  | zero => exact .throw
  | succ n ih =>
    simp only [WalkEnv.go]
    split
    · exact .throw
    · refine .bind WalkEnv.wordAt_keeps fun y => ?_
      split
      · split
        · exact .throw
        · exact ih
      · exact Actr.note_keeps

theorem runWalk_keeps {c : Actr} {x : List Byte} {from? : Option WalkAt} : (runWalk c x from?).Keeps := by
  unfold runWalk
  dsimp only
  refine .getBind fun t h => ?_
  split <;> exact WalkEnv.go_keeps

/-! ### Engine commands -/

theorem prepOf_keeps {e : Eng} {c : Actr} {code : Nat} {b : List Byte} : (prepOf e c code b).Keeps := by
  unfold prepOf
  split
  · exact prepMma_keeps
  · exact prepFwd_keeps
  · exact prepBwd_keeps
  · exact prepCopy2d_keeps
  · exact prepCopyIdx_keeps
  · exact prepSparse_keeps
  · exact prepSparse_keeps
  · exact prepConvert_keeps
  · exact prepFill_keeps
  · exact prepGather_keeps
  · exact prepPool_keeps
  · exact prepGather_keeps
  · exact prepChain_keeps
  · exact prepRoute_keeps
  · exact prepWalk_keeps

theorem splitOf_keeps {e : Eng} {c : Actr} {code : Nat} {b : List Byte} : (splitOf e c code b).Keeps := by
  unfold splitOf
  split
  · exact splitMma_keeps
  · exact splitFwd_keeps
  · exact splitSparse_keeps
  · exact splitSparse_keeps
  · exact splitConvert_keeps
  · exact splitPool_keeps
  · exact splitScatter_keeps
  · exact .pure

theorem runOf_keeps {e : Eng} {c : Actr} {k : Cmd} {left : Option Nat} : (runOf e c k left).Keeps := by
  unfold runOf
  dsimp only
  split
  · exact runMma_keeps
  · exact runFwd_keeps
  · exact runBwd_keeps
  · exact runCopy2d_keeps
  · exact runCopyIdx_keeps
  · exact runExpand_keeps
  · exact runCompact_keeps
  · exact runConvert_keeps
  · exact runFill_keeps
  · exact runGather_keeps
  · exact runPool_keeps
  · exact runScatter_keeps
  · exact runChain_keeps
  · exact runRoute_keeps
  · exact runWalk_keeps

theorem Push.header_keeps {p : Push} {c : Actr} : (p.header c).Keeps := by
  unfold Push.header
  exact .getBind fun t h => .bind .demand fun _ => .bind .demand fun _ => .bind .demand fun _ => Actr.read_keeps
theorem Push.checks_keeps {p : Push} {c : Actr} {x : List Byte} : (p.checks c x).Keeps := by
  unfold Push.checks
  exact .getBind fun t h => .bind .demand fun _ => .bind .demand fun _ => EM.Keeps.bind Actr.read_keeps fun x3 =>
    .bind .demand fun _ => EM.Keeps.bind prepOf_keeps fun x5 => .pure
theorem State.memOk.ended {id status detail : Nat} {va : Option Word} (h : s.memOk) :
    (s.ended id status detail va).memOk := by
  unfold State.ended
  exact h.updCmd

theorem State.memOk.stopCmd {t : State} {id : Nat} {c : Cmd} {deny : Bool} {x : EStop} (h : s.memOk) (ht : t.memOk) :
    (s.stopCmd t id c deny x).memOk := by
  unfold State.stopCmd
  split
  · exact ht.ended.moved
  · exact ht.ended.moved
  · split
    · exact h.ended.moved
    · exact ht.updCmd.moved
  · split
    · exact h.ended.moved
    · exact ht.updCmd.moved
  · exact ht.ended.moved
  · split
    · exact .stands
    · exact ht.moved
  · split
    · exact ht.ended.moved
    · split
      · exact ((ht.park ‹_›).updCmd).moved
      · exact ht.updCmd.moved

theorem Cmd.tableOk_keeps {c : Cmd} {a : Actr} : (c.tableOk a).Keeps := by
  unfold Cmd.tableOk
  dsimp only
  split
  · exact .bind .demand fun _ => .getBind fun t h => .demand
  · exact .pure

theorem Cmd.sample_keeps {c : Cmd} {a : Actr} : (c.sample a).Keeps := by
  unfold Cmd.sample
  dsimp only
  split
  · exact EM.Keeps.bind Actr.sample_keeps fun x => .change fun t h => h.updCmd
  · exact .pure

theorem State.memOk.seize {c : Cmd} (h : s.memOk) : (s.seize c).memOk := by
  unfold State.seize
  split
  · exact h
  · exact h.foldl fun t a h => h.updTile

theorem State.memOk.begin {c : Cmd} (h : s.memOk) : (s.begin c).memOk := by
  unfold State.begin
  dsimp only
  split
  · exact h
  · refine (State.memOk.updCmd ?_).seize
    split
    · exact h.boundary
    · exact h

theorem Cmd.start_keeps {c : Cmd} : c.start.Keeps := by
  unfold Cmd.start
  dsimp only
  refine .getBind fun t h => .bind .demand fun _ => ?_
  split
  · exact .bind .throw fun _ => EM.Keeps.set h.begin
  · exact EM.Keeps.set h.begin

theorem Cmd.work_keeps {a : Actr} {left : Option Nat} : (Cmd.work a left).Keeps := by
  unfold Cmd.work
  exact EM.Keeps.bind Actr.self_keeps fun x => EM.Keeps.bind Cmd.goOn_keeps fun _ =>
    EM.Keeps.bind Actr.self_keeps fun x2 => EM.Keeps.bind Cmd.sample_keeps fun _ =>
    EM.Keeps.bind Actr.self_keeps fun x4 => EM.Keeps.bind Cmd.tableOk_keeps fun _ =>
    EM.Keeps.bind splitOf_keeps fun _ => EM.Keeps.bind Cmd.start_keeps fun _ =>
    EM.Keeps.bind Actr.self_keeps fun x8 => runOf_keeps

theorem State.memOk.runCmd {id : Nat} {deny : Option Word} {left : Option Nat} (h : s.memOk) :
    (s.runCmd id deny left).memOk := by
  unfold State.runCmd
  split
  · exact .stands
  · split
    · have ht := Cmd.work_keeps.run h ‹_›
      split
      · exact h.ended
      · exact ht.ended
    · exact h.stopCmd (Cmd.work_keeps.run h ‹_›)

theorem State.memOk.admitCmd {p : Push} {c : Cmd} (h : s.memOk) : (s.admitCmd p c).memOk := by
  unfold State.admitCmd
  exact State.memOk.wake h

theorem State.memOk.stopPush {t : State} {p : Push} {x : List Byte} {deny : Bool} {y : EStop} (h : s.memOk)
    (ht : t.memOk) : (s.stopPush t p x deny y).memOk := by
  unfold State.stopPush
  split
  · exact ht.admitCmd.moved
  · exact ht.admitCmd.moved
  · exact .stands
  · exact .stands
  · exact ht.admitCmd.moved
  · exact .stands
  · split
    · exact ht.admitCmd.moved
    · split
      · have hu := h.park ‹_›
        exact hu
      · exact h

theorem State.memOk.take {p : Push} {deny : Option Word} {left : Option Nat} (h : s.memOk) :
    (s.take p deny left).memOk := by
  unfold State.take
  extract_lets c
  split
  · exact h.stopPush (Push.header_keeps.run h ‹_›)
  · have h1 := Push.header_keeps.run h ‹_›
    split
    · exact h.stopPush (Push.checks_keeps.run h1 ‹_›)
    · have h2 := Push.checks_keeps.run h1 ‹_›
      extract_lets ls k src s3
      have h3 : s3.memOk := h2.admitCmd
      split
      · exact h1.admitCmd.moved
      · split
        · exact .stands
        · split
          · exact h3.runCmd.ofMoved ‹_›
          · exact h3

theorem State.memOk.tryAgain {may refused : Bool} {t : Took} {u : State} (h : s.memOk) (hu : u.memOk) (ht : t.memOk) :
    Kept (tryAgain may refused s t u) := by
  cases t with
  | moved t => exact State.memOk.occurs (t := t) ht hu
  | stands => exact h.occurs hu

theorem State.memOk.takeRow {e : Eng} {code : Nat} {left : Option Nat} (h : s.memOk) : Kept
    (takeRow e code left s) := by
  unfold Machine.takeRow
  dsimp only
  split
  · exact State.memOk.tryAgain h h (State.memOk.take h)
  · exact h.occurs h

theorem State.memOk.execMma {r : PavRun} (h : s.memOk) : Kept (execMma r s) := by
  unfold Machine.execMma
  exact h.takeRow
theorem State.memOk.execSheafFwd {r : PavRun} (h : s.memOk) : Kept (execSheafFwd r s) := by
  unfold Machine.execSheafFwd
  exact h.takeRow
theorem State.memOk.execSheafBwd {pav : Nat} (h : s.memOk) : Kept (execSheafBwd pav s) := by
  unfold Machine.execSheafBwd
  exact h.takeRow
theorem State.memOk.execCopy2d {quad : Nat} (h : s.memOk) : Kept (execCopy2d quad s) := by
  unfold Machine.execCopy2d
  exact h.takeRow
theorem State.memOk.execCopyIdx {quad : Nat} (h : s.memOk) : Kept (execCopyIdx quad s) := by
  unfold Machine.execCopyIdx
  exact h.takeRow
theorem State.memOk.execExpand24 {quad : Nat} (h : s.memOk) : Kept (execExpand24 quad s) := by
  unfold Machine.execExpand24
  exact h.takeRow
theorem State.memOk.execCompact24 {quad : Nat} (h : s.memOk) : Kept (execCompact24 quad s) := by
  unfold Machine.execCompact24
  exact h.takeRow
theorem State.memOk.execConvert {quad : Nat} (h : s.memOk) : Kept (execConvert quad s) := by
  unfold Machine.execConvert
  exact h.takeRow
theorem State.memOk.execFill {quad : Nat} (h : s.memOk) : Kept (execFill quad s) := by
  unfold Machine.execFill
  exact h.takeRow
theorem State.memOk.execGather {loc : Nat} (h : s.memOk) : Kept (execGather loc s) := by
  unfold Machine.execGather
  exact h.takeRow
theorem State.memOk.execGatherPool {loc : Nat} (h : s.memOk) : Kept (execGatherPool loc s) := by
  unfold Machine.execGatherPool
  exact h.takeRow
theorem State.memOk.execScatterAdd {loc : Nat} (h : s.memOk) : Kept (execScatterAdd loc s) := by
  unfold Machine.execScatterAdd
  exact h.takeRow
theorem State.memOk.execChain {loc : Nat} (h : s.memOk) : Kept (execChain loc s) := by
  unfold Machine.execChain
  exact h.takeRow
theorem State.memOk.execRoute {loc : Nat} (h : s.memOk) : Kept (execRoute loc s) := by
  unfold Machine.execRoute
  exact h.takeRow
theorem State.memOk.execWalk {quad : Nat} (h : s.memOk) : Kept (execWalk quad s) := by
  unfold Machine.execWalk
  exact h.takeRow

theorem State.memOk.execEngineCommandStart {r : CmdRun} (h : s.memOk) : Kept (execEngineCommandStart r s) := by
  unfold Machine.execEngineCommandStart
  dsimp only
  split
  · exact h.updCmd.tryAgain h h.updCmd.runCmd
  · exact h.occurs h

theorem State.memOk.execWalkerStepLimit {quad : Nat} (h : s.memOk) : Kept (execWalkerStepLimit quad s) := by
  unfold Machine.execWalkerStepLimit
  split
  · split
    · exact (h.runCmd.ofMoved ‹_›).occurs h
    · exact h.occurs h
  · exact h.occurs h

theorem State.memOk.giveWord {uid : Nat} {p : EPort} {w : Word × Option Word} (h : s.memOk) :
    (s.giveWord uid p w).memOk := by
  unfold State.giveWord
  refine State.memOk.wake (State.memOk.foldl ?_ fun t l h => h.setSpill.setNispill)
  exact h

theorem State.memOk.finishCmd {c : Cmd} {status detail : Nat} (h : s.memOk) : (s.finishCmd c status detail).memOk := by
  unfold State.finishCmd
  dsimp only
  refine State.memOk.giveWord ?_
  split
  · refine State.memOk.foldl h fun t a h => ?_
    split
    · exact h.tileBack
    · exact h
  · exact h

theorem State.memOk.completeCmd {c : Cmd} {status detail : Nat} (h : s.memOk) :
    (s.completeCmd c status detail).memOk := by
  unfold State.completeCmd
  split
  · exact h.finishCmd.moved
  · split
    · exact (Actr.unsample_keeps.run h ‹_›).finishCmd.moved
    · exact .stands
    · split
      · exact (h.park ‹_›).moved
      · exact h.updCmd.moved
    · exact (Actr.unsample_keeps.run h ‹_›).finishCmd.moved
    · exact (Actr.unsample_keeps.run h ‹_›).finishCmd.moved

theorem State.memOk.execEngineCommandComplete {id : Nat} (h : s.memOk) : Kept (execEngineCommandComplete id s) := by
  unfold Machine.execEngineCommandComplete
  dsimp only
  split
  · split
    · exact h.updCmd.tryAgain h h.updCmd.completeCmd
    · exact h.occurs h
  · exact h.occurs h

theorem State.memOk.retryEngine {id : Nat} (h : s.memOk) : (s.retryEngine id).memOk := by
  unfold State.retryEngine
  dsimp only
  split <;> exact h

theorem State.memOk.denyEngine {id : Nat} (h : s.memOk) : (s.denyEngine id).memOk := by
  unfold State.denyEngine
  split
  · split
    · exact h.take.ofMoved ‹_›
    · exact h.retryEngine
  · extract_lets saving s1
    have h1 : s1.memOk := by
      unfold s1
      clear_value saving
      split
      · exact h.updLease
      · exact h
    split
    · split
      · exact h1.ended
      · split
        · exact h1.updCmd
        · exact h1.ended
        · split
          · exact h1.updCmd.runCmd.ofMoved ‹_›
          · exact h1.ended
    · exact h1

/-! ### Control -/

theorem State.memOk.execJr {d a : Reg} {ta : Bool} {imm : BitVec 15} (h : s.memOk) : Kept (execJr d a ta imm s) := by
  unfold Machine.execJr
  dsimp only
  refine h.issue fun t h => h.src fun x t1 h => ?_
  split
  · exact .trap
  · exact h.put fun t2 h => h.done

theorem State.memOk.captureStop {x : CapErr} (h : s.memOk) : (captureStop s x).memOk := by
  unfold Machine.captureStop
  split
  · exact .trap
  · exact .trap
  · exact h.parkThread.hold
  · exact h.hold

theorem State.memOk.execRepf {count : BitVec 5} {len : BitVec 4} {sd sa sb : BitVec 2} (h : s.memOk) : Kept
    (execRepf count len sd sa sb s) := by
  unfold Machine.execRepf
  dsimp only
  refine h.issue fun t h => ?_
  split
  · exact .trap
  · split
    · exact (h.capture.fst ‹_›).captureStop
    · exact (((h.capture.fst ‹_›).updSlot).updMy).done

theorem State.memOk.execSolo (h : s.memOk) : Kept (execSolo s) := by
  unfold Machine.execSolo
  refine h.issue fun t h => ?_
  split
  · exact .trap
  · exact h.updMy.keep

/-! ### Mig -/

theorem State.memOk.execGo {a : Reg} (h : s.memOk) : Kept (execGo a s) := by
  unfold Machine.execGo
  refine h.issue fun t h => ?_
  split
  · exact .trap
  · refine h.src fun x t1 h => ?_
    split
    · exact .trap
    · split
      · exact h.done
      · exact h.waitDepart.hold

/-! ### Outside -/

theorem State.memOk.hostWrite {m off size : Nat} {v : Word} (h : s.memOk) : (s.hostWrite m off size v).memOk := by
  unfold State.hostWrite
  dsimp only
  split
  · refine State.memOk.event ?_
    split
    · exact h
    · exact h.poke
  · split
    · exact h
    · exact h.poke

theorem State.memOk.execCxlMemWrite {m : Nat} {off : Word} {size : Nat} {v : Word} (h : s.memOk) : Kept
    (execCxlMemWrite m off size v s) := by
  unfold Machine.execCxlMemWrite
  dsimp only
  refine State.memOk.occurs ?_ h
  split
  · exact h
  · exact h.hostWrite

theorem State.memOk.fallowSays {m n : Nat} (h : s.memOk) : (s.fallowSays m n).memOk := by
  unfold State.fallowSays
  exact h.updModule

theorem State.memOk.makeFallow {m : Nat} {l : Loc} (h : s.memOk) : (s.makeFallow m l).memOk := by
  unfold State.makeFallow
  dsimp only
  split
  · exact h.fallowSays
  · refine ((h.foldl fun t a h => ?_).updCore).fallowSays
    split
    · split
      · exact h.unbind.ready
      · exact h.unbind
    · exact h

theorem State.memOk.clearFallow {m : Nat} {l : Loc} (h : s.memOk) : (s.clearFallow m l).memOk := by
  unfold State.clearFallow
  exact h.updCore.fallowSays

theorem State.memOk.writeFallow {m : Nat} {v : Word} (h : s.memOk) : (s.writeFallow m v).memOk := by
  unfold State.writeFallow
  split
  · exact h.makeFallow
  · exact h.clearFallow

theorem State.memOk.addToBarrier {m : Nat} {id : W32} (h : s.memOk) : (s.addToBarrier m id).memOk := by
  unfold State.addToBarrier
  dsimp only
  split
  · split
    · exact h
    · exact h.putBarrier
  · exact h

theorem State.memOk.writeSupcore {d : DieId} {v : Word} (h : s.memOk) : (s.writeSupcore d v).memOk := by
  unfold State.writeSupcore
  exact h.updDie
theorem State.memOk.writeMbox {m : Nat} {v : Word} (h : s.memOk) : (s.writeMbox m v).memOk := by
  unfold State.writeMbox
  exact h.updModule

theorem State.memOk.writeReg {m off : Nat} {v : Word} (h : s.memOk) : (s.writeReg m off v).memOk := by
  unfold State.writeReg
  split
  · exact h.writeMbox
  · split
    · exact h.writeBoot
    · split
      · exact h.writeSupcore
      · split
        · exact h.writeFallow
        · split
          · exact h.writePtroot
          · split
            · exact h.updWindow
            · split
              · exact h.updModule
              · split
                · exact h.addToBarrier
                · split
                  · exact h.loadImage
                  · exact h

theorem State.memOk.ethWrite {a : Nat} {data : List Byte} (h : s.memOk) : (s.ethWrite a data).memOk := by
  unfold State.ethWrite
  exact h.poke
theorem State.memOk.nak {qp : Nat} (h : s.memOk) : (s.nak qp).memOk := by
  unfold State.nak
  exact h

theorem State.memOk.ethSend {m qp : Nat} {data : List Byte} (h : s.memOk) : (s.ethSend m qp data).memOk := by
  unfold State.ethSend
  split
  · split
    · exact h.ethWrite.updModule
    · exact h.nak
  · exact h.nak

theorem State.memOk.execRoceRdmaWrite {m qp region off : Nat} {data : List Byte} (h : s.memOk) : Kept
    (execRoceRdmaWrite m qp region off data s) := by
  unfold Machine.execRoceRdmaWrite
  dsimp only
  refine State.memOk.occurs ?_ h
  split
  · exact h.ethWrite
  · exact h.nak

theorem State.memOk.execRoceRdmaRead {m qp region off len : Nat} (h : s.memOk) : Kept
    (execRoceRdmaRead m qp region off len s) := by
  unfold Machine.execRoceRdmaRead
  dsimp only
  refine State.memOk.occurs ?_ h
  split
  · split
    · exact h.nak
    · exact h
  · exact h.nak

/-! ### Resolving faults -/

theorem State.memOk.perform {p : Pkt} (h : s.memOk) : (s.perform p).1.memOk := by
  unfold State.perform
  split
  · exact h.performRead
  · split
    · exact h.performWrite
    · split
      · exact h.performAmo
      · exact h.performPosted
      · exact h.performPosted
      · exact h.performPosted
      · exact h.performRecord
      · exact h.performTask
      · exact h.performCell
      · exact h.performCell
      · exact h.performInv
      · exact h.performSpread
      · exact h.performFlock
      · exact h

theorem State.memOk.performAgain {x : State × Nat} {p : Pkt} (h : x.1.memOk) : (State.performAgain x p).1.memOk := by
  obtain ⟨s, n⟩ := x
  replace h : s.memOk := h
  simp only [State.performAgain]
  split
  · exact h
  · split
    · have ht := h.perform.fst ‹_›
      split <;> exact ht
    · exact h.perform.fst ‹_›

theorem State.memOk.linkTask {l : Loc} {t : Machine.Task} (h : s.memOk) : (s.linkTask l t).memOk := by
  unfold State.linkTask
  exact h.updQueue.wakeNext

theorem State.memOk.retryItem {x : State × Nat} {e : FEntry} (h : x.1.memOk) : (State.retryItem x e).1.memOk := by
  obtain ⟨s, n⟩ := x
  replace h : s.memOk := h
  simp only [State.retryItem]
  split
  · exact h.updFrame.ready
  · exact h.updFrame.ready
  · exact State.memOk.performAgain h
  · exact h.retryEngine
  · exact h.retryHold
  · exact h.linkTask

theorem State.memOk.denyItem {hm : Home} {e : FEntry} (h : s.memOk) : (s.denyItem hm e).memOk := by
  unfold State.denyItem
  split
  · exact h.raiseAt
  · exact h.raiseAt
  · exact h.failPkt
  · exact h.denyEngine
  · exact h.denyHold
  · exact h.record.countDown

theorem State.memOk.foldlFst {α β : Type} {f : State × β → α → State × β} {l : List α} {b : β} (h : s.memOk)
    (hf : ∀ x a, x.1.memOk → (f x a).1.memOk) : (l.foldl f (s, b)).1.memOk := by
  induction l generalizing s b with
  | nil => exact h
  | cons a l ih => exact ih (hf (s, b) a h)

theorem State.memOk.resolve {hm : Home} {q : Nat} {deny : Bool} (h : s.memOk) : (s.resolve hm q deny).memOk := by
  unfold State.resolve
  split
  · exact h
  · split
    · exact h.updHome.foldl fun t e h => h.denyItem
    · exact h.updHome.foldlFst fun x e h => State.memOk.retryItem h

theorem State.memOk.resolveRow {hm : Home} {q : Nat} {deny : Bool} (h : s.memOk) : Kept (resolveRow hm q deny s) := by
  unfold Machine.resolveRow
  split
  · refine State.memOk.occurs (State.memOk.resolve ?_) h
    exact h
  · exact h.occurs h

theorem State.memOk.execRetry {hm : Home} {q : Nat} (h : s.memOk) : Kept (execRetry hm q s) := by
  unfold Machine.execRetry
  exact h.resolveRow
theorem State.memOk.execDeny {hm : Home} {q : Nat} (h : s.memOk) : Kept (execDeny hm q s) := by
  unfold Machine.execDeny
  exact h.resolveRow

theorem State.memOk.retryPkt {k : Nat} (h : s.memOk) : Kept (retryPkt k s) := by
  unfold Machine.retryPkt
  dsimp only
  split
  · exact h.dropPkt.perform.keepPkt.occurs h
  · exact h.occurs h

theorem State.memOk.retryThread {loc f : Nat} (h : s.memOk) : Kept (retryThread loc f s) := by
  unfold Machine.retryThread
  dsimp only
  split
  · exact h.updFrame.ready.occurs h
  · exact h.occurs h

theorem State.memOk.execFaultQueueRetry {r : Retrier} (h : s.memOk) : Kept (execFaultQueueRetry r s) := by
  unfold Machine.execFaultQueueRetry
  split
  · exact h.retryPkt
  · exact h.retryThread

theorem State.memOk.returnPkt {p : Pkt} (h : s.memOk) : (s.returnPkt p).memOk := by
  unfold State.returnPkt
  split
  · exact h.giveBack
  · split
    · exact h.failPkt
    · split
      · exact h.recordPkt
      · exact h

theorem State.memOk.execUndeliveredReturn {k : Nat} (h : s.memOk) : Kept (execUndeliveredReturn k s) := by
  unfold Machine.execUndeliveredReturn
  split
  · exact h.dropPkt.returnPkt.occurs h
  · exact h.occurs h

/-! ### Heat -/

theorem State.memOk.heatEvent {d : DieId} {code q : Nat} {t : ℤ} (h : s.memOk) : (s.heatEvent d code q t).memOk := by
  unfold State.heatEvent
  exact h.event

theorem State.memOk.overTemp {d : DieId} (h : s.memOk) : (s.overTemp d).memOk := by
  unfold State.overTemp
  dsimp only
  split
  · exact h.updDie.heatEvent
  · split
    · exact h.updDie
    · exact h

theorem State.memOk.coolAll {d : DieId} (h : s.memOk) : (s.coolAll d).memOk := by
  unfold State.coolAll
  exact h

theorem State.memOk.execSensorFailure {die q : Nat} (h : s.memOk) : Kept (execSensorFailure die q s) := by
  unfold Machine.execSensorFailure
  dsimp only
  refine State.memOk.occurs ?_ h
  split
  · exact h.updDie.heatEvent.updDie.coolAll.heatEvent
  · exact h.updDie.heatEvent

theorem State.memOk.withdraw {k : Nat} (h : s.memOk) : (s.withdraw k).memOk := by
  unfold State.withdraw
  dsimp only
  split
  · refine State.memOk.wake ?_
    exact h
  · exact h.updLease

theorem State.memOk.shed {k : Nat} (h : s.memOk) : (s.shed k).memOk := by
  unfold State.shed
  dsimp only
  split
  · split
    · split
      · exact h.updFrame
      · exact h.updFrame.withdraw.updFrame
    · split
      · exact h.updFrame
      · exact h.updFrame.withdraw.updFrame
  · split
    · exact h.updFrame.ready
    · exact h.updFrame

theorem State.memOk.pace {id : Nat} {f : Nat → Nat} (h : s.memOk) : (s.pace id f).memOk := by
  unfold State.pace
  exact h

theorem State.memOk.heatUp {x : Tick} {l : Loc} (h : x.1.memOk) : (heatUp x l).1.memOk := by
  obtain ⟨s, up, down⟩ := x
  replace h : s.memOk := h
  simp only [Machine.heatUp]
  split
  · split
    · split
      · exact h.unbind.updCore.shed
      · exact h.updCore.updFrame
    · exact h.updCore
  · split
    · split
      · exact h.updCore
      · exact h.updCore.pace
    · exact h

theorem State.memOk.coolDown {x : Tick} {l : Loc} (h : x.1.memOk) : (coolDown x l).1.memOk := by
  obtain ⟨s, up, down⟩ := x
  replace h : s.memOk := h
  simp only [Machine.coolDown]
  split
  · exact h
  · split
    · exact h.updCore
    · exact h.updCore.pace
  · exact h.updCore

theorem State.memOk.heatStep {d : Die} {x : Tick} {l : Loc} (hx : x.1.memOk) : (heatStep d x l).1.memOk := by
  unfold Machine.heatStep
  dsimp only
  split
  · exact hx.heatUp
  · split
    · exact hx.coolDown
    · exact hx

theorem State.memOk.execThermalStep {die : Nat} (h : s.memOk) : Kept (execThermalStep die s) := by
  unfold Machine.execThermalStep
  refine State.memOk.occurs ?_ h
  split
  · exact h
  · exact (h.foldlFst fun x c h => State.memOk.heatStep h).updDie

/-! ### Every instruction and event -/

theorem State.memOk.exec {i : Instr} (h : s.memOk) : Kept (exec i s) := by
  unfold Machine.exec
  split
  iterate 13 exact h.issue fun t h => h.aluTwo -- add to mulhu
  iterate 4 exact h.issue fun t h => h.lateTwo -- div to remu
  iterate 4 exact h.issue fun t h => h.aluTwo -- min to maxu
  iterate 11 exact h.issue fun t h => h.aluOne -- clz to zextW
  iterate 8 exact h.issue fun t h => h.aluTwo -- cmpEq to lea
  iterate 10 exact h.issue fun t h => h.aluOne -- addi to cmpi
  · exact h.issue fun t h => h.guardPorts fun _ => h.put fun t h => h.done
  · exact h.issue fun t h => h.src fun x t h => h.put fun t h => h.done
  iterate 3 exact h.issue fun t h => h.aluTwo -- fadd to fmul
  · exact h.issue fun t h => h.lateTwo
  · exact h.issue fun t h => h.lateOne
  iterate 6 exact h.issue fun t h => h.aluTwo -- fcmpEq to fmax
  iterate 2 exact h.issue fun t h => h.aluOne -- fabs to fneg
  · exact h.issue fun t h => h.aluTwo
  · exact h.issue fun t h => h.aluOne
  iterate 4 exact h.issue fun t h => h.fusedOp -- fma to fnms
  · exact h.issue fun t h => h.aluOne
  iterate 7 exact h.issue fun t h => h.loadOp -- ldB to ldD
  iterate 4 exact h.issue fun t h => h.storeOp -- stB to stD
  iterate 4 exact h.issue fun t h => h.ldfOp -- ldfF32 to ldfI32
  iterate 4 exact h.issue fun t h => h.stfOp -- stfF32 to stfI32
  iterate 2 exact h.issue fun t h => h.src fun x t h => h.drained fun t h => h.loadAt -- ldqW to ldqD
  -- stlW to stlD
  iterate 2 exact h.issue fun t h => h.src fun x t h => h.src fun x t h => h.drained fun t h => h.storeAt
  iterate 12 exact h.issue fun t h => h.amoOp -- amoAdd to amoFmaxa
  iterate 10 exact h.issue fun t h => h.amopOp -- amopAdd to amopFmaxa
  · exact h.execGo
  iterate 2 exact h.issue fun t h => h.updMy.done -- pin to unpin
  iterate 2 exact h.issue fun t h => h.put fun t h => h.done -- whereI to hops
  iterate 2 exact h.issue fun t h => h.spawnOp -- spawn to spawna
  · exact h.execExit
  · exact h.execJoin
  · exact h.issue fun t h => h.thenPost fun t h => h.yieldSlot
  · exact h.execNext
  · exact h.execLaunch
  · exact h.execTaskDec
  · exact h.execTaskDecp
  · exact h.execSleep
  · exact h.issue fun t h => h.anchored fun _ => h.arriveBarrier fun t h => h.done
  · exact h.issue fun t h => h.anchored fun _ => h.barrierWait
  · exact h.issue fun t h => h.anchored fun _ => h.arriveBarrier fun t h => h.done
  · exact h.execBarSync
  · exact h.issue fun t h => h.anchored fun _ => h.put fun t h => h.done
  · exact h.execFence
  · exact h.execFlkJoin
  · exact h.execFlkLd
  · exact h.execFlkLeave
  · exact h.execFlkTimer
  · exact h.execLeaseAcq
  · exact h.execLeaseTry
  · exact h.issue fun t h => h.anchored fun _ => h.freeLease.done
  · exact h.execTileAlloc
  · exact h.execTileFree
  · exact h.issue fun t h => h.anchored fun _ => h.supervisor fun _ => h.withTile fun x _ t h => h.abortTile.freeTile.done
  · exact h.issue fun t h => h.withTile fun _ y t h => h.put fun t h => h.done
  · exact h.execTileMark
  · exact h.execGangForm
  · exact h.execSplit
  · exact h.execMovs
  · exact h.execMovfs
  · exact h.issue fun t h => .trap
  · exact h.execRfe
  · exact h.issue fun t h => .trap
  · exact h.execWaitev
  · exact h.execCtxSw
  · exact h.execTlbInv
  · exact h.execSecFlush
  · exact h.execPreempt
  · exact h.execResume
  · exact h.issue fun t h => h.put fun t h => h.done
  · exact h.issue fun t h => h.src fun x t h => h.branch
  · exact h.execJr
  · exact h.execRepf
  · exact h.execSolo
  iterate 15 exact h.issue fun t h => h.vecTwo -- vadd to vmaxu
  · exact h.issue fun t h => h.vecOne
  iterate 3 exact h.issue fun t h => h.vecTwo -- vfadd to vfmul
  · exact h.issue fun t h => h.anchored fun _ => h.vsrc fun x => h.vsrc fun x => h.vold fun x => h.vputLate fun t h =>
      h.done
  iterate 2 exact h.issue fun t h => h.vecTwo -- vfmin to vfmax
  iterate 2 exact h.issue fun t h => h.vecOne -- vfabs to vfneg
  · exact h.issue fun t h => h.anchored fun _ => h.vsrc fun x => h.vold fun x => h.vput fun t h => h.done
  iterate 3 exact h.issue fun t h => h.vecMac -- vfma to vfnma
  · exact h.issue fun t h => h.anchored fun _ => h.vsrc fun x => h.vsrc fun x => h.vold fun x => h.vput fun t h => h.done
  · exact h.issue fun t h => h.anchored fun _ => h.vsrc fun x => h.vold fun x => h.vput fun t h => h.done
  · exact h.issue fun t h => h.anchored fun _ => h.vread fun x => h.src fun x t h => h.put fun t h => h.done
  · exact h.issue fun t h => h.anchored fun _ => h.src fun x t h => h.src fun x t h => h.vread fun x =>
      h.vput fun t h => h.done
  · exact h.issue fun t h => h.anchored fun _ => h.vread fun x => h.src fun x t h => h.writeM.vput fun t h => h.done
  · exact h.issue fun t h => h.anchored fun _ => h.vsrc fun x => h.vsrc fun x => h.vold fun x => h.vput fun t h => h.done
  iterate 3 exact h.issue fun t h => h.anchored fun _ => h.vread fun x => h.put fun t h => h.done -- vredAdd to vredMax
  iterate 6 exact h.issue fun t h => h.vecCmp -- vcmpEq to vcmpGeu
  · exact h.issue fun t h => h.anchored fun _ => h.vsrc fun x => h.vsrc fun x => h.vput fun t h => h.done
  iterate 3 exact h.issue fun t h => h.anchored fun _ => h.writeM.done -- mand to mnot
  · exact h.issue fun t h => h.anchored fun _ => h.put fun t h => h.done
  · exact h.issue fun t h => h.vecBase fun x y t h => h.vecLoad
  · exact h.issue fun t h => h.vecBase fun x y t h => h.vecStore
  · exact h.issue fun t h => h.vecBase fun x y t h => h.vecLoad
  · exact h.issue fun t h => h.vecBase fun x y t h => h.vecStore
  · exact h.issue fun t h => h.vecIndex fun x y t h => h.vecLoad
  · exact h.issue fun t h => h.vecIndex fun x y t h => h.vecStore
  · exact h.execVldt
  · exact h.execVstt
  iterate 3 exact h.issue fun t h => h.vldfOp -- vldfF32 to vldfI32
  · exact h.execInstructionFetch
  · exact h.execLongLatencyResult
  · exact h.execLoadReply
  · exact h.execDataReturnRequest
  · exact h.execStorePerform
  · exact h.execAtomicPerform
  · exact h.execPostedOperation
  · exact h.leaf.occurs h
  · exact h.execFaultQueueRetry
  · exact h.execRetry
  · exact h.execDeny
  · exact h.execTlbInvalidateRequest
  · exact h.execSpreadEntryFetch
  · exact h.execUndeliveredReturn
  · exact h.execFenceMarker
  · exact h.execDeparture
  · exact h.execMigrationArrival
  · exact h.execMigrationRetry
  · exact h.execSpillRingTakeFrame
  · exact h.updFrame.occurs h
  · exact h.execLongWaitUnbind
  · exact h.execFrameReadyBind
  · exact h.endRepeat.occurs h
  · exact h.execLaunchAccept
  · exact h.execLaunchStart
  · exact h.execLaunchCompletion
  · exact h.execJoinCellIncrement
  · exact h.execJoinCellDecrement
  · exact h.execJoinComplete
  · exact h.execDependentTaskDecrement
  · exact h.execNextRescan
  · exact h.execGangFormation
  · exact h.execBarrierPhaseComplete
  · exact h.execSleepExpiry
  · exact h.updDie.overTemp.occurs h
  · exact h.execThermalStep
  · exact h.execSensorFailure
  · exact h.execLeaseRearbitration
  · exact h.execMma
  · exact h.execSheafFwd
  · exact h.execSheafBwd
  · exact h.execCopy2d
  · exact h.execCopyIdx
  · exact h.execExpand24
  · exact h.execCompact24
  · exact h.execConvert
  · exact h.execFill
  · exact h.execGather
  · exact h.execGatherPool
  · exact h.execScatterAdd
  · exact h.execChain
  · exact h.execRoute
  · exact h.execWalk
  · exact h.execWalkerStepLimit
  · exact h.execEngineCommandStart
  · exact h.execEngineCommandComplete
  · exact h.execMessageDelivery
  · exact h.execMessageRetry
  · exact h.execEventRetry
  · exact h.execFlockRequest
  · exact h.execFlockTimerExpiry
  · exact h.execFlockLateWindowEnd
  · exact h.execRehomeGranule
  · exact (h.updModule.foldl fun t a h => h.dieEpoch).occurs h
  · exact h.execReductionStepMerge
  · exact h.execReductionStepTimeout
  · exact h.execTrapQueueEntry
  · exact h.execPatrolScrub
  · exact (h.updModule.foldl fun t a h => h.event).occurs h
  · exact h.updModule.occurs h
  · exact h.execCxlMemWrite
  · exact State.memOk.occurs h h
  · exact h.writeBoot.occurs h
  · exact h.loadImage.occurs h
  iterate 2 exact h.writeFallow.occurs h -- fallowSet to fallowClear
  · exact h.addToBarrier.occurs h
  · exact h.writePtroot.occurs h
  · exact h.updWindow.occurs h
  · exact h.writeReg.occurs h
  · exact h.ethSend.occurs h
  · exact h.execRoceRdmaWrite
  · exact h.execRoceRdmaRead
  · exact h.nak.occurs h
  · exact h.wipe.updModule.verify.occurs h
  · exact h.execI3cEntdaa
  · exact State.memOk.occurs h h
  · exact h.loadImage.occurs h
  · exact State.memOk.occurs h h
  · exact h.wipe.updModule.occurs h
  · exact h.updModule.occurs h
  · exact h.execHedgerowLinkTraining
  · exact h.updModule.occurs h
  · exact h.execSoloResultArrival

/-! ### Issue -/

theorem State.memOk.prepare {k : Nat} (h : s.memOk) : (s.prepare k).memOk := by
  unfold State.prepare
  dsimp only
  split
  · exact h.updFrame
  · split
    · exact h.updFrame.updSlot
    · exact h.updFrame

theorem State.memOk.toIssue {l : Loc} {n f : Nat} (h : s.memOk) : (s.toIssue l n f).memOk := by
  unfold State.toIssue
  exact h.foldl fun t a h => h.prepare
theorem State.memOk.frontTrap {c : Cause} {va : Word} (h : s.memOk) : (s.frontTrap c va).memOk := by
  unfold State.frontTrap
  exact State.memOk.noWord h.trapMy

theorem State.memOk.frontFetch {va : Word} {x : FetchRes} (h : s.memOk) : (s.frontFetch va x).memOk := by
  unfold State.frontFetch
  dsimp only
  split
  · exact h.frontTrap
  · exact State.memOk.noWord h.parkThread
  · exact State.memOk.noWord h

theorem State.memOk.frontRepeat (h : s.memOk) : s.frontRepeat.memOk := by
  unfold State.frontRepeat
  dsimp only
  split
  · split
    · exact h.fetched
    · exact h.frontTrap
  · split
    · split
      · split
        · exact (h.fetch.fst ‹_›).frontTrap
        · split
          · split
            · exact ((((h.fetch.fst ‹_›).capture).fst ‹_›).updSlot).fetched
            · exact ((((h.fetch.fst ‹_›).capture).fst ‹_›).updSlot).frontTrap
          · exact (((h.fetch.fst ‹_›).capture).fst ‹_›).frontTrap
          · exact (((h.fetch.fst ‹_›).capture).fst ‹_›).frontFetch
      · exact (h.fetch.fst ‹_›).frontTrap
    · exact (h.fetch.fst ‹_›).frontFetch

theorem State.memOk.frontWord (h : s.memOk) : s.frontWord.memOk := by
  unfold State.frontWord
  split
  · split
    · exact h.frontRepeat
    · split
      · exact (h.front.fst ‹_›).fetched
      · exact (h.front.fst ‹_›).noWord
  · exact h.fetched
  · exact State.memOk.noWord h

theorem State.memOk.holdWord {w : W32} (h : s.memOk) : (s.holdWord w).memOk := by
  unfold State.holdWord
  exact h.foldl fun t a h => h.updFrame

theorem State.memOk.execWord {w : W32} (h : s.memOk) : Kept (execWord w s) := by
  unfold Machine.execWord
  dsimp only
  split
  · split
    · refine h.holdWord.issue fun t h => ?_
      split
      · split
        · exact .trap
        · exact .wait
      · exact .trap
    · exact h.holdWord.exec
  · refine h.holdWord.issue fun t h => ?_
    split <;> exact .trap
  · exact h.holdWord.issue fun t h => .trap

theorem State.memOk.boundsTraps {ks : List Nat} (h : s.memOk) : (s.boundsTraps ks).memOk := by
  unfold State.boundsTraps
  refine h.foldl fun t k h => ?_
  split
  · exact h.updFrame.raiseAt
  · exact h

theorem State.memOk.issueNow (h : s.memOk) : Kept s.issueNow := by
  unfold State.issueNow
  dsimp only
  split
  · exact State.memOk.next h
  · split
    · exact h.boundsTraps.next
    · split
      · exact (h.frontWord.ofWord ‹_›).execWord
      · exact (h.frontWord.ofNone ‹_›).next

theorem State.memOk.issued {g : Option Gang} {slots : List (Loc × Nat)} (h : s.memOk) : (s.issued g slots).memOk := by
  unfold State.issued
  dsimp only
  split <;> exact h.foldl fun t a h => h.updCore

theorem State.memOk.shedDone {l : Loc} {n : Nat} (h : s.memOk) : (s.shedDone l n).memOk := by
  unfold State.shedDone
  split
  · split
    · exact h.unbind.shed
    · exact h
  · exact h

theorem State.memOk.tried {t : State} {l : Loc} {n f : Nat} (_h : s.memOk) (ht : t.memOk) : (s.tried t l n f).memOk := by
  unfold State.tried
  dsimp only
  refine State.memOk.shedDone ?_
  split
  · exact ht.issued
  · exact ht

theorem State.memOk.parityEnd {l : Loc} {n f : Nat} (h : s.memOk) : (s.parityEnd l n f).memOk := by
  unfold State.parityEnd
  extract_lets s1
  have h1 : (if f = 32 then s1.handlerFault l (some n) else s1.killThread l f 0x05 .uncorrectable).memOk := by
    have hs : s1.memOk := h
    split
    · exact hs.handlerFault
    · exact hs.killThread
  exact h1

theorem State.memOk.issueFrom {l : Loc} {r : List Nat} (h : s.memOk) : Kept (s.issueFrom l r) := by
  induction r generalizing s with
  | nil => exact h.next
  | cons n r ih =>
    simp only [State.issueFrom]
    split
    · split
      · exact h.parityEnd.next
      · split
        · exact State.memOk.next (h.shedDone (l := l) (n := n))
        · split
          · exact ih h
          · split
            · split
              · have ht := h.toIssue.issueNow _ ‹_›
                split
                · exact ih (h.tried ht)
                · exact (h.tried ht).next
              · exact h.toIssue.issueNow
            · exact ih h
    · exact ih h

theorem State.memOk.issueAt {l : Loc} (h : s.memOk) : Kept (s.issueAt l) := by
  unfold State.issueAt
  dsimp only
  split
  · exact State.memOk.issueFrom h
  · exact State.memOk.next h

/-! ### Moves of the default order -/

theorem State.memOk.happen {i : Instr} (h : s.memOk) : Kept (s.happen i) := by
  unfold State.happen
  split
  · exact h.exec
  · exact State.memOk.next h

theorem State.memOk.move {x : Who} (h : s.memOk) : Kept (s.move x) := by
  unfold State.move
  split
  · exact h.issueAt
  · exact h.happen

theorem Keeping.nil : Keeping [] := by
  rintro i ⟨⟩

theorem Keeping.cons {i : Meaning} {l : List Meaning} (hi : ∀ s : State, s.memOk → Kept (i s)) (hl : Keeping l) :
    Keeping (i :: l) := by
  rintro j (_ | ⟨_, hj⟩)
  · exact hi
  · exact hl j hj

theorem Keeping.append {l m : List Meaning} (hl : Keeping l) (hm : Keeping m) : Keeping (l ++ m) := by
  intro i hi
  rcases List.mem_append.1 hi with hi | hi
  · exact hl i hi
  · exact hm i hi

theorem Keeping.map {α : Type} {f : α → Meaning} {l : List α} (hf : ∀ x (s : State), s.memOk → Kept (f x s)) : Keeping
    (l.map f) := by
  intro i hi
  obtain ⟨x, -, rfl⟩ := List.mem_map.1 hi
  exact hf x

theorem Keeping.flatMap {α : Type} {f : α → List Meaning} {l : List α} (hf : ∀ x, Keeping (f x)) : Keeping
    (l.flatMap f) := by
  intro i hi
  obtain ⟨x, -, hx⟩ := List.mem_flatMap.1 hi
  exact hf x i hx

theorem Keeping.ite {c : Prop} [Decidable c] {l m : List Meaning} (hl : Keeping l) (hm : Keeping m) : Keeping
    (if c then l else m) := by
  split
  · exact hl
  · exact hm

theorem Keeping.rotateLeft {l : List Meaning} {n : Nat} (hl : Keeping l) : Keeping (l.rotateLeft n) := by
  unfold List.rotateLeft
  exact .ite hl (.append (fun i hi => hl i (List.mem_of_mem_drop hi)) fun i hi => hl i (List.mem_of_mem_take hi))
theorem Keeping.returned {k : Nat} : Keeping [execUndeliveredReturn k] := .cons
    (fun _ h => h.execUndeliveredReturn) .nil
theorem Keeping.retried {k : Nat} : Keeping [execFaultQueueRetry (.packet k), execUndeliveredReturn k] :=
  .cons (fun _ h => h.execFaultQueueRetry) .returned

theorem Pkt.moves_keeping {p : Pkt} {k : Nat} : Keeping (p.moves k) := by
  unfold Pkt.moves
  cases p.kind with
  | load | ldf | lane | vldf => exact .cons (fun _ h => h.execDataReturnRequest) .retried
  | store | word | stf => exact .cons (fun _ h => h.execStorePerform) .retried
  | amo => exact .cons (fun _ h => h.execAtomicPerform) .retried
  | post | hot | hotTest => exact .cons (fun _ h => h.execPostedOperation) .retried
  | record => exact .cons (fun _ h => h.execLaunchAccept) .retried
  | taskDec => exact .cons (fun _ h => h.execDependentTaskDecrement) .retried
  | joinInc => exact .cons (fun _ h => h.execJoinCellIncrement) .retried
  | joinDec => exact .cons (fun _ h => h.execJoinCellDecrement) .retried
  | marker => exact .cons (fun _ h => h.execFenceMarker) .returned
  | tlbInv => exact .cons (fun _ h => h.execTlbInvalidateRequest) .returned
  | flock => exact .cons (fun _ h => h.execFlockRequest) .retried
  | spread => exact .cons (fun _ h => h.execSpreadEntryFetch) .retried
  | result d v bad long acq =>
    cases long with
    | true => exact .cons (fun _ h => h.execLongLatencyResult) .returned
    | false => exact .cons (fun _ h => h.execLoadReply) .returned
  | vresult => exact .cons (fun _ h => h.execLongLatencyResult) .nil
  | soloG | soloV => exact .cons (fun _ h => h.execSoloResultArrival) .nil
  | migrate | displace => exact .cons (fun _ h => h.execMigrationArrival) (.cons (fun _ h =>
    h.execMigrationRetry) .returned)
  | ready => exact .cons (fun _ h => h.execFlockRequest) .returned
  | msg => exact .cons (fun _ h => h.execMessageDelivery) (.cons (fun _ h => h.execMessageRetry) .returned)

theorem Core.moves_keeping {c : Core} {l : Loc} {n : Nat} : Keeping (c.moves l n) := by
  unfold Core.moves
  refine .append (.append (.append ?_ ?_) ?_) ?_
  · exact .ite .nil (.cons (fun _ h => h.execStorePerform) .nil)
  · exact .ite .nil (.cons (fun _ h => h.execSpillRingTakeFrame) .nil)
  · exact .ite .nil (.map fun _ _ h => h.execTrapQueueEntry)
  · exact .ite .nil (.cons (fun _ h => h.execFrameReadyBind) .nil)

theorem Frame.moves_keeping {f : Frame} {k : Nat} {slot : Option Nat} : Keeping (f.moves k slot) := by
  unfold Frame.moves
  extract_lets l n unbind
  have hunbind : Keeping unbind := by
    unfold unbind
    split
    · exact .cons (fun _ h => h.execLongWaitUnbind) .nil
    · exact .nil
  refine .ite .nil ?_
  cases f.wait with
  | none => exact .nil
  | some w =>
    cases w with
    | depart => exact .cons (fun _ h => h.execDeparture) hunbind
    | displaced => exact .cons (fun _ h => h.execDeparture) .nil
    | queued => exact .cons (fun _ h => h.execFaultQueueRetry) hunbind
    | join => exact .cons (fun _ h => h.execJoinComplete) hunbind
    | next => exact .cons (fun _ h => h.execNextRescan) hunbind
    | sleep => exact .cons (fun _ h => h.execSleepExpiry) hunbind
    | lease => exact .cons (fun _ h => h.execLeaseRearbitration) hunbind
    | pushPort p =>
      cases p with
      | qpav => exact .cons (fun _ h => h.execLeaseRearbitration) hunbind
      | qcpy | qgln | qtrl | qmsg | qevt => exact hunbind
    | bar | waitev | tile | popPort | gang | parked | lanes => exact hunbind

theorem Eng.moves_keeping {e : Eng} : Keeping e.moves := by
  cases e with
  | pavilion p =>
    exact .cons (fun _ h => h.execMma) (.cons (fun _ h => h.execSheafFwd) (.cons (fun _ h => h.execSheafBwd) .nil))
  | barrow q =>
    exact .cons (fun _ h => h.execCopy2d) (.cons (fun _ h => h.execCopyIdx) (.cons (fun _ h => h.execExpand24)
      (.cons (fun _ h => h.execCompact24) (.cons (fun _ h => h.execConvert) (.cons (fun _ h => h.execFill) .nil)))))
  | gleaner l =>
    exact .cons (fun _ h => h.execGather) (.cons (fun _ h => h.execGatherPool) (.cons (fun _ h => h.execScatterAdd)
      (.cons (fun _ h => h.execChain) (.cons (fun _ h => h.execRoute) .nil))))
  | trellis q => exact .cons (fun _ h => h.execWalk) .nil

theorem Cmd.moves_keeping {c : Cmd} {clk : Nat} : Keeping (c.moves clk) := by
  unfold Cmd.moves
  split
  · refine .ite .nil (.append (.cons (fun _ h => h.execEngineCommandStart) .nil) ?_)
    split
    · exact .cons (fun _ h => h.execWalkerStepLimit) .nil
    · exact .nil
  · exact .ite (.cons (fun _ h => h.execEngineCommandComplete) .nil) .nil
  · exact .nil

theorem State.moves_keeping : Keeping s.moves := by
  unfold State.moves
  refine .append (.append (.append (.append (.append (.append (.append (.append (.append (.append (.append ?_ ?_) ?_)
    ?_) ?_) ?_) ?_) ?_) ?_) ?_) ?_) ?_
  · exact .flatMap fun _ => Pkt.moves_keeping
  · refine .map fun w s h => ?_
    split
    · exact h.execDeny
    · exact h.execRetry
  · exact .map fun _ _ h => h.execEventRetry
  · exact .flatMap fun _ => Core.moves_keeping
  · exact .flatMap fun _ => Frame.moves_keeping
  · exact .flatMap fun _ => Eng.moves_keeping
  · exact .flatMap fun _ => Cmd.moves_keeping
  · exact .map fun _ _ h => h.execBarrierPhaseComplete
  · exact .map fun _ _ h => h.execGangFormation
  · exact .flatMap fun x => .ite (.cons (fun _ h => h.execFlockLateWindowEnd) .nil) (.cons (fun _ h =>
      h.execFlockTimerExpiry) .nil)
  · exact .flatMap fun x => .cons (fun _ h => h.execLaunchStart) (.cons (fun _ h => h.execLaunchCompletion) .nil)
  · exact .flatMap fun e => .flatMap fun w => .ite (.cons (fun _ h => h.execReductionStepMerge) .nil) .nil

theorem State.memOk.firstMove {l : List Meaning} {t : State} (h : s.memOk) (hl : Keeping l)
    (e : s.firstMove l = some t) : t.memOk := by
  induction l with
  | nil => cases e
  | cons i r ih =>
    have hr : s.firstMove r = some t → t.memOk := ih fun j hj => hl j (.tail _ hj)
    simp only [State.firstMove] at e
    split at e
    · split at e
      · cases e
        exact hl i (.head _) s h _ ‹_›
      · exact hr e
    · exact hr e

theorem State.memOk.nextMove {t : State} (h : s.memOk) (e : s.nextMove = some t) : t.memOk :=
  h.firstMove State.moves_keeping.rotateLeft e

theorem State.memOk.default (h : s.memOk) : Kept s.default := by
  unfold State.default
  extract_lets s1
  have h1 : s1.memOk := h
  have hmove {t : State} (e : s1.nextMove = some t) : Kept (.next t) := (h1.nextMove e).next
  split
  · split
    · exact hmove ‹_›
    · exact State.memOk.next h
  · split
    · exact h1.issueAt
    · split
      · exact hmove ‹_›
      · exact h1.issueAt

/-! ### A step -/

theorem State.memOk.step (h : s.memOk) : Kept (step s) := by
  unfold Machine.step
  split
  · exact State.memOk.move h
  · split
    · exact h.default
    · rintro _ ⟨⟩

/-- Settles O59: a step is one move, a default move or a fault, and `State.memOk.step` says that the state it hands on has
its memory in canonical form. -/
theorem memoryStaysCanonical : Obligations.MemoryStaysCanonical := by
  intro s t h e
  exact h.step t e

end Sys2Proof.Machine
end

section
/-! PROOFS. The register window (R119, R129, R273, R374; O52). -/

namespace Sys2Proof.Machine

open Sys2Proof Sys2Proof.Claims

/-! ### `ptroot`, SUPCORE and MBOX -/

theorem ptroot_bit (v : Word) {i : Nat} (hi : i < 64) :
    bitOf (v &&& (BitVec.ofNat 64 (2 ^ 35 - 64) ||| 1)) i = (bitOf v i && decide (i = 0 ∨ (6 ≤ i ∧ i < 35))) := by
  have mask : (BitVec.ofNat 64 (2 ^ 35 - 64) ||| 1 : Word).getLsbD i = decide (i = 0 ∨ (6 ≤ i ∧ i < 35)) := by
    revert i
    decide
  rw [bitOf, bitOf, BitVec.getLsbD_and, mask]

theorem mbox_bit (v : Word) {i : Nat} (hi : i < 64) :
    bitOf (v &&& BitVec.ofNat 64 (2 ^ 62 - 2 ^ 16 + 63)) i = (bitOf v i && decide (i < 6 ∨ (16 ≤ i ∧ i < 62))) := by
  have mask : (BitVec.ofNat 64 (2 ^ 62 - 2 ^ 16 + 63) : Word).getLsbD i = decide (i < 6 ∨ (16 ≤ i ∧ i < 62)) := by
    revert i
    decide
  rw [bitOf, bitOf, BitVec.getLsbD_and, mask]

theorem State.readReg_supcore (s : State) (m : Nat) {n : Nat} (h : n < 64) :
    s.readReg m (0x100 + 8 * n) = (s.die (m * 64 + n)).supcore.setWidth 64 := by
  have index : (0x100 + 8 * n - 0x100) / 8 = n := by omega
  simp only [State.readReg]
  rw [if_neg (by omega), if_neg (by omega), if_neg (by omega), if_neg (by omega), if_pos (by omega), index]

theorem State.readReg_ptroot (s : State) (m : Nat) {n : Nat} (h : n < 64) :
    s.readReg m (0x500 + 8 * n) = (s.die (m * 64 + n)).ptroot := by
  have index : (0x500 + 8 * n - 0x500) / 8 = n := by omega
  simp only [State.readReg]
  rw [if_neg (by omega), if_neg (by omega), if_neg (by omega), if_neg (by omega), if_neg (by omega), if_neg (by omega),
    if_pos (by omega), index]

theorem State.writeReg_supcore (s : State) (m : Nat) (v : Word) {n : Nat} (h : n < 64) :
    s.writeReg m (0x100 + 8 * n) v = s.writeSupcore (m * 64 + n) v := by
  have index : (0x100 + 8 * n - 0x100) / 8 = n := by omega
  rw [State.writeReg, if_neg (by omega), if_neg (by omega), if_pos (by omega), index]

theorem State.writeReg_ptroot (s : State) (m : Nat) (v : Word) {n : Nat} (h : n < 64) :
    s.writeReg m (0x500 + 8 * n) v = s.writePtroot (m * 64 + n) v := by
  have index : (0x500 + 8 * n - 0x500) / 8 = n := by omega
  rw [State.writeReg, if_neg (by omega), if_neg (by omega), if_neg (by omega), if_neg (by omega), if_pos (by omega), index]

@[simp] theorem die_happened (t : State) (d : DieId) : (happened t).die d = t.die d := rfl

@[simp] theorem core_happened (t : State) (l : Loc) : (happened t).core l = t.core l := rfl

@[simp] theorem State.core_updModule (s : State) (m : Nat) (f : Module → Module) (l : Loc) :
    (s.updModule m f).core l = s.core l := rfl

theorem exec_registerWindowWrite {s : State} {m off : Nat} (v : Word) (h : s.powered m) (ho : off < 65536 ∧ off % 8 = 0) :
    exec (.registerWindowWrite m off v) s = .next (happened (s.writeReg m off v)) :=
  occurs_due _ _ (by rw [h, decide_eq_true ho]; rfl)

theorem exec_ptrootWrite {s : State} {m n : Nat} (v : Word) (h : s.powered m) (hn : n < 64) :
    exec (.ptrootWrite m n v) s = .next (happened (s.writePtroot (m * 64 + n) v)) :=
  occurs_due _ _ (by rw [h, decide_eq_true hn]; rfl)

/-! ### A core made fallow (R129) -/

/-- No slot of a core gets a frame. -/
def NoneBound (s t : State) : Prop :=
  ∀ l n, ((t.core l).slot n).bound = ((s.core l).slot n).bound ∨ ((t.core l).slot n).bound = none

theorem NoneBound.refl (s : State) : NoneBound s s := fun _ _ => .inl rfl

theorem NoneBound.trans {s t u : State} (h : NoneBound s t) (k : NoneBound t u) : NoneBound s u := fun l n =>
  (k l n).elim (fun e => e ▸ h l n) .inr

theorem NoneBound.keeps {s t : State} (h : NoneBound s t) {l : Loc} {n : Nat} (hn : ((s.core l).slot n).bound = none) :
    ((t.core l).slot n).bound = none :=
  (h l n).elim (fun e => e.trans hn) id

/-- A change of one core that keeps the frames of its slots or lets them go. -/
theorem NoneBound.updCore (s : State) (l : Loc) (g : Core → Core)
    (hg : ∀ n, ((g (s.core l)).slot n).bound = ((s.core l).slot n).bound ∨ ((g (s.core l)).slot n).bound = none) :
    NoneBound s (s.updCore l g) := by
  intro k n
  by_cases hk : l = k
  · subst hk
    rw [State.core_updCore]
    exact hg n
  · rw [State.core_updCore_other _ _ hk]
    exact .inl rfl

theorem Core.bound_updSlot (c : Core) (n m : Nat) (h : Slot → Slot) (hh : ∀ x, (h x).bound = x.bound) :
    ((c.updSlot n h).slot m).bound = (c.slot m).bound := by
  rw [Core.slot_updSlot]
  split
  · exact hh _
  · rfl

theorem Slot.bound_startDrain (n : Nat) (x : Slot) : (x.startDrain n).bound = x.bound := by
  unfold Slot.startDrain
  split <;> rfl

theorem Core.bound_pour (c : Core) (m : Nat) : (c.pour.slot m).bound = (c.slot m).bound := by
  unfold Core.pour
  generalize List.range 8 = l
  induction l generalizing c with
  | nil => rfl
  | cons n r ih =>
    refine (ih _).trans ?_
    dsimp only
    split
    · exact c.bound_updSlot n m _ fun _ => rfl
    · rfl

theorem State.ready_noneBound (s : State) (k : Nat) : NoneBound s (s.ready k) := by
  unfold State.ready
  dsimp only
  split
  · exact .updCore _ _ _ fun _ => .inl rfl
  · exact .refl s

theorem State.drain_noneBound (s : State) (k : Nat) : NoneBound s (s.drain k) := by
  have poured (n : Nat) :
      NoneBound s (s.updCore (keyLoc k) fun c => (c.updSlot n (Slot.startDrain s.nextId)).pour) :=
    .updCore _ _ _ fun m => .inl (by rw [Core.bound_pour, Core.bound_updSlot _ _ _ _ fun x => x.bound_startDrain _])
  unfold State.drain
  split
  · dsimp only
    split
    · exact fun l n => poured _ l n
    · exact fun _ _ => .inl rfl
  · exact .refl s

theorem State.unbind_noneBound (s : State) (l : Loc) (n : Nat) : NoneBound s (s.unbind l n) := by
  unfold State.unbind
  split
  · refine (s.drain_noneBound _).trans (.updCore _ _ _ fun m => ?_)
    rw [Core.slot_updSlot]
    split
    · exact .inr rfl
    · exact .inl rfl
  · exact .refl s

theorem State.unbind_bound (s : State) (l : Loc) {n : Nat} (hn : n < 8) : (((s.unbind l n).core l).slot n).bound = none := by
  unfold State.unbind
  split
  · rw [State.updSlot, State.core_updCore, Core.slot_updSlot, if_pos ⟨rfl, hn⟩]
  · assumption

theorem State.ready_mem (s : State) (k : Nat) : (s.ready k).mem = s.mem := by
  unfold State.ready
  dsimp only
  split <;> rfl

theorem State.drain_mem (s : State) (k : Nat) : (s.drain k).mem = s.mem := by
  unfold State.drain
  split
  · dsimp only
    split <;> rfl
  · rfl

theorem State.unbind_mem (s : State) (l : Loc) (n : Nat) : (s.unbind l n).mem = s.mem := by
  unfold State.unbind
  split
  · exact State.drain_mem s _
  · rfl

/-- One slot of a core that becomes fallow lets its frame go. -/
def State.letSlotGo (l : Loc) (t : State) (n : Nat) : State :=
  match ((t.core l).slot n).bound with
  | some f =>
    let u := t.unbind l n
    if (u.frame (keyOf l f)).wait.isNone then u.ready (keyOf l f) else u
  | none => t

theorem State.makeFallow_eq (s : State) (m : Nat) (l : Loc) : s.makeFallow m l =
    if s.launches.any fun x => x.occupies && x.lr.holds x.mod l then s.fallowSays m 1
    else (((List.range 8).foldl (State.letSlotGo l) s).updCore l fun c => { c with fallow := true }).fallowSays m 0 := rfl

theorem State.letSlotGo_noneBound (s : State) (l : Loc) (n : Nat) : NoneBound s (s.letSlotGo l n) := by
  unfold State.letSlotGo
  split
  · dsimp only
    split
    · exact (s.unbind_noneBound l n).trans (State.ready_noneBound _ _)
    · exact s.unbind_noneBound l n
  · exact .refl s

theorem State.letSlotGo_bound (s : State) (l : Loc) {n : Nat} (hn : n < 8) :
    (((s.letSlotGo l n).core l).slot n).bound = none := by
  unfold State.letSlotGo
  split
  · dsimp only
    split
    · exact (State.ready_noneBound _ _).keeps (s.unbind_bound l hn)
    · exact s.unbind_bound l hn
  · assumption

theorem State.letSlotGo_mem (s : State) (l : Loc) (n : Nat) : (s.letSlotGo l n).mem = s.mem := by
  unfold State.letSlotGo
  split
  · dsimp only
    split
    · exact (State.ready_mem _ _).trans (s.unbind_mem l n)
    · exact s.unbind_mem l n
  · rfl

theorem State.foldl_letSlotGo_noneBound (s : State) (l : Loc) (ns : List Nat) :
    NoneBound s (ns.foldl (State.letSlotGo l) s) := by
  induction ns generalizing s with
  | nil => exact .refl s
  | cons n r ih => exact (s.letSlotGo_noneBound l n).trans (ih _)

theorem State.foldl_letSlotGo_bound (s : State) (l : Loc) {ns : List Nat} {n : Nat} (hn : n < 8) (h : n ∈ ns) :
    (((ns.foldl (State.letSlotGo l) s).core l).slot n).bound = none := by
  induction ns generalizing s with
  | nil => cases h
  | cons k r ih =>
    rcases List.mem_cons.1 h with rfl | h
    · exact (State.foldl_letSlotGo_noneBound _ l r).keeps (s.letSlotGo_bound l hn)
    · exact ih _ h

theorem State.foldl_letSlotGo_mem (s : State) (l : Loc) (ns : List Nat) : (ns.foldl (State.letSlotGo l) s).mem = s.mem := by
  induction ns generalizing s with
  | nil => rfl
  | cons n r ih => exact (ih _).trans (s.letSlotGo_mem l n)

theorem State.readReg_fallow (s : State) (m : Nat) : s.readReg m 0x400 = BitVec.ofNat 64 (s.module m).fallowState := rfl

theorem State.readReg_fallowSays (s : State) (m n : Nat) : (s.fallowSays m n).readReg m 0x400 = BitVec.ofNat 64 n := by
  rw [State.readReg_fallow, State.fallowSays, State.module_updModule]

theorem exec_fallowSet {s : State} {m : Nat} {v : Word} (h : s.powered m) (hv : bitOf v 14) :
    exec (.fallowSet m v) s = .next (happened (s.makeFallow m (fallowLoc m v))) := by
  refine (occurs_due _ _ (by rw [h, hv]; rfl)).trans ?_
  rw [State.writeFallow, if_pos hv]

theorem exec_fallowClear {s : State} {m : Nat} {v : Word} (h : s.powered m) (hv : bitOf v 14 = false) :
    exec (.fallowClear m v) s = .next (happened (s.clearFallow m (fallowLoc m v))) := by
  refine (occurs_due _ _ (by rw [h, hv]; rfl)).trans ?_
  rw [State.writeFallow, if_neg (by simp [hv])]

/-! ### BARADD (R273) -/

theorem exec_baradd {s : State} {m : Nat} (v : Word) (h : s.powered m) :
    exec (.baradd m v) s = .next (happened (s.addToBarrier m (v.setWidth 32))) := occurs_due _ _ h

theorem Barrier.isAt_self (b : Barrier) : b.isAt b.launch b.lmod b.sc b.inst b.id = true := by
  simp [Barrier.isAt]

theorem Barrier.isAt_iff {b : Barrier} {id : W32} {m inst n : Nat} {sc : Scope} :
    b.isAt id m sc inst n ↔ b.launch = id ∧ b.lmod = m ∧ b.sc = sc ∧ b.inst = inst ∧ b.id = n := by
  simp [Barrier.isAt, and_assoc]

/-- A barrier that stands at the place of a listed one takes that one's place. -/
theorem State.mem_putBarrier {s : State} {b c : Barrier} (hb : b ∈ s.barriers)
    (h : b.isAt c.launch c.lmod c.sc c.inst c.id) : c ∈ (s.putBarrier c).barriers := by
  have listed : s.barriers.any (fun d => d.isAt c.launch c.lmod c.sc c.inst c.id) = true := List.any_eq_true.2 ⟨b, hb, h⟩
  unfold State.putBarrier
  dsimp only
  rw [if_pos listed]
  exact List.mem_map.2 ⟨b, hb, if_pos h⟩

/-! ### Reduction windows (R166) -/

theorem State.windows_updWindow (s : State) (m w : Nat) (f : RWindow → RWindow) {i : Nat} (hi : i < 16) :
    ((s.updWindow m w f).module m).windows.toList.getD i {} =
      if i = w then f ((s.module m).windows.toList.getD i {}) else (s.module m).windows.toList.getD i {} := by
  rw [State.updWindow, State.module_updModule]
  simp [List.getD, hi]

/-- A window once its enable has been cleared: what it says of its operations stays. -/
theorem RWindow.settle_keeps (w : RWindow) : w.settle.base = w.base ∧ w.settle.pages = w.pages ∧ w.settle.ty = w.ty ∧
    w.settle.mask = w.mask ∧ w.settle.ops = w.ops := by
  unfold RWindow.settle
  split <;> exact ⟨rfl, rfl, rfl, rfl, rfl⟩

theorem RWindow.write_enabled {w : RWindow} (h : w.enable) (off : Nat) (v : Word) : (w.write off v).base = w.base ∧
    (w.write off v).pages = w.pages ∧ (w.write off v).ty = w.ty ∧ (w.write off v).mask = w.mask ∧
    (w.write off v).ops = w.ops := by
  rw [RWindow.write, if_pos h]
  split
  · exact RWindow.settle_keeps { w with closing := true }
  · exact ⟨rfl, rfl, rfl, rfl, rfl⟩

theorem RWindow.write_disabled {w : RWindow} (h : w.enable = false) (off : Nat) (v : Word) : w.write off v = w.put off v := by
  rw [RWindow.write, if_neg (by simp [h])]

/-- The 64 mask bits at an offset are the value's; the others stay. -/
theorem RWindow.put_mask (w : RWindow) (v : Word) {off i : Nat} (ho : 32 ≤ off) (hl : off < 64) (h8 : off % 8 = 0)
    (hi : i < 256) : (w.put off v).mask.getLsbD i =
      if (off - 32) * 8 ≤ i ∧ i < (off - 32) * 8 + 64 then bitOf v (i - (off - 32) * 8) else w.mask.getLsbD i := by
  have at' : 64 * ((off - 32) / 8) = (off - 32) * 8 := by omega
  rw [RWindow.put, if_neg (by omega), if_neg (by omega), if_pos ⟨ho, hl⟩]
  dsimp only
  rw [at']
  generalize (off - 32) * 8 = k
  simp only [BitVec.getLsbD_or, BitVec.getLsbD_and, BitVec.getLsbD_not, BitVec.getLsbD_ofNat, hi, decide_true, Bool.true_and,
    Nat.testBit_mul_two_pow, Nat.testBit_two_pow_sub_one, bitOf,
    BitVec.testBit_toNat]
  by_cases below : k ≤ i
  · by_cases within : i < k + 64
    · have near : i - k < 64 := by omega
      simp [below, within, near]
    · have far : 64 ≤ i - k := by omega
      simp [within, far]
  · simp [below]

theorem exec_reductionWindowWrite {s : State} {m w off : Nat} (v : Word) (h : s.powered m)
    (hw : w < 16 ∧ off < 64 ∧ off % 8 = 0) :
    exec (.reductionWindowWrite m w off v) s = .next (happened (s.updWindow m w fun x => x.write off v)) :=
  occurs_due _ _ (by rw [h, decide_eq_true hw]; rfl)

/-! ### The obligation -/

theorem ptrootWrite_result (m n : Nat) (v : Word) (s : State) (h : s.powered m) (hn : n < 64) : ∃ t,
    exec (.ptrootWrite m n v) s = .next t ∧ exec (.registerWindowWrite m (0x500 + 8 * n) v) s = .next t ∧
    t.note = .moved ∧
    (∀ i < 64, bitOf (t.die (m * 64 + n)).ptroot i = (bitOf v i && decide (i = 0 ∨ (6 ≤ i ∧ i < 35)))) ∧
    t.readReg m (0x500 + 8 * n) = (t.die (m * 64 + n)).ptroot ∧ (∀ d, d ≠ m * 64 + n → t.die d = s.die d) ∧
    t.mem = s.mem := by
  have value : ((happened (s.writePtroot (m * 64 + n) v)).die (m * 64 + n)).ptroot =
      v &&& (BitVec.ofNat 64 (2 ^ 35 - 64) ||| 1) := by
    rw [die_happened, State.writePtroot, State.die_updDie]
  refine ⟨_, exec_ptrootWrite v h hn, ?_, rfl, fun i hi => ?_, State.readReg_ptroot _ m hn, fun d hd => ?_, rfl⟩
  · rw [exec_registerWindowWrite v h (by omega), State.writeReg_ptroot s m v hn]
  · rw [value, ptroot_bit v hi]
  · rw [die_happened, State.writePtroot, State.die_updDie_other s _ hd.symm]

theorem supcoreWrite_result (m n : Nat) (v : Word) (s : State) (h : s.powered m) (hn : n < 64) : ∃ t,
    exec (.registerWindowWrite m (0x100 + 8 * n) v) s = .next t ∧ t.note = .moved ∧
    (t.readReg m (0x100 + 8 * n)).toNat = v.toNat % 256 ∧ t.supLoc (m * 64 + n) = (m * 64 + n) * 256 + v.toNat % 256 := by
  have value : ((happened (s.writeSupcore (m * 64 + n) v)).die (m * 64 + n)).supcore = v.setWidth 8 := by
    rw [die_happened, State.writeSupcore, State.die_updDie]
  refine ⟨_, (exec_registerWindowWrite v h (by omega)).trans (by rw [State.writeReg_supcore s m v hn]), rfl, ?_, ?_⟩
  · rw [State.readReg_supcore _ m hn, value]
    simp only [BitVec.toNat_setWidth]
    omega
  · rw [State.supLoc, value, BitVec.toNat_setWidth]

theorem mboxWrite_result (m : Nat) (v : Word) (s : State) (h : s.powered m) : ∃ t,
    exec (.registerWindowWrite m 0x10 v) s = .next t ∧ t.note = .moved ∧
    ∀ i < 64, bitOf (t.readReg m 0x10) i = (bitOf v i && decide (i < 6 ∨ (16 ≤ i ∧ i < 62))) := by
  have value : (happened (s.writeReg m 0x10 v)).readReg m 0x10 = v &&& BitVec.ofNat 64 (2 ^ 62 - 2 ^ 16 + 63) := by
    change ((s.writeMbox m v).module m).mbox = _
    rw [State.writeMbox, State.module_updModule]
  refine ⟨_, exec_registerWindowWrite v h (by omega), rfl, fun i hi => ?_⟩
  rw [value, mbox_bit v hi]

theorem fallowSet_result (m : Nat) (v : Word) (s : State) (h : s.powered m) (hv : bitOf v 14) :
    ((s.launches.any fun x => x.occupies && x.lr.holds x.mod (fallowLoc m v)) →
      ∃ t, exec (.fallowSet m v) s = .next t ∧ t.note = .moved ∧ t.readReg m 0x400 = 1 ∧ t.cores = s.cores) ∧
    ((s.launches.any fun x => x.occupies && x.lr.holds x.mod (fallowLoc m v)) = false →
      ∃ t, exec (.fallowSet m v) s = .next t ∧ t.note = .moved ∧ t.readReg m 0x400 = 0 ∧ (t.core (fallowLoc m v)).fallow ∧
        (∀ n < 8, ((t.core (fallowLoc m v)).slot n).bound = none) ∧ SameMemory s t) := by
  have e := exec_fallowSet h hv
  rw [State.makeFallow_eq] at e
  refine ⟨fun occupied => ?_, fun free => ?_⟩
  · rw [if_pos occupied] at e
    exact ⟨_, e, rfl, State.readReg_fallowSays s m 1, rfl⟩
  · rw [if_neg (by rw [free]; decide)] at e
    have unbound (n : Nat) (hn : n < 8) := State.foldl_letSlotGo_bound s (fallowLoc m v) hn (List.mem_range.2 hn)
    have mem := State.foldl_letSlotGo_mem s (fallowLoc m v) (List.range 8)
    generalize (List.range 8).foldl (State.letSlotGo (fallowLoc m v)) s = u at e unbound mem
    refine ⟨_, e, rfl, State.readReg_fallowSays _ m 0, ?_, fun n hn => ?_, fun a => congrArg (Memory.get · a) mem⟩
    · rw [core_happened, State.fallowSays, State.core_updModule, State.core_updCore]
    · rw [core_happened, State.fallowSays, State.core_updModule, State.core_updCore]
      exact unbound n hn

theorem fallowClear_result (m : Nat) (v : Word) (s : State) (h : s.powered m) (hv : bitOf v 14 = false) :
    ∃ t, exec (.fallowClear m v) s = .next t ∧ t.note = .moved ∧ t.readReg m 0x400 = 0 ∧
      (t.core (fallowLoc m v)).fallow = false ∧ t.mem = s.mem := by
  refine ⟨_, exec_fallowClear h hv, rfl, State.readReg_fallowSays _ m 0, ?_, rfl⟩
  rw [core_happened, State.clearFallow, State.fallowSays, State.core_updModule, State.core_updCore]

theorem baradd_result (m : Nat) (v : Word) (s : State) (x y : Launch) (b : Barrier) (sc : Scope) (n : Nat)
    (h : s.powered m) (hsc : (fieldOf (s.module m).baradd 32 3 = 4 ∧ sc = .mod) ∨
      (fieldOf (s.module m).baradd 32 3 = 5 ∧ sc = .pod)) (hn : n = fieldOf (s.module m).baradd 35 3)
    (hx : s.launchOf ((s.module m).baradd.setWidth 32) m = some x) (hd : x.status ≠ .done)
    (hy : s.launchOf (v.setWidth 32) m = some y) (hk : y.lr.kind = 1)
    (hb : (s.barriers.find? fun c => c.isAt x.id x.mod sc (if sc = .mod then m else 0) n) = some b)
    (hm : b.members ≠ []) : ∃ t c, exec (.baradd m v) s = .next t ∧ t.note = .moved ∧ c ∈ t.barriers ∧ c.id = b.id ∧
      c.members = b.members ∧ c.phase = b.phase ∧ c.arrived = b.arrived ∧ ∀ e ∈ y.placed,
        instanceOf sc e.2 = (if sc = .mod then m else 0) → e.1 ∉ y.exited → e.1 ∈ c.members ∨ e.1 ∈ c.joining := by
  have scope : baraddScope (fieldOf (s.module m).baradd 32 3) = some sc := by
    rcases hsc with ⟨e, rfl⟩ | ⟨e, rfl⟩ <;> rw [e] <;> rfl
  have next : s.addToBarrier m (v.setWidth 32) =
      s.putBarrier (b.welcome (y.membersIn sc (if sc = .mod then m else 0))) := by
    subst hn
    simp only [State.addToBarrier, scope, hx, hy, if_neg hd, hb, Option.getD_some]
  generalize hi : (if sc = .mod then m else 0) = inst at hb next ⊢
  have joins : b.welcome (y.membersIn sc inst) = { b with
      joining := b.joining ++ (y.membersIn sc inst).filter fun u => !b.members.contains u && !b.joining.contains u } := by
    simp [Barrier.welcome, hm]
  have e := exec_baradd v h
  rw [next] at e
  refine ⟨_, _, e, rfl, State.mem_putBarrier (b := b) (c := b.welcome _)
    (List.mem_of_find?_eq_some hb) ?_, ?_⟩
  · rw [joins]
    exact b.isAt_self
  · rw [joins]
    refine ⟨rfl, rfl, rfl, rfl, fun e he hin hout => ?_⟩
    have member : e.1 ∈ y.membersIn sc inst := by
      rw [Launch.membersIn, if_pos hk]
      refine List.mem_map.2 ⟨e, List.mem_filter.2 ⟨he, ?_⟩, rfl⟩
      simp [hin, hout]
    by_cases old : e.1 ∈ b.members
    · exact .inl old
    · right
      by_cases waits : e.1 ∈ b.joining
      · exact List.mem_append_left _ waits
      · exact List.mem_append_right _ (List.mem_filter.2 ⟨member, by simp [old, waits]⟩)

theorem reductionWindowWrite_result (m w off : Nat) (v : Word) (s : State) (x : RWindow) (h : s.powered m) (hw : w < 16)
    (ho : off < 64) (h8 : off % 8 = 0) (hx : x = (s.module m).windows.toList.getD w {}) :
    ∃ t y, exec (.reductionWindowWrite m w off v) s = .next t ∧
      t.note = .moved ∧ (t.module m).windows.toList.getD w {} = y ∧ t.mem = s.mem ∧
      (∀ i < 16, i ≠ w → (t.module m).windows.toList.getD i {} = (s.module m).windows.toList.getD i {}) ∧
      (x.enable → y.base = x.base ∧ y.pages = x.pages ∧ y.ty = x.ty ∧ y.mask = x.mask ∧ y.ops = x.ops) ∧
      (x.enable = false → (off = 0 → y.base = v) ∧ (32 ≤ off → ∀ i < 256, y.mask.getLsbD i =
        if (off - 32) * 8 ≤ i ∧ i < (off - 32) * 8 + 64 then bitOf v (i - (off - 32) * 8) else x.mask.getLsbD i) ∧
        (off = 8 → y.pages = v.setWidth 32 ∧ y.enable = bitOf v 40 ∧ y.ops = [] ∧ y.closed = [])) := by
  refine ⟨_, x.write off v, exec_reductionWindowWrite v h ⟨hw, ho, h8⟩, rfl, ?_, rfl, fun i hi hne => ?_, fun on => ?_,
    fun off' => ?_⟩
  · exact (State.windows_updWindow s m w _ hw).trans (by rw [if_pos rfl, hx])
  · exact (State.windows_updWindow s m w _ hi).trans (if_neg hne)
  · exact RWindow.write_enabled on off v
  · rw [RWindow.write_disabled off']
    refine ⟨fun e => ?_, fun hlo i hi => x.put_mask v hlo ho h8 hi, fun e => ?_⟩
    · rw [e, RWindow.put, if_pos rfl]
    · rw [e, RWindow.put, if_neg (by decide), if_pos rfl]
      exact ⟨rfl, rfl, rfl, rfl⟩

/-- Settles O52: each register's write, part by part. -/
theorem registerWindow : Obligations.RegisterWindow :=
  ⟨ptrootWrite_result, supcoreWrite_result, mboxWrite_result, fallowSet_result, fallowClear_result, baradd_result,
    reductionWindowWrite_result⟩

end Sys2Proof.Machine
end

section
/-! PROOFS. Granules of spread space that move (R131-R133, R172; O47). -/

namespace Sys2Proof.Machine

open Sys2Proof Sys2Proof.Claims

/-! ### What the memory side changes -/

/-- A slot but for the words it holds of its own memory (R174). -/
def Slot.bare (x : Slot) : Slot := { x with ibuf := [] }

/-- A core but for the words its slots hold of its own memory. -/
def Core.bare (c : Core) : Core := { c with slots := c.slots.map Slot.bare }

theorem Core.buffered_bare (c : Core) : c.bare.buffered = c.buffered := by
  simp [Core.buffered, Core.bare, Slot.bare, Vector.toList_map, List.flatMap_map]

theorem Core.queued_bare (c : Core) : c.bare.queued = c.queued := by
  simp only [Core.queued, Core.bare, Slot.bare, Vector.toList_map, List.flatMap_map]
  rfl

/-- What the memory side changes of itself: bytes, check bits, the homes' translations and sectors, and the words that slots
hold of their own memory. -/
def MemorySide (s t : State) : Prop :=
  t = { s with mem := t.mem, bad := t.bad, homes := t.homes, cores := t.cores } ∧ ∀ l, (t.core l).bare = (s.core l).bare

theorem MemorySide.refl (s : State) : MemorySide s s := ⟨rfl, fun _ => rfl⟩

theorem MemorySide.trans {s t u : State} (hst : MemorySide s t) (htu : MemorySide t u) : MemorySide s u := by
  obtain ⟨hst, cst⟩ := hst
  obtain ⟨htu, ctu⟩ := htu
  refine ⟨?_, fun l => (ctu l).trans (cst l)⟩
  rw [htu, hst]

section
variable {s t : State} (h : MemorySide s t)
include h
theorem MemorySide.frames : t.frames = s.frames := by rw [h.1]
theorem MemorySide.net : t.net = s.net := by rw [h.1]
theorem MemorySide.evq : t.evq = s.evq := by rw [h.1]
theorem MemorySide.dies : t.dies = s.dies := by rw [h.1]
theorem MemorySide.mods : t.mods = s.mods := by rw [h.1]
theorem MemorySide.qevt (l : Loc) : (t.core l).qevt = (s.core l).qevt := by
  change (t.core l).bare.qevt = (s.core l).bare.qevt
  rw [h.2 l]
theorem MemorySide.buffered (l : Loc) : (t.core l).buffered = (s.core l).buffered := by
  rw [← Core.buffered_bare, h.2 l, Core.buffered_bare]
theorem MemorySide.queued (l : Loc) : (t.core l).queued = (s.core l).queued := by
  rw [← Core.queued_bare, h.2 l, Core.queued_bare]
end

theorem MemorySide.foldl {α : Type} {f : State → α → State} (h : ∀ t x, MemorySide t (f t x)) (s : State) (xs : List α) :
    MemorySide s (xs.foldl f s) := by
  induction xs generalizing s with
  | nil => exact .refl s
  | cons x xs ih => exact (h s x).trans (ih _)

theorem Core.bare_snoop (c : Core) (a n : Nat) : { c with slots := c.slots.map (Slot.snoop a n) }.bare = c.bare := by
  simp [Core.bare, Slot.bare, Slot.snoop, Function.comp_def]

theorem SMap.bare_map (m : SMap Core) (g : Core → Core) (hg : ∀ c, (g c).bare = c.bare) (k : Nat) :
    (SMap.get (m.map fun c => (c.1, g c.2)) {} k).bare = (SMap.get m {} k).bare := by
  induction m with
  | nil => rfl
  | cons x r ih =>
    simp only [List.map_cons, SMap.get]
    split
    · exact hg _
    · exact ih

theorem State.poke_memorySide (s : State) (a : Nat) (b : List Byte) : MemorySide s (s.poke a b) := by
  refine ⟨rfl, fun l => ?_⟩
  unfold State.poke State.core
  dsimp only
  split
  · exact SMap.bare_map s.cores _ (fun c => c.bare_snoop a b.length) l
  · rfl

theorem State.updHome_memorySide (s : State) (h : Home) (f : HomeSt → HomeSt) : MemorySide s (s.updHome h f) :=
  ⟨rfl, fun _ => rfl⟩

theorem State.badSet_memorySide (s : State) (l : List Nat) : MemorySide s { s with bad := l } := ⟨rfl, fun _ => rfl⟩

theorem State.copyBytes_memorySide (s : State) (a b n : Nat) : MemorySide s (s.copyBytes a b n) :=
  (s.poke_memorySide b (s.bytes a n)).trans (State.badSet_memorySide _ _)

theorem State.copyFrame_memorySide (s : State) (a b : Nat) : MemorySide s (s.copyFrame a b) := by
  unfold State.copyFrame
  dsimp only
  exact (s.poke_memorySide b (s.bytes a 65536)).trans (State.badSet_memorySide _ _)

theorem State.dropSector_memorySide (s : State) (h : Home) (k : Nat) : MemorySide s (s.dropSector h k) := by
  unfold State.dropSector
  split
  · dsimp only
    split
    · exact ((s.copyBytes_memorySide _ _ _).trans (State.poke_memorySide _ _ _)).trans (State.updHome_memorySide _ _ _)
    · exact (State.poke_memorySide _ _ _).trans (State.updHome_memorySide _ _ _)
  · exact .refl s

theorem State.flushPage_memorySide (s : State) (h : Home) (va : Word) : MemorySide s (s.flushPage h va) := by
  unfold State.flushPage
  refine .foldl (fun t e => ?_) s _
  split
  · exact t.dropSector_memorySide h _
  · exact .refl t

theorem State.flushSlices_memorySide (s : State) (d : DieId) (va : Word) :
    MemorySide s ((List.range 64).foldl (fun t q => t.flushPage (.slice d q) va) s) :=
  .foldl (fun t _ => t.flushPage_memorySide _ va) s _

theorem State.pushFrame_memorySide (s : State) (d : DieId) (o : Nat) : MemorySide s (s.pushFrame d o).1 := by
  unfold State.pushFrame
  split
  · dsimp only
    split
    · exact (s.poke_memorySide _ _).trans (State.poke_memorySide _ _ _)
    · exact .refl s
  · exact .refl s

theorem State.popFrame_memorySide {s t : State} {d : DieId} {o : Nat} (h : s.popFrame d = some (t, o)) : MemorySide s t := by
  unfold State.popFrame at h
  split at h
  · dsimp only at h
    split at h
    · cases h
    · cases h
      exact s.poke_memorySide _ _
  · cases h

theorem State.dropGranule_memorySide (s : State) (d : DieId) (g : Nat) : MemorySide s (s.dropGranule d g) := by
  unfold State.dropGranule
  exact .foldl (fun t _ => t.updHome_memorySide _ _) s _

/-- A request at a slice has left its core or not, whatever the memory side has done meanwhile. -/
theorem MemorySide.leaves {s t : State} (h : MemorySide s t) {p : Pkt} (hp : (p.home == .core p.src) = false) :
    t.leaves p = s.leaves p := by
  simp only [State.leaves, State.doubleClear, State.storesDone, State.within, hp, h.net, h.buffered, h.queued, beq_self_eq_true,
    Bool.true_or, Bool.false_eq_true, if_false]

theorem OnlyWakes.dies {s t : State} (h : OnlyWakes s t) : t.dies = s.dies := by rw [h.1]
theorem OnlyWakes.net {s t : State} (h : OnlyWakes s t) : t.net = s.net := by rw [h.1]

theorem State.event_dies (s : State) (src : Nat) (dest : Loc) (ws : List Word) : (s.event src dest ws).dies = s.dies := by
  unfold State.event
  split
  · exact (State.wake_onlyWakes _ _).dies
  · rfl

theorem State.event_net (s : State) (src : Nat) (dest : Loc) (ws : List Word) : (s.event src dest ws).net = s.net := by
  unfold State.event
  split
  · exact (State.wake_onlyWakes _ _).net
  · rfl

theorem State.dropGranule_mem (s : State) (d : DieId) (g : Nat) : (s.dropGranule d g).mem = s.mem := by
  unfold State.dropGranule
  generalize List.range 64 = qs
  induction qs generalizing s with
  | nil => rfl
  | cons q qs ih => exact (ih _).trans rfl

/-! ### A granule that moves (R132) -/

section
variable (s : State) (old new : DieId) (g : Nat)
@[simp] theorem State.replay_mem : (s.replay old new g).mem = s.mem := rfl
@[simp] theorem State.replay_evq : (s.replay old new g).evq = s.evq := rfl
@[simp] theorem State.core_replay (l : Loc) : (s.replay old new g).core l = s.core l := rfl
@[simp] theorem State.die_replay (d : DieId) : (s.replay old new g).die d = s.die d := rfl
end

@[simp] theorem State.core_updDie (s : State) (d : DieId) (f : Die → Die) (l : Loc) : (s.updDie d f).core l = s.core l := rfl

@[simp] theorem mem_happened (t : State) : (happened t).mem = t.mem := rfl

@[simp] theorem net_happened (t : State) : (happened t).net = t.net := rfl

theorem exec_rehomeGranule {s : State} {h : Home} {g d : Nat} (hd : s.rehomeTo h g = some d) :
    exec (.rehomeGranule h g) s = .next (happened (s.rehome h d g)) := by
  change execRehomeGranule h g s = _
  rw [execRehomeGranule, hd]
  rfl

/-- R132 step 6: the old frame, which was in a pool, goes to the pool of the old die; whether that pool took it. -/
def State.returnFrame (u : State) (d : DieId) (e : Word) : State × Bool :=
  if pteKind e = 1 then u.pushFrame d (fieldOf e 24 35) else (u, false)

/-- R132 step 7: the old slices drop the granule, its requests go on to the new home, and the leaf is listed (R133). -/
def State.leaveFor (u : State) (old new : DieId) (g b : Nat) : State :=
  ((u.dropGranule old g).replay old new g).updDie old fun x => { x with moved := x.moved ++ [b] }

theorem State.rehome_moves {s s1 : State} {h : Home} {g d n : Nat} {e : Word} {a o b : Nat}
    (hw : walk s h (granuleVA g) = .leaf n 65536 e a) (hl : (s.die (homeDie h)).moved.length < 4096) (hf : bitOf e 20 = false)
    (hb : s.levelOne d g = some b) (ho : s.popFrame d = some (s1, o)) {s2 u : State}
    (h2 : s2 = (List.range 64).foldl (fun t q => t.flushPage (.slice (homeDie h) q) (granuleVA g)) s1)
    (hu : u = ((s2.copyFrame (leafPhys (homeDie h) e 65536 (granuleVA g)) (dramKey d o)).poke b
        (bytesOf 8 (movedLeaf e o).toNat)).poke a (bytesOf 8 (fwdLeaf d).toNat)) :
    s.rehome h d g = ((u.returnFrame (homeDie h) e).1.leaveFor (homeDie h) d g b).eventAt h [0x11, granuleVA g,
      BitVec.ofNat 64 ((if pteKind e = 1 then fieldOf e 24 35 else 0) + if (u.returnFrame (homeDie h) e).2 then 0 else 2 ^ 63)] := by
  have free : ¬(bitOf e 20 || decide (4096 ≤ (s.die (homeDie h)).moved.length)) = true := by
    simp [hf, hl]
  simp only [State.rehome, hw, if_neg free, hb, State.moveGranule, ho, Option.getD_some]
  rw [← h2, ← hu]
  rfl

theorem State.returnFrame_memorySide (u : State) (d : DieId) (e : Word) : MemorySide u (u.returnFrame d e).1 := by
  unfold State.returnFrame
  split
  · exact u.pushFrame_memorySide d _
  · exact .refl u

section
variable (u : State) (old new : DieId) (g b : Nat)

theorem State.leaveFor_mem : (u.leaveFor old new g b).mem = u.mem := by
  rw [State.leaveFor, State.updDie_mem, State.replay_mem, State.dropGranule_mem]

theorem State.leaveFor_evq : (u.leaveFor old new g b).evq = u.evq := by
  rw [State.leaveFor, State.updDie_evq, State.replay_evq, (u.dropGranule_memorySide old g).evq]

theorem State.leaveFor_qevt (l : Loc) : ((u.leaveFor old new g b).core l).qevt = (u.core l).qevt := by
  rw [State.leaveFor, State.core_updDie, State.core_replay, (u.dropGranule_memorySide old g).qevt l]

theorem State.leaveFor_die (d : DieId) : (u.leaveFor old new g b).die d =
    if d = old then { u.die old with moved := (u.die old).moved ++ [b] } else u.die d := by
  have same (d : DieId) : ((u.dropGranule old g).replay old new g).die d = u.die d := by
    rw [State.die_replay, State.die, State.die, (u.dropGranule_memorySide old g).dies]
  unfold State.leaveFor
  split
  · next hd => rw [hd, State.die_updDie, same]
  · next hd => rw [State.die_updDie_other _ _ (Ne.symm hd), same]

theorem State.leaveFor_supLoc (d : DieId) : (u.leaveFor old new g b).supLoc d = u.supLoc d := by
  rw [State.supLoc, State.leaveFor_die]
  split
  · next hd => rw [hd]; rfl
  · rfl

/-- A request for the granule that is still at its old place has not left its core. -/
theorem State.leaveFor_net {p : Pkt} (hp : p ∈ (u.leaveFor old new g b).net) (hs : spaceOf p.va = .spread)
    (hg : granuleOf p.va = g) (hk : p.kind.isRequest) (hh : p.home = .slice old (sliceOf p.va)) (hl : u.leaves p) :
    old = new := by
  have sameLeaves := (u.dropGranule_memorySide old g).leaves (p := p)
  rw [State.leaveFor, State.updDie_net, State.replay] at hp
  generalize u.dropGranule old g = w at sameLeaves hp
  obtain ⟨q, hq, rfl⟩ := List.mem_map.1 hp
  split at hh
  · cases hh
    rfl
  · next stays =>
    rw [if_neg stays] at hs hg hk hl sameLeaves
    refine absurd ?_ stays
    have away : (q.home == .core q.src) = false := by rw [hh]; rfl
    simp [hs, hg, hk, hh, sameLeaves away, hl]
end

theorem fieldOf_setField_self (w : Word) {lo n : Nat} (v : Nat) (h : lo + n ≤ 64) :
    fieldOf (setField w lo n v) lo n = v % 2 ^ n := by
  refine Nat.eq_of_testBit_eq fun i => ?_
  rw [fieldOf_testBit, Nat.testBit_mod_two_pow]
  by_cases hi : i < n
  · rw [setField_getLsbD _ _ _ _ (by omega), if_pos (by omega), Nat.add_sub_cancel_left]
  · simp [hi]

theorem fieldOf_setField_other (w : Word) {lo n k l : Nat} (v : Nat) (hl : k + l ≤ 64) (hd : k + l ≤ lo ∨ lo + n ≤ k) :
    fieldOf (setField w lo n v) k l = fieldOf w k l := by
  refine Nat.eq_of_testBit_eq fun i => ?_
  rw [fieldOf_testBit, fieldOf_testBit]
  by_cases hi : i < l
  · rw [setField_getLsbD _ _ _ _ (by omega), if_neg (by omega)]
  · simp [hi]

theorem bitOf_setField_other (w : Word) {lo n i : Nat} (v : Nat) (hi : i < 64) (hd : i < lo ∨ lo + n ≤ i) :
    bitOf (setField w lo n v) i = bitOf w i := by
  rw [bitOf, setField_getLsbD _ _ _ _ hi, if_neg (by omega), bitOf]

/-- The leaf at its new place but for FROZEN (R132 step 4). -/
def placedLeaf (e : Word) (o : Nat) : Word :=
  setField (setField (setField e 6 2 1) 24 40 o) 18 2 (fieldOf e 18 2 + 1)

theorem movedLeaf_eq (e : Word) (o : Nat) : movedLeaf e o =
    if fieldOf e 18 2 + 1 = 3 then setField (placedLeaf e o) 20 1 1 else placedLeaf e o := rfl

/-- FROZEN is a field of its own. -/
theorem fieldOf_movedLeaf (e : Word) (o : Nat) {k l : Nat} (hl : k + l ≤ 64) (hd : k + l ≤ 20 ∨ 21 ≤ k) :
    fieldOf (movedLeaf e o) k l = fieldOf (placedLeaf e o) k l := by
  rw [movedLeaf_eq]
  split
  · exact fieldOf_setField_other _ _ hl hd
  · rfl

theorem bitOf_placedLeaf (e : Word) (o : Nat) {i : Nat} (h : i < 6 ∨ (8 ≤ i ∧ i < 18) ∨ (20 ≤ i ∧ i < 24)) :
    bitOf (placedLeaf e o) i = bitOf e i := by
  rw [placedLeaf, bitOf_setField_other _ _ (by omega) (by omega), bitOf_setField_other _ _ (by omega) (by omega),
    bitOf_setField_other _ _ (by omega) (by omega)]

theorem movedLeaf_result (e : Word) (o : Nat) (hm : fieldOf e 18 2 < 3) (ho : o < 2 ^ 35) :
    fieldOf (movedLeaf e o) 18 2 = fieldOf e 18 2 + 1 ∧ fieldOf (movedLeaf e o) 24 40 = o ∧ pteKind (movedLeaf e o) = 1 ∧
    bitOf (movedLeaf e o) 20 = (bitOf e 20 || decide (fieldOf e 18 2 = 2)) ∧
    ∀ i < 64, i < 6 ∨ (8 ≤ i ∧ i < 18) ∨ (20 < i ∧ i < 24) → bitOf (movedLeaf e o) i = bitOf e i := by
  refine ⟨?_, ?_, ?_, ?_, fun i hi far => ?_⟩
  · rw [fieldOf_movedLeaf _ _ (by decide) (by decide), placedLeaf, fieldOf_setField_self _ _ (by decide)]
    omega
  · rw [fieldOf_movedLeaf _ _ (by decide) (by decide), placedLeaf, fieldOf_setField_other _ _ (by decide) (by decide),
      fieldOf_setField_self _ _ (by decide)]
    omega
  · rw [pteKind, fieldOf_movedLeaf _ _ (by decide) (by decide), placedLeaf,
      fieldOf_setField_other _ _ (by decide) (by decide), fieldOf_setField_other _ _ (by decide) (by decide),
      fieldOf_setField_self _ _ (by decide)]
    rfl
  · rw [movedLeaf_eq]
    by_cases third : fieldOf e 18 2 = 2
    · rw [if_pos (by omega), bitOf, setField_getLsbD _ _ _ _ (by decide)]
      simp [third]
    · rw [if_neg (by omega), bitOf_placedLeaf _ _ (by decide)]
      simp [third]
  · rw [movedLeaf_eq]
    split
    · rw [bitOf_setField_other _ _ hi (by omega), bitOf_placedLeaf _ _ (by omega)]
    · exact bitOf_placedLeaf _ _ (by omega)

theorem fwdLeaf_result (d : Nat) (hd : d < 2 ^ 14) : pteP (fwdLeaf d) = false ∧ pteFwd (fwdLeaf d) ∧
    fieldOf (fwdLeaf d) 24 8 = d / 64 ∧ fieldOf (fwdLeaf d) 32 4 = d / 4 % 16 ∧ fieldOf (fwdLeaf d) 36 2 = d % 4 := by
  have value : (fwdLeaf d).toNat = 2 ^ 21 + d / 64 * 2 ^ 24 + d / 4 % 16 * 2 ^ 32 + d % 4 * 2 ^ 36 := by
    rw [fwdLeaf, BitVec.toNat_ofNat]
    omega
  have module : d / 64 < 256 := by omega
  have stack : d / 4 % 16 < 16 := by omega
  have die : d % 4 < 4 := by omega
  refine ⟨bitOf_eq _ _ _ ?_, bitOf_eq _ _ _ ?_, ?_, ?_, ?_⟩
  · rw [value, Bool.toNat_false]
    omega
  · rw [value, Bool.toNat_true]
    omega
  all_goals
    rw [fieldOf, bitsOf, value]
    clear value
    generalize d / 64 = x, d / 4 % 16 = y, d % 4 = z at module stack die
    omega

/-! ### Frame pools (R132) -/

theorem State.pushFrame_room {s : State} {d : DieId} {o a : Nat} (hp : s.poolOf d = some a)
    (h : s.num a 8 < s.num (a + 8) 8) : s.pushFrame d o =
      ((s.poke (a + 16 + 8 * s.num a 8) (bytesOf 8 o)).poke a (bytesOf 8 (s.num a 8 + 1)), true) := by
  simp only [State.pushFrame, hp, if_pos h]

theorem State.pushFrame_full {s : State} {d : DieId} {o a : Nat} (hp : s.poolOf d = some a)
    (h : s.num (a + 8) 8 ≤ s.num a 8) : s.pushFrame d o = (s, false) := by
  simp only [State.pushFrame, hp, if_neg (Nat.not_lt.2 h)]

/-- Eight bytes written are the eight that are read. -/
theorem State.bytes_poke_bytesOf {s : State} (a n x : Nat) (h : s.memOk) : (s.poke a (bytesOf n x)).bytes a n = bytesOf n x := by
  simpa only [bytesOf_length] using State.bytes_poke a (bytesOf n x) h

theorem pushFrame_result (d o a n : Nat) (s u : State) (h : s.memOk) (hp : s.poolOf d = some a) (hn : n = s.num a 8)
    (hu : u = (s.pushFrame d o).1) :
    (n < s.num (a + 8) 8 → (s.pushFrame d o).2 ∧ u.bytes a 8 = bytesOf 8 (n + 1) ∧
      u.bytes (a + 16 + 8 * n) 8 = bytesOf 8 o ∧ ∀ x, (x < a ∨ a + 8 ≤ x) → (x < a + 16 + 8 * n ∨ a + 24 + 8 * n ≤ x) →
        Memory.get u.mem x = Memory.get s.mem x) ∧
    (s.num (a + 8) 8 ≤ n → s.pushFrame d o = (s, false)) := by
  subst hn hu
  refine ⟨fun room => ?_, fun full => State.pushFrame_full hp full⟩
  rw [State.pushFrame_room hp room]
  generalize s.num a 8 = n
  have ok : (s.poke (a + 16 + 8 * n) (bytesOf 8 o)).memOk := State.memOk_poke _ _ h
  refine ⟨rfl, State.bytes_poke_bytesOf a 8 _ ok, ?_, fun x hx hy => ?_⟩
  · rw [State.bytes_poke_other _ ok (by rw [bytesOf_length]; omega), State.bytes_poke_bytesOf _ _ _ h]
  · rw [State.get_poke_other _ ok (by rw [bytesOf_length]; omega), State.get_poke_other _ h (by rw [bytesOf_length]; omega)]

theorem popFrame_result (d o a n : Nat) (s u : State) (h : s.memOk) (hp : s.poolOf d = some a) (hn : n = s.num a 8)
    (hu : s.popFrame d = some (u, o)) : 0 < n ∧ o = s.num (a + 8 + 8 * n) 8 ∧ u.bytes a 8 = bytesOf 8 (n - 1) ∧
    ∀ x, (x < a ∨ a + 8 ≤ x) → Memory.get u.mem x = Memory.get s.mem x := by
  subst hn
  simp only [State.popFrame, hp] at hu
  split at hu
  · cases hu
  · next some' =>
    cases hu
    refine ⟨by omega, rfl, State.bytes_poke_bytesOf a 8 _ h, fun x hx => ?_⟩
    exact State.get_poke_other _ h (by rw [bytesOf_length]; omega)

theorem copyFrame_result (s : State) (a b : Nat) (h : s.memOk) : (s.copyFrame a b).bytes b 65536 = s.bytes a 65536 ∧
    ∀ x, x < b ∨ b + 65536 ≤ x → Memory.get (s.copyFrame a b).mem x = Memory.get s.mem x := by
  have len : (s.bytes a 65536).length = 65536 := Memory.read_length _ _ _
  have mem : (s.copyFrame a b).mem = (s.poke b (s.bytes a 65536)).mem := by unfold State.copyFrame; dsimp only
  refine ⟨?_, fun x hx => ?_⟩
  · have copied := State.bytes_poke b (s.bytes a 65536) h
    rw [len] at copied
    rw [State.bytes, mem]
    exact copied
  · rw [mem]
    exact State.get_poke_other _ h (by rw [len]; exact hx)

theorem State.rehome_frozen {s : State} {h : Home} {g d n : Nat} {e : Word} {a : Nat}
    (hw : walk s h (granuleVA g) = .leaf n 65536 e a) (hf : bitOf e 20) : s.rehome h d g = s.resetCount h g := by
  simp [State.rehome, hw, hf]

theorem MemorySide.die {s t : State} (h : MemorySide s t) (d : DieId) : t.die d = s.die d := by
  rw [State.die, State.die, h.dies]

/-- Event 0x11 of a granule that has left its home counts for the state before. -/
theorem MemorySide.eventAt_posted {s w : State} (k : MemorySide s w) (h : Home) (d g b : Nat) (ws : List Word) :
    Posted s (happened ((w.leaveFor (homeDie h) d g b).eventAt h ws)) (homeKey h) (s.supLoc (homeDie h)) ws := by
  have supLoc : (w.leaveFor (homeDie h) d g b).supLoc (homeDie h) = s.supLoc (homeDie h) := by
    rw [State.leaveFor_supLoc, State.supLoc, State.supLoc, k.die]
  have posted := State.event_posted (w.leaveFor (homeDie h) d g b) (homeKey h) (s.supLoc (homeDie h)) ws
  rw [Posted, State.leaveFor_qevt, State.leaveFor_evq, k.qevt, k.evq] at posted
  rw [State.eventAt, supLoc]
  exact posted

theorem MemorySide.eventAt_net {s w : State} (k : MemorySide s w) (h : Home) (d g b : Nat) (ws : List Word) {p : Pkt}
    (hp : p ∈ (happened ((w.leaveFor (homeDie h) d g b).eventAt h ws)).net) (hs : spaceOf p.va = .spread)
    (hg : granuleOf p.va = g) (hk : p.kind.isRequest) (hh : p.home = .slice (homeDie h) (sliceOf p.va)) (hl : s.leaves p) :
    homeDie h = d := by
  rw [net_happened, State.eventAt, State.event_net] at hp
  refine State.leaveFor_net _ _ _ _ _ hp hs hg hk hh ?_
  rwa [k.leaves (by rw [hh]; rfl)]

/-! ### The 16 ms boundary (R133) -/

theorem exec_epochBoundary {m : Nat} {s : State} (h : s.powered m) (hc : (s.module m).epochAt ≤ s.clk) :
    exec (.epochBoundary m) s = .next (happened ((List.range 64).foldl (fun t i => t.dieEpoch (m * 64 + i))
      (s.updModule m fun x => { x with epochAt := x.epochAt + epochTicks }))) := by
  change execEpochBoundary m s = _
  rw [execEpochBoundary, occurs, if_pos (by simp [h, hc])]
  rfl

theorem thawed_eq (b : Byte) : BitVec.ofNat 8 (ofBytes [b]) &&& 0xE3#8 = thawed b := by
  revert b
  decide

theorem thawed_thawed (b : Byte) : thawed (thawed b) = thawed b := by
  revert b
  decide

theorem State.get_unfreeze {s : State} (a x : Nat) (h : s.memOk) :
    Memory.get (s.unfreeze a).mem x = if x = a + 2 then thawed (Memory.get s.mem x) else Memory.get s.mem x := by
  have byte : s.bytes (a + 2) 1 = [Memory.get s.mem (a + 2)] := rfl
  rw [State.unfreeze, State.num, byte, thawed_eq]
  split
  · next e =>
    subst e
    exact Memory.get_set_self _ _ _ h
  · next e => exact Memory.get_set_other _ _ h (Ne.symm e)

/-- Leaves that are cleared one after another: each listed one is, and no other byte changes. -/
theorem State.get_foldl_unfreeze {s : State} (as : List Nat) (x : Nat) (h : s.memOk) :
    Memory.get (as.foldl State.unfreeze s).mem x =
      if ∃ a ∈ as, x = a + 2 then thawed (Memory.get s.mem x) else Memory.get s.mem x := by
  induction as generalizing s with
  | nil => simp
  | cons a as ih =>
    have ok : (s.unfreeze a).memOk := State.memOk_poke _ _ h
    rw [List.foldl_cons, ih ok, State.get_unfreeze a x h]
    by_cases now : x = a + 2
    · simp [now, thawed_thawed]
    · simp [now]

theorem State.foldl_unfreeze_onlyBytes (s : State) (as : List Nat) : OnlyBytes s (as.foldl State.unfreeze s) := by
  induction as generalizing s with
  | nil => rfl
  | cons a as ih => exact (s.poke_onlyBytes _ _).trans (ih _)

/-- The boundary at one die. -/
theorem State.dieEpoch_eq (s : State) (d : DieId) : ∃ u, OnlyBytes s u ∧ u.mem = ((s.die d).moved.foldl State.unfreeze s).mem ∧
    s.dieEpoch d = u.updDie d fun x => { x with moved := [] } :=
  ⟨_, s.foldl_unfreeze_onlyBytes _, rfl, rfl⟩

/-- What the boundary has done once it has reached the dies of a list. -/
structure Thawed (s t : State) (ds : List DieId) : Prop where
  ok : t.memOk
  net : t.net = s.net
  frames : t.frames = s.frames
  mods : t.mods = s.mods
  clear : ∀ d ∈ ds, (t.die d).moved = []
  kept : ∀ d, d ∉ ds → (t.die d).moved = (s.die d).moved
  bytes : ∀ x, Memory.get t.mem x =
    if ∃ d ∈ ds, ∃ a ∈ (s.die d).moved, x = a + 2 then thawed (Memory.get s.mem x) else Memory.get s.mem x

theorem Thawed.nil {s : State} (h : s.memOk) : Thawed s s [] where
  ok := h
  net := rfl
  frames := rfl
  mods := rfl
  clear _ h := nomatch h
  kept _ _ := rfl
  bytes x := by simp

theorem Thawed.dieEpoch {s t : State} {ds : List DieId} (h : Thawed s t ds) {d : DieId} (hd : d ∉ ds) :
    Thawed s (t.dieEpoch d) (ds ++ [d]) := by
  obtain ⟨u, only, mem, e⟩ := t.dieEpoch_eq d
  have dies (n : DieId) : u.die n = t.die n := by rw [only]; rfl
  rw [e]
  refine ⟨?_, ?_, ?_, ?_, fun n hn => ?_, fun n hn => ?_, fun x => ?_⟩
  · exact State.memOk_of_mem mem (List.foldlRecOn _ State.unfreeze h.ok fun _ hb _ _ => State.memOk_poke _ _ hb)
  · rw [State.updDie_net, only]
    exact h.net
  · rw [State.updDie_frames, only.frames, h.frames]
  · rw [State.updDie_mods, only]
    exact h.mods
  · by_cases new : d = n
    · rw [new, State.die_updDie]
    · rw [State.die_updDie_other _ _ new, dies]
      exact h.clear n ((List.mem_append.1 hn).resolve_right fun m => new (List.mem_singleton.1 m).symm)
  · obtain ⟨old, new⟩ := not_or.1 (mt List.mem_append.2 hn)
    rw [State.die_updDie_other _ _ fun e => new (List.mem_singleton.2 e.symm), dies]
    exact h.kept n old
  · rw [State.updDie_mem, mem, State.get_foldl_unfreeze _ _ h.ok, h.bytes, h.kept d hd]
    by_cases before : ∃ n ∈ ds, ∃ a ∈ (s.die n).moved, x = a + 2
    · by_cases now : ∃ a ∈ (s.die d).moved, x = a + 2
      · simp only [before, now, List.mem_append, List.mem_singleton, or_and_right, exists_or, exists_eq_left, true_or, if_true,
          thawed_thawed]
      · simp only [before, now, List.mem_append, List.mem_singleton, or_and_right, exists_or, exists_eq_left, true_or, if_true,
          if_false]
    · simp only [before, List.mem_append, List.mem_singleton, or_and_right, exists_or, exists_eq_left, false_or, if_false]

theorem Thawed.dies {s : State} (h : s.memOk) (m n : Nat) :
    Thawed s ((List.range n).foldl (fun t i => t.dieEpoch (m * 64 + i)) s) ((List.range n).map (m * 64 + ·)) := by
  induction n with
  | zero => exact .nil h
  | succ n ih =>
    rw [List.range_succ, List.foldl_append, List.map_append]
    refine ih.dieEpoch ?_
    simp

theorem epochBoundary_result (m : Nat) (s : State) (hp : s.powered m) (h : s.memOk) (hc : (s.module m).epochAt ≤ s.clk) :
    ∃ t, exec (.epochBoundary m) s = .next t ∧ t.note = .moved ∧ (t.module m).epochAt = (s.module m).epochAt + 32000000 ∧
    (∀ i < 64, (t.die (m * 64 + i)).moved = []) ∧ t.net = s.net ∧ t.frames = s.frames ∧
    (∀ i < 64, ∀ a ∈ (s.die (m * 64 + i)).moved, Memory.get t.mem (a + 2) = thawed (Memory.get s.mem (a + 2))) ∧
    ∀ x, (∀ i < 64, ∀ a ∈ (s.die (m * 64 + i)).moved, x ≠ a + 2) → Memory.get t.mem x = Memory.get s.mem x := by
  have reach := Thawed.dies (s := s.updModule m fun x => { x with epochAt := x.epochAt + epochTicks }) h m 64
  refine ⟨_, exec_epochBoundary hp hc, rfl, ?_⟩
  generalize (List.range 64).foldl _ _ = t at reach
  have listed {i : Nat} (hi : i < 64) : m * 64 + i ∈ (List.range 64).map (m * 64 + ·) :=
    List.mem_map.2 ⟨i, List.mem_range.2 hi, rfl⟩
  refine ⟨?_, fun i hi => reach.clear _ (listed hi), reach.net, reach.frames, fun i hi a ha => ?_, fun x far => ?_⟩
  · change (t.module m).epochAt = _
    rw [State.module, reach.mods]
    exact congrArg (fun x : Module => x.epochAt) (State.module_updModule s m _)
  · exact (reach.bytes (a + 2)).trans (if_pos ⟨_, listed hi, a, ha, rfl⟩)
  · refine (reach.bytes x).trans (if_neg ?_)
    rintro ⟨d, hd, a, ha, e⟩
    obtain ⟨i, hi, rfl⟩ := List.mem_map.1 hd
    exact far i (List.mem_range.1 hi) a ha e

/-! ### The obligation -/

theorem rehomeGranule_result (h : Home) (g d n : Nat) (e : Word) (a o b : Nat) (s s1 s2 u : State) (hd : s.rehomeTo h g = some d)
    (hw : walk s h (granuleVA g) = .leaf n 65536 e a) (hl : (s.die (homeDie h)).moved.length < 4096) (hf : bitOf e 20 = false)
    (hb : s.levelOne d g = some b) (ho : s.popFrame d = some (s1, o))
    (h2 : s2 = (List.range 64).foldl (fun t q => t.flushPage (.slice (homeDie h) q) (granuleVA g)) s1)
    (hu : u = ((s2.copyFrame (leafPhys (homeDie h) e 65536 (granuleVA g)) (dramKey d o)).poke b
        (bytesOf 8 (movedLeaf e o).toNat)).poke a (bytesOf 8 (fwdLeaf d).toNat)) :
    ∃ t, exec (.rehomeGranule h g) s = .next t ∧ t.note = .moved ∧
      (t.die (homeDie h)).moved = (s.die (homeDie h)).moved ++ [b] ∧
      (pteKind e ≠ 1 → t.mem = u.mem ∧
        Posted s t (homeKey h) (s.supLoc (homeDie h)) [0x11, granuleVA g, BitVec.ofNat 64 (2 ^ 63)]) ∧
      (pteKind e = 1 → t.mem = (u.pushFrame (homeDie h) (fieldOf e 24 35)).1.mem ∧
        Posted s t (homeKey h) (s.supLoc (homeDie h)) [0x11, granuleVA g, BitVec.ofNat 64 (fieldOf e 24 35 +
          if (u.pushFrame (homeDie h) (fieldOf e 24 35)).2 then 0 else 2 ^ 63)]) ∧
      (∀ p ∈ t.net, spaceOf p.va = .spread → granuleOf p.va = g → p.kind.isRequest → p.home = .slice (homeDie h) (sliceOf p.va) →
        s.leaves p → homeDie h = d) := by
  have flushed : MemorySide s1 s2 := by
    rw [h2]
    exact State.flushSlices_memorySide s1 (homeDie h) (granuleVA g)
  have copied := s2.copyFrame_memorySide (leafPhys (homeDie h) e 65536 (granuleVA g)) (dramKey d o)
  have written : MemorySide (s2.copyFrame (leafPhys (homeDie h) e 65536 (granuleVA g)) (dramKey d o)) u :=
    hu ▸ (State.poke_memorySide _ _ _).trans (State.poke_memorySide _ _ _)
  have keep := (((State.popFrame_memorySide ho).trans flushed).trans (copied.trans written)).trans
    (u.returnFrame_memorySide (homeDie h) e)
  have run := exec_rehomeGranule hd
  rw [State.rehome_moves hw hl hf hb ho h2 hu] at run
  refine ⟨_, run, rfl, ?_, fun other => ?_, fun own => ?_, fun p hp hs hg hk hh hleft => ?_⟩
  · rw [die_happened, State.die, State.eventAt, State.event_dies, ← State.die, State.leaveFor_die, if_pos rfl, keep.die]
  · rw [State.returnFrame, if_neg other] at keep
    rw [State.returnFrame, if_neg other, if_neg other, Nat.zero_add, if_neg Bool.false_ne_true]
    refine ⟨?_, keep.eventAt_posted h d g b _⟩
    rw [mem_happened, State.eventAt, State.event_mem, State.leaveFor_mem]
  · rw [State.returnFrame, if_pos own] at keep
    rw [State.returnFrame, if_pos own, if_pos own]
    refine ⟨?_, keep.eventAt_posted h d g b _⟩
    rw [mem_happened, State.eventAt, State.event_mem, State.leaveFor_mem]
  · exact keep.eventAt_net h d g b _ hp hs hg hk hh hleft

/-- Settles O47, part by part. -/
theorem granuleMoves : Obligations.GranuleMoves := by
  refine ⟨rehomeGranule_result, fun h g d n e a s hd hw hf => ?_, fun d o a n s u hs hp hn hu => ?_,
    fun d o a n s u hs hp hn hu => popFrame_result d o a n s u hs hp hn hu, copyFrame_result, movedLeaf_result,
    fwdLeaf_result, epochBoundary_result⟩
  · rw [exec_rehomeGranule hd, State.rehome_frozen hw hf]
  · exact pushFrame_result d o a n s u hs hp hn hu

end Sys2Proof.Machine
end

section
/-! PROOFS. What the checks and the writes at a home change (R123, R124, R149). -/

namespace Sys2Proof.Machine

open Sys2Proof Sys2Proof.Claims

theorem State.tlbLoad_memorySide (s : State) (h : Home) (base size : Nat) (e : Word) (a : Nat) :
    MemorySide s (s.tlbLoad h base size e a) := by
  unfold State.tlbLoad
  exact (s.poke_memorySide _ _).trans (State.updHome_memorySide _ _ _)

theorem State.leaf_memorySide (s : State) (h : Home) (va : Word) : MemorySide s (s.leaf h va).1 := by
  unfold State.leaf
  split
  · exact .refl s
  · split
    · exact s.tlbLoad_memorySide _ _ _ _ _
    · exact .refl s

theorem State.ageSectors_memorySide (s : State) (h : Home) : MemorySide s (s.ageSectors h) := by
  unfold State.ageSectors
  refine .foldl (fun t e => ?_) s _
  split
  · exact t.dropSector_memorySide h _
  · exact .refl t

theorem State.fillSector_memorySide (s : State) (h : Home) (pg : Nat × Nat) (k : Nat) : MemorySide s (s.fillSector h pg k) := by
  unfold State.fillSector
  split
  · split
    · exact .refl s
    · exact s.updHome_memorySide _ _
  · exact (s.copyBytes_memorySide _ _ _).trans (State.updHome_memorySide _ _ _)

theorem State.cachePage_memorySide (s : State) (h : Home) (pg : Nat × Nat) (va : Word) (p n : Nat) :
    MemorySide s (s.cachePage h pg va p n) := by
  unfold State.cachePage
  exact .foldl (fun t k => (t.ageSectors_memorySide _).trans (State.fillSector_memorySide _ _ _ _)) s _

/-- The check of an access at its home changes nothing but the memory side. -/
theorem State.check_memorySide (s : State) (r : Req) : MemorySide s (s.check r).1 := by
  have walked : ∀ t w, s.leaf r.home r.va = (t, w) → MemorySide s t := fun t w e => by
    have side := s.leaf_memorySide r.home r.va
    rwa [e] at side
  unfold State.check
  dsimp only
  split
  · exact .refl s
  · split
    · split <;> exact .refl s
    · split
      · exact .refl s
      · split
        · exact walked _ _ ‹_›
        · exact walked _ _ ‹_›
        · split
          · exact walked _ _ ‹_›
          · split
            · exact walked _ _ ‹_›
            · split
              · exact walked _ _ ‹_›
              · split
                · exact (walked _ _ ‹_›).trans (State.cachePage_memorySide _ _ _ _ _ _)
                · exact walked _ _ ‹_›

theorem State.countReq_memorySide (s : State) (h : Home) (src : Loc) (va : Word) (write : Bool) :
    MemorySide s (s.countReq h src va write) := by
  unfold State.countReq
  split
  · exact s.updHome_memorySide _ _
  · exact .refl s

theorem State.setDirty_memorySide (s : State) (h : Home) (va : Word) : MemorySide s (s.setDirty h va) := by
  unfold State.setDirty
  dsimp only
  split
  · split
    · exact .refl s
    · split
      · exact (s.updHome_memorySide _ _).trans (State.poke_memorySide _ _ _)
      · exact s.updHome_memorySide _ _
  · exact .refl s

theorem State.soil_memorySide (s : State) (h : Home) (va : Word) (a n : Nat) : MemorySide s (s.soil h va a n) := by
  unfold State.soil
  split
  · exact .refl s
  · exact .foldl (fun t _ => t.updHome_memorySide _ _) s _

theorem State.writeAt_memorySide (s : State) (h : Home) (va : Word) (a : Nat) (b : List Byte) :
    MemorySide s (s.writeAt h va a b) :=
  ((s.setDirty_memorySide h va).trans (State.soil_memorySide _ _ _ _ _)).trans (State.poke_memorySide _ _ _)

/-- What an access that its home passes on may change besides: a core's spread-table cache. -/
def AtHomes (s t : State) : Prop := t = { s with mem := t.mem, bad := t.bad, homes := t.homes, cores := t.cores }

theorem AtHomes.trans {s t u : State} (hst : AtHomes s t) (htu : AtHomes t u) : AtHomes s u := by
  unfold AtHomes at *
  rw [htu, hst]

theorem MemorySide.atHomes {s t : State} (h : MemorySide s t) : AtHomes s t := h.1

theorem State.updCore_atHomes (s : State) (l : Loc) (f : Core → Core) : AtHomes s (s.updCore l f) := rfl

section
variable {s t : State} (h : AtHomes s t)
include h
theorem AtHomes.frames : t.frames = s.frames := by rw [h]
theorem AtHomes.net : t.net = s.net := by rw [h]
theorem AtHomes.holds : t.holds = s.holds := by rw [h]
theorem AtHomes.launches : t.launches = s.launches := by rw [h]
theorem AtHomes.clk : t.clk = s.clk := by rw [h]
end

theorem State.through_atHomes (s : State) (l : Loc) (r : Req) (n : Nat) : AtHomes s (s.through l r n).1 := by
  induction n generalizing s r with
  | zero => rfl
  | succ n ih =>
    have checked : ∀ t x, s.check r = (t, x) → AtHomes s t := fun t x e => by
      have side := (s.check_memorySide r).atHomes
      rwa [e] at side
    unfold State.through
    split
    · rfl
    · split
      · rfl
      · split
        · exact ((checked _ _ ‹_›).trans (State.updCore_atHomes _ _ _)).trans (ih _ _)
        · exact (checked _ _ ‹_›).trans (State.countReq_memorySide _ _ _ _ _).atHomes
        · exact checked _ _ ‹_›

end Sys2Proof.Machine
end

section
/-! PROOFS. Messages, events and Flock holds (R144-R147, R309, R360; O44). -/

namespace Sys2Proof.Machine

open Sys2Proof Sys2Proof.Claims

/-! ### Places of a list -/

theorem dropAt_eq {α : Type} (l : List α) (k : Nat) : dropAt l k = l.take k ++ l.drop (k + 1) := by
  induction l generalizing k with
  | nil => simp [dropAt]
  | cons x r ih =>
    cases k with
    | zero => simp [dropAt]
    | succ k => simp [dropAt, ih]

theorem setAt_eq {α : Type} {l : List α} {k : Nat} {x : α} (y : α) (h : l[k]? = some x) :
    setAt l k y = l.take k ++ y :: l.drop (k + 1) := by
  induction l generalizing k with
  | nil => simp at h
  | cons x r ih =>
    cases k with
    | zero => simp [setAt]
    | succ k => simp [setAt, ih (by simpa using h)]

theorem getElem?_setAt {α : Type} {l : List α} {k : Nat} {x : α} (y : α) (h : l[k]? = some x) : (setAt l k y)[k]? = some y := by
  induction l generalizing k with
  | nil => simp at h
  | cons x r ih =>
    cases k with
    | zero => simp [setAt]
    | succ k => simpa [setAt] using ih (by simpa using h)

/-! ### Messages (R309) -/

theorem OnlyWakes.msgs {s t : State} (h : OnlyWakes s t) (l : Loc) : (t.core l).msgs = (s.core l).msgs := by rw [h.2 l]
theorem OnlyWakes.locks {s t : State} (h : OnlyWakes s t) : t.locks = s.locks := by rw [h.1]
theorem OnlyWakes.holds {s t : State} (h : OnlyWakes s t) : t.holds = s.holds := by rw [h.1]
theorem OnlyWakes.tile {s t : State} (h : OnlyWakes s t) (l : Loc) (n : Nat) : (t.core l).tile n = (s.core l).tile n := by
  rw [h.2 l]
  rfl

theorem exec_message {k : Nat} {i : Instr} {v : Word} {s : State} {p : Pkt} (hk : s.pkt k = some p) (hv : p.kind = .msg v)
    (ht : s.msgTurn k p)
    (hi : (i = .messageDelivery k ∧ p.refused = false) ∨ (i = .messageRetry k ∧ p.refused ∧ p.retryAt ≤ s.clk)) :
    exec i s = .next (happened (s.deliverMsg k p v)) := by
  have run {due : Pkt → Bool} (hd : due p = true) : messageAt k due s = .next (happened (s.deliverMsg k p v)) := by
    simp only [messageAt, hk, hv]
    exact occurs_due _ _ (by rw [hd, ht]; rfl)
  rcases hi with ⟨rfl, fresh⟩ | ⟨rfl, again, time⟩
  · exact run (by rw [fresh]; rfl)
  · exact run (by simp [again, time])

theorem State.deliverMsg_room {s : State} {k l : Nat} {p : Pkt} (v : Word) (hh : p.home = .core l)
    (room : (s.core l).msgs.length < 64) : s.deliverMsg k p v =
      ((s.dropPkt k).updCore l fun c => { c with msgs := c.msgs ++ [messageWord p.src v] }).wake fun j (f : Frame) =>
        keyLoc j == l && f.wait == some (.popPort .qmsg) := by
  have word : BitVec.ofNat 64 (8 * p.src + fieldOf v 32 32 * 2 ^ 32) = messageWord p.src v := by
    rw [messageWord, fieldOf, bitsOf, Nat.mod_eq_of_lt (by omega)]
  simp only [State.deliverMsg, hh, if_pos room, word]

theorem State.deliverMsg_full {s : State} {k l : Nat} {p : Pkt} (v : Word) (hh : p.home = .core l)
    (full : 64 ≤ (s.core l).msgs.length) :
    s.deliverMsg k p v = { s with net := setAt s.net k { p with refused := true, retryAt := s.clk + 64 } } := by
  unfold State.deliverMsg
  split
  · next n e =>
    cases hh.symm.trans e
    exact if_neg (Nat.not_lt.2 full)
  · next other => exact absurd hh (other l)

theorem message_result (k l : Nat) (i : Instr) (v : Word) (s : State) (p : Pkt) (hk : s.pkt k = some p) (hv : p.kind = .msg v)
    (hh : p.home = .core l) (ht : s.msgTurn k p)
    (hi : (i = .messageDelivery k ∧ p.refused = false) ∨ (i = .messageRetry k ∧ p.refused ∧ p.retryAt ≤ s.clk)) :
    ((s.core l).msgs.length < 64 → ∃ t, exec i s = .next t ∧ t.note = .moved ∧
      (t.core l).msgs = (s.core l).msgs ++ [messageWord p.src v] ∧ t.net = s.net.take k ++ s.net.drop (k + 1) ∧
      SameMemory s t) ∧
    (64 ≤ (s.core l).msgs.length → ∃ t, exec i s = .next t ∧ t.note = .moved ∧ t.cores = s.cores ∧
      t.net[k]? = some { p with refused := true, retryAt := s.clk + 64 }) := by
  have run := exec_message hk hv ht hi
  refine ⟨fun room => ?_, fun full => ?_⟩
  · rw [State.deliverMsg_room v hh room] at run
    have woken := State.wake_onlyWakes
      ((s.dropPkt k).updCore l fun c => { c with msgs := c.msgs ++ [messageWord p.src v] })
      fun j f => keyLoc j == l && f.wait == some (.popPort .qmsg)
    refine ⟨_, run, rfl, ?_, ?_, fun a => ?_⟩
    · rw [core_happened, woken.msgs, State.core_updCore]
      rfl
    · rw [net_happened, woken.net, State.updCore_net, State.dropPkt, dropAt_eq]
    · rw [mem_happened, woken.mem]
      rfl
  · rw [State.deliverMsg_full v hh full] at run
    exact ⟨_, run, rfl, rfl, getElem?_setAt _ hk⟩

/-! ### Events that wait at their source (R360) -/

/-- The thread of a core waits for an event. -/
def waitsEvent (l : Loc) (k : Nat) (f : Frame) : Bool :=
  keyLoc k == l && (f.wait == some .waitev || f.wait == some (.popPort .qevt))

/-- The event's words stand in the queue of its core. -/
def State.queueEvent (s : State) (k : Nat) (e : Event) : State :=
  { s with evq := dropAt s.evq k }.updCore e.dest fun c => { c with qevt := c.qevt ++ eventWords e.words }

/-- An event held at its source: it goes into its core's queue once there is room, and is tried again otherwise. -/
def State.retryEvent (s : State) (k : Nat) (e : Event) : State :=
  if (s.core e.dest).qevt.length + e.words.length ≤ 1024 then
    (s.queueEvent k e).wake (waitsEvent e.dest)
  else { s with evq := setAt s.evq k { e with retryAt := s.clk + 64 } }

theorem exec_eventRetry {k : Nat} {s : State} {e : Event} (hk : s.evq[k]? = some e)
    (hf : (s.evq.take k).all fun x => !(x.src == e.src && x.dest == e.dest)) (ht : e.retryAt ≤ s.clk) :
    exec (.eventRetry k) s = .next (happened (s.retryEvent k e)) := by
  change execEventRetry k s = _
  simp only [execEventRetry, hk]
  refine (occurs_due _ _ (by simp only [hf, ht, decide_true, Bool.and_self])).trans ?_
  simp only [State.retryEvent, decide_eq_true_eq]
  rfl

theorem map_zipIdx_succ (r : List Word) (n : Nat) :
    ((r.zipIdx (n + 1)).map fun e => (e.1, e.2 == 0)) = r.map fun x => (x, false) := by
  induction r generalizing n with
  | nil => rfl
  | cons x r ih => exact congrArg _ (ih (n + 1))

/-- The first word of an event is marked as its code. -/
theorem eventWords_cons (w : Word) (r : List Word) : eventWords (w :: r) = (w, true) :: r.map fun x => (x, false) :=
  congrArg _ (map_zipIdx_succ r 0)

theorem map_fst_eventWords (ws : List Word) : ((eventWords ws).map fun w => w.1) = ws := by
  simp [eventWords, Function.comp_def]

theorem eventRetry_result (k : Nat) (s : State) (e : Event) (hk : s.evq[k]? = some e)
    (hf : (s.evq.take k).all fun x => !(x.src == e.src && x.dest == e.dest)) (ht : e.retryAt ≤ s.clk) :
    ((s.core e.dest).qevt.length + e.words.length ≤ 1024 → ∃ t, exec (.eventRetry k) s = .next t ∧ t.note = .moved ∧
      ((t.core e.dest).qevt.map fun w => w.1) = ((s.core e.dest).qevt.map fun w => w.1) ++ e.words ∧
      (∀ w r, e.words = w :: r → (t.core e.dest).qevt = (s.core e.dest).qevt ++ (w, true) :: r.map fun x => (x, false)) ∧
      t.evq = s.evq.take k ++ s.evq.drop (k + 1)) ∧
    (1024 < (s.core e.dest).qevt.length + e.words.length → ∃ t, exec (.eventRetry k) s = .next t ∧ t.note = .moved ∧
      t.cores = s.cores ∧ t.evq = s.evq.take k ++ { e with retryAt := s.clk + 64 } :: s.evq.drop (k + 1)) := by
  have run := exec_eventRetry hk hf ht
  refine ⟨fun room => ?_, fun full => ?_⟩
  · rw [State.retryEvent, if_pos room] at run
    have woken := State.wake_onlyWakes (s.queueEvent k e) (waitsEvent e.dest)
    have queue : (((s.queueEvent k e).wake (waitsEvent e.dest)).core e.dest).qevt = (s.core e.dest).qevt ++ eventWords e.words := by
      rw [woken.qevt, State.queueEvent, State.core_updCore]
      rfl
    refine ⟨_, run, rfl, ?_, fun w r hw => ?_, ?_⟩
    · rw [core_happened, queue, List.map_append, map_fst_eventWords]
    · rw [core_happened, queue, hw, eventWords_cons]
    · exact woken.evq.trans (dropAt_eq _ _)
  · rw [State.retryEvent, if_neg (Nat.not_le.2 full)] at run
    exact ⟨_, run, rfl, rfl, setAt_eq _ hk⟩

/-! ### Flock groups at their home (R146) -/

theorem flockLateWindowEnd_result (h : Home) (n : Nat) (s : State) (x : Hold)
    (hx : (s.holds.find? fun y => y.id == n && y.home == h) = some x) (hl : x.late) (he : x.ends ≤ s.clk) :
    exec (.flockLateWindowEnd h n) s = .next (happened { s with holds := s.holds.filter fun y => y.id != n }) := by
  change execFlockLateWindowEnd h n s = _
  simp only [execFlockLateWindowEnd, hx]
  exact occurs_due _ _ (by simp [hl, he])

/-- A performed request that does not come back leaves its place in the order. -/
theorem performAt_due {k : Nat} {kind : PKind → Bool} {f : State → Pkt → State × Option Pkt} {s t : State} {p : Pkt} {r : Option Pkt}
    (hk : s.pkt k = some p) (hp : kind p.kind = true) (hm : s.mayPerform k p) (hf : f (s.dropPkt k) p = (t, r)) :
    performAt k kind f s = .next (happened (t.keepPkt k r)) := by
  simp only [performAt, hk, hf]
  exact occurs_due _ _ (by rw [hp, hm]; rfl)

theorem exec_flockRequest {k g mem cnt len tile gen d : Nat} {s t : State} {p : Pkt} {r : Option Pkt}
    (hp : p.kind = .flock g mem cnt len tile gen d) (hk : s.pkt k = some p) (hm : s.mayPerform k p)
    (hf : (s.dropPkt k).performFlock p = (t, r)) : exec (.flockRequest k) s = .next (happened (t.keepPkt k r)) := by
  change execFlockRequest k s = _
  simp only [execFlockRequest, hk, hp]
  exact performAt_due hk (by rw [hp]) hm hf

/-- A Flock request in its turn, which its home does not pass on, meets the groups there. -/
theorem State.performFlock_here {s : State} {p : Pkt} {g mem cnt len tile gen d : Nat}
    (hp : p.kind = .flock g mem cnt len tile gen d) (hs : spaceOf p.va ≠ .spread)
    (hx : ∀ x, (s.check { p.req len false with locks := false }).2 ≠ .fwd x) {t : State}
    (ht : s.flockArrive p g cnt len d { mem := mem, loc := p.src, tile := tile, gen := gen, lock := p.id, user := p.user } =
      (t, true)) : s.performFlock p = (t, none) := by
  have count : s.countReq p.home p.src p.va false = s := if_neg hs
  simp only [State.performFlock, hp]
  split
  · next x e => exact absurd (congrArg Prod.snd e) (hx x)
  · rw [count, ht]
    rfl

/-- R146: a request of a group that stands nowhere at its home opens a hold. -/
theorem State.flockArrive_new {s : State} {p : Pkt} {g d : Nat}
    (hn : ∀ x ∈ s.holds, ¬(x.home = p.home ∧ x.launch = p.launch ∧ x.lmod = p.lmod ∧ x.die = d ∧ x.grp = g))
    (hr : (s.holds.filter fun x => x.home == p.home && !x.late && x.status == 0).length < 32) (cnt len : Nat) (r : FReq) :
    s.flockArrive p g cnt len d r = s.openHold
      { id := s.nextId, home := p.home, launch := p.launch, lmod := p.lmod, die := d, grp := g, va := p.va, len := len
        cnt := cnt, members := [r], ends := s.clk + s.flockPeriod p.launch p.lmod d g
        period := s.flockPeriod p.launch p.lmod d g } := by
  have none {q : Hold → Bool} (hq : ∀ x, q x = true → x.home = p.home ∧ x.launch = p.launch ∧ x.lmod = p.lmod ∧ x.die = d ∧
      x.grp = g) : s.holds.find? q = none :=
    List.find?_eq_none.2 fun x hx e => hn x hx (hq x e)
  unfold State.flockArrive
  extract_lets period new group same
  rw [none fun x e => ?_, none fun x e => ?_]
  · exact if_neg (Nat.not_le.2 hr)
  all_goals
    simp only [group, Bool.and_eq_true, beq_iff_eq] at e
    simp [e]

theorem State.openHold_reached {s t : State} {at' : Home} {x : Hold} {a : Nat} {e : Word} {b z : Nat} (hc : 2 ≤ x.cnt)
    (ht : { s with holds := s.holds ++ [x], nextId := s.nextId + 1 }.through x.loc x.req maxForwards = (t, at', .ok a e b z)) :
    s.openHold x = (t, true) := by
  simp only [State.openHold, if_neg (show ¬x.cnt ≤ 1 by omega), ht]

theorem flockRequest_result (k g mem cnt len tile gen d a : Nat) (e : Word) (b z : Nat) (s t : State) (p : Pkt) (h : Hold)
    (at' : Home) (hp : p.kind = .flock g mem cnt len tile gen d) (hk : s.pkt k = some p) (hm : s.mayPerform k p) (hc : 2 ≤ cnt)
    (hs : spaceOf p.va = .dm)
    (hn : ∀ x ∈ s.holds, ¬(x.home = p.home ∧ x.launch = p.launch ∧ x.lmod = p.lmod ∧ x.die = d ∧ x.grp = g))
    (hr : (s.holds.filter fun x => x.home == p.home && !x.late && x.status == 0).length < 32)
    (hx : ∀ x, ((s.dropPkt k).check { p.req len false with locks := false }).2 ≠ .fwd x)
    (hh : h = {
          id := s.nextId, home := p.home, launch := p.launch, lmod := p.lmod, die := d, grp := g, va := p.va, len := len
          cnt := cnt, members := [{ mem := mem, loc := p.src, tile := tile, gen := gen, lock := p.id, user := p.user }]
          ends := s.clk + s.flockPeriod p.launch p.lmod d g, period := s.flockPeriod p.launch p.lmod d g })
    (ht : { s.dropPkt k with holds := s.holds ++ [h], nextId := s.nextId + 1 }.through p.src h.req maxForwards =
      (t, at', .ok a e b z)) :
    exec (.flockRequest k) s = .next (happened t) := by
  subst hh
  have opened := (State.flockArrive_new (s := s.dropPkt k) hn hr cnt len
    { mem := mem, loc := p.src, tile := tile, gen := gen, lock := p.id, user := p.user }).trans
    (State.openHold_reached hc ht)
  exact exec_flockRequest hp hk hm (State.performFlock_here hp (by rw [hs]; decide) hx opened)

/-! ### A group's timer (R146) -/

theorem MemorySide.tile {s t : State} (h : MemorySide s t) (l : Loc) (n : Nat) : (t.core l).tile n = (s.core l).tile n := by
  change (t.core l).bare.tile n = (s.core l).bare.tile n
  rw [h.2 l]

theorem MemorySide.launches {s t : State} (h : MemorySide s t) : t.launches = s.launches := by rw [h.1]

/-- A tile of a launch that has not ended is ready again. -/
theorem State.tileBack_live {s : State} {l : Loc} {n : Nat} (status : Nat)
    (hl : ∀ y, s.launchOf ((s.core l).tile n).launch ((s.core l).tile n).lmod = some y → y.status ≠ .done) :
    ∃ t, OnlyWakes (s.updTile l n fun t => { t with state := 2, status := BitVec.ofNat 6 status, marked := false }) t ∧
      s.tileBack l n status = t := by
  refine ⟨_, State.wake_onlyWakes _ fun k f => keyLoc k == l && f.wait == some (.tile n), ?_⟩
  unfold State.tileBack
  dsimp only
  split
  · next y hy => exact if_neg (by simpa using hl y hy)
  · rfl

/-- The locks of a request or a command are gone. -/
def State.unlock (s : State) (lock : Nat) : State := { s with locks := s.locks.filter fun k => k.cmd != lock }

theorem State.tile_unlock (s : State) (lock : Nat) (l : Loc) (n : Nat) :
    ((s.unlock lock).core l).tile n = (s.core l).tile n := rfl

theorem State.unlock_unlock (s : State) (lock : Nat) : (s.unlock lock).unlock lock = s.unlock lock := by
  simp [State.unlock]

theorem Core.tile_put (c : Core) (n : Nat) (t : Tile) : { c with tiles := c.tiles.put n t }.tile n = t :=
  SMap.get_put_self _ _ _ _

theorem State.tile_updTile (s : State) (l : Loc) (n : Nat) (f : Tile → Tile) :
    ((s.updTile l n f).core l).tile n = f ((s.core l).tile n) := by
  rw [State.updTile, State.core_updCore, Core.tile_put]

section
variable {s : State} {m : FReq} (hg : ((s.core m.loc).tile m.tile).gen.toNat = m.gen)
  (hs : ((s.core m.loc).tile m.tile).state = 1)
  (hp : s.preempted ((s.core m.loc).tile m.tile).launch ((s.core m.loc).tile m.tile).lmod = false)
include hg hs hp

/-- The tile that a member's request names still waits for it. -/
theorem State.fillDone_waiting (x : Hold) (status : Nat) :
    s.fillDone x m status = (s.unlock m.lock).tileBack m.loc m.tile status := by
  have running : ¬(((s.core m.loc).tile m.tile).gen.toNat = m.gen ∧ ((s.core m.loc).tile m.tile).state = 1 ∧
      (s.unlock m.lock).preempted ((s.core m.loc).tile m.tile).launch ((s.core m.loc).tile m.tile).lmod = true) :=
    fun h => Bool.false_ne_true (hp.symm.trans h.2.2)
  have waiting : (((s.unlock m.lock).core m.loc).tile m.tile).gen.toNat = m.gen ∧
      (((s.unlock m.lock).core m.loc).tile m.tile).state = 1 := ⟨hg, hs⟩
  refine (if_neg running).trans ((if_pos waiting).trans ?_)
  exact congrArg (fun t : State => t.tileBack m.loc m.tile status) (s.unlock_unlock m.lock)

/-- What the end of a member's fill leaves, when its tile still waits for it. -/
theorem State.fillTile_waiting (x : Hold) (bs : List Byte) (status : Nat)
    (hl : ∀ y, s.launchOf ((s.core m.loc).tile m.tile).launch ((s.core m.loc).tile m.tile).lmod = some y → y.status ≠ .done) :
    ((s.fillTile x bs status m).core m.loc).tile m.tile =
      { (s.core m.loc).tile m.tile with state := 2, status := BitVec.ofNat 6 status, marked := false } ∧
    (s.fillTile x bs status m).mem = (s.poke (bankKey m.loc ((s.core m.loc).tile m.tile).base.toNat) bs).mem ∧
    (s.fillTile x bs status m).locks = s.locks.filter (fun k => k.cmd != m.lock) ∧
    (s.fillTile x bs status m).holds = s.holds := by
  have side := s.poke_memorySide (bankKey m.loc ((s.core m.loc).tile m.tile).base.toNat) bs
  have filled : s.fillTile x bs status m =
      (s.poke (bankKey m.loc ((s.core m.loc).tile m.tile).base.toNat) bs).fillDone x m status := by
    rw [State.fillTile, if_pos ⟨hg, hs⟩]
  rw [← side.tile] at hg hs hp hl
  rw [filled, State.fillDone_waiting hg hs hp]
  obtain ⟨u, woken, back⟩ := State.tileBack_live
    (s := (s.poke (bankKey m.loc ((s.core m.loc).tile m.tile).base.toNat) bs).unlock m.lock) (l := m.loc) (n := m.tile) status hl
  rw [back]
  refine ⟨?_, woken.mem, woken.locks, woken.holds⟩
  rw [woken.tile, State.tile_updTile, State.tile_unlock, side.tile]
end

/-- The group's timer has served hold n. -/
def State.serve (s : State) (now n : Nat) : State :=
  { s with holds := mapIf (fun y => y.id == n) (fun y => y.served now) s.holds }

theorem State.core_serve (s : State) (now n : Nat) (l : Loc) : (s.serve now n).core l = s.core l := rfl
theorem State.serve_mem (s : State) (now n : Nat) : (s.serve now n).mem = s.mem := rfl

theorem State.mem_serve {s : State} {x : Hold} {n : Nat} (now : Nat) (hx : x ∈ s.holds) (hn : x.id = n) :
    x.served now ∈ (s.serve now n).holds :=
  List.mem_map.2 ⟨x, hx, if_pos (beq_iff_eq.2 hn)⟩

theorem flockTimerExpiry_result (h at' : Home) (n a : Nat) (e : Word) (b z : Nat) (s t : State) (x : Hold) (m : FReq)
    (hs : s.memOk) (hx : (s.holds.find? fun y => y.id == n && y.home == h) = some x) (hlate : x.late = false)
    (hst : x.status = 0) (hleft : x.left = none) (hend : x.ends ≤ s.clk) (hre : x.retryAt ≤ s.clk) (hm : x.members = [m])
    (hc : 1 < x.cnt) (ht : s.through m.loc x.req maxForwards = (t, at', .ok a e b z))
    (hlock : t.locked { x.req with locks := true } a = false) (hbad : t.isBad a x.len = false)
    (hg : ((t.core m.loc).tile m.tile).gen.toNat = m.gen) (hone : ((t.core m.loc).tile m.tile).state = 1)
    (hp : t.preempted ((t.core m.loc).tile m.tile).launch ((t.core m.loc).tile m.tile).lmod = false)
    (hl : ∀ y, t.launchOf ((t.core m.loc).tile m.tile).launch ((t.core m.loc).tile m.tile).lmod = some y → y.status ≠ .done) :
    ∃ u, exec (.flockTimerExpiry h n) s = .next u ∧ u.note = .moved ∧
      ((u.core m.loc).tile m.tile).state = 2 ∧ ((u.core m.loc).tile m.tile).status = 0 ∧
      u.bytes (bankKey m.loc ((t.core m.loc).tile m.tile).base.toNat) x.len = t.bytes a x.len ∧
      (∀ k ∈ u.locks, k.cmd ≠ m.lock) ∧ ∃ y ∈ u.holds, y.id = n ∧ y.late ∧ y.ends = s.clk + 64 * x.period := by
  have loc : x.loc = m.loc := by rw [Hold.loc, hm]; rfl
  have part : ¬(x.status != 0 || decide (x.cnt ≤ x.asked)) = true := by
    have asked : x.asked = 1 := by rw [Hold.asked, hm]; rfl
    simp [hst, asked, hc]
  have delivered : s.deliver x 0 = .done (t.fillTile x (t.bytes a x.len) x.status m) := by
    simp only [State.deliver, loc, ht, hlock, hbad, hm, List.foldl_cons, List.foldl_nil, Bool.false_eq_true, if_false]
  have run : exec (.flockTimerExpiry h n) s = .next (happened ((t.fillTile x (t.bytes a x.len) x.status m).serve s.clk n)) := by
    change execFlockTimerExpiry h n s = _
    simp only [execFlockTimerExpiry, hx, delivered]
    refine (occurs_due _ _ (by simp [hlate, hleft, hend, hre])).trans ?_
    rw [if_neg part]
    rfl
  have id : x.id = n := by
    have found := List.find?_some hx
    simp only [Bool.and_eq_true, beq_iff_eq] at found
    exact found.1
  obtain ⟨tile, mem, locks, holds⟩ := State.fillTile_waiting hg hone hp x (t.bytes a x.len) x.status hl
  generalize t.fillTile x (t.bytes a x.len) x.status m = v at run tile mem locks holds
  have len : (t.bytes a x.len).length = x.len := Memory.read_length _ _ _
  have ok : t.memOk := by
    have through := hs.through (l := m.loc) (r := x.req) (n := maxForwards)
    rwa [ht] at through
  have kept : t.holds = s.holds := by
    have through := (s.through_atHomes m.loc x.req maxForwards).holds
    rwa [ht] at through
  refine ⟨_, run, rfl, ?_, ?_, ?_, fun k hk => ?_,
    x.served s.clk, State.mem_serve s.clk ?_ id, id, rfl, rfl⟩
  · rw [core_happened, State.core_serve, tile]
  · rw [core_happened, State.core_serve, tile, hst]
    rfl
  · have copied := State.bytes_poke (bankKey m.loc ((t.core m.loc).tile m.tile).base.toNat) (t.bytes a x.len) ok
    rw [len] at copied
    rw [State.bytes, mem_happened, State.serve_mem, mem]
    exact copied
  · have old : k ∈ v.locks := hk
    rw [locks] at old
    simpa using (List.mem_filter.1 old).2
  · rw [holds, kept]
    exact List.mem_of_find?_eq_some hx

/-- Settles O44, part by part. -/
theorem messagesAndFlock : Obligations.MessagesAndFlock :=
  ⟨message_result, eventRetry_result, flockRequest_result, flockTimerExpiry_result, flockLateWindowEnd_result⟩

end Sys2Proof.Machine
end

section
/-! PROOFS. Page walks, fetches, spread entries, invalidates and markers (R117, R120-R124, R130, R148, R157, R170, R174, R249;
O39). -/

namespace Sys2Proof.Machine

open Sys2Proof Sys2Proof.Claims

/-! ### Page walks (R120-R124) -/

theorem pageBytes_pos (level : Nat) : 0 < pageBytes level := by
  unfold pageBytes
  split <;> decide

/-- The page of a leaf that a walk ends in holds the address (R121). -/
theorem walkAt_covers {s : State} {d : DieId} {sp : Space} {va e : Word} {key n off base size a : Nat}
    (h : walkAt s d sp va key n off = .leaf base size e a) : base ≤ va.toNat ∧ va.toNat < base + size := by
  induction n generalizing off with
  | zero => cases h
  | succ n ih =>
    unfold walkAt at h
    extract_lets lv ix a' e' at h
    split at h
    · cases h
    · split at h
      · cases h
      · split at h
        · split at h
          · cases h
          · split at h <;> cases h
        · split at h
          · cases h
          · split at h
            · split at h
              · cases h
              · exact ih h
            · split at h
              · injection h with hb hs
                subst hb hs
                have pos := pageBytes_pos lv
                have low := Nat.div_mul_le_self va.toNat (pageBytes lv)
                have high := Nat.lt_div_mul_add pos (a := va.toNat)
                exact ⟨low, high⟩
              · cases h

theorem walk_covers {s : State} {h : Home} {va e : Word} {base size a : Nat} (hw : walk s h va = .leaf base size e a) :
    base ≤ va.toNat ∧ va.toNat < base + size := by
  unfold walk at hw
  extract_lets d root off sp at hw
  split at hw
  · cases hw
  · split at hw
    · cases hw
    · split at hw
      · cases hw
      · split at hw
        · cases hw
        · split at hw
          · cases hw
          · exact walkAt_covers hw

theorem one_lt_tlbSize (h : Home) : 1 < tlbSize h := by
  unfold tlbSize
  split <;> decide

/-- A translation that is loaded where none was is the one that answers next. -/
theorem State.tlbHit_tlbLoad {s : State} {h : Home} {va e : Word} {base size : Nat} (a : Nat) (hn : s.tlbHit h va = none)
    (hc : base ≤ va.toNat ∧ va.toNat < base + size) :
    (s.tlbLoad h base size e a).tlbHit h va = some { base := base, size := size, pte := e ||| 0x10#64 } := by
  unfold State.tlbLoad State.tlbHit
  dsimp only
  rw [State.home_updHome]
  change List.find? _ (if tlbSize h < ((s.home h).tlb ++ [_]).length then ((s.home h).tlb ++ [_]).drop 1 else (s.home h).tlb ++ [_]) = _
  unfold State.tlbHit at hn
  split
  · next full =>
    have some' : 1 ≤ (s.home h).tlb.length := by
      have := one_lt_tlbSize h
      rw [List.length_append, List.length_singleton] at full
      omega
    rw [List.drop_append_of_le_length some', List.find?_append, List.find?_eq_none.2 fun x hx =>
      List.find?_eq_none.1 hn x (List.mem_of_mem_drop hx)]
    simp [hc]
  · rw [List.find?_append, hn]
    simp [hc]

theorem State.leaf_walked {s : State} {h : Home} {va e : Word} {base size a : Nat} (hn : s.tlbHit h va = none)
    (hw : walk s h va = .leaf base size e a) : (s.leaf h va).1 = s.tlbLoad h base size e a := by
  simp only [State.leaf, hn, hw]

theorem pageWalk_result (h : Home) (va e : Word) (base size a : Nat) (s : State)
    (hp : ∃ p ∈ s.net, p.kind.isRequest ∧ p.home = h ∧ p.va = va) (hs : s.memOk) (hn : s.tlbHit h va = none)
    (hw : walk s h va = .leaf base size e a) : ∃ t, exec (.pageWalk h va) s = .next t ∧
      t.note = .moved ∧ t.tlbHit h va = some { base := base, size := size, pte := e ||| 0x10#64 } ∧
      Memory.get t.mem a = (e ||| 0x10#64).setWidth 8 ∧ ∀ j, j ≠ a → Memory.get t.mem j = Memory.get s.mem j := by
  have asked : (s.net.any fun p => p.kind.isRequest && p.home == h && p.va == va) = true := by
    obtain ⟨p, hp, request, home, place⟩ := hp
    exact List.any_eq_true.2 ⟨p, hp, by simp [request, home, place]⟩
  have run : exec (.pageWalk h va) s = .next (happened (s.tlbLoad h base size e a)) := by
    refine (occurs_due (s.leaf h va).1 s (by rw [asked, hn]; rfl)).trans ?_
    rw [State.leaf_walked hn hw]
  have byte : bytesOf 1 (e ||| 0x10#64).toNat = [(e ||| 0x10#64).setWidth 8] := rfl
  have mem : (s.tlbLoad h base size e a).mem = (s.poke a [(e ||| 0x10#64).setWidth 8]).mem := by
    rw [← byte]
    rfl
  have hit := State.tlbHit_tlbLoad (e := e) a hn (walk_covers hw)
  refine ⟨_, run, rfl, hit, ?_, fun j hj => ?_⟩
  · rw [mem_happened, mem]
    exact Memory.get_set_self _ _ _ hs
  · rw [mem_happened, mem]
    exact Memory.get_set_other _ _ hs (Ne.symm hj)

/-! ### Instruction fetch (R174) -/

theorem instructionFetch_result (loc slot f p : Nat) (w : W32) (s u t : State) (hb : ((s.core loc).slot slot).bound = some f)
    (hu : u = { s with cur := { loc := loc, frame := f, slot := slot } }) (hw : u.my.wait = none) (hp : u.my.pend = .idle)
    (hr : u.my.rfa = false) (hi : (((s.core loc).slot slot).ibuf.any fun i => i.va == u.my.pc) = false)
    (hf : u.fetch u.my.pc = (t, .word w p)) : exec (.instructionFetch loc slot) s =
      .next (happened (t.updSlot t.cur.loc t.cur.slot fun x => x.buffer u.my.pc p w)) := by
  have absent : (((u.core u.cur.loc).slot u.cur.slot).ibuf.find? fun i => i.va == u.my.pc) = none := by
    rw [hu]
    rw [hu] at hi
    exact List.find?_eq_none.2 fun i hi' e => Bool.false_ne_true (hi.symm.trans (List.any_eq_true.2 ⟨i, hi', e⟩))
  have front : u.front.1 = t.updSlot t.cur.loc t.cur.slot fun x => x.buffer u.my.pc p w := by
    simp only [State.front, State.word, absent, hf]
  change execInstructionFetch loc slot s = _
  simp only [execInstructionFetch, hb]
  rw [← hu]
  rw [← front]
  refine occurs_due _ _ ?_
  have frame : s.frame (keyOf loc f) = u.my := by rw [hu]; rfl
  rw [frame, hw, hp, hr, hi]
  rfl

/-! ### Spread-table entries (R117, R170) -/

theorem exec_spreadEntryFetch {k : Nat} {s t : State} {p : Pkt} (hp : p.kind = .spread) (hk : s.pkt k = some p)
    (hm : s.mayPerform k p) (hf : (s.dropPkt k).performSpread p = (t, none)) :
    exec (.spreadEntryFetch k) s = .next (happened t) :=
  performAt_due (kind := fun x => x == .spread) hk (by rw [hp]; rfl) hm hf

/-- An uncorrectable read of a spread request leaves a record and an entry that denies. -/
theorem State.failPkt_spread_bad {s : State} {p : Pkt} (va : Word) (hp : p.kind = .spread) : s.failPkt p .bad va =
    (s.record p.home 0x05 .uncorrectable va p.launch p.lmod).spreadLoad p.src p.launch p.lmod (s.granuleAt p) 0x1FFFFFFFF := by
  simp only [State.failPkt, hp]
  rfl

theorem State.failPkt_spread_deny {s : State} {p : Pkt} (r : Reason) (va : Word) (hp : p.kind = .spread) :
    s.failPkt p (.deny r) va =
      (s.record p.home 0x04 .deny va p.launch p.lmod).spreadLoad p.src p.launch p.lmod (s.granuleAt p) 0x1FFFFFFFF := by
  simp only [State.failPkt, hp]
  rfl

theorem MemorySide.of_check {s t : State} {r : Req} {x : HRes} (h : s.check r = (t, x)) : MemorySide s t := by
  have side := s.check_memorySide r
  rwa [h] at side

theorem MemorySide.granuleAt {s t : State} (h : MemorySide s t) (p : Pkt) : t.granuleAt p = s.granuleAt p := by
  rw [State.granuleAt, State.granuleAt, State.spreadPtr, State.spreadPtr, State.launchOf, State.launchOf, h.launches]

/-- What a spread request finds: the count is read first. -/
theorem State.performSpread_counted {s t : State} {p : Pkt} {m b z : Nat} {e : Word}
    (hc : s.check { p.req 4 false with home := homeOf (Loc.module p.src) (s.spreadPtr p.launch p.lmod),
                                       va := s.spreadPtr p.launch p.lmod } = (t, .ok m e b z)) :
    s.performSpread p =
      if t.isBad m 4 then (t.failPkt p .bad (s.spreadPtr p.launch p.lmod), none)
      else if t.num m 4 ≤ s.granuleAt p then (t.spreadLoad p.src p.launch p.lmod (s.granuleAt p) deniedEntry, none)
      else t.withPlace p (p.req 4 false) fun u a _ _ _ =>
        if u.isBad a 4 then (u.failPkt p .bad p.va, none)
        else (u.spreadLoad p.src p.launch p.lmod (s.granuleAt p) (BitVec.ofNat 64 (u.num a 4)), none) := by
  unfold State.performSpread
  dsimp only
  rw [hc]

theorem spreadEntryFetch_result (k : Nat) (s t : State) (p : Pkt) (ptr : Word) (g m : Nat) (e : Word) (b z : Nat)
    (hp : p.kind = .spread) (hk : s.pkt k = some p) (hm : s.mayPerform k p) (hptr : ptr = s.spreadPtr p.launch p.lmod)
    (hg : g = (p.va - ptr - 64).toNat / 4)
    (hc : (s.dropPkt k).check { p.req 4 false with home := homeOf (Loc.module p.src) ptr, va := ptr } = (t, .ok m e b z)) :
    (t.isBad m 4 → exec (.spreadEntryFetch k) s =
      .next (happened ((t.record p.home 0x05 .uncorrectable ptr p.launch p.lmod).spreadLoad p.src p.launch p.lmod g 0x1FFFFFFFF))) ∧
    (t.isBad m 4 = false → t.num m 4 ≤ g → exec (.spreadEntryFetch k) s =
      .next (happened (t.spreadLoad p.src p.launch p.lmod g 0x1FFFFFFFF))) ∧
    (∀ u a e' b' z', t.isBad m 4 = false → g < t.num m 4 → t.check (p.req 4 false) = (u, .ok a e' b' z') →
      (u.countReq p.home p.src p.va false).isBad a 4 → exec (.spreadEntryFetch k) s =
        .next (happened (((u.countReq p.home p.src p.va false).record p.home 0x05 .uncorrectable p.va p.launch p.lmod).spreadLoad
          p.src p.launch p.lmod g 0x1FFFFFFFF))) ∧
    (∀ u a e' b' z', t.isBad m 4 = false → g < t.num m 4 → t.check (p.req 4 false) = (u, .ok a e' b' z') →
      (u.countReq p.home p.src p.va false).isBad a 4 = false → exec (.spreadEntryFetch k) s =
        .next (happened ((u.countReq p.home p.src p.va false).spreadLoad p.src p.launch p.lmod g
          (BitVec.ofNat 64 (u.num a 4))))) := by
  subst hptr hg
  have granule : (s.dropPkt k).granuleAt p = (p.va - s.spreadPtr p.launch p.lmod - 64).toNat / 4 := rfl
  have counted := State.performSpread_counted (s := s.dropPkt k) hc
  rw [granule] at counted
  have side := MemorySide.of_check hc
  have reads : (p.req 4 false).write = false := rfl
  refine ⟨fun bad => ?_, fun good beyond => ?_, fun u a e' b' z' good within found bad => ?_,
    fun u a e' b' z' good within found fine => ?_⟩
  · rw [if_pos bad, State.failPkt_spread_bad _ hp, side.granuleAt, granule] at counted
    exact exec_spreadEntryFetch hp hk hm counted
  · rw [if_neg (by simp [good]), if_pos beyond] at counted
    exact exec_spreadEntryFetch hp hk hm counted
  · have side' := (side.trans (.of_check found)).trans (u.countReq_memorySide p.home p.src p.va false)
    rw [if_neg (by simp [good]), if_neg (Nat.not_le.2 within), State.withPlace, found, reads] at counted
    refine exec_spreadEntryFetch hp hk hm (counted.trans ?_)
    refine (if_pos bad).trans ?_
    rw [State.failPkt_spread_bad _ hp, side'.granuleAt, granule]
  · rw [if_neg (by simp [good]), if_neg (Nat.not_le.2 within), State.withPlace, found, reads] at counted
    refine exec_spreadEntryFetch hp hk hm (counted.trans ?_)
    refine (if_neg (by rw [fine]; decide)).trans ?_
    have read : (u.countReq p.home p.src p.va false).num a 4 = u.num a 4 := by
      unfold State.countReq
      split <;> rfl
    rw [read]

/-! ### Resolution words (R128) -/

/-- The resolution word that comes next settles the one entry of its fault page. -/
theorem State.resolve_only {s : State} {h : Home} {q : Nat} {deny : Bool} {r : List (Home × Nat × Bool)} {x : FEntry}
    (hr : Resolves s h q deny r x) : resolveRow h q deny s = .next (happened
      (if deny then (resolved s h r x).denyItem h x else ((resolved s h r x, 0) |> State.retryItem <| x).1)) := by
  obtain ⟨words, found, only⟩ := hr
  have next : findAt (fun w => w == (h, q, deny)) s.words = some 0 := by
    rw [words]
    simp [findAt]
  have rest : dropAt s.words 0 = r := by rw [words]; rfl
  simp only [resolveRow, next, rest]
  refine (occurs_due _ _ rfl).trans ?_
  have found' : ((State.home { s with words := r } h).faults.find? fun e => e.idx == q) = some x := found
  have only' : ((State.home { s with words := r } h).faults.filter fun e => e.base == x.base && e.size == x.size) = [x] := only
  simp only [State.resolve, found', only']
  rfl

theorem exec_deny {s : State} {h : Home} {q : Nat} {r : List (Home × Nat × Bool)} {x : FEntry} (hr : Resolves s h q true r x) :
    exec (.deny h q) s = .next (happened ((resolved s h r x).denyItem h x)) := State.resolve_only hr

theorem exec_retry {s : State} {h : Home} {q : Nat} {r : List (Home × Nat × Bool)} {x : FEntry} (hr : Resolves s h q false r x) :
    exec (.retry h q) s = .next (happened (State.retryItem (resolved s h r x, 0) x).1) := State.resolve_only hr

theorem denySpread_result (h : Home) (q : Nat) (r : List (Home × Nat × Bool)) (x : FEntry) (s : State) (p : Pkt)
    (hr : Resolves s h q true r x) (hi : x.item = .request p) (hp : p.kind = .spread) :
    exec (.deny h q) s = .next (happened
      (((resolved s h r x).record p.home 0x04 .deny x.va p.launch p.lmod).spreadLoad p.src p.launch p.lmod
        ((p.va - s.spreadPtr p.launch p.lmod - 64).toNat / 4) 0x1FFFFFFFF)) := by
  rw [exec_deny hr, State.denyItem, hi]
  exact congrArg (fun t => Host.Outcome.next (happened t)) (State.failPkt_spread_deny x.reason x.va hp)

/-! ### Invalidates (R130, R148) -/

/-- A page of a sector holds the address. -/
def Sector.covers (e : Sector) (va : Word) : Bool := e.pages.any fun g => decide (g.1 ≤ va.toNat ∧ va.toNat < g.1 + g.2)

theorem Sector.not_covers {e : Sector} {va : Word} (h : e.covers va = false) :
    ∀ g ∈ e.pages, ¬(g.1 ≤ va.toNat ∧ va.toNat < g.1 + g.2) := by
  intro g hg
  simpa using List.any_eq_false.1 h g hg

theorem State.home_poke (s : State) (a : Nat) (b : List Byte) (h : Home) : (s.poke a b).home h = s.home h := rfl

theorem State.home_copyBytes (s : State) (a b n : Nat) (h : Home) : (s.copyBytes a b n).home h = s.home h := rfl

/-- Once a sector is dropped, its home holds none of its key, and the others as before. -/
theorem State.l2_dropSector (s : State) (h : Home) (k : Nat) :
    ((s.dropSector h k).home h).l2 = (s.home h).l2.filter fun e => e.key != k := by
  unfold State.dropSector
  split
  · rw [State.home_updHome, State.home_poke]
    split
    · rw [State.home_copyBytes]
    · rfl
  · next none' =>
    refine (List.filter_eq_self.2 fun e he => ?_).symm
    simpa using List.find?_eq_none.1 none' e he

/-- Sectors of the list that have a page of the address go, one after another. -/
theorem State.l2_flush (s : State) (h : Home) (va : Word) (es : List Sector) :
    ((es.foldl (fun t e => if e.covers va then t.dropSector h e.key else t) s).home h).l2 =
      (s.home h).l2.filter fun e => !es.any fun d => d.covers va && d.key == e.key := by
  induction es generalizing s with
  | nil => simp
  | cons d es ih =>
    rw [List.foldl_cons, ih]
    split
    · next covers =>
      rw [State.l2_dropSector, List.filter_filter]
      refine List.filter_congr fun e _ => ?_
      rw [List.any_cons, covers, Bool.true_and, Bool.not_or, Bool.and_comm, bne, BEq.comm]
    · next free => simp [free]

theorem State.l2_flushPage (s : State) (h : Home) (va : Word) :
    ∀ e ∈ ((s.flushPage h va).home h).l2, e.covers va = false := by
  have flushed : ((s.flushPage h va).home h).l2 =
      (s.home h).l2.filter fun e => !(s.home h).l2.any fun d => d.covers va && d.key == e.key :=
    s.l2_flush h va (s.home h).l2
  intro e he
  rw [flushed] at he
  obtain ⟨listed, stays⟩ := List.mem_filter.1 he
  by_contra covers
  have gone : ((s.home h).l2.any fun d => d.covers va && d.key == e.key) = true :=
    List.any_eq_true.2 ⟨e, listed, by simpa using covers⟩
  simp [gone] at stays

theorem State.flushPage_empty {s : State} {h : Home} (va : Word) (hl : (s.home h).l2 = []) : s.flushPage h va = s := by
  rw [State.flushPage, hl, List.foldl_nil]

theorem State.copyBytes_mem (s : State) (a b n : Nat) : (s.copyBytes a b n).mem = (s.poke b (s.bytes a n)).mem := by
  unfold State.copyBytes
  dsimp only

theorem State.poke_bytes_mem (s : State) (a b n : Nat) :
    (s.poke b (s.bytes a n)).mem = Memory.write s.mem b (Memory.read s.mem a n) := rfl

theorem Memory.getElem_read (m : List Host.Cell) {a n i : Nat} (h : i < (Memory.read m a n).length) :
    (Memory.read m a n)[i] = Memory.get m (a + i) := by
  induction n generalizing a i with
  | zero => cases h
  | succ n ih =>
    cases i with
    | zero => rfl
    | succ i =>
      simp only [Memory.read, List.getElem_cons_succ]
      rw [ih, Nat.add_right_comm, Nat.add_assoc]

/-- A copied byte reads as its source did. -/
theorem Memory.get_write_read {m : List Host.Cell} {a b n i : Nat} (h : Memory.wf m = true) (hi : i < n) :
    Memory.get (Memory.write m a (Memory.read m b n)) (a + i) = Memory.get m (b + i) := by
  rw [Memory.get_write_inside _ h (by rwa [Memory.read_length]), Memory.getElem_read]

/-- R148: a dirty sector that is dropped is written back to its bank. -/
theorem State.get_flushPage_dirty {s : State} {h : Home} {va : Word} {e : Sector} (hs : s.memOk) (hl : (s.home h).l2 = [e])
    (hc : e.covers va) (hd : e.dirty) {i : Nat} (hi : i < 256) :
    Memory.get (s.flushPage h va).mem (e.key + i) = Memory.get s.mem (cacheKey (e.key + i)) := by
  have found : (s.home h).sector e.key = some e := by simp [HomeSt.sector, hl]
  have flushed : s.flushPage h va = s.dropSector h e.key := by
    rw [State.flushPage, hl, List.foldl_cons, List.foldl_nil]
    exact if_pos hc
  have mem : (s.dropSector h e.key).mem =
      ((s.copyBytes (cacheKey e.key) e.key 256).poke (cacheKey e.key) (List.replicate 256 0)).mem := by
    simp only [State.dropSector, found, if_pos hd, State.updHome_mem]
  have copied := State.copyBytes_mem s (cacheKey e.key) e.key 256
  have key : cacheKey (e.key + i) = cacheKey e.key + i := by
    unfold cacheKey
    omega
  have apart : e.key + i < cacheKey e.key := by
    unfold cacheKey
    omega
  rw [flushed, mem, State.get_poke_other _ hs.copyBytes (.inl apart), copied, State.poke_bytes_mem, key]
  exact Memory.get_write_read hs hi

theorem tlbHit_performInv (s : State) (p : Pkt) : (s.performInv p).tlbHit p.home p.va = none := by
  rw [State.tlbHit, State.performInv, State.home_updHome]
  refine List.find?_eq_none.2 fun e he => ?_
  have kept := (List.mem_filter.1 he).2
  rw [Bool.not_eq_true'] at kept
  exact ne_true_of_eq_false kept

theorem tlbInvalidate_result (k n : Nat) (s : State) (p : Pkt) (hk : s.pkt k = some p) (hm : s.mayPerform k p)
    (hp : p.kind = .tlbInv n) : ∃ t, exec (.tlbInvalidateRequest k) s = .next t ∧ t.note = .moved ∧
      t.tlbHit p.home p.va = none ∧
      (∀ e ∈ (t.home p.home).l2, ∀ g ∈ e.pages, ¬(g.1 ≤ p.va.toNat ∧ p.va.toNat < g.1 + g.2)) ∧
      ((s.home p.home).l2 = [] → SameMemory s t) ∧
      (∀ e, s.memOk → (s.home p.home).l2 = [e] → (∃ g ∈ e.pages, g.1 ≤ p.va.toNat ∧ p.va.toNat < g.1 + g.2) → e.dirty →
        ∀ i < 256, Memory.get t.mem (e.key + i) = Memory.get s.mem (cacheKey (e.key + i))) ∧
      t.net = s.net.take k ++ s.net.drop (k + 1) := by
  have run : exec (.tlbInvalidateRequest k) s = .next (happened ((s.dropPkt k).performInv p)) :=
    performAt_due (kind := fun x => match x with | .tlbInv _ => true | _ => false) (f := fun s p => (s.performInv p, none)) hk (by rw [hp]) hm rfl
  have l2 : (((s.dropPkt k).performInv p).home p.home).l2 = (((s.dropPkt k).flushPage p.home p.va).home p.home).l2 := by
    rw [State.performInv, State.home_updHome]
  have mem : ((s.dropPkt k).performInv p).mem = ((s.dropPkt k).flushPage p.home p.va).mem := by
    rw [State.performInv, State.updHome_mem]
  have hit := tlbHit_performInv (s.dropPkt k) p
  have net : ((s.dropPkt k).performInv p).net = s.net.take k ++ s.net.drop (k + 1) := by
    rw [State.performInv, State.updHome_net, ((s.dropPkt k).flushPage_memorySide p.home p.va).net, State.dropPkt, dropAt_eq]
  generalize (s.dropPkt k).performInv p = t at run l2 mem hit net
  refine ⟨_, run, rfl, hit, fun e he => Sector.not_covers ?_, fun empty a => ?_, fun e hs hl hg hd i hi => ?_, net⟩
  · exact (s.dropPkt k).l2_flushPage p.home p.va e (l2 ▸ he)
  · rw [mem_happened, mem, State.flushPage_empty (s := s.dropPkt k) p.va empty]
    rfl
  · have covers : e.covers p.va := List.any_eq_true.2 (by simpa using hg)
    rw [mem_happened, mem]
    exact State.get_flushPage_dirty (s := s.dropPkt k) hs hl covers hd hi

theorem fenceMarker_result (k : Nat) (s : State) (p : Pkt) (hk : s.pkt k = some p) (hm : s.mayPerform k p) (sc : Scope)
    (hp : p.kind = .marker sc) : exec (.fenceMarker k) s = .next (happened (s.dropPkt k)) :=
  performAt_due (kind := fun x => match x with | .marker _ => true | _ => false) (f := fun s _ => (s, none)) hk (by rw [hp]) hm rfl

/-- Settles O39, part by part. -/
theorem walksAndFetches : Obligations.WalksAndFetches :=
  ⟨pageWalk_result, instructionFetch_result, spreadEntryFetch_result, denySpread_result, fun k s p hk hm =>
    ⟨fun n hp => tlbInvalidate_result k n s p hk hm hp, fun sc hp => fenceMarker_result k s p hk hm sc hp⟩⟩

end Sys2Proof.Machine
end

section
/-! PROOFS. Requests that come back undelivered (R68, R358; O40). -/

namespace Sys2Proof.Machine

open Sys2Proof Sys2Proof.Claims

/-- The event that returns a packet whose module has gone. -/
theorem exec_undeliveredReturn {k : Nat} {s : State} {p : Pkt} (hk : s.pkt k = some p)
    (hg : s.goneFrom p.origin (homeMod p.home)) :
    exec (.undeliveredReturn k) s = .next (happened ((s.dropPkt k).returnPkt p)) := by
  change execUndeliveredReturn k s = _
  simp only [execUndeliveredReturn, hk]
  exact occurs_due _ _ hg

namespace LatePc

/-- A thread of core 0 on its way to core 0 of module 1, which is not there. -/
def traveller : Pkt :=
  { id := 1, kind := .migrate {}, src := 0, key := 0, uid := 0, home := .core 16384 }

/-- Frame 0 of core 0 awaits it, and a supervisor's write of its pc, 8, waits for the instruction's end (R358). -/
def waiting : State :=
  { frames := [(0, { used := true, pend := .sent 1, late := [(136, 8, 8)] })], net := [traveller] }

/-- The pc that the trap queue of core 0 keeps for each thread. -/
def queuedPcs (s : State) : List Word := (s.core 0).trapq.map fun e => e.pc

theorem gone : waiting.goneFrom traveller.origin (homeMod traveller.home) := by decide

/-- The thread is back where it was, its late write done. -/
theorem queuedPcs_returned : queuedPcs (happened ((waiting.dropPkt 0).returnPkt traveller)) = [8] := by decide

/-- What the statement has: the thread traps with the pc of before the write. -/
theorem queuedPcs_stated : queuedPcs (happened ((((waiting.dropPkt 0).useTicket 16384 traveller).updFrame traveller.key
    fun f => { f with wait := none, pend := .idle }).raiseAt traveller.key .translation traveller.va 0)) = [0] := by decide

end LatePc

/-- Refutes O40: the statement has a thread trap as its frame stands when its packet comes back, but a supervisor's write of
its window that has waited takes effect first (R358), and where that write is of pc, the trap entry holds the new pc. -/
theorem not_faultOutcomes : ¬ Obligations.FaultOutcomes := by
  rintro ⟨-, -, -, -, returned⟩
  obtain ⟨-, thread⟩ := returned 0 LatePc.waiting LatePc.traveller rfl LatePc.gone
  have stated := thread {} 16384 rfl rfl ⟨⟨rfl, rfl⟩, rfl⟩
  rw [exec_undeliveredReturn rfl LatePc.gone] at stated
  have same := congrArg LatePc.queuedPcs (Host.Outcome.next.inj stated)
  rw [LatePc.queuedPcs_returned, LatePc.queuedPcs_stated] at same
  exact absurd same (by decide)

end Sys2Proof.Machine
end

section
/-! PROOFS. Reads performed at their homes (R68, R136, R143, R150, R254, R256-R258, R302, R305; O37). -/

namespace Sys2Proof.Machine

open Sys2Proof Sys2Proof.Claims

/-! ### Values and answers -/

theorem extend_eq_widened {n : Nat} (hn : n ∈ [1, 2, 4, 8]) (sgn : Bool) (x : Nat) : extend n sgn x = widened n sgn x := by
  have fits : 8 * n ≤ 64 := by
    simp only [List.mem_cons, List.not_mem_nil, or_false] at hn
    omega
  have low : (BitVec.ofNat 64 x).setWidth (8 * n) = BitVec.ofNat (8 * n) x := BitVec.setWidth_ofNat_of_le fits x
  rw [extend, widened, sext, low]
  rfl

theorem State.answer_awaited {s : State} {p : Pkt} (h : Awaits s p) (a : Ans) : s.answer p a = got s p a := by
  obtain ⟨⟨used, uid⟩, pend⟩ := h
  simp [State.answer, used, uid, pend, got]

theorem State.sendReply_some (s : State) (p : Pkt) (d : Fin 16) (v : Word) (bad : Bool) (acq : Option Scope) :
    s.sendReply p (some d) v bad acq = replySent s p d v bad acq := rfl

theorem exec_dataReturnRequest {k : Nat} {s t : State} {p : Pkt} {r : Option Pkt} (hp : p.kind.isRead = true)
    (hk : s.pkt k = some p) (hm : s.mayPerform k p) (hf : (s.dropPkt k).performRead p = (t, r)) :
    exec (.dataReturnRequest k) s = .next (happened (t.keepPkt k r)) :=
  performAt_due (kind := PKind.isRead) (f := State.performRead) hk hp hm hf

/-- A request that its home admits goes on in the state after the checks. -/
theorem State.withPlace_admitted {s t0 : State} {p : Pkt} {r : Req} {a : Nat} {e : Word} {b z : Nat}
    (h : s.check r = (t0, .ok a e b z)) (f : State → Nat → Word → Nat → Nat → State × Option Pkt) :
    s.withPlace p r f = f (t0.countReq p.home p.src p.va r.write) a e b z := by
  rw [State.withPlace, h]

/-! ### Loads (R254, R256) -/

theorem load_result (k n : Nat) (sgn : Bool) (d : Fin 16) (acq : Option Scope) (s t : State) (p : Pkt) (a : Nat) (e : Word)
    (b z : Nat) (hp : p.kind = .load n sgn (some d) acq) (hn : n ∈ [1, 2, 4, 8]) (h : Admitted s k p n false t a e b z) :
    (t.isBad a n = false → exec (.dataReturnRequest k) s =
      .next (happened (replySent t p d (widened n sgn (t.num a n)) false acq))) ∧
    (t.isBad a n → exec (.dataReturnRequest k) s = .next (happened (replySent t p d 0 true acq))) := by
  obtain ⟨hk, hm, t0, check, rfl⟩ := h
  have performed : (s.dropPkt k).performRead p = if (t0.countReq p.home p.src p.va false).isBad a n then
        ((t0.countReq p.home p.src p.va false).failPkt p .bad p.va, none)
      else (replySent (t0.countReq p.home p.src p.va false) p d
        (widened n sgn ((t0.countReq p.home p.src p.va false).num a n)) false acq, none) := by
    simp only [State.performRead, hp, State.performLoad]
    rw [State.withPlace_admitted check, extend_eq_widened hn]
    rfl
  have failed (u : State) : u.failPkt p .bad p.va = replySent u p d 0 true acq := by
    simp only [State.failPkt, hp]
    rfl
  refine ⟨fun fine => ?_, fun bad => ?_⟩
  · rw [if_neg (by simp [fine])] at performed
    exact exec_dataReturnRequest (by rw [hp]; rfl) hk hm performed
  · rw [if_pos bad, failed] at performed
    exact exec_dataReturnRequest (by rw [hp]; rfl) hk hm performed

/-! ### Decoded loads (R136, R143, R150, R257) -/

/-- R136, R143, R150: what a decoded load that its home admits comes to. -/
def State.ldfStep (t : State) (p : Pkt) (ty : DecTy) (a : Nat) (e : Word) (b z : Nat) : State × Option Pkt :=
  let load (held : Option Nat) : State × Option Pkt :=
    match decLoad t ty (t.frame p.key).rmode e z a (p.va.toNat - b) held with
    | .ok v => (t.answer p (.val v), none)
    | .poison => (t.answer p .poison, none)
  match decStops t p ty false a e b z with
  | some .rangeLocked => ((t.record p.home 0x04 .lock p.va p.launch p.lmod).answer p .poison, none)
  | some c => (t.answer p (.fail c p.va), none)
  | none =>
    match decFound t p ty a e b z with
    | .value v => if (scalePlace e b z p.va a).any fun x => t.owes p.uid p.id x.1 1 then (t, some p) else load (some v)
    | .none =>
      if t.owes p.uid p.id p.va (decElem (pteFmt e) (decSize ty)) || (scalePlace e b z p.va a).any fun x => t.owes p.uid p.id x.1 1
      then (t, some p) else load none
    | .after x n o => t.after p x n o

theorem exec_ldf {k : Nat} {ty : DecTy} {s t u : State} {p : Pkt} {r : Option Pkt} {a : Nat} {e : Word} {b z : Nat}
    (hp : p.kind = .ldf ty) (h : AdmittedDec s k p ty false t a e b z) (hu : t.ldfStep p ty a e b z = (u, r)) :
    exec (.dataReturnRequest k) s = .next (happened (u.keepPkt k r)) := by
  obtain ⟨hk, hm, t0, check, rfl⟩ := h
  refine exec_dataReturnRequest (by rw [hp]; rfl) hk hm ?_
  have locked (u : State) : u.failPkt p .lock p.va = (u.record p.home 0x04 .lock p.va p.launch p.lmod).answer p .poison := by
    simp only [State.failPkt, hp]
    rfl
  have poisoned (u : State) : u.failPkt p .bad p.va = u.answer p .poison := by
    simp only [State.failPkt, hp]
    rfl
  rw [← hu]
  simp only [State.performRead, hp, State.performLdf]
  rw [State.withPlace_admitted check]
  simp only [locked, poisoned]
  rfl

/-- The value of a decoded load that is performed, or its poison, reaches the thread. -/
theorem decLoad_result {k : Nat} {ty : DecTy} {s t : State} {p : Pkt} {a : Nat} {e : Word} {b z : Nat} (hp : p.kind = .ldf ty)
    (h : AdmittedDec s k p ty false t a e b z) (hw : Awaits t p) {own : Option Nat}
    (hs : t.ldfStep p ty a e b z = match decLoad t ty (t.frame p.key).rmode e z a (p.va.toNat - b) own with
      | .ok v => (t.answer p (.val v), none)
      | .poison => (t.answer p .poison, none)) :
    (∀ v, decLoad t ty (t.frame p.key).rmode e z a (p.va.toNat - b) own = .ok v →
      exec (.dataReturnRequest k) s = .next (happened (got t p (.val v)))) ∧
    (decLoad t ty (t.frame p.key).rmode e z a (p.va.toNat - b) own = .poison →
      exec (.dataReturnRequest k) s = .next (happened (got t p .poison))) := by
  refine ⟨fun v value => ?_, fun poison => ?_⟩
  · rw [value] at hs
    rw [exec_ldf hp h hs, State.answer_awaited hw]
    rfl
  · rw [poison] at hs
    rw [exec_ldf hp h hs, State.answer_awaited hw]
    rfl

theorem scaleCome_any {t : State} {p : Pkt} {a : Nat} {e : Word} {b z : Nat} (h : scaleCome t p a e b z) :
    ((scalePlace e b z p.va a).any fun x => t.owes p.uid p.id x.1 1) = false := by
  cases hx : scalePlace e b z p.va a with
  | none => rfl
  | some x => exact h x hx

theorem ldf_result (k : Nat) (ty : DecTy) (s t : State) (p : Pkt) (a : Nat) (e : Word) (b z : Nat)
    (hp : p.kind = .ldf ty) (h : AdmittedDec s k p ty false t a e b z) :
    (∀ c, decStops t p ty false a e b z = some c → c ≠ .rangeLocked → Awaits t p →
      exec (.dataReturnRequest k) s = .next (happened (got t p (.fail c p.va)))) ∧
    (decStops t p ty false a e b z = some .rangeLocked → Awaits (t.record p.home 0x04 .lock p.va p.launch p.lmod) p →
      exec (.dataReturnRequest k) s =
        .next (happened (got (t.record p.home 0x04 .lock p.va p.launch p.lmod) p .poison))) ∧
    (decStops t p ty false a e b z = none → Awaits t p →
      (∀ own, (decFound t p ty a e b z = .none ∧ own = none ∧
            t.owes p.uid p.id p.va (decElem (pteFmt e) (decSize ty)) = false ∨
          ∃ x, decFound t p ty a e b z = .value x ∧ own = some x) → scaleCome t p a e b z →
        (∀ v, decLoad t ty (t.frame p.key).rmode e z a (p.va.toNat - b) own = .ok v →
          exec (.dataReturnRequest k) s = .next (happened (got t p (.val v)))) ∧
        (decLoad t ty (t.frame p.key).rmode e z a (p.va.toNat - b) own = .poison →
          exec (.dataReturnRequest k) s = .next (happened (got t p .poison)))) ∧
      (∀ x n o, decFound t p ty a e b z = .after x n o →
        (t.heldFor p x n o → exec (.dataReturnRequest k) s =
          .next (happened ((got t p (.again p.va)).wakeLane p))) ∧
        (t.heldFor p x n o = false → exec (.dataReturnRequest k) s = .next (happened (stays t k p)))) ∧
      (decFound t p ty a e b z = .none → t.owes p.uid p.id p.va (decElem (pteFmt e) (decSize ty)) →
        exec (.dataReturnRequest k) s = .next (happened (stays t k p)))) := by
  refine ⟨fun c stop other awaits => ?_, fun stop awaits => ?_, fun go awaits => ⟨fun own found scale => ?_,
    fun x n o found => ⟨fun held => ?_, fun free => ?_⟩, fun found owes => ?_⟩⟩
  · have step : t.ldfStep p ty a e b z = (t.answer p (.fail c p.va), none) := by
      unfold State.ldfStep
      rw [stop]
      split
      · next same => exact absurd (Option.some.inj same) other
      · next same => rw [Option.some.inj same]
      · next none' => cases none'
    rw [exec_ldf hp h step, State.answer_awaited awaits]
    rfl
  · have step : t.ldfStep p ty a e b z = ((t.record p.home 0x04 .lock p.va p.launch p.lmod).answer p .poison, none) := by
      unfold State.ldfStep
      rw [stop]
    rw [exec_ldf hp h step, State.answer_awaited awaits]
    rfl
  · refine decLoad_result hp h awaits ?_
    rcases found with ⟨none', rfl, owes⟩ | ⟨x, value, rfl⟩
    · simp only [State.ldfStep, go, none', owes, scaleCome_any scale, Bool.or_self, Bool.false_eq_true, if_false]
    · simp only [State.ldfStep, go, value, scaleCome_any scale, Bool.false_eq_true, if_false]
  · have step : t.ldfStep p ty a e b z = ((t.answer p (.again p.va)).wakeLane p, none) := by
      simp only [State.ldfStep, go, found, State.after, if_pos held]
    rw [exec_ldf hp h step, State.answer_awaited awaits]
    rfl
  · have step : t.ldfStep p ty a e b z = (t, some p) := by
      simp only [State.ldfStep, go, found, State.after, free, Bool.false_eq_true, if_false]
    exact exec_ldf hp h step
  · have step : t.ldfStep p ty a e b z = (t, some p) := by
      simp only [State.ldfStep, go, found, owes, Bool.true_or, if_true]
    exact exec_ldf hp h step

/-! ### Vector loads (R302, R305) -/

theorem State.atThisLane_of {t : State} {p : Pkt} {j : Nat} {acc : BitVec 512} (hr : Resident t p)
    (hl : (t.frame p.key).pend = .lanes j acc) : t.atThisLane p j = true := by
  obtain ⟨used, uid⟩ := hr
  simp [State.atThisLane, used, uid, hl]

/-- Two changes of a frame that agree on it as it stands. -/
theorem State.updFrame_congr {s : State} {k : Nat} {f g : Frame → Frame} (h : f (s.frame k) = g (s.frame k)) :
    s.updFrame k f = s.updFrame k g := by
  rw [State.updFrame, State.updFrame, h]

/-- R302: what a lane's read that its home admits comes to. -/
def State.laneStep (t : State) (p : Pkt) (d : Fin 16) (j n a : Nat) : State × Option Pkt :=
  if t.isBad a n then (t.failLane p d j .uncorrectable p.va, none)
  else if t.atThisLane p j then
    ((t.updFrame p.key fun f => match f.pend with
      | .lanes _ acc => { f with pend := .lanes (j + 1) (setLane acc j (t.num a n)) }
      | _ => f).wakeLane p, none)
  else (t, none)

theorem lane_result (k j n : Nat) (d : Fin 16) (acc : BitVec 512) (s t : State) (p : Pkt) (a : Nat) (e : Word) (b z : Nat)
    (hp : p.kind = .lane d j n) (h : Admitted s k p n false t a e b z) (hr : Resident t p)
    (hl : (t.frame p.key).pend = .lanes j acc) :
    (t.isBad a n = false → exec (.dataReturnRequest k) s = .next (happened ((t.updFrame p.key fun f =>
      { f with pend := .lanes (j + 1) (setLane acc j (t.num a n)) }).wakeLane p))) ∧
    (t.isBad a n → exec (.dataReturnRequest k) s = .next (happened ((t.updFrame p.key fun f =>
      { ((f.setT 36 1 1).setT 37 4 j) with v := f.v.set d acc, pend := .got (.fail .uncorrectable p.va) }).wakeLane p))) := by
  obtain ⟨hk, hm, t0, check, ht⟩ := h
  have here := State.atThisLane_of hr hl
  have performed : (s.dropPkt k).performRead p = t.laneStep p d j n a := by
    simp only [State.performRead, hp, State.performLane]
    rw [State.withPlace_admitted check, ht]
    rfl
  have run {u : State} (hu : t.laneStep p d j n a = (u, none)) : exec (.dataReturnRequest k) s = .next (happened u) :=
    exec_dataReturnRequest (by rw [hp]; rfl) hk hm (performed.trans hu)
  refine ⟨fun fine => run ?_, fun bad => run ?_⟩
  · rw [State.laneStep, if_neg (by simp [fine]), if_pos here]
    refine congrArg (fun u : State => (u.wakeLane p, none)) (State.updFrame_congr ?_)
    rw [hl]
  · rw [State.laneStep, if_pos bad, State.failLane, if_pos here]
    refine congrArg (fun u : State => (u.wakeLane p, none)) (State.updFrame_congr ?_)
    rw [hl]

theorem vldf_result (k : Nat) (ty : DecTy) (act : BitVec 16) (s t : State) (p : Pkt) (v : BitVec 512)
    (hp : p.kind = .vldf ty act) (hk : s.pkt k = some p) (hm : s.mayPerform k p)
    (hv : vldfRead (s.dropPkt k) ty (s.frame p.key).rmode
      { (s.dropPkt k).reader p.key p.id with
        loc := p.src, user := p.user, launch := p.launch, lmod := p.lmod } p.va act 0 = (t, .ok (.lanes v))) (hw : Awaits t p) :
    exec (.dataReturnRequest k) s = .next (happened ((got t p (.vec v)).wakeLane p)) := by
  have performed : (s.dropPkt k).performRead p = ((t.answer p (.vec v)).wakeLane p, none) := by
    have mode : ((s.dropPkt k).frame p.key).rmode = (s.frame p.key).rmode := rfl
    simp only [State.performRead, hp, State.performVldf]
    rw [mode, hv]
  rw [exec_dataReturnRequest (by rw [hp]; rfl) hk hm performed, State.answer_awaited hw]
  rfl

/-- Settles O37, kind of read by kind. -/
theorem readsPerformed : Obligations.ReadsPerformed := ⟨load_result, ldf_result, lane_result, vldf_result⟩

end Sys2Proof.Machine
end

section
/-! PROOFS. Tile instructions and stale handles (R139-R141, R280-R283; O24). -/

namespace Sys2Proof.Machine

open Sys2Proof Sys2Proof.Claims

/-! ### How an instruction of a thread in no gang ends -/

theorem issue_done {s t : State} {body : State → Eff} (h : s.gangOf s.me = none) (hb : body s = .done t .seq) :
    issue body s = .next (retired t) := by
  rw [issue_alone h, hb]
  rfl

theorem issue_waitFor {s : State} {body : State → Eff} {w : Wait} (h : s.gangOf s.me = none) (hb : body s = .waitFor w) :
    issue body s = .next (waits s w) := by
  rw [issue_alone h, hb]
  rfl

/-- The registers of two frames agree (R41). -/
def SameRegs (f g : Frame) : Prop := g.g = f.g ∧ g.full = f.full ∧ g.poisoned = f.poisoned ∧ g.late = f.late

theorem SameRegs.trans {f g h : Frame} (hfg : SameRegs f g) (hgh : SameRegs g h) : SameRegs f h := by
  obtain ⟨g1, full1, poisoned1, late1⟩ := hfg
  obtain ⟨g2, full2, poisoned2, late2⟩ := hgh
  exact ⟨g2.trans g1, full2.trans full1, poisoned2.trans poisoned1, late2.trans late1⟩

theorem SameRegs.refl (f : Frame) : SameRegs f f := ⟨rfl, rfl, rfl, rfl⟩

theorem SameRegs.setT (f : Frame) (lo n v : Nat) : SameRegs f (f.setT lo n v) := ⟨rfl, rfl, rfl, rfl⟩

theorem SameRegs.tick (f : Frame) (keepSolo keepLane : Bool) : SameRegs f (f.tick keepSolo keepLane) := by
  unfold Frame.tick
  extract_lets older idle solo lane
  have h1 : SameRegs f idle := ⟨rfl, rfl, rfl, rfl⟩
  have h2 : SameRegs f solo := by
    unfold solo
    split
    · exact h1
    · exact h1.trans (.setT _ _ _ _)
  have h3 : SameRegs f lane := by
    unfold lane
    split
    · exact h2
    · exact h2.trans (.setT _ _ _ _)
  split
  · exact h3.trans ⟨rfl, rfl, rfl, rfl⟩
  · exact h3

theorem SameRegs.advance (f : Frame) (count len : Nat) : SameRegs f (f.advance count len) := by
  unfold Frame.advance
  dsimp only
  split
  · exact ⟨rfl, rfl, rfl, rfl⟩
  · split <;> exact ⟨rfl, rfl, rfl, rfl⟩

/-- No write of the frame window waits, so none follows the retirement (R358). -/
theorem SameRegs.settle {f g : Frame} (hf : f.late = []) (h : SameRegs f g) : SameRegs f g.settle := by
  have none' : g.late = [] := h.2.2.2.trans hf
  rw [Frame.settle, none']
  exact h.trans ⟨rfl, rfl, rfl, none'.symm⟩

/-- R41: an instruction that retires leaves the registers as its body left them. -/
theorem State.retire_sameRegs {s : State} (nx : Next) (keepSolo keepLane : Bool) (h : s.my.late = []) :
    SameRegs s.my (s.retire nx keepSolo keepLane).my := by
  have ticked := SameRegs.tick s.my keepSolo keepLane
  unfold State.retire
  dsimp only
  rw [State.my_updMy]
  refine SameRegs.settle h ?_
  split
  · exact ticked.trans ⟨rfl, rfl, rfl, rfl⟩
  · split
    · exact ticked.trans (.advance _ _ _)
    · exact ticked.trans ⟨rfl, rfl, rfl, rfl⟩

theorem retired_sameRegs {t : State} (h : t.my.late = []) : SameRegs t.my (retired t).my :=
  State.retire_sameRegs .seq false false h

theorem core_retired (t : State) (l : Loc) : (retired t).core l = t.core l := rfl

/-! ### Handles (R140) -/

section
variable {s : State} {a : Reg} {v : Word} (h : Alone s) (ha : s.my.anch) (hv : gives s a = some (v, s))
include ha hv

theorem withTile_stale (hn : s.handle s.cur.loc v = none) (k : Nat → Tile → State → Eff) :
    withTile s a k = .trap .tileStale 0 0 := by
  rw [withTile, anchored, if_pos ha, src_gives hv, hn]

theorem withTile_valid {n : Nat} (hn : s.handle s.cur.loc v = some n) (k : Nat → Tile → State → Eff) :
    withTile s a k = k n ((s.core s.cur.loc).tile n) s := by
  rw [withTile, anchored, if_pos ha, src_gives hv, hn]

include h

theorem staleHandle_result (d : Reg) (hn : s.handle s.cur.loc v = none) :
    exec (.tileFree a) s = .next (trapped s .tileStale 0) ∧ exec (.tileState d a) s = .next (trapped s .tileStale 0) ∧
      exec (.tileMark a 1) s = .next (trapped s .tileStale 0) := by
  refine ⟨?_, ?_, ?_⟩
  · change execTileFree a s = _
    exact issue_trap h.1 (withTile_stale ha hv hn _)
  · change execTileState d a s = _
    exact issue_trap h.1 (withTile_stale ha hv hn _)
  · change execTileMark a 1 s = _
    exact issue_trap h.1 (withTile_stale ha hv hn _)

variable {n : Nat} (hn : s.handle s.cur.loc v = some n)
include hn

theorem exec_tileState {d : Reg} {t : State} (ht : takes s d ((s.core s.cur.loc).tile n).word = some t) :
    exec (.tileState d a) s = .next (retired t) := by
  change execTileState d a s = _
  refine issue_done h.1 ?_
  rw [withTile_valid ha hv hn, put_takes h.2 ht]

theorem exec_tileFree_idle (hb : ((s.core s.cur.loc).tile n).busy = false) :
    exec (.tileFree a) s = .next (retired (s.freeTile s.cur.loc n)) := by
  change execTileFree a s = _
  refine issue_done h.1 ?_
  rw [withTile_valid ha hv hn, if_neg (by simp [hb])]

theorem exec_tileFree_busy (hb : ((s.core s.cur.loc).tile n).busy) (hf : s.my.fe = false) :
    exec (.tileFree a) s = .next (waits s (.tile n)) := by
  change execTileFree a s = _
  refine issue_waitFor h.1 ?_
  rw [withTile_valid ha hv hn, if_pos hb, tileWait, hf]
  rfl

/-- A marked tile's entry (R283). -/
def State.markTile (s : State) (n : Nat) (st : BitVec 3) : State :=
  s.updTile s.cur.loc n fun t => { t with state := st.setWidth 2, marked := st == 1 }

theorem exec_tileMark_idle (hb : ((s.core s.cur.loc).tile n).busy = false) (st : BitVec 3) :
    ∃ t, OnlyWakes (s.markTile n st) t ∧ exec (.tileMark a st) s = .next (retired t) := by
  have body := withTile_valid ha hv hn fun n t s =>
    if t.busy then tileWait s n
    else .done (if st == 2 then (s.markTile n st).wake fun k f => keyLoc k == s.cur.loc && f.wait == some (.tile n)
      else s.markTile n st) .seq
  rw [if_neg (by simp [hb])] at body
  refine ⟨_, ?_, (issue_done h.1 body : execTileMark a st s = _)⟩
  split
  · exact State.wake_onlyWakes _ _
  · exact .refl _

theorem exec_tileMark_busy (hb : ((s.core s.cur.loc).tile n).busy) (hf : s.my.fe = false) (st : BitVec 3) :
    exec (.tileMark a st) s = .next (waits s (.tile n)) := by
  change execTileMark a st s = _
  refine issue_waitFor h.1 ?_
  rw [withTile_valid ha hv hn, if_pos hb, tileWait, hf]
  rfl

theorem exec_tileFreef (hp : s.my.priv) :
    exec (.tileFreef a) s = .next (retired ((s.abortTile s.cur.loc n).freeTile s.cur.loc n)) := by
  change execTileFreef a s = _
  refine issue_done h.1 ?_
  rw [anchored, if_pos ha, supervisor, if_pos hp, withTile_valid ha hv hn]
end

/-- R140: the handle that named a slot is stale once the slot is free. -/
theorem State.handle_freeTile {s : State} {l : Loc} {v : Word} {n : Nat} (h : s.handle l v = some n) :
    (s.freeTile l n).handle l v = none := by
  have place : fieldOf v 0 6 = n := by
    unfold State.handle at h
    dsimp only at h
    split at h
    · exact Option.some.inj h
    · cases h
  have woken := State.wake_onlyWakes (s.updTile l n fun t => { t with state := 0, gen := t.gen + 1, marked := false })
    fun k f => keyLoc k == l && f.wait == some (.tile n)
  have empty : (((s.freeTile l n).core l).tile n).state = 0 := by
    rw [State.freeTile, woken.tile, State.tile_updTile]
  unfold State.handle
  dsimp only
  rw [place, empty]
  exact if_neg fun free => free.2.1 rfl

/-- R140: the handle that a slot's number and generation make names the slot while it is taken. -/
theorem State.handle_named {s : State} {l : Loc} {n : Nat} {g : BitVec 10} (hn : n < 64) (hs : ((s.core l).tile n).state ≠ 0)
    (hg : ((s.core l).tile n).gen = g) : s.handle l (BitVec.ofNat 64 (n + g.toNat * 64)) = some n := by
  have small := g.isLt
  have value : (BitVec.ofNat 64 (n + g.toNat * 64)).toNat = n + g.toNat * 64 := by
    rw [BitVec.toNat_ofNat]
    omega
  have place : fieldOf (BitVec.ofNat 64 (n + g.toNat * 64)) 0 6 = n := by
    rw [fieldOf, bitsOf, value]
    omega
  have age : fieldOf (BitVec.ofNat 64 (n + g.toNat * 64)) 6 10 = g.toNat := by
    rw [fieldOf, bitsOf, value]
    omega
  have rest : fieldOf (BitVec.ofNat 64 (n + g.toNat * 64)) 16 48 = 0 := by
    rw [fieldOf, bitsOf, value]
    omega
  unfold State.handle
  dsimp only
  rw [place, age, rest]
  exact if_pos ⟨rfl, hs, by rw [hg]⟩

/-! ### `tile.alloc` (R282) -/

/-- The entry of a new tile (R139, R282). -/
def State.placeTile (s : State) (n p : Nat) (shape : Word) : State :=
  s.updTile s.cur.loc n fun t =>
    { t with base := BitVec.ofNat 22 (p % 2 ^ 22), rows := BitVec.ofNat 9 (fieldOf shape 0 9)
             cols := BitVec.ofNat 9 (fieldOf shape 9 9), fmt := BitVec.ofNat 6 (fieldOf shape 18 6), state := 2, status := 0
             marked := false, launch := s.my.launch, lmod := s.my.lmod }

theorem State.tile_placeTile (s : State) (n p : Nat) (shape : Word) : ((s.placeTile n p shape).core s.cur.loc).tile n =
    { (s.core s.cur.loc).tile n with
      base := BitVec.ofNat 22 (p % 2 ^ 22), rows := BitVec.ofNat 9 (fieldOf shape 0 9)
      cols := BitVec.ofNat 9 (fieldOf shape 9 9), fmt := BitVec.ofNat 6 (fieldOf shape 18 6), state := 2, status := 0
      marked := false, launch := s.my.launch, lmod := s.my.lmod } := s.tile_updTile _ _ _

/-- What the allocation does once the page of its base is known. -/
def State.allocate (s1 : State) (d : Reg) (p : Nat) (shape : Word) : Eff :=
  match (s1.core s1.cur.loc).freeSlot with
  | none => put s1 d (BitVec.allOnes 64) fun s => .done s .seq
  | some n =>
    put (s1.placeTile n p shape) d (BitVec.ofNat 64 (n + ((s1.core s1.cur.loc).tile n).gen.toNat * 64)) fun s => .done s .seq

theorem State.allocate_none {s1 t : State} {d : Reg} {p : Nat} {shape : Word} (hf : s1.cur.fan = [])
    (hn : (s1.core s1.cur.loc).freeSlot = none) (ht : takes s1 d (BitVec.allOnes 64) = some t) :
    s1.allocate d p shape = .done t .seq := by
  rw [State.allocate, hn]
  exact put_takes hf ht

theorem State.allocate_some {s1 t : State} {d : Reg} {p n : Nat} {shape : Word} (hf : s1.cur.fan = [])
    (hn : (s1.core s1.cur.loc).freeSlot = some n)
    (ht : takes (s1.placeTile n p shape) d (BitVec.ofNat 64 (n + ((s1.core s1.cur.loc).tile n).gen.toNat * 64)) = some t) :
    s1.allocate d p shape = .done t .seq := by
  rw [State.allocate, hn]
  exact put_takes (s := s1.placeTile n p shape) hf ht

theorem settled_canLoad {s : State} {d : Reg} (hf : s.cur.fan = []) (h : settled s d) : s.canLoad (Reg.num d) = true := by
  cases d with
  | g n => exact canWriteG_settled hf h
  | z => rfl
  | port p => rfl

theorem exec_tileAlloc {a b d : Reg} {s s1 : State} {v shape : Word} {p pb z : Nat} {e : Word} (h : Alone s) (ha : s.my.anch)
    (hv : gives s a = some (v, s)) (hb : gives s b = some (shape, s)) (hs : shapeOk shape) (h64 : v.toNat % 64 = 0)
    (hbad : vaBad v = false) (hls : spaceOf v = .ls) (hown : lsOwner v = s.cur.loc) (hwin : windowAt v = none)
    (hd : settled s d) (hc : s.check { s.myReq (.core s.cur.loc) v 1 false with locks := false } = (s1, .ok p e pb z))
    (hpage : v.toNat + fieldOf shape 0 9 * tilePitch (fieldOf shape 9 9) (fieldOf shape 18 6) ≤ pb + z)
    (harea : inArea (p % 2 ^ 22) (fieldOf shape 0 9 * tilePitch (fieldOf shape 9 9) (fieldOf shape 18 6)) = false)
    (hfmt : pteFmt e = 0 ∨ pteFmt e = fieldOf shape 18 6) (hgeo : pteGeo e = 0) :
    exec (.tileAlloc d a b) s = .next ((s1.allocate d p shape).finish s) := by
  change execTileAlloc d a b s = _
  rw [execTileAlloc, issue_alone h.1]
  refine congrArg (fun r : Eff => Host.Outcome.next (r.finish s)) ?_
  rw [anchored, if_pos ha, src_gives hv, src_gives hb]
  dsimp only
  rw [hs, settled_canLoad h.2 hd]
  have place : ¬(vaBad v = true ∨ spaceOf v ≠ .ls ∨ lsOwner v ≠ s.cur.loc ∨ (windowAt v).isSome = true) := by
    simp [hbad, hls, hown, hwin]
  have fits : ¬(pb + z < v.toNat + fieldOf shape 0 9 * tilePitch (fieldOf shape 9 9) (fieldOf shape 18 6) ∨
      inArea (p % 2 ^ 22) (fieldOf shape 0 9 * tilePitch (fieldOf shape 9 9) (fieldOf shape 18 6)) = true ∨
      (pteFmt e ≠ 0 ∧ pteFmt e ≠ fieldOf shape 18 6) ∨ pteGeo e ≠ 0) := by
    rintro (beyond | area | ⟨own, other⟩ | geo)
    · omega
    · exact Bool.false_ne_true (harea.symm.trans area)
    · exact hfmt.elim own other
    · exact geo hgeo
  rw [if_neg (by decide), if_neg (not_not.2 h64), if_neg place, if_neg (by decide), hc]
  exact if_neg fits

/-! ### Parked requests meanwhile -/

/-- The requests that a home's fault queue holds. -/
def HomeSt.parked (x : HomeSt) : List Pkt := x.faults.filterMap fun e => match e.item with | .request p => some p | _ => none

theorem SMap.mem_parked_get (m : SMap HomeSt) (k : Nat) {p : Pkt} (h : p ∈ (m.get {} k).parked) :
    p ∈ m.flatMap fun x => x.2.parked := by
  induction m with
  | nil => cases h
  | cons x r ih =>
    rw [List.flatMap_cons, List.mem_append]
    unfold SMap.get at h
    split at h
    · exact .inl h
    · exact .inr (ih h)

theorem SMap.mem_parked_put (m : SMap HomeSt) (k : Nat) {y : HomeSt} (h : y.parked = (m.get {} k).parked) (p : Pkt) :
    p ∈ (m.put k y).flatMap (fun x => x.2.parked) ↔ p ∈ m.flatMap fun x => x.2.parked := by
  have parked : p ∈ y.parked → p ∈ m.flatMap fun x => x.2.parked := fun hp => SMap.mem_parked_get m k (h ▸ hp)
  induction m with
  | nil => simpa [SMap.put] using parked
  | cons x r ih =>
    unfold SMap.put
    split
    · next same =>
      rw [SMap.get, if_pos same] at h
      rw [List.flatMap_cons, List.flatMap_cons, h]
    · next other =>
      split
      · rw [List.flatMap_cons, List.mem_append]
        exact ⟨fun hp => hp.elim parked id, .inr⟩
      · rw [SMap.get, if_neg other] at h
        rw [List.flatMap_cons, List.flatMap_cons, List.mem_append, List.mem_append]
        exact or_congr Iff.rfl (ih h fun hp => SMap.mem_parked_get r k (h ▸ hp))

/-- The fault queues hold the same requests. -/
def SameParked (s t : State) : Prop := ∀ p, p ∈ t.parkedPkts ↔ p ∈ s.parkedPkts

theorem SameParked.refl (s : State) : SameParked s s := fun _ => Iff.rfl

theorem SameParked.trans {s t u : State} (hst : SameParked s t) (htu : SameParked t u) : SameParked s u :=
  fun p => (htu p).trans (hst p)

theorem SameParked.foldl {α : Type} {f : State → α → State} (h : ∀ t x, SameParked t (f t x)) (s : State) (xs : List α) :
    SameParked s (xs.foldl f s) := by
  induction xs generalizing s with
  | nil => exact .refl s
  | cons x xs ih => exact (h s x).trans (ih _)

theorem State.updHome_sameParked (s : State) (h : Home) (f : HomeSt → HomeSt) (hf : ∀ x, (f x).faults = x.faults) :
    SameParked s (s.updHome h f) :=
  SMap.mem_parked_put s.homes (homeKey h) (by rw [HomeSt.parked, hf]; rfl)

theorem State.poke_sameParked (s : State) (a : Nat) (b : List Byte) : SameParked s (s.poke a b) := .refl s

theorem State.copyBytes_sameParked (s : State) (a b n : Nat) : SameParked s (s.copyBytes a b n) := .refl s

theorem State.dropSector_sameParked (s : State) (h : Home) (k : Nat) : SameParked s (s.dropSector h k) := by
  unfold State.dropSector
  split
  · dsimp only
    split
    · exact ((s.copyBytes_sameParked _ _ _).trans (State.poke_sameParked _ _ _)).trans (State.updHome_sameParked _ _ _ fun _ => rfl)
    · exact (State.poke_sameParked _ _ _).trans (State.updHome_sameParked _ _ _ fun _ => rfl)
  · exact .refl s

theorem State.fillSector_sameParked (s : State) (h : Home) (pg : Nat × Nat) (k : Nat) : SameParked s (s.fillSector h pg k) := by
  unfold State.fillSector
  split
  · split
    · exact .refl s
    · exact State.updHome_sameParked _ _ _ fun _ => rfl
  · exact (s.copyBytes_sameParked _ _ _).trans (State.updHome_sameParked _ _ _ fun _ => rfl)

theorem State.ageSectors_sameParked (s : State) (h : Home) : SameParked s (s.ageSectors h) := by
  unfold State.ageSectors
  refine .foldl (fun t e => ?_) s _
  split
  · exact t.dropSector_sameParked h _
  · exact .refl t

theorem State.cachePage_sameParked (s : State) (h : Home) (pg : Nat × Nat) (va : Word) (p n : Nat) :
    SameParked s (s.cachePage h pg va p n) := by
  unfold State.cachePage
  exact .foldl (fun t k => (t.ageSectors_sameParked _).trans (State.fillSector_sameParked _ _ _ _)) s _

theorem State.tlbLoad_sameParked (s : State) (h : Home) (base size : Nat) (e : Word) (a : Nat) :
    SameParked s (s.tlbLoad h base size e a) := by
  unfold State.tlbLoad
  exact (s.poke_sameParked _ _).trans (State.updHome_sameParked _ _ _ fun _ => rfl)

theorem State.leaf_sameParked (s : State) (h : Home) (va : Word) : SameParked s (s.leaf h va).1 := by
  unfold State.leaf
  split
  · exact .refl s
  · split
    · exact s.tlbLoad_sameParked _ _ _ _ _
    · exact .refl s

/-- The check of an access takes no request out of a fault queue and puts none there. -/
theorem State.check_sameParked (s : State) (r : Req) : SameParked s (s.check r).1 := by
  have walked : ∀ t w, s.leaf r.home r.va = (t, w) → SameParked s t := fun t w e => by
    have same := s.leaf_sameParked r.home r.va
    rwa [e] at same
  unfold State.check
  dsimp only
  split
  · exact .refl s
  · split
    · split <;> exact .refl s
    · split
      · exact .refl s
      · split
        · exact walked _ _ ‹_›
        · exact walked _ _ ‹_›
        · split
          · exact walked _ _ ‹_›
          · split
            · exact walked _ _ ‹_›
            · split
              · exact walked _ _ ‹_›
              · split
                · exact (walked _ _ ‹_›).trans (State.cachePage_sameParked _ _ _ _ _ _)
                · exact walked _ _ ‹_›

/-- The thread's registers and what is on its way to them are as before the check. -/
theorem settled_check {s s1 : State} {r : Req} {x : HRes} (h : s.check r = (s1, x)) (d : Reg) : settled s1 d = settled s d := by
  have side := MemorySide.of_check h
  have parked := s.check_sameParked r
  rw [h] at parked
  have me : s1.me = s.me := by rw [State.me, State.me, side.1]
  have frame (k : Nat) : s1.frame k = s.frame k := by rw [State.frame, State.frame, side.frames]
  cases d with
  | g n =>
    have owed : s1.owed s.me n = s.owed s.me n := by
      simp only [State.owed, List.any_append, side.net, frame]
      refine congrArg (_ || ·) (Bool.eq_iff_iff.2 ?_)
      simp only [List.any_eq_true, parked _]
    rw [settled, settled, State.my, State.my, me, frame, owed]
  | z => rfl
  | port p => rfl

/-- A result that no port takes leaves the cores as they were. -/
theorem core_takes {s t : State} {d : Reg} {v : Word} (hd : d.np) (h : takes s d v = some t) (l : Loc) : t.core l = s.core l := by
  cases d with
  | z => cases h; rfl
  | g n =>
    unfold takes at h
    dsimp only at h
    split at h
    · cases h
      rfl
    · cases h
  | port p => cases hd

/-- R41, R215: once the instruction has retired, its destination is full and holds the result. -/
theorem my_retired_takes {s t : State} {m : Fin 16} {v : Word} (hl : s.my.late = []) (h : takes s (.g m) v = some t) :
    (retired t).my.g[m] = v ∧ (retired t).my.full.getLsbD m := by
  unfold takes at h
  dsimp only at h
  split at h
  · have e := Option.some.inj h
    have late : t.my.late = [] := by
      rw [← e, State.my_updMy]
      exact hl
    obtain ⟨g, full, -, -⟩ := retired_sameRegs late
    rw [g, full, ← e, State.my_updMy]
    simp
  · cases h

theorem tileAlloc_result {a b d : Reg} {s s1 : State} {v shape : Word} {p pb z : Nat} {e : Word} (h : Alone s) (ha : s.my.anch)
    (hnp : d.np) (hlate : s.my.late = [])
    (hv : gives s a = some (v, s)) (hb : gives s b = some (shape, s)) (hs : shapeOk shape) (h64 : v.toNat % 64 = 0)
    (hbad : vaBad v = false) (hls : spaceOf v = .ls) (hown : lsOwner v = s.cur.loc) (hwin : windowAt v = none)
    (hd : settled s d) (hc : s.check { s.myReq (.core s.cur.loc) v 1 false with locks := false } = (s1, .ok p e pb z))
    (hpage : v.toNat + shape.toNat % 2 ^ 9 * tilePitch (shape.toNat / 2 ^ 9 % 2 ^ 9) (shape.toNat / 2 ^ 18 % 2 ^ 6) ≤ pb + z)
    (harea : inArea (p % 2 ^ 22)
      (shape.toNat % 2 ^ 9 * tilePitch (shape.toNat / 2 ^ 9 % 2 ^ 9) (shape.toNat / 2 ^ 18 % 2 ^ 6)) = false)
    (hfmt : pteFmt e = 0 ∨ pteFmt e = shape.toNat / 2 ^ 18 % 2 ^ 6) (hgeo : pteGeo e = 0) :
    ((s1.core s.cur.loc).freeSlot = none → ∀ t, takes s1 d (BitVec.allOnes 64) = some t →
        exec (.tileAlloc d a b) s = .next (retired t)) ∧
      (∀ n, (s1.core s.cur.loc).freeSlot = some n → ∃ t, exec (.tileAlloc d a b) s = .next t ∧
        t.note = .retired ∧ ((t.core s.cur.loc).tile n).state = 2 ∧
        ((t.core s.cur.loc).tile n).gen = ((s1.core s.cur.loc).tile n).gen ∧
        ((t.core s.cur.loc).tile n).base.toNat = p % 2 ^ 22 ∧
        ((t.core s.cur.loc).tile n).rows.toNat = shape.toNat % 2 ^ 9 ∧
        ((t.core s.cur.loc).tile n).cols.toNat = shape.toNat / 2 ^ 9 % 2 ^ 9 ∧
        ((t.core s.cur.loc).tile n).fmt.toNat = shape.toNat / 2 ^ 18 % 2 ^ 6 ∧
        (∀ m, d = .g m → t.my.g[m].toNat = n + ((s1.core s.cur.loc).tile n).gen.toNat * 2 ^ 6 ∧ t.my.full.getLsbD m) ∧
        (∀ m : Fin 16, d = .g m → t.handle s.cur.loc t.my.g[m] = some n)) := by
  have low : fieldOf shape 0 9 = shape.toNat % 2 ^ 9 := by rw [fieldOf, bitsOf, pow_zero, Nat.div_one]
  have run := exec_tileAlloc h ha hv hb hs h64 hbad hls hown hwin hd hc (by rw [low]; exact hpage) (by rw [low]; exact harea)
    hfmt hgeo
  have side := MemorySide.of_check hc
  have cur : s1.cur = s.cur := by rw [side.1]
  have fan : s1.cur.fan = [] := by rw [cur, h.2]
  rw [← cur]
  refine ⟨fun full t ht => ?_, fun n hn => ?_⟩
  · rw [State.allocate_none fan full ht] at run
    exact run
  · have below : n < 64 := List.mem_range.1 (List.mem_of_find?_eq_some hn)
    have ready : settled (s1.placeTile n p shape) d := (settled_check hc d).trans hd
    obtain ⟨t, ht⟩ : ∃ t, takes (s1.placeTile n p shape) d
        (BitVec.ofNat 64 (n + ((s1.core s1.cur.loc).tile n).gen.toNat * 64)) = some t := by
      cases d with
      | z => exact ⟨_, rfl⟩
      | g m => exact ⟨_, if_pos ready⟩
      | port q => cases hnp
    rw [State.allocate_some fan hn ht] at run
    have late : (s1.placeTile n p shape).my.late = [] := by
      change (s1.frame s1.me).late = []
      rw [State.me, cur, State.frame, side.frames]
      exact hlate
    have tile := s1.tile_placeTile n p shape
    rw [← core_takes hnp ht] at tile
    have value (m : Fin 16) (hm : d = .g m) := my_retired_takes late (hm ▸ ht)
    have gen := ((s1.core s1.cur.loc).tile n).gen.isLt
    have run : exec (.tileAlloc d a b) s = .next (retired t) := run
    refine ⟨_, run, rfl, ?_, ?_, ?_, ?_, ?_, ?_, fun m hm => ?_, fun m hm => ?_⟩
    · rw [core_retired, tile]
    · rw [core_retired, tile]
    · rw [core_retired, tile, BitVec.toNat_ofNat, Nat.mod_mod]
    · rw [core_retired, tile, BitVec.toNat_ofNat, low, Nat.mod_mod]
    · rw [core_retired, tile, BitVec.toNat_ofNat]
      exact Nat.mod_mod _ _
    · rw [core_retired, tile, BitVec.toNat_ofNat]
      exact Nat.mod_mod _ _
    · obtain ⟨word, full⟩ := value m hm
      rw [word, BitVec.toNat_ofNat]
      exact ⟨by omega, full⟩
    · rw [(value m hm).1]
      exact State.handle_named below (by rw [core_retired, tile]; exact (by decide : (2 : BitVec 2) ≠ 0)) (by rw [core_retired, tile])

/-- Settles O24, instruction by instruction. -/
theorem tileResults : Obligations.TileResults := by
  intro a d s v h ha hd hanch hlate hv
  refine ⟨staleHandle_result h hanch hv d, fun n e hn he => ?_, fun user => ?_,
    fun b shape s1 p e pb z _ hb hs h64 hbad hls hown hwin hset hc hpage harea hfmt hgeo =>
      tileAlloc_result h hanch hd hlate hv hb hs h64 hbad hls hown hwin hset hc hpage harea hfmt hgeo⟩
  · subst he
    refine ⟨fun t ht => exec_tileState h hanch hv hn ht, fun idle => ?_, fun busy off => ?_, exec_tileFreef h hanch hv hn⟩
    · refine ⟨exec_tileFree_idle h hanch hv hn idle, State.handle_freeTile hn, ?_, ?_⟩
      · obtain ⟨t, woken, run⟩ := exec_tileMark_idle h hanch hv hn idle 1
        exact ⟨_, run, rfl, by rw [core_retired, woken.tile, State.markTile, State.tile_updTile]; rfl⟩
      · obtain ⟨t, woken, run⟩ := exec_tileMark_idle h hanch hv hn idle 2
        exact ⟨_, run, rfl, by rw [core_retired, woken.tile, State.markTile, State.tile_updTile]; rfl⟩
    · exact ⟨exec_tileFree_busy h hanch hv hn busy off, exec_tileMark_busy h hanch hv hn busy off 2⟩
  · change execTileFreef a s = _
    refine issue_trap h.1 ?_
    rw [anchored, if_pos hanch, supervisor, if_neg (by simp [user])]

end Sys2Proof.Machine
end

section
/-! PROOFS. The Flock instructions (R142, R144, R145, R278; O22). -/

namespace Sys2Proof.Machine

open Sys2Proof Sys2Proof.Claims

/-! ### Groups (R144) -/

theorem FGroup.member_leave (g : FGroup) (uid : Nat) : (g.leave uid).member uid = none := by
  rw [FGroup.member, Option.map_eq_none_iff, List.find?_eq_none]
  intro e he
  have kept := (List.mem_filter.1 (List.mem_reverse.1 he)).2
  simpa using kept

theorem getLsbD_foldl_clear (es : List (Nat × Nat)) (m : Word) {k : Nat} (hk : k < 64) :
    (es.foldl (fun m e => m &&& ~~~(BitVec.twoPow 64 e.2)) m).getLsbD k = (m.getLsbD k && !es.any fun e => e.2 == k) := by
  induction es generalizing m with
  | nil => simp
  | cons e es ih =>
    rw [List.foldl_cons, ih, List.any_cons, BitVec.getLsbD_and, BitVec.getLsbD_not, BitVec.getLsbD_twoPow]
    by_cases same : e.2 = k
    · simp [hk, same]
    · simp [hk, same, beq_false_of_ne same]

/-- R144: leaving takes the thread's numbers, and no other, out of the mask. -/
theorem FGroup.mask_leave (g : FGroup) (uid : Nat) {k : Nat} (hk : k < 64) :
    (g.leave uid).mask.getLsbD k = (g.mask.getLsbD k && !g.enrolled.contains (uid, k)) := by
  refine (getLsbD_foldl_clear _ _ hk).trans ?_
  refine congrArg (fun b => g.mask.getLsbD k && !b) ?_
  rw [List.any_filter, List.contains_eq_any_beq]
  refine congrArg (List.any g.enrolled) (funext fun e => ?_)
  change (e.1 == uid && e.2 == k) = (uid == e.1 && k == e.2)
  rw [BEq.comm (a := uid), BEq.comm (a := k)]

section
variable {grp : BitVec 4} {a b : Reg} {s : State} {x y : Word} (h : Alone s) (hanch : s.my.anch)

/-- R144: the causes for which `flk.join` is refused. -/
def joinRefused (g : FGroup) (mask k : Word) : Prop :=
  64 ≤ k.toNat ∨ (!bitOf mask k.toNat) = true ∨ g.mask ≠ mask ∨ (g.enrolled.any fun e => e.2 == k.toNat) = true

/-- The group that `flk.join` finds, or a new one. -/
def State.groupFor (s : State) (grp : BitVec 4) (mask : Word) : FGroup :=
  (s.fgroup grp.toNat).getD { launch := s.my.launch, lmod := s.my.lmod, die := Loc.dieId s.cur.loc, grp := grp.toNat, mask := mask }

include h hanch

theorem exec_flkJoin_refused (ha : gives s a = some (x, s)) (hb : gives s b = some (y, s))
    (hr : joinRefused (s.groupFor grp x) x y) : exec (.flkJoin grp a b) s = .next (trapped s .flock 0) := by
  change execFlkJoin grp a b s = _
  refine issue_trap h.1 ?_
  rw [anchored, if_pos hanch, src_gives ha, src_gives hb]
  exact if_pos hr

theorem exec_flkJoin_taken (ha : gives s a = some (x, s)) (hb : gives s b = some (y, s))
    (hr : ¬joinRefused (s.groupFor grp x) x y) : exec (.flkJoin grp a b) s = .next (retired (s.putGroup
      { s.groupFor grp x with enrolled := (s.groupFor grp x).enrolled ++ [(s.my.uid, y.toNat)] })) := by
  change execFlkJoin grp a b s = _
  refine issue_done h.1 ?_
  rw [anchored, if_pos hanch, src_gives ha, src_gives hb]
  exact if_neg hr

theorem exec_flkLeave_member {g : FGroup} (hg : s.fgroup grp.toNat = some g) (hm : (g.member s.my.uid).isSome) :
    exec (.flkLeave grp) s = .next (retired (s.putGroup (g.leave s.my.uid))) := by
  change execFlkLeave grp s = _
  refine issue_done h.1 ?_
  rw [anchored, if_pos hanch, hg]
  exact if_pos hm

theorem exec_flkLeave_other (hg : ∀ g, s.fgroup grp.toNat = some g → g.member s.my.uid = none) :
    exec (.flkLeave grp) s = .next (trapped s .flock 0) := by
  change execFlkLeave grp s = _
  refine issue_trap h.1 ?_
  rw [anchored, if_pos hanch]
  split
  · next g hs => exact if_neg (by simp [hg g hs])
  · rfl

theorem exec_flkTimer_member {g : FGroup} (ha : gives s a = some (x, s)) (hg : s.fgroup grp.toNat = some g)
    (hm : (g.member s.my.uid).isSome) (hlo : 1 ≤ x.toNat) (hhi : x.toNat ≤ 256) :
    exec (.flkTimer grp a) s = .next (retired (s.putGroup { g with timer := x.toNat })) := by
  change execFlkTimer grp a s = _
  refine issue_done h.1 ?_
  rw [anchored, if_pos hanch, src_gives ha, hg]
  exact if_pos ⟨hm, hlo, hhi⟩

theorem exec_flkTimer_refused (ha : gives s a = some (x, s))
    (hr : ∀ g, s.fgroup grp.toNat = some g → g.member s.my.uid = none ∨ x.toNat = 0 ∨ 256 < x.toNat) :
    exec (.flkTimer grp a) s = .next (trapped s .flock 0) := by
  change execFlkTimer grp a s = _
  refine issue_trap h.1 ?_
  rw [anchored, if_pos hanch, src_gives ha]
  split
  · next g hs =>
    refine if_neg ?_
    rintro ⟨member, lo, hi⟩
    rcases hr g hs with other | zero | large
    · simp [other] at member
    · omega
    · omega
  · rfl
end

theorem flockGroups : FlockGroups := by
  intro grp a b s x y h _ _ hanch ha hb
  have groupFor_none (hn : s.fgroup grp.toNat = none) : s.groupFor grp x =
      { launch := s.my.launch, lmod := s.my.lmod, die := Loc.dieId s.cur.loc, grp := grp.toNat, mask := x } := by
    rw [State.groupFor, hn]
    rfl
  have groupFor_some {g : FGroup} (hg : s.fgroup grp.toNat = some g) : s.groupFor grp x = g := by
    rw [State.groupFor, hg]
    rfl
  refine ⟨fun hn out => ?_, fun hn hy bit => ?_, fun g hg => ⟨fun hy bit mask free => ?_, fun bad => ?_, fun member => ⟨?_, ?_, ?_, ?_, ?_⟩,
    fun other => ⟨?_, ?_⟩⟩, fun hn => ⟨?_, ?_⟩⟩
  · refine exec_flkJoin_refused h hanch ha hb ?_
    exact out.imp_right fun off => .inl (by simpa [bitOf] using off)
  · have run := exec_flkJoin_taken (grp := grp) h hanch ha hb (by
      rw [groupFor_none hn]
      simp [joinRefused, bitOf, hy, bit])
    rw [groupFor_none hn] at run
    exact run
  · have run := exec_flkJoin_taken (grp := grp) h hanch ha hb (by
      rw [groupFor_some hg]
      simp [joinRefused, bitOf, hy, bit, mask, free])
    rw [groupFor_some hg] at run
    exact run
  · refine exec_flkJoin_refused h hanch ha hb ?_
    rw [groupFor_some hg]
    rcases bad with mask | far | off | taken
    · exact .inr (.inr (.inl mask))
    · exact .inl far
    · exact .inr (.inl (by simp [bitOf, off]))
    · exact .inr (.inr (.inr taken))
  · exact exec_flkLeave_member h hanch hg member
  · exact g.member_leave _
  · exact fun k hk => g.mask_leave _ hk
  · exact exec_flkTimer_member h hanch ha hg member
  · exact fun bad => exec_flkTimer_refused h hanch ha fun _ _ => .inr bad
  · exact exec_flkLeave_other h hanch fun g' hg' => Option.some.inj (hg.symm.trans hg') ▸ other
  · exact exec_flkTimer_refused h hanch ha fun g' hg' => .inl (Option.some.inj (hg.symm.trans hg') ▸ other)
  · exact exec_flkLeave_other h hanch fun g' hg' => nomatch hn.symm.trans hg'
  · exact exec_flkTimer_refused h hanch ha fun g' hg' => nomatch hn.symm.trans hg'

/-! ### Group loads (R142, R145) -/

theorem onesIn_eq_countP (n x : Nat) : onesIn n x = (List.range n).countP fun i => x.testBit i := by
  induction n generalizing x with
  | zero => rfl
  | succ n ih =>
    rw [onesIn, ih, List.range_succ_eq_map, List.countP_cons, List.countP_map, Nat.add_comm]
    refine congrArg₂ (· + ·) (List.countP_congr fun i _ => ?_) ?_
    · simp [Nat.testBit_succ]
    · rw [Nat.testBit_zero]
      rcases Nat.mod_two_eq_zero_or_one x with e | e <;> simp [e]

/-- A tile that a group's request fills, and the lock of its bytes (R142). -/
def State.askGroup (s : State) (k : Nat) (kind : PKind) (h : Home) (va : Word) : State :=
  let s1 := (s.updTile s.cur.loc k fun t => { t with state := 1, marked := false })
  let s2 := s1.send { s1.mkPkt kind h va with fan := [] }
  { s2 with
    locks := s2.locks ++ [{ cmd := s.nextId, dst := true
                            rng := .bank s.cur.loc ((s.core s.cur.loc).tile k).base.toNat ((s.core s.cur.loc).tile k).bytes
                            homes := [.core s.cur.loc]
                            bank := [(bankKey s.cur.loc ((s.core s.cur.loc).tile k).base.toNat,
                              ((s.core s.cur.loc).tile k).bytes)] }] }

/-- R145: what a group load does once its tile, its group and its home are known. -/
def State.loadGroup (s : State) (grp : BitVec 4) (k m : Nat) (g : FGroup) (h : Home) (va len : Word) : Eff :=
  if len = 0 ∨ 65536 < len.toNat ∨ (s.pageOf h va).1 + (s.pageOf h va).2 < va.toNat + len.toNat ∨
    ((s.core s.cur.loc).tile k).bytes < len.toNat then .trap .flock va 0
  else if va.toNat % 256 ≠ 0 ∨ len.toNat % 256 ≠ 0 then .trap .misaligned va 0
  else if ((s.core s.cur.loc).tile k).state ≠ 2 then tileWait s k
  else if s.acqHeld h va ∨ lockRoom ≤ s.bankLocks s.cur.loc then .wait
  else .done (s.askGroup k (.flock grp.toNat m (onesIn 64 g.mask.toNat) len.toNat k ((s.core s.cur.loc).tile k).gen.toNat
    (Loc.dieId s.cur.loc)) h va) .seq

section
variable {grp : BitVec 4} {a : Reg} {n : Fin 16} {s : State} {va len hd : Word} (h : Alone s) (hanch : s.my.anch)
  (ha : gives s a = some (va, s)) (hl : gives s (.g n) = some (len, s)) (ht : gives s (.g (n + 1)) = some (hd, s))
include h hanch ha hl ht

theorem exec_flkLd_stale (hs : s.handle s.cur.loc hd = none) :
    exec (.flkLd grp a (.g n)) s = .next (trapped s .tileStale 0) := by
  change execFlkLd grp a (.g n) s = _
  refine issue_trap h.1 ?_
  rw [anchored, if_pos hanch]
  dsimp only
  rw [src_gives ha, src_gives hl, src_gives ht, hs]

variable {k : Nat} (hk : s.handle s.cur.loc hd = some k)
include hk

/-- R145: the causes of a group load that need no home. -/
theorem exec_flkLd_flock (hr : s.fgroup grp.toNat = none ∨ (∃ g, s.fgroup grp.toNat = some g ∧ g.member s.my.uid = none) ∨
    (spaceOf va ≠ .dm ∧ spaceOf va ≠ .spread)) : exec (.flkLd grp a (.g n)) s = .next (trapped s .flock va) := by
  change execFlkLd grp a (.g n) s = _
  refine issue_trap h.1 ?_
  rw [anchored, if_pos hanch]
  dsimp only
  rw [src_gives ha, src_gives hl, src_gives ht, hk]
  dsimp only
  split
  · rfl
  · next g hg =>
    split
    · rfl
    · next m hm =>
      rcases hr with none' | ⟨g', hg', hm'⟩ | space
      · cases none'.symm.trans hg
      · cases hg'.symm.trans hg
        cases hm'.symm.trans hm
      · exact if_pos space

theorem exec_flkLd {g : FGroup} {m : Nat} {x : Home} (hg : s.fgroup grp.toNat = some g) (hm : g.member s.my.uid = some m)
    (hs : spaceOf va = .dm ∨ spaceOf va = .spread) (hbad : vaBad va = false)
    (hx : s.homeAt s.cur.loc s.my.launch s.my.lmod va = .home x) :
    exec (.flkLd grp a (.g n)) s = .next ((s.loadGroup grp k m g x va len).finish s) := by
  change execFlkLd grp a (.g n) s = _
  rw [execFlkLd, issue_alone h.1]
  refine congrArg (fun r : Eff => Host.Outcome.next (r.finish s)) ?_
  have space : ¬(spaceOf va ≠ .dm ∧ spaceOf va ≠ .spread) := fun out => hs.elim out.1 out.2
  rw [anchored, if_pos hanch]
  dsimp only
  rw [src_gives ha, src_gives hl, src_gives ht, hk]
  dsimp only
  rw [hg]
  dsimp only
  rw [hm]
  dsimp only
  rw [if_neg space, hbad, if_neg Bool.false_ne_true, hx]
  rfl
end

theorem flockLoad : FlockLoad := by
  intro grp a n s va len hd h _ hanch ha hl ht
  refine ⟨exec_flkLd_stale h hanch ha hl ht, fun k hk => exec_flkLd_flock h hanch ha hl ht hk,
    fun k g m x hk hg hm hs hbad hx => ?_, fun k g m x hk hg hm hs hbad hx hlo hhi hpage hbytes h256 hlen hstate hacq hroom => ?_⟩
  · have run := exec_flkLd h hanch ha hl ht hk hg hm hs hbad hx
    refine ⟨fun out => ?_, fun hlo hhi hpage hbytes odd => ?_⟩
    · rw [run, State.loadGroup, if_pos out]
      rfl
    · rw [run, State.loadGroup, if_neg (by simp only [not_or, not_lt]; exact ⟨hlo, hhi, hpage, hbytes⟩), if_pos odd]
      rfl
  · have run := exec_flkLd h hanch ha hl ht hk hg hm hs hbad hx
    have some' : len ≠ 0 := fun e => by simp [e] at hlo
    rw [State.loadGroup, if_neg (by simp only [not_or, not_lt]; exact ⟨some', hhi, hpage, hbytes⟩), if_neg (by simp [h256, hlen]),
      if_neg (not_not.2 hstate), if_neg (by simp only [not_or, not_le, hacq]; exact ⟨Bool.false_ne_true, hroom⟩)] at run
    refine ⟨_, run, rfl, ?_, ⟨_, rfl, rfl, rfl, rfl, rfl⟩, _, rfl, rfl, rfl, rfl, rfl, rfl, ?_⟩
    · change (((s.updTile s.cur.loc k fun t => { t with state := 1, marked := false }).core s.cur.loc).tile k).state = 1
      rw [State.tile_updTile]
    · exact congrArg (fun c => PKind.flock grp.toNat m c len.toNat k ((s.core s.cur.loc).tile k).gen.toNat (Loc.dieId s.cur.loc))
        (onesIn_eq_countP 64 g.mask.toNat)

/-- Settles O22, part by part. -/
theorem flockInstructions : Obligations.FlockInstructions := ⟨flockGroups, flockLoad⟩

end Sys2Proof.Machine
end

section
/-! PROOFS. The frame of the plain loads and stores (R124, R254, R256; O13). -/

namespace Sys2Proof.Machine

open Sys2Proof Sys2Proof.Claims

/-! ### Instructions that retire by their body's end alone -/

/-- If the meaning completes, it does so in the ordinary way and in a state of which P holds. -/
def Eff.Ends (P : State → Prop) : Eff → Prop
  | .done t _ => P t
  | .keep _ _ _ => False
  | .branch _ _ _ => False
  | .gone _ => False
  | .after _ _ => False
  | _ => True

theorem Eff.Ends.retires {P : State → Prop} {e : Eff} {s : State} (h : e.Ends P) (hn : (e.finish s).note = .retired) :
    ∃ t nx, P t ∧ e.finish s = { t.retire nx false false with note := .retired } := by
  cases e with
  | done t nx => exact ⟨t, nx, h, rfl⟩
  | hold t =>
    unfold Eff.finish at hn
    dsimp only at hn
    split at hn <;> cases hn
  | wait => cases hn
  | waitFor w => cases hn
  | trap c va n => cases hn
  | trapOn t c va => cases hn
  | keep t a b => exact h.elim
  | branch t taken pc => exact h.elim
  | gone t => exact h.elim
  | after t post => exact h.elim

theorem src_ends {P : State → Prop} {s : State} {r : Reg} {t : Bool} {k : Word → State → Eff} (hr : r.np)
    (hk : ∀ v, (k v s).Ends P) : (src s r t k).Ends P := by
  cases r with
  | z => exact hk 0
  | g n =>
    unfold src
    dsimp only
    split
    · split
      · trivial
      · exact hk _
    · split <;> trivial
  | port p => cases hr

theorem route_ends {P : State → Prop} {s : State} {va : Word} {size : Nat} {how : How} {plain : Bool} {k : Home → Eff}
    (hk : ∀ h, s.homeAt s.cur.loc s.my.launch s.my.lmod va = .home h → (k h).Ends P) : (route s va size how plain k).Ends P := by
  have go (h : Home) (e : s.homeAt s.cur.loc s.my.launch s.my.lmod va = .home h) :
      (if s.acqHeld h va then .wait else k h : Eff).Ends P := by
    split
    · trivial
    · exact hk h e
  unfold Machine.route
  split
  · trivial
  · split
    · trivial
    · split
      · trivial
      · split
        · trivial
        · trivial
        · next h e =>
          dsimp only
          split
          · exact go h e
          · split
            · split
              · exact go h e
              · trivial
            · split
              · trivial
              · exact go h e

theorem drained_ends {P : State → Prop} {s : State} {k : State → Eff} (hk : (k s).Ends P) : (drained s k).Ends P := by
  unfold Machine.drained
  split
  · trivial
  · exact hk

theorem checkOwn_ends {P : State → Prop} {s : State} {va : Word} {size : Nat} {write : Bool} {k : State → Nat → Word → Eff}
    (hk : ∀ s1 p e b z, s.check (s.myReq (.core s.cur.loc) va size write) = (s1, .ok p e b z) → (k s1 p e).Ends P) :
    (checkOwn s va size write k).Ends P := by
  unfold checkOwn
  dsimp only
  split
  · next found => exact hk _ _ _ _ _ found
  all_goals trivial

theorem queueStore_ends {P : State → Prop} {s : State} {e : SEntry} {k : State → Eff} (hk : (k (s.buffer e)).Ends P) :
    (queueStore s e k).Ends P := by
  unfold queueStore
  split
  · exact hk
  all_goals trivial

/-! ### What a load or a store leaves unchanged when it issues -/

/-- The special registers of a core (R236-R244). -/
def Core.special (c : Core) : Word × Word × Word × Word × Word × BitVec 8 :=
  (c.trapcause, c.trapva, c.trappc, c.ctxbase, c.evtmask, c.sel)

/-- Two frames agree on a general register. -/
def SameReg (f g : Frame) (m : Fin 16) : Prop :=
  g.g[m] = f.g[m] ∧ g.full.getLsbD m = f.full.getLsbD m ∧ g.poisoned.getLsbD m = f.poisoned.getLsbD m

theorem SameRegs.reg {f g : Frame} (h : SameRegs f g) (m : Fin 16) : SameReg f g m := by
  obtain ⟨regs, full, poisoned, -⟩ := h
  rw [SameReg, regs, full, poisoned]
  exact ⟨rfl, rfl, rfl⟩

theorem SameRegs.ite {f a b : Frame} {p : Prop} [Decidable p] (ha : SameRegs f a) (hb : SameRegs f b) :
    SameRegs f (if p then a else b) := by
  split
  · exact ha
  · exact hb

/-- What issuing a load or a store of an address leaves: every byte but those in which a walk sets A and D, the registers
named, and the special registers. -/
structure IssueKeeps (va : Word) (keeps : Fin 16 → Prop) (s t : State) : Prop where
  cur : t.cur = s.cur
  mem : ∀ k, some k ∉ walkBytes s (.core s.cur.loc) va → Memory.get t.mem k = Memory.get s.mem k
  regs : ∀ m, keeps m → SameReg s.my t.my m
  late : t.my.late = s.my.late
  dies : t.dies = s.dies
  mods : t.mods = s.mods
  launches : t.launches = s.launches
  special : ∀ l, (t.core l).special = (s.core l).special

theorem IssueKeeps.refl (va : Word) (keeps : Fin 16 → Prop) (s : State) : IssueKeeps va keeps s s :=
  ⟨rfl, fun _ _ => rfl, fun _ _ => ⟨rfl, rfl, rfl⟩, rfl, rfl, rfl, rfl, fun _ => rfl⟩

/-- A later change of the state that keeps the same things, memory whole. -/
theorem IssueKeeps.step {va : Word} {keeps : Fin 16 → Prop} {s t u : State} (h : IssueKeeps va keeps s t) (cur : u.cur = t.cur)
    (mem : u.mem = t.mem) (regs : ∀ m, keeps m → SameReg t.my u.my m) (late : u.my.late = t.my.late) (dies : u.dies = t.dies)
    (mods : u.mods = t.mods) (launches : u.launches = t.launches) (special : ∀ l, (u.core l).special = (t.core l).special) :
    IssueKeeps va keeps s u where
  cur := cur.trans h.cur
  mem k hk := by rw [mem, h.mem k hk]
  regs m hm := by
    obtain ⟨g1, full1, poisoned1⟩ := h.regs m hm
    obtain ⟨g2, full2, poisoned2⟩ := regs m hm
    exact ⟨g2.trans g1, full2.trans full1, poisoned2.trans poisoned1⟩
  late := late.trans h.late
  dies := dies.trans h.dies
  mods := mods.trans h.mods
  launches := launches.trans h.launches
  special l := (special l).trans (h.special l)

section
variable {va : Word} {keeps : Fin 16 → Prop} {s t : State} (h : IssueKeeps va keeps s t)
include h

theorem IssueKeeps.send (p : Pkt) : IssueKeeps va keeps s (t.send p) :=
  h.step rfl rfl (fun _ _ => ⟨rfl, rfl, rfl⟩) rfl rfl rfl rfl fun _ => rfl

theorem IssueKeeps.reply (d : Option (Fin 16)) (v : Word) (bad : Bool) (acq : Option Scope) :
    IssueKeeps va keeps s (t.reply d v bad acq) := by
  cases d with
  | none => exact h
  | some n => exact h.send _

theorem IssueKeeps.updMy (f : Frame → Frame) (regs : ∀ m, keeps m → SameReg t.my (f t.my) m) (late : (f t.my).late = t.my.late) :
    IssueKeeps va keeps s (t.updMy f) :=
  h.step rfl rfl (by rwa [State.my_updMy]) (by rw [State.my_updMy, late]) rfl rfl rfl fun _ => rfl

theorem IssueKeeps.addPath (x : Home) : IssueKeeps va keeps s (t.addPath x) := by
  have same : SameRegs t.my (t.addPath x).my := by
    unfold State.addPath
    rw [State.my_updMy]
    cases x <;> exact .ite (.refl _) (.ite ⟨rfl, rfl, rfl, rfl⟩ (.ite (.refl _) ⟨rfl, rfl, rfl, rfl⟩))
  exact h.step rfl rfl (fun m _ => same.reg m) same.2.2.2 rfl rfl rfl fun _ => rfl

theorem IssueKeeps.addPathAt (x : Home) (a : Word) : IssueKeeps va keeps s (t.addPathAt x a) := by
  unfold State.addPathAt
  split
  · exact h.addPath x
  · exact (h.addPath x).addPath _

theorem IssueKeeps.updCore (l : Loc) (f : Core → Core) (hf : ∀ c, (f c).special = c.special) :
    IssueKeeps va keeps s (t.updCore l f) := by
  refine h.step rfl rfl (fun _ _ => ⟨rfl, rfl, rfl⟩) rfl rfl rfl rfl fun k => ?_
  by_cases same : l = k
  · subst same
    rw [State.core_updCore, hf]
  · rw [State.core_updCore_other _ _ same]

theorem IssueKeeps.count (n : Nat) : IssueKeeps va keeps s { t with nextId := n } :=
  h.step rfl rfl (fun _ _ => ⟨rfl, rfl, rfl⟩) rfl rfl rfl rfl fun _ => rfl

theorem IssueKeeps.enterStore (e : SEntry) : IssueKeeps va keeps s (t.enterStore e) := by
  have entered := h.updCore t.cur.loc (fun c => { c with sb := c.sb ++ [e] }) fun _ => rfl
  exact (entered.count (t.nextId + 1)).addPathAt e.home e.va

theorem IssueKeeps.enterTask (e : SEntry) : IssueKeeps va keeps s (t.enterTask e) := by
  have entered := h.updCore t.cur.loc (fun c => c.updSlot t.cur.slot fun x => { x with tsb := x.tsb ++ [e] }) fun _ => rfl
  exact (entered.count (t.nextId + 1)).addPathAt e.home e.va

theorem IssueKeeps.buffer (e : SEntry) : IssueKeeps va keeps s (t.buffer e) := by
  unfold State.buffer
  split
  · exact h.enterTask e
  · exact h.enterStore e

/-- A load marks its destination empty, and no other register (R256). -/
theorem IssueKeeps.emptyLoad (hf : t.cur.fan = []) (d : Reg) (hd : ∀ m, keeps m → d ≠ .g m) :
    IssueKeeps va keeps s (t.emptyLoad (Reg.num d)) := by
  cases d with
  | z => exact h
  | port p => exact h
  | g n =>
    change IssueKeeps va keeps s (t.emptyDest n)
    rw [State.emptyDest, hf, List.foldl_nil]
    refine h.updMy _ (fun m hm => ⟨rfl, ?_, rfl⟩) rfl
    have other : m ≠ n := fun e => hd m hm (e ▸ rfl)
    simpa [Frame.emptyG] using fun _ e => other (Fin.ext e)
end

/-! ### The check at the thread's own core (R123, R124) -/

/-- Only a walk's own byte changes when an address is translated (R124). -/
theorem State.get_leaf {s : State} (h : Home) (va : Word) (hs : s.memOk) {k : Nat} (hk : walkByte s h va ≠ some k) :
    Memory.get (s.leaf h va).1.mem k = Memory.get s.mem k := by
  unfold State.leaf
  split
  · rfl
  · split
    · next b n e a hw =>
      have far : k ≠ a := by
        rintro rfl
        exact hk (by rw [walkByte, hw])
      exact Memory.get_set_other _ _ hs (Ne.symm far)
    · rfl

/-- In a local store a check writes no cache line: only the walk's byte changes. -/
theorem State.get_check {s : State} (r : Req) (hs : s.memOk) (hls : spaceOf r.va = .ls) {k : Nat}
    (hk : walkByte s r.home r.va ≠ some k) : Memory.get (s.check r).1.mem k = Memory.get s.mem k := by
  have walked : ∀ t w, s.leaf r.home r.va = (t, w) → Memory.get t.mem k = Memory.get s.mem k := fun t w e => by
    have same := State.get_leaf r.home r.va hs hk
    rwa [e] at same
  unfold State.check
  dsimp only
  split
  · rfl
  · split
    · split <;> rfl
    · split
      · rfl
      · split
        · exact walked _ _ ‹_›
        · exact walked _ _ ‹_›
        · split
          · exact walked _ _ ‹_›
          · split
            · exact walked _ _ ‹_›
            · split
              · exact walked _ _ ‹_›
              · split
                · next cached => simp [hls] at cached
                · exact walked _ _ ‹_›

theorem homeAt_core {s : State} {l c m : Nat} {id : W32} {va : Word} (h : s.homeAt l id m va = .home (.core c)) :
    spaceOf va = .ls := by
  unfold State.homeAt at h
  split at h
  · dsimp only at h
    split at h
    · cases h
    · split at h
      · cases h
      · split at h <;> cases h
  · unfold homeOf at h
    split at h
    · assumption
    · cases h
    · cases h

theorem MemorySide.special {s t : State} (h : MemorySide s t) (l : Loc) : (t.core l).special = (s.core l).special := by
  change (t.core l).bare.special = (s.core l).bare.special
  rw [h.2 l]

theorem IssueKeeps.check {va : Word} {keeps : Fin 16 → Prop} {s s1 : State} {r : Req} {x : HRes} (hs : s.memOk)
    (hr : r.home = .core s.cur.loc) (hv : r.va = va) (hls : spaceOf va = .ls) (hc : s.check r = (s1, x)) :
    IssueKeeps va keeps s s1 := by
  have side := MemorySide.of_check hc
  have my : s1.my = s.my := by rw [State.my, State.my, State.me, State.me, side.1]; rfl
  refine ⟨by rw [side.1], fun k hk => ?_, fun m _ => ?_, by rw [my], side.dies, side.mods, side.launches, side.special⟩
  · have walk : walkByte s r.home r.va ≠ some k := by
      rw [hr, hv]
      exact fun e => hk (by simp [walkBytes, e])
    have same := State.get_check r hs (hv ▸ hls) walk
    rwa [hc] at same
  · rw [my]
    exact ⟨rfl, rfl, rfl⟩

/-! ### Loads and stores (R256, R259) -/

section
variable {keeps : Fin 16 → Prop} {s : State} {va : Word} (hs : s.memOk) (hw : windowAt va = none)
include hs hw

theorem loadAt_ends (hf : s.cur.fan = []) (size : Nat) (sgn : Bool) (d : Reg) (acq : Option Scope) (hd : ∀ m, keeps m → d ≠ .g m) :
    (loadAt s size sgn d acq va).Ends (IssueKeeps va keeps s) := by
  unfold loadAt
  refine route_ends fun h e => ?_
  split
  · trivial
  · rw [hw]
    dsimp only
    split
    · next own =>
      refine checkOwn_ends fun s1 p e' b z hc => ?_
      have kept : IssueKeeps va keeps s s1 := .check hs rfl rfl (homeAt_core (own ▸ e)) hc
      have emptied := kept.emptyLoad (by rw [kept.cur, hf]) d hd
      split
      · exact emptied.reply _ _ _ _
      · unfold State.partly
        split <;> trivial
      · split
        · exact emptied.reply _ _ _ _
        · exact emptied.send _
    · have emptied := (IssueKeeps.refl va keeps s).emptyLoad hf d hd
      split
      · exact emptied.reply _ _ _ _
      · unfold State.partly
        split <;> trivial
      · exact emptied.send _

theorem storeAt_ends (size : Nat) (v : Word) (rel : Option Scope) : (storeAt s size v rel va).Ends (IssueKeeps va keeps s) := by
  unfold storeAt
  refine route_ends fun h e => ?_
  rw [hw]
  dsimp only
  split
  · next own =>
    refine checkOwn_ends fun s1 p e' b z hc => queueStore_ends ?_
    exact (IssueKeeps.check hs rfl rfl (homeAt_core (own ▸ e)) hc).buffer _
  · exact queueStore_ends ((IssueKeeps.refl va keeps s).buffer _)
end

/-! ### The obligation -/

/-- The displacement in units of the size, as the address takes it (R176). -/
theorem effAddr_eq_address (n : Nat) (x : Word) {w : Nat} (disp : BitVec w) :
    effAddr x (disp.signExtend 64) n = address x n disp.toInt := by
  rw [effAddr, address, wrap, BitVec.ofInt_mul, BitVec.ofInt_natCast]
  rfl

section
variable {a d : Reg} {n : Nat} {disp : Int} {s : State} {x : Word} {P : State → Prop} (hx : gives s a = some (x, s))
include hx

theorem loadOp_ends (size : Nat) (sgn : Bool) (ta : Bool) (off : BitVec 12)
    (h : ∀ acq, (loadAt s size sgn d acq (address x size off.toInt)).Ends P) : (loadOp s size sgn d a ta off).Ends P := by
  rw [loadOp, src_gives hx, effAddr_eq_address]
  exact h _

theorem storeOp_ends (hd : d.np) (size : Nat) (ta : Bool) (off : BitVec 12)
    (h : ∀ v rel, (storeAt s size v rel (address x size off.toInt)).Ends P) : (storeOp s size d a ta off).Ends P := by
  rw [storeOp, src_gives hx]
  refine src_ends hd fun y => ?_
  rw [effAddr_eq_address]
  exact h _ _

/-- An acquiring load's body. -/
theorem ldq_ends (size : Nat) (sc : Scope) (ta : Bool) (off : BitVec 9)
    (h : ∀ acq, (loadAt s size true d acq (address x size off.toInt)).Ends P) :
    (src s a ta fun x s => drained s fun s =>
      loadAt s size true d (some ((popAcq [a]).getD sc)) (effAddr x (off.signExtend 64) size)).Ends P := by
  rw [src_gives hx, effAddr_eq_address]
  exact drained_ends (h _)

/-- A releasing store's body. -/
theorem stl_ends (hd : d.np) (size : Nat) (sc : Scope) (ta : Bool) (off : BitVec 9)
    (h : ∀ v rel, (storeAt s size v rel (address x size off.toInt)).Ends P) :
    (src s a ta fun x s => src s d ta fun y s => drained s fun s =>
      storeAt s size y (some sc) (effAddr x (off.signExtend 64) size)).Ends P := by
  rw [src_gives hx]
  refine src_ends hd fun y => drained_ends ?_
  rw [effAddr_eq_address]
  exact h _ _

variable {i : Instr}

/-- The meaning of a load issues a body that comes down to the load from its address. -/
theorem exec_load {sgn : Bool} {acq : Option Scope} (hi : loads i = some (n, sgn, acq, d, a, disp))
    (h : ∀ acq, (loadAt s n sgn d acq (address x n disp)).Ends P) : ∃ body, exec i s = issue body s ∧ (body s).Ends P := by
  unfold loads at hi
  split at hi
  case h_1 d a ta off => cases hi; exact ⟨fun s => loadOp s 1 true d a ta off, rfl, loadOp_ends hx _ _ _ _ h⟩
  case h_2 d a ta off => cases hi; exact ⟨fun s => loadOp s 1 false d a ta off, rfl, loadOp_ends hx _ _ _ _ h⟩
  case h_3 d a ta off => cases hi; exact ⟨fun s => loadOp s 2 true d a ta off, rfl, loadOp_ends hx _ _ _ _ h⟩
  case h_4 d a ta off => cases hi; exact ⟨fun s => loadOp s 2 false d a ta off, rfl, loadOp_ends hx _ _ _ _ h⟩
  case h_5 d a ta off => cases hi; exact ⟨fun s => loadOp s 4 true d a ta off, rfl, loadOp_ends hx _ _ _ _ h⟩
  case h_6 d a ta off => cases hi; exact ⟨fun s => loadOp s 4 false d a ta off, rfl, loadOp_ends hx _ _ _ _ h⟩
  case h_7 d a ta off => cases hi; exact ⟨fun s => loadOp s 8 false d a ta off, rfl, loadOp_ends hx _ _ _ _ h⟩
  case h_8 sc d a ta off =>
    cases hi
    exact ⟨fun s => src s a ta fun x s => drained s fun s =>
      loadAt s 4 true d (some ((popAcq [a]).getD sc)) (effAddr x (off.signExtend 64) 4), rfl, ldq_ends hx _ _ _ _ h⟩
  case h_9 sc d a ta off =>
    cases hi
    exact ⟨fun s => src s a ta fun x s => drained s fun s =>
      loadAt s 8 true d (some ((popAcq [a]).getD sc)) (effAddr x (off.signExtend 64) 8), rfl, ldq_ends hx _ _ _ _ h⟩
  case h_10 => cases hi

/-- The meaning of a store issues a body that comes down to the store to its address. -/
theorem exec_store {rel : Option Scope} (hwf : i.wf) (hi : stores i = some (n, rel, d, a, disp))
    (h : ∀ v rel, (storeAt s n v rel (address x n disp)).Ends P) : ∃ body, exec i s = issue body s ∧ (body s).Ends P := by
  unfold stores at hi
  split at hi
  case h_1 d a ta off =>
    cases hi
    exact ⟨fun s => storeOp s 1 d a ta off, rfl, storeOp_ends hx (Bool.and_eq_true_iff.1 hwf).1 _ _ _ h⟩
  case h_2 d a ta off =>
    cases hi
    exact ⟨fun s => storeOp s 2 d a ta off, rfl, storeOp_ends hx (Bool.and_eq_true_iff.1 hwf).1 _ _ _ h⟩
  case h_3 d a ta off =>
    cases hi
    exact ⟨fun s => storeOp s 4 d a ta off, rfl, storeOp_ends hx (Bool.and_eq_true_iff.1 hwf).1 _ _ _ h⟩
  case h_4 d a ta off =>
    cases hi
    exact ⟨fun s => storeOp s 8 d a ta off, rfl, storeOp_ends hx (Bool.and_eq_true_iff.1 hwf).1 _ _ _ h⟩
  case h_5 sc d a ta off =>
    cases hi
    exact ⟨fun s => src s a ta fun x s => src s d ta fun y s => drained s fun s =>
      storeAt s 4 y (some sc) (effAddr x (off.signExtend 64) 4), rfl,
      stl_ends hx (Bool.and_eq_true_iff.1 hwf).1 _ _ _ _ h⟩
  case h_6 sc d a ta off =>
    cases hi
    exact ⟨fun s => src s a ta fun x s => src s d ta fun y s => drained s fun s =>
      storeAt s 8 y (some sc) (effAddr x (off.signExtend 64) 8), rfl,
      stl_ends hx (Bool.and_eq_true_iff.1 hwf).1 _ _ _ _ h⟩
  case h_7 => cases hi
end

/-- After an issue that keeps what is named, so does the instruction's end (R356). -/
theorem IssueKeeps.retired {va : Word} {keeps : Fin 16 → Prop} {s t : State} (h : IssueKeeps va keeps s t) (hl : s.my.late = [])
    (nx : Next) : IssueKeeps va keeps s { t.retire nx false false with note := .retired } := by
  have same := State.retire_sameRegs nx false false (h.late.trans hl)
  exact h.step rfl rfl (fun m _ => same.reg m) same.2.2.2 rfl rfl rfl fun _ => rfl

/-- What a load or a store that retires keeps. -/
theorem exec_keeps {i : Instr} {d a : Reg} {x : Word} {n : Nat} {disp : Int} {s t : State} {keeps : Fin 16 → Prop} (hwf : i.wf)
    (halone : Alone s) (hs : s.memOk) (hl : s.my.late = [])
    (hi : ((∃ sgn acq, loads i = some (n, sgn, acq, d, a, disp)) ∧ ∀ m, keeps m → d ≠ .g m) ∨
      ∃ rel, stores i = some (n, rel, d, a, disp))
    (hx : gives s a = some (x, s)) (he : exec i s = .next t) (hn : t.note = .retired) (hw : windowAt (address x n disp) = none) :
    IssueKeeps (address x n disp) keeps s t := by
  have issued : ∃ body, exec i s = issue body s ∧ (body s).Ends (IssueKeeps (address x n disp) keeps s) := by
    obtain ⟨⟨sgn, acq, hi⟩, hd⟩ | ⟨rel, hi⟩ := hi
    · exact exec_load hx hi fun acq => loadAt_ends hs hw halone.2 _ _ _ acq hd
    · exact exec_store hx hwf hi fun v rel => storeAt_ends hs hw _ v rel
  obtain ⟨body, hbody, ends⟩ := issued
  rw [hbody, issue_alone halone.1] at he
  cases he
  obtain ⟨u, nx, kept, hu⟩ := ends.retires hn
  rw [hu]
  exact kept.retired hl nx

/-- Settles O13: what a load or a store that retires has changed is its check's walk, its buffer, its path set and the
registers it names. -/
theorem loadStoreFrame : Obligations.LoadStoreFrame := by
  unfold Obligations.LoadStoreFrame
  rintro i d a x _ n disp s t hwf halone hs hl hi hx rfl he hn hw
  have kept : IssueKeeps (address x n disp) (fun m => (∃ rel, stores i = some (n, rel, d, a, disp)) ∨ d ≠ .g m) s t := by
    refine exec_keeps (d := d) hwf halone hs hl ?_ hx he hn hw
    obtain ⟨sgn, acq, hi⟩ | hi := hi
    · refine .inl ⟨⟨sgn, acq, hi⟩, fun m hm => hm.resolve_left ?_⟩
      rintro ⟨rel, hst⟩
      unfold loads at hi
      split at hi <;> cases hi <;> cases hst
    · exact .inr hi
  obtain ⟨-, mem, regs, -, dies, mods, launches, special⟩ := kept
  have special := special s.cur.loc
  simp only [Core.special, Prod.mk.injEq] at special
  exact ⟨mem, regs, dies, mods, launches, special⟩

end Sys2Proof.Machine
end

section
/-! PROOFS. An engine command that goes on (R352; O45). -/

namespace Sys2Proof.Machine

open Sys2Proof Sys2Proof.Claims

namespace TwinCommands

/-- A walk of one word, `wtile 0, close`, which has begun. -/
def walk : Cmd :=
  { id := 5, eng := .trellis 0, code := 0x0401, va := 0x100, src := 0, key := 0, uid := 7, user := false, seq := 1
    launch := 0, lmod := 0, begun := true
    block := List.replicate 24 0 ++ [1, 0, 0, 0, 2, 0, 0, 0] ++ List.replicate 96 0 ++ [0, 0, 0, 0x78] }

/-- A machine in which a stopped command has the walk's id. -/
def machine : State := { cmds := [walk, { walk with phase := .saved }] }

/-- What the walk's work gives. -/
def work : Except EStop Unit × State := (runOf walk.eng (walk.actr none) walk none : EM Unit) machine

/-- Where the walk stands after its `wtile`. -/
def closed : WalkAt := { walker := { regs := List.replicate 8 0, idx := 1 }, left := 1, last := 0 }

/-- Where a run has stopped. -/
def stop : Except EStop Unit → Option EStop
  | .error e => some e
  | .ok _ => none

theorem stopped {x : Except EStop Unit × State} {w : EStop} (h : stop x.1 = some w) : x = (.error w, x.2) := by
  obtain ⟨r, t⟩ := x
  cases r with
  | error e => cases h; rfl
  | ok v => cases h

theorem work_pauses : work = (.error (.pause closed), work.2) := stopped (by decide +kernel)

theorem gives_pause : Gives machine walk none (.error (.pause closed)) work.2 :=
  ⟨rfl, rfl, machine, walk, machine, walk, rfl, rfl, rfl, rfl, .inl rfl, rfl, work_pauses⟩

/-- The phases of a machine's commands. -/
def phases (s : State) : List CPhase := s.cmds.map fun c => c.phase

/-- What the statement has: the stopped command stays stopped. -/
theorem phases_stated : phases (happened (standing work.2 5 fun c => { c with walk := some closed })) = [.waiting, .saved] := by
  decide +kernel

/-- The phases that an outcome leaves. -/
def phasesAfter : Host.Outcome State Fault Refusal → List CPhase
  | .next t => phases t
  | _ => []

/-- The row sets both to waiting. -/
theorem phasesAfter_start : phasesAfter (exec (.engineCommandStart { id := 5, left := none }) machine) = [.waiting, .waiting] := by
  decide +kernel

end TwinCommands

/-- Refutes O45: where two commands have one id, the row that lets the first go on sets both to waiting, and the statement has the
other keep its phase. -/
theorem not_engineCommands : ¬ Obligations.EngineCommands := by
  rintro ⟨-, start, -, -, -⟩
  obtain ⟨-, pauses, -, -⟩ := start 5 none TwinCommands.machine TwinCommands.work.2 TwinCommands.walk rfl rfl rfl rfl
  have same := congrArg TwinCommands.phasesAfter (pauses TwinCommands.closed TwinCommands.gives_pause)
  rw [TwinCommands.phasesAfter_start, TwinCommands.phasesAfter, TwinCommands.phases_stated] at same
  exact absurd same (by decide)

end Sys2Proof.Machine
end
